-- ==== Sys2Proof/Word.lean ====
section
/-! DEFINITION. The word types of the spec (R5, R9, Table 0.4) and their plainest arithmetic. -/

namespace Sys2Proof

/-- A byte. -/
abbrev Byte := BitVec 8
/-- A 16-bit link word (R45). -/
abbrev W16 := BitVec 16
/-- A 32-bit register (R9). -/
abbrev W32 := BitVec 32
/-- A 64-bit quantity: RC, a token, a step number. -/
abbrev W64 := BitVec 64
/-- A token body of 48 bits (Table 3.4). -/
abbrev Body := BitVec 48
/-- Step domain ID (Table 0.4). -/
abbrev Sd := BitVec 12
/-- Hoop ID (Table 0.4). -/
abbrev HoopId := BitVec 16
/-- Binding generation (Table 0.4). -/
abbrev Gen := BitVec 16
/-- Install batch (R138). -/
abbrev Batch := BitVec 16
/-- Leaf ID or rank (Table 0.4). -/
abbrev Id20 := BitVec 20
/-- HT as the 96-bit register layout of R373: fraction [15:0], nanoseconds [47:16], seconds [95:48]. -/
abbrev Ht96 := BitVec 96
/-- An instant or interval of hall time as a count of 2^-40 ns, L(O) of R23. -/
abbrev Tu := Nat

/-- One nanosecond in units of 2^-40 ns (R23). -/
def nsTu : Nat := 2 ^ 40

/-- A counter of R272 goes up by one and saturates at 0xFFFF_FFFF. -/
def satInc (c : W32) : W32 := if c = 0xFFFFFFFF#32 then c else c + 1

/-- A counter of R272 goes up by `n` and saturates. -/
def satAdd (c : W32) (n : Nat) : W32 :=
  if c.toNat + n ≥ 2 ^ 32 then 0xFFFFFFFF#32 else BitVec.ofNat 32 (c.toNat + n)

/-- Bits [hi:lo] of a word as a number (R5: both ends included). -/
def bitsOf {w : Nat} (v : BitVec w) (hi lo : Nat) : Nat := (v.toNat >>> lo) % 2 ^ (hi + 1 - lo)

end Sys2Proof
end

