-- ==== Sys2Proof/Syntax.lean ====
section
/-! DEFINITION. The commands of the block: the operand types, and the one inductive `Instr`, one constructor per row
of spec/opcode_table.json, in the table's order. The table gives no operands, so each row's operands are what the
rule of the row says the event or access carries. -/

namespace Sys2Proof

/-- Which of the two builds a command reaches: the leaf or the Maryel (R1). -/
inductive NodeSel | leaf | mary
  deriving DecidableEq, Repr

/-- Time domain A or B. -/
inductive Dom | a | b
  deriving DecidableEq, Repr

/-- A port cell: one of a leaf's six (R366) or of a Maryel's hundred (R284). -/
inductive CellRef
  | leaf (c : Fin 6)
  | mary (c : Fin 100)
  deriving DecidableEq, Repr

/-- The source of a register access: a leaf's QHP port, REG-TUNNEL, a Maryel host port, or the Maryel's management engine (R300, R369, R389,
R390). -/
inductive Src
  | qhp
  | tunnel
  | host (h : Fin 4)
  | engine
  deriving DecidableEq, Repr

/-- What asserts a quadrant reset (R359). -/
inductive QuadBy
  | write (src : Src)
  | pin
  deriving DecidableEq, Repr

/-- A FIFO that a host can read (R368, R401). -/
inductive FifoId
  | evt (i : Fin 2)
  | intv
  | miss
  | land (p : Fin 16)
  | exc
  | alarm
  | tel
  deriving DecidableEq, Repr

/-- A comma receive stamp (R28, R100): the RC of the registering edge and the in-cycle position in 2^-16 ns. -/
structure Stamp where
  rc  : W64
  pos : Nat
  deriving DecidableEq, Repr

/-- A received frame as its code groups reach the port cell: the 64 of the one lane of an X-form port, or 16 on each of the four deskewed data
lanes of a W-form port (R45, R46). -/
inductive LineFrame
  | x (syms : Vector (BitVec 10) 64)
  | w (lanes : Vector (Vector (BitVec 10) 16) 4)
  deriving DecidableEq, Repr

/-- A received frame as its 32 words reach the port cell (R48), with what the coding layer reports of it (R45). -/
structure Frame where
  /-- The 32 words, word 0 (the comma) first. -/
  words  : Vector W16 32
  /-- The comma K28.5, D16.2 is present and in place (R76). -/
  comma  : Bool
  /-- Bit i: a symbol of word i is a symbol error (R45). -/
  symErr : BitVec 32
  /-- In-cycle position of the comma as the cell resolves it (R28), in 2^-16 ns. -/
  pos    : Nat
  deriving DecidableEq, Repr

/-- A LINK-CTL token's fields (Table 3.6). -/
structure LinkCtl where
  role    : BitVec 2
  dom     : Dom
  kind    : NodeSel
  nodeId  : Id20
  bar     : BitVec 3
  rseqExp : Byte
  fixlat  : Bool
  ack     : Bool
  deriving DecidableEq, Repr

/-- The routing head of a C2 message and its GEN (R58). -/
structure C2Head where
  sd   : Sd
  dest : Id20
  all  : Bool
  gen  : Gen
  deriving DecidableEq, Repr

/-- A BIND message (Table 3.8). -/
structure BindMsg where
  head   : C2Head
  rank   : Id20
  unbind : Bool
  cnt    : Bool
  deriving DecidableEq, Repr

/-- A PRICK-INSTALL message (Table 3.8). -/
structure InstallMsg where
  head  : C2Head
  batch : Batch
  image : BitVec 256
  deriving DecidableEq, Repr

/-- A HOOP-RECIPE message (Table 3.8): `common` is image bytes 0 to 35 (Table 8.1), `lanes` the descriptors (Table 8.2). -/
structure RecipeMsg where
  head   : C2Head
  hoopId : HoopId
  common : BitVec 288
  lanes  : List W32
  deriving DecidableEq, Repr

/-- A KEY message (Table 3.8). -/
structure KeyMsg where
  head : C2Head
  key  : BitVec 128
  deriving DecidableEq, Repr

/-- A HOOP-UP message (Table 3.7, R180, R182): `win` is the WIN token's window index of a QUORUM message, `lanes` the
carried values in ascending lane index, a non-EXACT value in its low 64 bits and an EXACT value in 240 bits (R178). -/
structure HoopUp where
  sd         : Sd
  hoopId     : HoopId
  gen        : Gen
  missed     : Bool
  incomplete : Bool
  xtree      : Bool
  win        : Option (BitVec 24)
  lanes      : List (BitVec 240)
  deriving DecidableEq, Repr

/-- A HOOP-DOWN message (Table 3.7, R181). OUTCOME: 0 COMPLETE, 1 BROKEN, 2 STALE, 3 LATE, 4 ABORTED. -/
structure HoopDown where
  sd      : Sd
  hoopId  : HoopId
  gen     : Gen
  outcome : BitVec 3
  aligned : Bool
  verdict : BitVec 3
  dest    : Id20
  all     : Bool
  relNs   : BitVec 24
  cut     : Option (BitVec 24)
  lanes   : List W64
  lflag   : BitVec 16
  deriving DecidableEq, Repr

/-- A TELEMETRY record (Tables 3.8, 17.3): its data tokens 2 to 9. -/
structure TeleRec where
  kind   : BitVec 6
  src    : Id20
  maryel : Bool
  data   : List Body
  deriving DecidableEq, Repr

/-- A REG-TUNNEL message (Table 3.8). -/
structure TunnelMsg where
  maryel : Bool
  write  : Bool
  status : BitVec 4
  nodeId : Id20
  addr   : BitVec 20
  data   : W32
  tag    : W16
  deriving DecidableEq, Repr

/-- The code a density hit sees (R81): a tap, a line with no transition, or a line passed in full. -/
inductive DensityCode
  | tap (c : Byte)
  | empty
  | full
  deriving DecidableEq, Repr

/-- An interpolator channel 0: the leaf's own, or that of a Maryel group (R78). -/
inductive Ch0Ref
  | leaf
  | group (g : Fin 20)
  deriving DecidableEq, Repr

/-- What the seed pipelines and the key store show in one computation (R209, R217). -/
inductive SeedEvent
  | agree
  | differ (port : Fin 16) (second : BitVec 128)
  | keyCe
  | keyUe
  deriving DecidableEq, Repr

/-- An error that a read of a word of an entry shows, the read being one to resolve, arm, halt or fire it (R163): a corrected one, or an
uncorrectable one (R164, R165). -/
structure PrkErr where
  batch : Batch
  eidx  : BitVec 6
  ue    : Bool
  deriving DecidableEq, Repr

/-- What a scrub read of one pricking word, with the tag parity, shows (R163 to R166); `read` is an error that a read to resolve or to halt an
entry shows (R163). -/
inductive ScrubResult
  | clean
  | corrected
  | uncorrectable
  | tagParity
  | read (e : PrkErr)
  deriving DecidableEq, Repr

/-- What a cellar scrub read of one word shows (R347). -/
inductive CellarScrubResult
  | clean
  | corrected
  | uncorrectable
  deriving DecidableEq, Repr

/-- A hoop slot or an install context of the leaf (R171). -/
inductive SlotRef
  | slot (i : Fin 32)
  | inst (k : Fin 4)
  | halt
  deriving DecidableEq, Repr

/-- Cell faults of Table 12.1, the bits of CELL_ERR_n (Table 18.2). -/
inductive CellFaultKind | txPll | queuePar | routePar
  deriving DecidableEq, Repr
/-- Group faults (Table 18.3). -/
inductive GroupFaultKind | arbPar | ch0Check
  deriving DecidableEq, Repr
/-- Quadrant faults (Table 18.3). -/
inductive QuadFaultKind | xbarPar | qarbPar
  deriving DecidableEq, Repr
/-- Chip faults (Table 18.4). -/
inductive ChipFaultKind | ctxTagPar | tableUe | timePar | corePll | overtemp | vddLow
  deriving DecidableEq, Repr

/-- Why the keep-alive domain loses its time (R345): both supplies below 1.5 V, or no crystal edge for 1 ms. -/
inductive KaLoss | supply | crystal
  deriving DecidableEq, Repr

/-- IEEE 1588 message types that a port handles or sends (R330). -/
inductive PtpKind | sync | followUp | delayReq | delayResp | announce | management | malformed
  deriving DecidableEq, Repr

/-- A received PTP message (R330): the sender's identity and the fields the supported profile uses. Times and the
correction are in 2^-16 ns; `rx` is the port's receive timestamp in HT. -/
structure PtpMsg where
  kind       : PtpKind
  domainNum  : BitVec 7
  source     : W64
  seqId      : W16
  twoStep    : Bool
  origin     : Nat
  correction : Int
  rx         : Nat
  requester  : W64
  priority1  : Byte
  clockClass : Byte
  accuracy   : Byte
  variance   : W16
  priority2  : Byte
  gmIdentity : W64
  steps      : W16
  deriving DecidableEq, Repr

/-- What a 1588 port sends at its intervals (R330). -/
inductive PtpSendKind | sync | announce | delayReq
  deriving DecidableEq, Repr

/-- What a reference channel or gate gives for an entry at the present edge (R308, R313). A 1PPS pulse of a REFIN PHASE entry: the code
that its channel captures for the 10 MHz edge nearest to it, and the 1PPS edge less that edge in 2^-16 ns. The edge that a FREQ entry's
channel captures in a picot. A 1 s gate: the TCLK cycles in the number of periods that the reference makes nominally in 1 s. -/
inductive RefMeas
  | pulse (code : Byte) (apart : Int)
  | edge (code : Byte)
  | gate (cycles : Nat)
  deriving DecidableEq, Repr

/-- A channel that calibrates in the fixed slots of R85: channel 1 of the leaf, or a reference channel of a root (R308). -/
inductive SlotChan
  | leaf
  | ref (i : Fin 6)
  deriving DecidableEq, Repr

/-- A rising edge of a region clock that a command tells of (R117): how many edges of that clock have passed since the last one told of,
this one included, and the place of this one within the present TCLK cycle, in sixteenths of it (nominally 125 ps). -/
structure RpEdge where
  edges : BitVec 48
  pos   : Fin 16
  deriving DecidableEq, Repr

/-- The region edge told of last, at the first place of its cycle. -/
def RpEdge.same : RpEdge := { edges := 0, pos := 0 }

/-- The commands, one per row of spec/opcode_table.json. An operand with a default may be left out: it is then the plain case, in which
nothing goes wrong and no edge has passed. -/
inductive Instr
  | powerOnResetAssert
  | powerOnResetRelease (profsel : BitVec 2)
  | leafResetAssert
  | leafResetRelease
  | computeResetAssert (p : Fin 16)
  | computeResetRelease (p : Fin 16)
  | chipRstKey (src : Src) (v : W32)
  | chipRst (src : Src) (profsel : BitVec 2)
  | cellRst (src : Src) (c : Fin 100)
  | grpRst (src : Src) (g : Fin 20)
  | quadRst (by' : QuadBy) (q : Fin 4)
  | supplyMonitorTrip
  | registerWrite (n : NodeSel) (src : Src) (off : BitVec 20) (v : W32)
  | expertUnlock (n : NodeSel) (src : Src) (v : W32)
  | errCntClr (n : NodeSel) (src : Src) (v : Bool)
  | fifoPop (n : NodeSel) (src : Src) (f : FifoId)
  | picot (n : NodeSel) (d : Dom)
  | reanchor (n : NodeSel)
  | domEn (n : NodeSel) (src : Src) (v : BitVec 2)
  | rackCmd (src : Src) (d : Dom)
  | plannedRack
  | unplannedRack
  | foldComplete
  | domReacq (n : NodeSel) (src : Src) (d : Dom)
  | htSet (src : Src) (v : Ht96)
  | islandK (src : Src) (k : BitVec 48)
  | holdLimitExpiry (n : NodeSel) (d : Dom)
  | snapGo (n : NodeSel) (src : Src)
  | eventEdge (i : Fin 2) (rise : Bool) (code : Byte)
  | intvTimeout
  | frameRx (c : CellRef) (f : LineFrame) (pos : Nat := 0)
  | lossOfSignal (c : CellRef)
  | cdrLock (c : CellRef)
  | cdrTimeout (c : CellRef)
  | portEn (c : CellRef) (src : Src) (v : Bool)
  | test (c : CellRef) (src : Src) (v : Bool)
  | helloSend (c : CellRef)
  | helloRx (c : CellRef) (h : LinkCtl)
  | barRx (c : CellRef) (bar : BitVec 3)
  | barApply (c : CellRef)
  | linkAckRx (c : CellRef) (nak : Bool) (rseq : Byte)
  | linkAckTimer (c : CellRef)
  | retryTimeoutExpiry (c : CellRef)
  | retryResend (c : CellRef)
  | retryStateDiscard (c : CellRef)
  | c2MessageSend (c : CellRef)
  | channel0Shot (c : CellRef) (c1 c2 code : Byte)
  | phVoid (c : CellRef)
  | cal1PairSlot (c1 c2 : Byte) (ch : SlotChan := .leaf)
  | cal1DensitySlot (d : DensityCode) (ch : SlotChan := .leaf)
  | densityHitCh0 (ch : Ch0Ref) (d : DensityCode)
  | statGo (src : Src)
  | statStop (src : Src)
  | fcGo (src : Src)
  | fcMinRst (src : Src) (m : W16)
  | fcGateEnd (count : BitVec 40)
  | holdGateEnd (count : BitVec 40) (k : NodeSel := .leaf)
  | probeSend (c : CellRef)
  | delayProbeRx (c : CellRef) (id : Byte) (rsv : BitVec 40)
  | echoTx (c : CellRef)
  | delayEchoRx (c : CellRef) (id : Byte) (turn : W32) (rsv : Byte)
  | probeTmoExpiry (c : CellRef) (id : Byte)
  | asymSwap (c : CellRef) (src : Src) (v : W32)
  | delayTrendSend (c : CellRef)
  | telemetryRx (c : CellRef) (r : TeleRec)
  | planCmd (n : NodeSel) (src : Src)
  | strobeLanding (p : Fin 16) (e : RpEdge)
  | rpLandTmo (p : Fin 16)
  | picotLanding (p : Fin 16) (e : RpEdge)
  | tallyCorrection (p : Fin 16) (e : RpEdge := .same)
  | throttleEffect (p : Fin 16) (e : RpEdge := .same)
  | regionContribution (p : Fin 16) (slot : Fin 32) (lane : BitVec 4) (data : W64) (e : RpEdge := .same) (last : Bool := true) (ue : Bool := false)
  | outcomeDelivery (p : Fin 16) (e : RpEdge := .same)
  | gateCtl (src : Src) (v : BitVec 24)
  | refclkLost
  | instData (n : NodeSel) (src : Src) (v : W32)
  | instClr (n : NodeSel) (src : Src)
  | instGo (n : NodeSel) (src : Src) (sd : Sd) (batch : Batch)
  | prickInstallRx (c : CellRef) (m : InstallMsg)
  | hoopRecipeRx (c : CellRef) (m : RecipeMsg)
  | armSend (n : NodeSel) (sd : Sd) (batch : Batch)
  | armRx (c : CellRef) (sd : Sd) (gen : Gen) (batch : Batch) (errs : List PrkErr := [])
  | guardCheck
  | missMarkSend
  | firing (errs : List PrkErr := [])
  | seedCompute (ev : SeedEvent)
  | throttleRx (c : CellRef) (level : BitVec 3) (cap : Bool) (tseq : Byte) (effNs : W32)
  | capreqEdge
  | capRelease
  | thrCmd (src : Src) (level : BitVec 3)
  | prkScrub (r : ScrubResult)
  | prkFatalClr (src : Src)
  | rcpData (n : NodeSel) (src : Src) (v : W32)
  | rcpClr (n : NodeSel) (src : Src)
  | rcpGo (n : NodeSel) (src : Src) (sd : Sd) (hoop : HoopId)
  | hoopUpRx (c : CellRef) (m : HoopUp) (ue : Bool := false)
  | hoopDeadline (n : NodeSel) (sd : Sd) (hoop : HoopId)
  | contextDeadline (n : NodeSel) (d : Dom) (sd : Sd) (hoop : HoopId)
  | quorumWindowSend (slot : Fin 32)
  | quorumWindowProcess (n : NodeSel) (sd : Sd) (hoop : HoopId)
  | hoopAbort (n : NodeSel) (src : Src) (sd : Sd) (hoop : HoopId)
  | hoopDecider (src : Src) (v : Bool)
  | hoopDownRx (c : CellRef) (m : HoopDown)
  | outcomeTakeEffect (r : SlotRef)
  | slotHoldExpiry (slot : Fin 32)
  | outcomeLimitExpiry (slot : Fin 32)
  | installContextExpiry (k : Fin 4)
  | hcCommit (src : Src)
  | stepWinSet (n : NodeSel) (src : Src) (sd : Sd)
  | stepWinAdopt (n : NodeSel) (src : Src) (sd : Sd)
  | stepHwm (src : Src) (v : W64)
  | keySend (n : NodeSel) (src : Src) (sd : Sd)
  | keyRx (c : CellRef) (m : KeyMsg)
  | stitchGo (src : Src)
  | stitchDone
  | fpHash (src : Src) (v : W64)
  | fpValid
  | bindData (n : NodeSel) (src : Src) (v : W32)
  | bindClr (n : NodeSel) (src : Src)
  | bindGo (n : NodeSel) (src : Src) (sd : Sd)
  | bindRx (c : CellRef) (m : BindMsg)
  | sdLeave (src : Src)
  | leaveLimitExpiry
  | sdTeardown (n : NodeSel) (src : Src) (sd : Sd)
  | membWr (n : NodeSel) (src : Src)
  | membValid (n : NodeSel) (src : Src) (v : Bool)
  | cellFault (c : Fin 100) (k : CellFaultKind)
  | groupFault (g : Fin 20) (k : GroupFaultKind)
  | quadrantFault (q : Fin 4) (k : QuadFaultKind)
  | chipFault (k : ChipFaultKind)
  | leafCellFault (c : Fin 6)
  | leafFatal
  | darkCellReturn (n : NodeSel) (d : Dom)
  | hostWrite (h : Fin 4) (addr : BitVec 24) (words : List W32) (partialWord : Bool)
  | hostWrite4 (h : Fin 4) (addr : BitVec 24) (words : List W32) (partialWord : Bool)
  | hostRead (h : Fin 4) (addr : BitVec 24) (words : Nat) (tmo : Bool := false)
  | hostRead4 (h : Fin 4) (addr : BitVec 24) (words : Nat) (tmo : Bool := false)
  | hostStatus (h : Fin 4) (op : Byte := 0x05)
  | hostAccessServe
  | regTunnelRequestRx (c : CellRef) (m : TunnelMsg)
  | regTunnelResponseRx (c : CellRef) (m : TunnelMsg)
  | hostPerm (src : Src) (i : Fin 4) (v : BitVec 20)
  | rootData (src : Src) (w : Option W32)
  | bsStart (n : NodeSel) (src : Src)
  | bsData (n : NodeSel) (src : Src) (v : W32)
  | bsApply (n : NodeSel) (src : Src)
  | patchApply (n : NodeSel)
  | profBsData (src : Src) (v : W32)
  | profClr (src : Src)
  | profCheck (src : Src)
  | profCommit (src : Src) (slot : Fin 4)
  | profCommitDone
  | profApply (src : Src) (slot : Fin 4)
  | meClr (src : Src)
  | meLoad (src : Src) (v : W32)
  | meStart (src : Src)
  | meWdog
  | licInstall (src : Src)
  | licRemove (src : Src) (slot : Fin 16)
  | refApply (src : Src)
  | refMeasurement (i : Fin 8) (m : RefMeas)
  | refLoss (i : Fin 8) (annTmo : Bool)
  | refQualified (i : Fin 8)
  | refWtrEnd (i : Fin 8)
  | holdoverKUpdate
  | selMode (src : Src) (soft : Bool)
  | softK (src : Src) (k : BitVec 48)
  | softTmo
  | rootStep (src : Src)
  | rootHtSet (src : Src) (v : Ht96)
  | rootSecNext (src : Src) (v : BitVec 48)
  | ocxoWarmChange (v : Bool)
  | ocxoWaitExpiry
  | kDayEnd
  | ppsOut (n : Fin 2)
  | todSentence
  | ptpMessageRx (k : Fin 2) (m : PtpMsg)
  | esmcRx (k : Fin 2) (ssm : BitVec 4)
  | esmcTimeout (k : Fin 2)
  | cellarWrite
  | rwpSync (src : Src)
  | ceilingRaise
  | ceilingRaiseDone
  | resFloor (n : NodeSel) (src : Src) (v : W64)
  | vintIssue (n : NodeSel) (src : Src) (v : W32)
  | kaAnchor (cnt : BitVec 48) (rate : BitVec 48)
  | kaInvalidate (why : KaLoss)
  | cellarScrub (word : BitVec 20) (r : CellarScrubResult)
  | histFile
  | celErase (src : Src) (v : Bool)
  | celEraseDone
  | timeAnnounceRx (c : CellRef) (acount : BitVec 48) (stamp : Stamp)
  | frameStart (c : CellRef)
  | wideReadSnapshot (src : Src) (off : W16)
  | refclkReturn
  | quadrantResetRelease (q : Fin 4)
  | refSignalPresent (i : Fin 8)
  | ptpMessageSend (k : Fin 2) (s : PtpSendKind)
  | esmcSend (k : Fin 2)
  deriving DecidableEq, Repr

end Sys2Proof
end

