-- ==== Sys2Proof/Machine/State.lean ====
section
/-! DEFINITION. The state of the block as plain data: one leaf, one Maryel, the Maryel's cellar, and the queue of waiting
commands. Every structure derives DecidableEq and Repr. Registers that hold configuration are kept in sparse maps
keyed by their window offset (chapters 17 and 18), unlisted meaning the listed reset value. -/

namespace Sys2Proof.Machine

/-- A finite map from a number, strictly rising in its keys by the operations of Ops.lean. -/
abbrev Sparse (β : Type) := List (Nat × β)

/-! ## The time core (chapter 02) -/

/-- The states of Table 2.2; their codes are the DOM_STATE codes of R373. -/
inductive DomState | off | seek | acquire | track | hold | lost
  deriving DecidableEq, Repr

/-- A correction set (R23): HT at RC `anchor` is `off`, and HT runs at `rate` (Q8.40 ns per cycle). -/
structure CorrSet where
  /-- RC_anchor, 64 bits (R23). Reset: 0. -/
  anchor : W64
  /-- L(O), a count of 2^-40 ns (R23). Reset: 0. -/
  off    : Tu
  /-- K, Q8.40 (R23). Reset: nominal. -/
  rate   : BitVec 48
  deriving DecidableEq, Repr

/-- One domain's machine and loop (R29 to R31). -/
structure DomCore where
  /-- State of Table 2.2 (R31). Reset: OFF (R373). -/
  st        : DomState
  /-- The domain's correction set (R23). -/
  set       : CorrSet
  /-- K as set at acquisition, k_acq_x (R29). Reset: 0. -/
  kAcq      : BitVec 48
  /-- The 96-bit signed integrator i_x (R29). Reset: 0. -/
  integ     : Int
  /-- over_x (R29). Reset: 0. -/
  overX     : Nat
  /-- RC at entry to HOLD (R31, HOLD_LIMIT). Reset: 0. -/
  holdSince : W64
  /-- The seed of R353, which gives the domain no HT for any other purpose. Reset: none. -/
  seed      : Option CorrSet
  /-- A K computed and waiting for the next picot (R30). Reset: none. -/
  kPend     : Option (BitVec 48)
  /-- DOM_ERR, signed 2^-16 ns, saturating (R373). Reset: 0. -/
  err       : W32
  /-- Picot measurements accepted since the latest entry to TRACK (R106). Reset: 0. -/
  accRun    : Nat
  /-- How many of the last accepted measurements in a row had |e| at most CONV_E (R106). Reset: 0. -/
  convRun   : Nat
  /-- An accepted DOM_REACQ waits for the ACQUIRE step while the read path keeps its set (R32). Reset: false. -/
  reacq     : Bool
  /-- RC at the next edge from which channel measurements count after a seed, the RC of the last identified picot. Reset: 0. -/
  lastPicot : W64
  /-- RC of the last picot of the domain that has acted (R28). Reset: none. -/
  picotAt   : Option W64
  /-- The set before the last change of K, by which stamps of edges before that change are converted (R28, R30). Reset: cleared. -/
  prev      : CorrSet
  /-- RC of the last change of the set's line (R30). Reset: 0. -/
  kAt       : W64
  deriving DecidableEq, Repr

/-- The fold of the read path (R34). -/
structure Fold where
  /-- d_fold, signed, 2^-40 ns (R34). -/
  dFold : Int
  /-- n_fold in cycles (R34). -/
  n     : Nat
  /-- The slope b in units of K (R34). -/
  b     : Int
  /-- RC of the racking edge (R34). -/
  start : W64
  /-- The domain folded to (R37). -/
  dom   : Dom
  deriving DecidableEq, Repr

/-- The input of the TCLK PLL (R25). -/
inductive PllIn | refclk | up (d : Dom)
  deriving DecidableEq, Repr

/-- The snapshot registers of R41 and R373. -/
structure Snap where
  /-- SNAP_RC, 64 bits (R373). Reset: 0. -/
  rc   : W64
  /-- SNAP_HT, 96 bits (R373). Reset: 0. -/
  ht   : Ht96
  /-- SNAP_HT_A, 96 bits (R373). Reset: 0. -/
  htA  : Ht96
  /-- SNAP_HT_B, 96 bits (R373). Reset: 0. -/
  htB  : Ht96
  /-- SNAP_STAT, 13 bits (R373). Reset: 0. -/
  stat : BitVec 13
  deriving DecidableEq, Repr

/-- The time core of a node (R22 to R44; R395 for a Maryel). -/
structure TimeCore where
  /-- RC, 64 bits (R22). Reset: 0. -/
  rc         : W64
  /-- Domain A. -/
  domA       : DomCore
  /-- Domain B. -/
  domB       : DomCore
  /-- The read path's own correction set (R33, R34, R354). Reset: 0 s at RC 0, K nominal (R354). -/
  read       : CorrSet
  /-- ACTIVE_DOM (R31, R373). Reset: A. -/
  active     : Dom
  /-- A fold in progress (R34). Reset: none. -/
  fold       : Option Fold
  /-- NOHT (R354). Reset: true. -/
  noht       : Bool
  /-- HOLDOVER_ST (R38). Reset: false. -/
  holdover   : Bool
  /-- RC at entry to holdover (R38). Reset: 0. -/
  holdStart  : W64
  /-- TIME_HOLD_NS of the completed holdovers, 64 bits (R38, R373). Reset: 0. -/
  holdNs     : W64
  /-- CONV (R106). Reset: false. -/
  conv       : Bool
  /-- The PLL's input (R25). Reset: REFCLK. -/
  pll        : PllIn
  /-- The PLL's frequency is frozen (R25). Reset: false. -/
  frozen     : Bool
  /-- RC at which the PLL last changed its input, froze or moved again (R25, R95). Reset: 0. -/
  pllAt      : W64
  /-- TCLK runs (R132). Reset: true. -/
  tclk       : Bool
  /-- REFCLK (or OCXO_IN at a Maryel) runs (R132). Reset: true. -/
  refclk     : Bool
  /-- The first HT_SET since leaf reset has been written (R39). Reset: false. -/
  htSetDone  : Bool
  /-- An accepted RACK_CMD waiting for its edge (R36). Reset: none. -/
  rackReq    : Option Dom
  /-- The multiple of 1,024 ns at which the waiting RACK_CMD acts: the first above the read path's HT at acceptance, in 2^-40 ns
  (Table 2.3). Reset: 0. -/
  rackHt     : Tu
  /-- The last loss of frame alignment on the active UP port has not been answered by racking (R35). Reset: false. -/
  rackDue    : Bool
  /-- The snapshot registers (R41). -/
  snap       : Snap
  /-- A picot snapshot has not been read (R41). Reset: false. -/
  snapUnread : Bool
  /-- RC of the last picot of the read path (R41, R118). Reset: none. -/
  picotAt    : Option W64
  /-- RC since which a domain has been other than OFF: the start of the holdover slot (R95). Reset: 0. -/
  onSince    : W64
  /-- TIME_EVT, 8 bits (R373). Reset: 0. -/
  evt        : BitVec 8
  deriving DecidableEq, Repr

/-! ## Port cells (chapters 03 and 05) -/

/-- The states of Table 3.11 with TEST (R77); codes as PSTATE of Table 12.3. -/
inductive TState | off | cdr | word | frame | hello | delay | active | test
  deriving DecidableEq, Repr

/-- The cell record in effect (Table 13.4), with FIXLAT of the CHIP or LEAF section (R374). -/
structure CellCfg where
  /-- ROLE, 3 bits: 0 OFF, 1 UP, 2 DOWN, 3 CROSS (Table 13.4). Reset: 0. -/
  role   : BitVec 3
  /-- DOM (Table 13.4). Reset: A. -/
  dom    : Dom
  /-- DRIVE: true is SHORT (Table 13.4). Reset: false. -/
  short  : Bool
  /-- FORM, 3 bits (R108). Reset: 0. -/
  form   : BitVec 3
  /-- LCLASS, 2 bits (R113). Reset: 0. -/
  lclass : BitVec 2
  deriving DecidableEq, Repr

/-- A message waiting on a cell: its tokens, whole (R55). -/
abbrev Tokens := List W64

/-- A queued echo (R101): the probe's number and its receive stamp. -/
structure Echo where
  id : Byte
  t2 : Stamp
  deriving DecidableEq, Repr

/-- An outstanding probe (R99, R102): its number and transmit stamp t1. -/
structure Probe where
  id : Byte
  t1 : Stamp
  deriving DecidableEq, Repr

/-- Retry state of one cell, both directions (R69 to R73). -/
structure Retry where
  /-- RSEQ_NEXT, 8 bits (R69). Reset: 0. -/
  next      : Byte
  /-- Unacknowledged retry sets, oldest first, at most 64 (R69). Reset: none. -/
  unacked   : List (Byte × List W64)
  /-- Resends of the oldest RSEQ without progress (R72). Reset: 0. -/
  resends   : Nat
  /-- Sets still to be resent, in order (R72). Reset: none. -/
  resendQ   : List (Byte × List W64)
  /-- A resend is due: a NAK or RETRY_TIMEOUT (R72). Reset: false. -/
  resendDue : Bool
  /-- RC of the last advance of the acknowledgement, or of the first set sent since (R72). Reset: 0. -/
  ackAt     : W64
  /-- RSEQ_EXP, 8 bits (R70). Reset: 0. -/
  exp       : Byte
  /-- A NAK has been sent since the last acceptance (R70). Reset: false. -/
  nakSent   : Bool
  /-- Retry frames accepted since the last LINK-ACK (R71). Reset: 0. -/
  accepted  : Nat
  /-- RC of the first acceptance no LINK-ACK has covered (R71). Reset: none. -/
  firstAcc  : Option W64
  /-- RC of the last declaration of loss while the link has not returned to ACTIVE (R73). Reset: none. -/
  lossAt    : Option W64
  /-- The retry state has been discarded since the port left ACTIVE (R73). Reset: false. -/
  discarded : Bool
  deriving DecidableEq, Repr

/-- The delay filter and probes of one cell (R99 to R115). -/
structure Delay where
  /-- PROBE_ID of the next probe, 8 bits (R99). Reset: 0. -/
  probeId    : Byte
  /-- Outstanding probes, at most 8 (R99). Reset: none. -/
  outst      : List Probe
  /-- A probe waiting for its barred slot (R99). Reset: none. -/
  probeDue   : Option Byte
  /-- Queued echoes, at most 4 (R101). Reset: none. -/
  echoes     : List Echo
  /-- sf32, sf with 16 further fraction bits, 2^-32 ns (R104). Reset: 0. -/
  sf32       : Int
  /-- n, samples accepted since seeding (R104). Reset: 0. -/
  n          : Nat
  /-- rej, consecutive rejections (R104). Reset: 0. -/
  rej        : Nat
  /-- Samples since the last reseed (R106). Reset: 0. -/
  sinceSeed  : Nat
  /-- The next sample is the first after a loss of frame alignment (R104). Reset: false. -/
  afterLoss  : Bool
  /-- d of R103 in effect, signed, 2^-16 ns (R105). Reset: 0. -/
  d          : Int
  /-- An ASYM_SWAP write waits for the picot (R109). Reset: false. -/
  swapPend   : Bool
  /-- ASYM_SWAP_n in effect, signed (R109). Reset: 0. -/
  swapEff    : Int
  /-- DLY_SIGMA_CAL_n, 48 bits (R109). Reset: 0. -/
  sigmaCal   : Nat
  /-- Void flags of the last 256 probes, newest first (R115). Reset: none. -/
  voids      : List Bool
  /-- ADV_LINK_RESID (R113, R115). Reset: false. -/
  advResid   : Bool
  /-- ADV_DLY_JUMP (R115). Reset: false. -/
  advJump    : Bool
  /-- ADV_VOID_RATE (R115). Reset: false. -/
  advVoid    : Bool
  /-- Picots for which each advisory's condition has been absent: RESID, JUMP, VOID (R115). Reset: 0. -/
  absent     : Nat × Nat × Nat
  /-- The filter was full at the last sample, for the DELAY_TREND on first full (R112). Reset: false. -/
  wasFull    : Bool
  /-- A DELAY_TREND is due: first full filter, or an advisory raised or cleared (R112). Reset: false. -/
  trendDue   : Bool
  /-- RC of the last DELAY_TREND sent (R112). Reset: 0. -/
  trendAt    : W64
  deriving DecidableEq, Repr

/-- A request of a port cell to channel 0 for the comma of a picot frame, or of a frame that carries a DELAY-PROBE or DELAY-ECHO (R83). -/
structure StampReq where
  /-- RC of the registering edge. -/
  rc  : W64
  /-- In-cycle position of the comma from the cell, 2^-16 ns. -/
  pos : Nat
  /-- HT of the picot as TIME-ANNOUNCE identifies it, in ns, or none while it is not identified (R29). -/
  p   : Option Nat
  /-- d of the link as it stood at the registering edge (R29, R105). -/
  d   : Int
  /-- The frame carries a DELAY-PROBE (false) or a DELAY-ECHO (true) (R83). -/
  tok : Option Bool
  deriving DecidableEq, Repr

/-- One port cell (R48 to R77, R99 to R115, Tables 17.5, 18.2). -/
structure Cell where
  /-- PORT_CFG_n (R374). -/
  cfg        : CellCfg
  /-- PORT_EN (R374). Reset: 0. -/
  portEn     : Bool
  /-- TSTATE (R74, R77). Reset: OFF. -/
  ts         : TState
  /-- Why the cell is silenced: bit 0 its own fault, 1 a group fault, 2 a quadrant fault, 3 a chip fault or LEAF_FATAL, 4 a reset pin held
  (R267, R271, R359). Reset: 0. -/
  mute       : BitVec 5
  /-- Dark: an orphaned node's DOWN cell (R268). Reset: false. -/
  dark       : Bool
  /-- The cell has been ACTIVE since its last reset (R73, R268). Reset: false. -/
  everActive : Bool
  /-- n mod 2^32 at which the cell last left ACTIVE (Table 12.3). Reset: 0. -/
  downNs     : W32
  /-- RC at entry to CDR (Table 3.11). Reset: 0. -/
  cdrSince   : W64
  /-- Frames in a row with the comma in the same position, in WORD (Table 3.11). Reset: 0. -/
  commaRun   : Nat
  /-- Good frames in a row, in FRAME (Table 3.11). Reset: 0. -/
  goodRun    : Nat
  /-- Bad frames in a row (R76). Reset: 0. -/
  badRun     : Nat
  /-- FSEQ of the last received frame (R76). Reset: none. -/
  fseqRx     : Option (BitVec 4)
  /-- Tokens of a partial C0 message (R55). Reset: none. -/
  part0      : Tokens
  /-- Tokens of a partial C2 message (R55). Reset: none. -/
  part2      : Tokens
  /-- Tokens of a partial C3 message (R55). Reset: none. -/
  part3      : Tokens
  /-- Classes C0, C2, C3 whose current message has been dropped and whose remaining tokens are passed over (R55). Reset: none. -/
  skip       : Bool × Bool × Bool
  /-- The outputs on which the rest of a C0 message still leaves cut-through, one of whose tokens was dropped here (R65). Reset: none. -/
  cutPorts   : List Nat
  /-- Running disparity of the receiver behind the last frame, true where positive (R45). Reset: negative. -/
  rxRd       : Bool
  /-- Whole messages received and passed, newest last, for the forwarding of R66. Reset: none. -/
  rxMsgs     : List Tokens
  /-- BAR_RX: barred slot this cell announces (R61, R62). Reset: 6. -/
  barRx      : BitVec 3
  /-- The candidate barred slot and the picots it has held (R62). Reset: (6, 0). -/
  barCand    : BitVec 3 × Nat
  /-- BAR_TX: barred slot this cell transmits under (R60, R62). Reset: 6. -/
  barTx      : BitVec 3
  /-- A received BAR waiting its 1 microsecond, with the RC of receipt (R62). Reset: none. -/
  barPend    : Option (BitVec 3 × W64)
  /-- THETA, 5 bits (R61). Reset: 0. -/
  theta      : BitVec 5
  /-- Theta as it stood at the last picot, by which PORT_LAT is reported (R68). Reset: 0. -/
  thetaLat   : BitVec 5
  /-- A valid HELLO with a compatible role has been received (Table 3.11). Reset: false. -/
  helloOk    : Bool
  /-- A HELLO with ACK = 1 has been received (Table 3.11). Reset: false. -/
  helloAck   : Bool
  /-- A valid HELLO has been received, for ACK (Table 3.6). Reset: false. -/
  gotHello   : Bool
  /-- RC of the last HELLO queued (R74). Reset: 0. -/
  helloAt    : W64
  /-- C0 messages waiting for slots (R63). Reset: none. -/
  c0q        : List Tokens
  /-- C2 messages waiting (R63, R73). Reset: none. -/
  c2q        : List Tokens
  /-- C3 messages waiting on this cell as an output (R63). Reset: none. -/
  c3q        : List Tokens
  /-- Upward C3 messages received on this DOWN cell that wait for arbitration (R263). Reset: none. -/
  c3in       : List Tokens
  /-- LINK-ACK waiting (R71). Reset: none. -/
  ackq       : Tokens
  /-- LINK-CTL waiting (R74). Reset: none. -/
  ctlq       : Tokens
  /-- DELAY-ECHO waiting for the barred slot (R101). Reset: none. -/
  echoq      : Tokens
  /-- FSEQ of the next frame (Table 3.3). Reset: 0. -/
  fseqTx     : BitVec 4
  /-- Header and slots of the last frame sent (R48). Reset: none. -/
  lastFrame  : Option (W16 × List W64)
  /-- The 32 words of the last frame sent: comma, header, slots, CRC (Table 3.2). Reset: none. -/
  lastWords  : List W16
  /-- The 64 code groups of the last frame sent (R45). Reset: none. -/
  lastSyms   : List (BitVec 10)
  /-- Running disparity of the transmitter behind the last frame (R45). Reset: negative. -/
  txRd       : Bool
  /-- RC of the edge that started the last frame (R100). Reset: 0. -/
  frameRc    : W64
  /-- Frames started since reset, for the probe spacing (R99). Reset: 0. -/
  frames     : Nat
  /-- Retry state (R69 to R73). -/
  retry      : Retry
  /-- Delay measurement (R99 to R115). -/
  dly        : Delay
  /-- HT announced by the last TIME-ANNOUNCE since alignment, in ns (R29). Reset: none. -/
  annHt      : Option Nat
  /-- Frames received since the frame of that TIME-ANNOUNCE (R29). Reset: 0. -/
  annCount   : Nat
  /-- Requests to channel 0, oldest first (R83). Reset: none. -/
  stampReq   : List StampReq
  /-- Stamps of received DELAY-PROBEs (false) and DELAY-ECHOs (true) whose message has not been handled, oldest first; a void one is none
  (R83, R84). Reset: none. -/
  stamps     : List (Bool × Option Stamp)
  /-- Port phase PH of the last shot, 2^-16 ns (R83). Reset: none. -/
  phase      : Option Int
  /-- RC at entry to TEST (R77). Reset: 0. -/
  testAt     : W64
  /-- PRBS_BITS, 48 bits (R77). Reset: 0. -/
  prbsBits   : BitVec 48
  /-- CELL_ERR_n, 3 bits, at a Maryel (Table 18.2). Reset: 0. -/
  err        : BitVec 3
  deriving DecidableEq, Repr

/-! ## Combining and membership (chapters 08, 11) -/

/-- A recipe a node keeps (R169, Tables 8.1, 8.2). -/
structure Recipe where
  /-- SD of the recipe (R169). -/
  sd     : Sd
  /-- GEN its message carried (R169). -/
  gen    : Gen
  /-- First HOOP_ID of the range (R169). -/
  hoopId : HoopId
  /-- Image bytes 0 to 35 (Table 8.1). -/
  common : BitVec 288
  /-- Lane descriptors (Table 8.2). -/
  lanes  : List W32
  /-- IDs of the range that have ended at the node (R169). -/
  ended  : List HoopId
  /-- The trees, A and B, whose copy has arrived (R169). -/
  seen   : Bool × Bool
  deriving DecidableEq, Repr

/-- A combine context (R183, R184), keyed by SD, HOOP_ID and domain. -/
structure Ctx where
  /-- SD of the key (R184). -/
  sd     : Sd
  /-- HOOP_ID of the key (R184). -/
  hoopId : HoopId
  /-- Domain of the key (R184). -/
  dom    : Dom
  /-- GEN of the context (R277). -/
  gen    : Gen
  /-- HT of the opening, 2^-40 ns (R185, Table 18.8). -/
  openAt : Tu
  /-- DOWN cells that have sent (R184). -/
  got    : List Nat
  /-- The combined carried values (R184). -/
  acc    : List (BitVec 240)
  deriving DecidableEq, Repr

/-- A STALE return the node has sent (R255). -/
structure StaleRet where
  sd     : Sd
  hoopId : HoopId
  gen    : Gen
  port   : Nat
  deriving DecidableEq, Repr

/-- A route record (R287). -/
structure Route where
  lo   : Id20
  hi   : Id20
  cell : Nat
  /-- KIND: true for Maryel IDs. -/
  mary : Bool
  deriving DecidableEq, Repr

/-- A patch that waits for its picot (R290, R362). -/
structure Patch where
  /-- SERIAL (Table 13.2). -/
  serial   : W32
  /-- New cell records by cell index (CELL_PATCH). -/
  cells    : List (Nat × CellCfg)
  /-- Route records; true removes (ROUTE_PATCH). -/
  routes   : List (Bool × Route)
  /-- RC at acceptance (R362). -/
  accepted : W64
  deriving DecidableEq, Repr

/-- The bitstream port (R384, R402). -/
structure BsPort where
  /-- Bytes in the buffer (R384). Reset: none. -/
  buf   : List Byte
  /-- Words were written beyond the buffer (R384). Reset: false. -/
  tooMany : Bool
  /-- BS_HELD and BS_OWNER (R384). Reset: not held. -/
  owner : Option Src
  /-- BS_DONE (R384). Reset: 0. -/
  done  : Bool
  /-- BS_REFD (R384). Reset: 0. -/
  refd  : Bool
  /-- BS_WHY, 4 bits (R288). Reset: 0. -/
  why   : BitVec 4
  /-- BS_WHERE (R288). Reset: 0. -/
  where_ : Nat
  /-- Accepted patches waiting for a picot, in order (R305, R362). Reset: none. -/
  patches : List Patch
  deriving DecidableEq, Repr

/-- What the applied bitstream sets of the node (R286 to R289). -/
structure NodeCfg where
  /-- A bitstream has been applied (R289). Reset: false. -/
  loaded   : Bool
  /-- LEAF_ID or MARYEL_ID (R289). Reset: 0. -/
  nodeId   : Id20
  /-- DOM of the CHIP section (R285). Reset: A. -/
  dom      : Dom
  /-- ROOT of the CHIP section (R306). Reset: false. -/
  root     : Bool
  /-- ISLAND of the LEAF section (R39). Reset: false. -/
  island   : Bool
  /-- FIXLAT (R68). Reset: false. -/
  fixlat   : Bool
  /-- BS_SERIAL, 32 bits (R289). Reset: 0. -/
  serial   : W32
  /-- Route table (R59, R287). Reset: none. -/
  routes   : List Route
  deriving DecidableEq, Repr

/-! ## The root (chapters 07 to 11) -/

/-- A root's context of one SD (Table 7.1, R250, R262). -/
structure SdCtx where
  /-- The SD (R137). -/
  sd       : Sd
  /-- Step window, both bounds (R203). -/
  win      : Option (W64 × W64)
  /-- SD_VINTAGE, 32 bits (R158). -/
  vintage  : W32
  /-- SD_STAGED, 32 bits (R157). -/
  staged   : W32
  /-- SD_BATCH, 16 bits (R138). -/
  batch    : Batch
  /-- The hoop counter (R168). -/
  hoopCtr  : HoopId
  /-- FP_STATE: 0 UNCHECKED, 1 MATCH, 2 MISMATCH (R228). -/
  fpState  : BitVec 2
  /-- SD_GUARD in ns (R167). -/
  guardNs  : Nat
  /-- C2_RATE, tokens per microsecond (R262). -/
  c2Rate   : Nat
  /-- C2_RATE in effect, from the picot after its write (R266). -/
  rateEff  : Nat
  /-- C2_BURST, tokens (R262). -/
  c2Burst  : Nat
  /-- C2_BURST in effect (R266). -/
  burstEff : Nat
  /-- Level of the C2 bucket (R262). -/
  bucket   : Nat
  /-- RC at which the bucket was last filled (R262). -/
  bucketAt : W64
  /-- STRAY_PENDING (R194). -/
  stray    : Bool
  /-- The key last sent for the SD (R207). -/
  key      : Option (BitVec 128)
  /-- Armed flips not yet committed: vintage and tick in ns (R158). -/
  flips    : List (W32 × Nat)
  deriving DecidableEq, Repr

/-- One member in the root's bind table (R250). -/
structure BindEnt where
  leaf : Id20
  sd   : Sd
  rank : Id20
  deriving DecidableEq, Repr

/-- What became of an accepted batch (R148). -/
inductive BatchSt | pending | armed | failed
  deriving DecidableEq, Repr

/-- A batch a root has accepted (R143, R148). -/
structure BatchRec where
  sd       : Sd
  batch    : Batch
  /-- HOOP_ID of the batch's install hoop (R168). -/
  hoopId   : HoopId
  /-- E, the images the members must count (R148). -/
  expected : Nat
  /-- Earliest (tick - GUARD) of the batch in ns, none when it installs nothing (R148). -/
  earliest : Option Nat
  /-- Vintages of the batch's flips with their ticks (R148, R157). -/
  flips    : List (W32 × Nat)
  /-- The opening ticks of the batch's HOOP_OPEN firings: first ID, ADV, tick, interval, count (R188). -/
  opens    : List (HoopId × Bool × Nat × Nat × Nat)
  /-- Last firing tick of the batch in ns (R207). -/
  lastTick : Nat
  /-- ARM_MARGIN in ns as it stood at acceptance (R167). -/
  armMargin : Nat
  /-- The install hoop has ended: its outcome and its two lanes (R148). -/
  ended    : Option (BitVec 3 × W64 × W64)
  st       : BatchSt
  deriving DecidableEq, Repr

/-- A source's own registers and buffers (R389). -/
structure SrcBuf where
  src      : Src
  /-- INST_DATA words (R396). -/
  inst     : List W32
  /-- BIND_DATA words (R396). -/
  bind     : List W32
  /-- RCP_DATA words (R396). -/
  rcp      : List W32
  /-- A word was appended beyond a buffer's capacity: install, bind, recipe, profile (R389). -/
  tooMany  : Bool × Bool × Bool × Bool
  /-- KEY_BUF, 128 bits (R207). -/
  keyBuf   : BitVec 128
  /-- KEY_BUF has been written, so KEY_CHK is computed for it (R208, Table 18.7). Reset: false. -/
  keySet   : Bool
  /-- SD_SEL, CTX_SEL, MEMB_SEL, MEMB_VCELL, BT_LEAF, CEL_PAGE and the PROF_ and LIC_ staging words by offset (R389). -/
  sel      : Sparse W32
  /-- PROF_BS_DATA words (R389). -/
  prof     : List W32
  deriving DecidableEq, Repr

/-- A C2 message the root has queued for its DOWN ports (R262). -/
structure C2Out where
  sd      : Sd
  toks    : Tokens
  /-- DOWN cells still to be served. -/
  ports   : List Nat
  /-- The SD's bucket has been debited for it. -/
  debited : Bool
  /-- The install hoop whose recipe it is, whose deadline runs from its departure (R188). -/
  inst    : Option HoopId
  deriving DecidableEq, Repr

/-- One tree's state of a hoop at the decider (R186, R187, R191). -/
structure TreeSt where
  /-- The whole tree's total (R187). -/
  total  : Option (List (BitVec 240))
  /-- An INCOMPLETE without a WIN token has arrived (R191). -/
  incAll : Bool
  /-- Windows for which an INCOMPLETE has arrived (R191). -/
  incWin : List (BitVec 24)
  /-- Window sums not yet processed (R191). -/
  wins   : List (BitVec 24 × List (BitVec 240))
  deriving DecidableEq, Repr

/-- A decision (R187, R191, R195). -/
structure Decision where
  outcome : BitVec 3
  cut     : Option (BitVec 24)
  lanes   : List W64
  lflag   : BitVec 16
  verdict : BitVec 3
  /-- Release HT in ns when ALIGN = 1 (R195). -/
  relNs   : Option Nat
  /-- Decision HT in ns (R187, R279). -/
  ns      : Nat
  deriving DecidableEq, Repr

/-- A hoop as a root holds it (R186 to R195). -/
structure RHoop where
  sd        : Sd
  hoopId    : HoopId
  gen       : Gen
  /-- The opening tick as resolved from the accepted batch, in ns (R188). -/
  openTick  : Option Nat
  /-- HT at the first HOOP-UP head, in ns (R188). -/
  firstHead : Option Nat
  /-- The own tree's state. -/
  own       : TreeSt
  /-- The other root's tree. -/
  other     : TreeSt
  /-- A MISSED flag has reached the root (R187). -/
  missed    : Bool
  /-- The last window processed (R191). -/
  lastWin   : Option Nat
  /-- The running result over processed windows (R191). -/
  running   : Option (List (BitVec 240))
  /-- CROSS has left ACTIVE since the last processing (R191). -/
  crossLost : Bool
  /-- The last window that the root, having begun to decide with the hoop open, decides from its own tree alone (R186, log 116). -/
  soloWin   : Option Nat
  /-- The decision (R187). -/
  decided   : Option Decision
  /-- The recipe's common image as it stood (Table 8.1). -/
  common    : BitVec 288
  /-- The recipe's lanes (Table 8.2). -/
  lanes     : List W32
  deriving DecidableEq, Repr

/-- An excision record in EXC_FIFO (R277, R401): data tokens 2 to 4 of Table 12.3. -/
structure ExcRec where
  mary : Bool
  src  : Id20
  t2   : Body
  t3   : Body
  t4   : Body
  deriving DecidableEq, Repr

/-- A record in ALARM_FIFO (R279): class 0 AB_DIFF, 1 VERD_DIFF, 2 STRAY. -/
structure AlarmRec where
  cls    : BitVec 3
  sd     : Sd
  hoopId : HoopId
  ns     : W32
  deriving DecidableEq, Repr

/-- The part of the state that belongs to a root: a top Maryel, or an island root (R137, R383). -/
structure Root where
  /-- Root contexts (Table 7.1). Reset: none (R339). -/
  sds         : List SdCtx
  /-- SD_GEN_HWM by SD (R247). Reset: 0. -/
  genHwm      : Sparse Nat
  /-- The bind table (R250). Reset: empty (R339). -/
  binds       : List BindEnt
  /-- Per-source buffers and selectors (R389). Reset: none. -/
  bufs        : List SrcBuf
  /-- Accepted batches (R148). Reset: none. -/
  batches     : List BatchRec
  /-- Hoops held for deciding or forwarding (R186). Reset: none. -/
  hoops       : List RHoop
  /-- STEP_HWM, 64 bits (R203, R205). Reset: 0. -/
  stepHwm     : W64
  /-- VINT_HWM, 32 bits (R341). Reset: 0. -/
  vintHwm     : W32
  /-- Granted windows at an island root, for STEP_WIN_ADOPT (R243). Reset: none. -/
  grants      : List (W64 × W64)
  /-- INST_WHY: reason, code, image (Table 18.7). Reset: 0. -/
  instWhy     : Nat × Nat × Nat
  /-- INST_FAIL_WHY, its SD and BATCH (R148). Reset: 0. -/
  instFail    : Nat × Sd × Batch
  /-- BIND_WHY and BIND_WHY_ENTRY (R249). Reset: 0. -/
  bindWhy     : Nat × Nat
  /-- HOOP_WHY (R173). Reset: 0. -/
  hoopWhy     : Nat
  /-- KEY_WHY (R207). Reset: 0. -/
  keyWhy      : Nat
  /-- ROOT_EVT: JRNL_EVT, GUARD_SAT, INST_FAIL (Table 18.7). Reset: 0. -/
  evt         : BitVec 3
  /-- EXC_FIFO, oldest first, at most 256 (R278). Reset: empty. -/
  exc         : List ExcRec
  /-- Hoops whose first excision record has raised EXC_IRQ (R278). Reset: none. -/
  excSeen     : List (Sd × HoopId × Gen)
  /-- ALARM_FIFO, oldest first, at most 32 (R279). Reset: empty. -/
  alarms      : List AlarmRec
  /-- PATH of the leaf records received: leaf, PATH, RC of receipt (R114). Reset: none. -/
  paths       : List (Id20 × Nat × W64)
  /-- FLIGHT_PLAN once PLAN_CMD has set it, 2^-16 ns (R114). Reset: not set. -/
  flightPlan  : Option Nat
  /-- GUARD_ADD in ns (R114). Reset: 0. -/
  guardAdd    : Nat
  /-- DEADLINE_ADD in ns (R114). Reset: 0. -/
  deadlineAdd : Nat
  /-- ADV_FLIGHT (R114, R115). Reset: false. -/
  advFlight   : Bool
  /-- C2 messages waiting for the SDs' buckets and the ports' turns (R262). Reset: none. -/
  c2out       : List C2Out
  /-- The SD last served at each DOWN cell, for the round robin (R262). Reset: none. -/
  c2rr        : Sparse Sd
  deriving DecidableEq, Repr

/-! ## A node: what the leaf and the Maryel have in common -/

/-- Deficit round robin of upward C3 (R263): deficits and the next child to visit, keyed by level and child. -/
structure Arb where
  /-- def(c) by level x 1000 + child (R263). Reset: 0. -/
  defi : Sparse Nat
  /-- Next child by level x 1000 + node of the level (R263). Reset: 0. -/
  ptr  : Sparse Nat
  deriving DecidableEq, Repr

/-- What a leaf and a Maryel have alike; `n` is the number of port cells. -/
structure Node (n : Nat) where
  /-- The node's reset pin is held low: leaf_rst_n or PORST_N (R359, R367). Reset: released. -/
  inReset   : Bool
  /-- The time core. -/
  time      : TimeCore
  /-- The port cells (R284, R366). -/
  cells     : Vector Cell n
  /-- What the bitstream set. -/
  cfg       : NodeCfg
  /-- The bitstream port. -/
  bs        : BsPort
  /-- Written words of RW, RWX, RWK and RWP registers by offset (Table 0.5). Reset: none, so each reads its listed reset value. -/
  regs      : Sparse W32
  /-- Values in effect of registers whose writes wait for a picot or a second (R44, R98, R116, R266, R333). Reset: none. -/
  eff       : Sparse W32
  /-- Values in effect in domain B at a leaf, of the fields that wait for the picot of the domain they act on (R44, R116). Reset: none. -/
  effB      : Sparse W32
  /-- Counters by offset, 32 bits (R272). Reset: 0. -/
  ctr       : Sparse W32
  /-- RW1C bits of IRQ_STAT (Tables 17.2, 18.5). Reset: 0. -/
  irq       : W32
  /-- Sources whose expert access is open (R369, R390). Reset: none. -/
  expert    : List Src
  /-- Wide snapshots by source and offset of the lowest word (R9, R368). Reset: none. -/
  snaps     : List (Src × Nat × List W32)
  /-- Wide writes in progress by source: offset of the lowest word and the words written (R9). Reset: none. -/
  stages    : List (Src × Nat × List W32)
  /-- The last register read's data and whether it was refused (R135). Reset: 0. -/
  rdata     : W32 × Bool
  /-- M(SD, cell) (R256). Reset: 0. -/
  memb      : List ((Sd × Nat) × Nat)
  /-- CUR_GEN by SD (R255). Reset: 0. -/
  curGen    : List (Sd × Gen)
  /-- MEMB_VALID (R361, R382). Reset: 0. -/
  membValid : Bool
  /-- Recipes held (R169). Reset: none. -/
  recipes   : List Recipe
  /-- Open combine contexts (R184). Reset: none. -/
  ctxs      : List Ctx
  /-- Keys whose messages found no context free, by SD, HOOP_ID and domain (R184). Reset: none. -/
  noCtx     : List (Sd × HoopId × Dom)
  /-- Closed contexts by SD, HOOP_ID and domain (R185, R276). Reset: none. -/
  closed    : List (Sd × HoopId × Dom)
  /-- Ports for which an excision record of a hoop and domain has been written; at a leaf, 0 for its one record (R276). Reset: none. -/
  excised   : List (Sd × HoopId × Dom × Nat)
  /-- Recipes freed before the copy of the domain named has arrived, by SD, HOOP_ID and GEN (R169). Reset: none. -/
  freed     : List (Sd × HoopId × Gen × Dom)
  /-- The last 64 STALE returns, newest first (R255). Reset: none. -/
  stale     : List StaleRet
  /-- The C3 arbiters (R263). -/
  arb       : Arb
  /-- The node's own C3 messages waiting, with the domain of their UP port (R263). Reset: none. -/
  ownC3     : List (Dom × Tokens)
  /-- The root part (R137, R383). -/
  root      : Root
  deriving DecidableEq, Repr

/-! ## The leaf's own parts -/

/-- A strobe on its way to a region (R119, R121). -/
structure Strobe where
  /-- rp_kind (Table 6.2). -/
  kind    : BitVec 4
  /-- rp_arg. -/
  arg     : W64
  /-- rp_step of a LAUNCH or SEED_ROLL. -/
  step    : W64
  /-- rp_seed of a LAUNCH or SEED_ROLL, from the key and rank at the firing edge (R214). -/
  seed    : BitVec 128
  /-- The seed the strobe carries is ready (R215); true for a strobe that carries none. -/
  ready   : Bool
  /-- Tick in ns (R118). -/
  tick    : Nat
  /-- BATCH and EIDX of the firing, by which waiting seeds are ordered (R142, R215). -/
  batch   : Batch
  /-- See batch. -/
  eidx    : BitVec 6
  /-- RC at entry to the crossing (R122); while the strobe waits in the leaf, RC of its firing edge (R215). -/
  entered : W64
  deriving DecidableEq, Repr

/-- A landing record (R120, R381). -/
structure LandRec where
  stamp   : Ht96
  kind    : BitVec 4
  tally   : BitVec 48
  folding : Bool
  deriving DecidableEq, Repr

/-- An outcome queued for a region port (R128); `at_` is the RC at which it reached the port's queue. -/
structure PortOut where
  slot    : BitVec 5
  outcome : BitVec 3
  verdict : BitVec 3
  lanes   : List W64
  lflag   : BitVec 16
  at_     : W64
  deriving DecidableEq, Repr

/-- One beat of an outcome: the values of rp_ho_slot to rp_ho_last (R128). -/
structure Beat where
  slot    : BitVec 5
  outcome : BitVec 3
  verdict : BitVec 3
  lane    : BitVec 5
  data    : W64
  lflag   : BitVec 16
  last    : Bool
  deriving DecidableEq, Repr

/-- A contribution lane in a port's queue: slot, lane index and value (R127). -/
structure HcLane where
  slot : BitVec 5
  lane : BitVec 4
  data : W64
  deriving DecidableEq, Repr

/-- A tally correction: the values of rp_corr_a, rp_corr_h and rp_corr_q (R124). -/
structure Corr where
  a : BitVec 48
  h : Ht96
  q : BitVec 36
  deriving DecidableEq, Repr

/-- One region port (R117 to R134, Table 17.11). -/
structure Region where
  /-- rp_cr_n (R134). Reset: high. -/
  crN      : Bool
  /-- rp_launch at the last region edge told of (R117). Reset: 0. -/
  launch   : Bool
  /-- rp_kind, 4 bits, held (R117). Reset: DESIGN CHOICE 0 (log 113). -/
  kind     : BitVec 4
  /-- rp_arg, 64 bits, held (R117). Reset: DESIGN CHOICE 0 (log 113). -/
  arg      : W64
  /-- rp_step, 64 bits (R121). Reset: 0. -/
  step     : W64
  /-- rp_seed, 128 bits (R121). Reset: 0. -/
  seed     : BitVec 128
  /-- rp_vintage, 32 bits (R121, R158). Reset: 0. -/
  vintage  : W32
  /-- JOB level (R159). Reset: 0. -/
  thrJob   : BitVec 3
  /-- PLAN level (R159). Reset: 0. -/
  thrPlan  : BitVec 3
  /-- rp_throttle (R123, R159). Reset: 0. -/
  thrOut   : BitVec 3
  /-- RC at which the level of the port last changed in the leaf (R118, R123). Reset: 0. -/
  thrAt    : W64
  /-- rp_picot at the last region edge told of (R117, R124). Reset: 0. -/
  picot    : Bool
  /-- RC of the first TCLK edge at or after the HT of a picot that has not landed yet (R118, R124). Reset: none. -/
  picotDue : Option W64
  /-- rp_tally, 48 bits (R124). Reset: 0. -/
  tally    : BitVec 48
  /-- The anchor of the last picot: A and H in 2^-16 ns (R124). Reset: none. -/
  anchor   : Option (BitVec 48 × Nat)
  /-- An open tally correction: A, H and the previous anchor (R124). Reset: none. -/
  corrOpen : Option (BitVec 48 × Nat × BitVec 48 × Nat)
  /-- rp_corr_vld at the last region edge told of (R117, R124). Reset: 0. -/
  corrVld  : Bool
  /-- rp_corr_a, rp_corr_h and rp_corr_q, held (R117, R124). Reset: DESIGN CHOICE 0 (log 113). -/
  corr     : Corr
  /-- RP_CORR_OK (R381). Reset: false. -/
  corrOk   : Bool
  /-- Strobes in the crossing, at most 8 (R119). Reset: none. -/
  queue    : List Strobe
  /-- Strobes waiting in the leaf (R119, R215). Reset: none. -/
  wait     : List Strobe
  /-- LAND_FIFO_n, at most 8 (R120). Reset: empty. -/
  land     : List LandRec
  /-- Tally of the edge on which a strobe last landed (R119). Reset: none. -/
  landTally : Option (BitVec 48)
  /-- RP_TB_EN_n in effect: rp_tb_vld (R126). Reset: 1. -/
  tbEff    : Bool
  /-- rp_tb_ht at the last region edge told of (R126). Reset: 0. -/
  tbHt     : Ht96
  /-- The queue of contribution lanes, at most 64 (R127, R130). Reset: empty. -/
  hcq      : List HcLane
  /-- rp_hc_vld fell for more than 64 region cycles since the first lane in the queue (Table 6.3). Reset: false. -/
  hcGap    : Bool
  /-- Tally of the edge at which the last lane transferred (R127). Reset: 0. -/
  hcAt     : BitVec 48
  /-- rp_hc_err at the last region edge told of (R127). Reset: 0. -/
  hcErr    : Bool
  /-- rp_hc_code, held (R127). Reset: DESIGN CHOICE 0 (log 113). -/
  hcCode   : BitVec 2
  /-- Outcomes waiting to be presented (R128). Reset: none. -/
  hoq      : List PortOut
  /-- Beats to come of the outcome in progress (R128). Reset: none. -/
  beats    : List Beat
  /-- rp_ho_vld at the last region edge told of (R128). Reset: 0. -/
  hoVld    : Bool
  /-- rp_ho_slot to rp_ho_last, held (R117, R128). Reset: DESIGN CHOICE 0 (log 113). -/
  ho       : Beat
  deriving DecidableEq, Repr

/-- A pricking entry with its tag (chapter 07, R139). -/
structure Entry where
  /-- The 256-bit image (R139). -/
  image : BitVec 256
  /-- BATCH of the tag. -/
  batch : Batch
  /-- GEN of the tag. -/
  gen   : Gen
  /-- The tick of firing 0, full width, in ns (R140). -/
  tick0 : Nat
  /-- Firings already made (R141). -/
  fired : Nat
  /-- Armed by the tree-A copy (R149, R273). -/
  armA  : Bool
  /-- Armed by the tree-B copy (R149, R273). -/
  armB  : Bool
  /-- The guard edge has been judged (R150). -/
  judged : Bool
  /-- Its place in the table, 0 to 511 (R163, log 99). -/
  pos   : Nat
  deriving DecidableEq, Repr

/-- A MISS_FIFO record (R151, R377): CAUSE 0 GUARD, 1 STEPPED, 2 UE, 3 FATAL. -/
structure MissRec where
  sd    : Sd
  gen   : Gen
  batch : Batch
  eidx  : BitVec 6
  kind  : BitVec 3
  step  : W64
  tick  : Nat
  cause : BitVec 2
  deriving DecidableEq, Repr

/-- A seed computed ahead (R215). -/
structure SeedRec where
  batch : Batch
  eidx  : BitVec 6
  k     : Nat
  port  : Nat
  key   : BitVec 128
  seed  : BitVec 128
  deriving DecidableEq, Repr

/-- The pricking (chapter 07, Table 17.8). -/
structure Prick where
  /-- Entries, at most 512 (R139). Reset: none. -/
  entries   : List Entry
  /-- Images taken under the binding: GEN, BATCH, EIDX (R145). Reset: none. -/
  taken     : List (Gen × Batch × BitVec 6)
  /-- Accepted and refused images by batch (R147). Reset: none. -/
  counts    : List (Batch × Nat × Nat)
  /-- MISS_FIFO, at most 16 (R151). Reset: empty. -/
  miss      : List MissRec
  /-- MISS_PENDING (R152). Reset: 0. -/
  pending   : Bool
  /-- PRK_FATAL (R166). Reset: 0. -/
  fatal     : Bool
  /-- PRK_WHY, 3 bits (R145). Reset: 0. -/
  why       : BitVec 3
  /-- Next word of the scrub, 0 to 2,047 (R163). Reset: 0. -/
  scrubPtr  : Nat
  /-- RC of the last scrub read (R163). Reset: 0. -/
  scrubAt   : W64
  /-- VINTAGE, 32 bits (R158). Reset: 0. -/
  vintage   : W32
  /-- Batches with an entry removed at its guard edge (R150). Reset: none. -/
  lateBatch : List Batch
  /-- Seeds computed ahead of their firings (R215). Reset: none. -/
  seeds     : List SeedRec
  /-- Hoops named by missed HOOP_OPEN firings, to which a mark goes at once when the leaf is a member (R152). Reset: none. -/
  marks     : List HoopId
  /-- Batches whose install hoop has ended at the leaf under the binding (R146). Reset: none. -/
  instDone  : List Batch
  /-- Release instants in ns of BROKEN and ABORTED outcomes of hoops that hold no slot, whose HALT is still to come (R153). Reset: none. -/
  halts     : List (Sd × Nat)
  deriving DecidableEq, Repr

/-- The states of a hoop slot (R197). -/
inductive SlotSt | free | open_ | closed
  deriving DecidableEq, Repr

/-- A QUORUM window of a leaf's own inputs (R190). -/
structure WinAcc where
  win  : Nat
  acc  : List (BitVec 240)
  sent : Bool
  deriving DecidableEq, Repr

/-- A window's partial that a slot had not sent when it became FREE (R190, log 109). -/
structure WinLeft where
  /-- The slot it was held in. -/
  slot   : Nat
  sd     : Sd
  hoopId : HoopId
  gen    : Gen
  common : BitVec 288
  lanes  : List W32
  win    : Nat
  acc    : List (BitVec 240)
  deriving DecidableEq, Repr

/-- A hoop slot (R171, R183, R196, R197, Table 17.9). -/
structure Slot where
  /-- STATE (R197). Reset: FREE. -/
  st          : SlotSt
  /-- SD. Reset: 0. -/
  sd          : Sd
  /-- HOOP_ID. Reset: 0. -/
  hoopId      : HoopId
  /-- GEN of the binding at the opening. Reset: 0. -/
  gen         : Gen
  /-- The recipe's common image (Table 8.1). Reset: 0. -/
  common      : BitVec 288
  /-- The recipe's lanes (Table 8.2). Reset: none. -/
  lanes       : List W32
  /-- Member ports: PORTS of the opening firing (R170). Reset: 0. -/
  ports       : W16
  /-- Member ports at which the HOOP_OPEN strobe has landed (Table 6.3). Reset: 0. -/
  landed      : W16
  /-- Member ports that have contributed (R197). Reset: 0. -/
  contributed : W16
  /-- The host has contributed (R378). Reset: false. -/
  hostDone    : Bool
  /-- Opening tick in ns (R198). Reset: 0. -/
  openTick    : Nat
  /-- The fingerprint latched at the opening, none when FP_VALID was 0 (R222). Reset: none. -/
  fp          : Option W64
  /-- The sums of the partials for tree A and tree B: children's partials and own inputs in the order taken (R176, R183). Reset: none. -/
  accA        : List (BitVec 240)
  /-- See accA. -/
  accB        : List (BitVec 240)
  /-- Windows of own inputs (R190). Reset: none. -/
  wins        : List WinAcc
  /-- The window of each contributing port's input; 16 is the host (R193). Reset: none. -/
  inWin       : List (Nat × Nat)
  /-- The partial for tree A has been sent (R183). Reset: false. -/
  sentA       : Bool
  /-- The partial for tree B has been sent (R183). Reset: false. -/
  sentB       : Bool
  /-- The outcome taken (R196). Reset: none. -/
  taken       : Option HoopDown
  /-- Release HT of the taken outcome in ns (R196). Reset: none. -/
  relNs       : Option Nat
  /-- The outcome in effect (R196, R197). Reset: none. -/
  eff         : Option HoopDown
  /-- RC at which the slot closed (R197). Reset: 0. -/
  closedAt    : W64
  /-- HOOP_GRACE in microseconds as it stood at the opening (R198, R201). Reset: 100. -/
  grace       : Nat
  /-- SLOT_HOLD in milliseconds as it stood at the opening (R197, R201). Reset: 10,000. -/
  hold        : Nat
  deriving DecidableEq, Repr

/-- An install context (R147, R171, Table 17.9). -/
structure InstCtx where
  /-- INST_BUSY_k. Reset: 0. -/
  busy   : Bool
  /-- SD. Reset: 0. -/
  sd     : Sd
  /-- GEN. Reset: 0. -/
  gen    : Gen
  /-- HOOP_ID of the install hoop. Reset: 0. -/
  hoopId : HoopId
  /-- INST_BATCH_k. Reset: 0. -/
  batch  : Batch
  /-- DEADLINE of its recipe plus HOOP_GRACE, in units of 8 ns (R198, R201). Reset: 0. -/
  deadln : Nat
  /-- RC at the recipe's arrival (R198). Reset: 0. -/
  since  : W64
  /-- The outcome taken (R196). Reset: none. -/
  taken  : Option HoopDown
  /-- The accepted and refused counts contributed (R147). Reset: 0. -/
  counts : Nat × Nat
  deriving DecidableEq, Repr

/-- The leaf's binding (R246). -/
structure Binding where
  sd   : Sd
  rank : Id20
  gen  : Gen
  deriving DecidableEq, Repr

/-- Keys, the calculator and the fingerprint (chapter 09, Table 17.10). -/
structure SeedSt where
  /-- The job key held (R206). Reset: none. -/
  key       : Option (BitVec 128)
  /-- KEY_CHK, 32 bits (R208). Reset: 0. -/
  keyChk    : W32
  /-- STITCH_KEY, 128 bits (R219). Reset: 0. -/
  stitchKey : BitVec 128
  /-- A calculation in progress: its inputs' result and the RC of its start (R219). Reset: none. -/
  busy      : Option (BitVec 128 × W64)
  /-- STITCH_DONE (R219). Reset: 0. -/
  done      : Bool
  /-- STITCH_ERR (R219). Reset: 0. -/
  err       : Bool
  /-- STITCH_OUT, 128 bits (R219). Reset: 0. -/
  out       : BitVec 128
  /-- FP_HASH, 64 bits (R221). Reset: 0. -/
  fpHash    : W64
  /-- FP_VALUE, 64 bits (R220). Reset: 0. -/
  fpValue   : W64
  /-- FP_VALID (R221). Reset: 0. -/
  fpValid   : Bool
  /-- A commit waits for the fingerprint (R221). Reset: false. -/
  fpPend    : Bool
  deriving DecidableEq, Repr

/-- An interpolator channel (R79 to R82). -/
structure Chan where
  /-- The installed density table, none while the fused table is used (R81). Reset: none. -/
  table   : Option (List Nat)
  /-- A table built and waiting for the picot (R81). Reset: none. -/
  built   : Option (List Nat)
  /-- The histogram H (R81). Reset: 0. -/
  hist    : Sparse Nat
  /-- H_EMPTY (R81). Reset: 0. -/
  hEmpty  : Nat
  /-- H_FULL (R81). Reset: 0. -/
  hFull   : Nat
  /-- The most recent pairs, newest first: launch edge k and the two table positions. The 17th is kept while edge k + 2 of the newest
  has not passed (R80, R82). Reset: none. -/
  pairs   : List (W64 × Nat × Nat)
  /-- RC from which channel 0 may launch again: edges before it are unavailable (R80, R81, R83). Reset: 0. -/
  busyTo  : W64
  /-- RC of the last pair slot and of the last density slot of channel 1 that have been used (R85). Reset: none. -/
  pairAt  : Option W64
  /-- See pairAt. -/
  hitAt   : Option W64
  /-- Consecutive shots outside 1.8 ns to 2.2 ns (Table 12.1). Reset: 0. -/
  badShots : Nat
  /-- ADV_SPAN_LOW (R115). Reset: false. -/
  advLow  : Bool
  /-- ADV_SPAN_FAIL (R115). Reset: false. -/
  advFail : Bool
  /-- Picots for which each condition has been absent (R115). Reset: 0. -/
  absent  : Nat × Nat
  deriving DecidableEq, Repr

/-- An event stamp record (R43, R375). -/
structure EvtRec where
  ht      : Ht96
  coarse  : Bool
  uncal   : Bool
  folding : Bool
  foldDom : Dom
  active  : Dom
  noht    : Bool
  rise    : Bool
  deriving DecidableEq, Repr

/-- An interval record (R89, R375). -/
structure IntvRec where
  val     : BitVec 56
  coarse  : Bool
  uncal   : Bool
  folding : Bool
  timeout : Bool
  active  : Dom
  deriving DecidableEq, Repr

/-- Event inputs and intervals (R43, R85 to R89). -/
structure EvtSt where
  /-- EVT_FIFO_0, at most 16 (R43). Reset: empty. -/
  fifo0  : List EvtRec
  /-- EVT_FIFO_1, at most 16 (R43). Reset: empty. -/
  fifo1  : List EvtRec
  /-- INTV_FIFO, at most 16 (R87). Reset: empty. -/
  intv   : List IntvRec
  /-- The open interval: start stamp in 2^-16 ns, COARSE, UNCAL, RC of its capture edge (R87). Reset: none. -/
  open_  : Option (Int × Bool × Bool × W64)
  /-- RC of the last interpolated capture edge (R86). Reset: none. -/
  last   : Option W64
  /-- RC of the last accepted edge at either input (R86). Reset: none. -/
  lastAny : Option W64
  /-- A write to INTP1_MODE, START_SRC, STOP_SRC or TMO_LIMIT waits for the picot (R88). Reset: false. -/
  modeWr  : Bool
  deriving DecidableEq, Repr

/-- The statistics engine (R91, R92). -/
structure StatSt where
  /-- STAT_RUN. Reset: 0. -/
  run  : Bool
  /-- STAT_DONE. Reset: 0. -/
  done : Bool
  /-- The first valid result x_1 (R92). Reset: 0. -/
  x1   : Int
  /-- STAT_CNT, n (R92). Reset: 0. -/
  n    : Nat
  /-- SUM, 96 bits signed (R92). Reset: 0. -/
  sum  : Int
  /-- SQ, 128 bits (R92). Reset: 0. -/
  sq   : Nat
  /-- MIN. Reset: 0. -/
  min  : Int
  /-- MAX. Reset: 0. -/
  max  : Int
  /-- STAT_MEAN. Reset: 0. -/
  mean : Int
  /-- STAT_SDEV. Reset: 0. -/
  sdev : Nat
  deriving DecidableEq, Repr

/-- The frequency counter (R93 to R96, Table 17.7). -/
structure FreqSt where
  /-- Clock code in effect (R96). Reset: 0. -/
  sel      : Nat
  /-- Mode in effect: 0 SINGLE, 1 CONTINUOUS, 2 SWEEP (R96). Reset: 0. -/
  mode     : Nat
  /-- G in effect (R96). Reset: 20. -/
  g        : Nat
  /-- FC_GO waits for the boundary that ends the gate in progress (R376). Reset: false. -/
  go       : Bool
  /-- A gate is in progress, or due at a boundary (R96). Reset: false. -/
  busy     : Bool
  /-- RC of the boundary at which that gate starts (R93). Reset: 0. -/
  start    : W64
  /-- A change of selection, mode or G discards the gate in progress (R96). Reset: false. -/
  change   : Bool
  /-- Region clock of the sweep (R96). Reset: 0. -/
  sweep    : Nat
  /-- FC_DONE. Reset: 0. -/
  done     : Bool
  /-- NOCLK (R94). Reset: 0. -/
  noclk    : Bool
  /-- FC_COUNT, 40 bits (R94). Reset: 0. -/
  count    : BitVec 40
  /-- FC_RATIO, Q8.32 (R94). Reset: 0. -/
  ratio    : BitVec 40
  /-- FC_REG_RATIO_n (R96). Reset: 0. -/
  regRatio : Vector (BitVec 40) 16
  /-- FC_REG_MIN_n (R96). Reset: all ones. -/
  regMin   : Vector (BitVec 40) 16
  /-- Counts of the last valid gates of the holdover slot, newest first, at most 8 (R95). Reset: none. -/
  gates    : List (BitVec 40)
  /-- Valid gates taken since leaf reset (R95). Reset: 0. -/
  valid    : Nat
  /-- HOLD_RATIO installed from gates, none while nominal (R95). Reset: nominal. -/
  ratioHold : Option (BitVec 40)
  /-- NOCLK in the holdover slot (R132). Reset: false. -/
  holdNoclk : Bool
  deriving DecidableEq, Repr

/-- Clock gating (R133, Table 17.11). -/
structure GateSt where
  /-- Gates that are off. Reset: 0. -/
  off     : BitVec 24
  /-- Gate-offs that wait for the picot. Reset: 0. -/
  pend    : BitVec 24
  /-- GATE_REFUSED. Reset: 0. -/
  refused : BitVec 24
  /-- GATE_WHY. Reset: 0. -/
  why     : BitVec 3
  deriving DecidableEq, Repr

/-- The leaf's own parts. -/
structure LeafOnly where
  /-- The 16 region ports. -/
  regions   : Vector Region 16
  /-- RP_LAND_STAT, 16 bits (R122). Reset: 0. -/
  landStat  : W16
  /-- The pricking. -/
  prick     : Prick
  /-- The 32 hoop slots (R171). -/
  slots     : Vector Slot 32
  /-- Window partials not yet sent of slots that have become FREE (R190, log 109). Reset: none. -/
  winq      : List WinLeft
  /-- The 4 install contexts (R171). -/
  insts     : Vector InstCtx 4
  /-- Outcomes taken under the binding, and whether the leaf held the hoop in a slot or install context, so that a later copy is compared
  (R153, R196). Reset: none. -/
  outs      : List (HoopDown × Bool)
  /-- HC_LANE_i written since the last commit (R378). Reset: none. -/
  hcWritten : W16
  /-- HC_ERR, 3 bits (R378). Reset: 7. -/
  hcErr     : BitVec 3
  /-- Keys and fingerprint. -/
  seed      : SeedSt
  /-- The binding (R246). Reset: unbound. -/
  binding   : Option Binding
  /-- RC since which no UP port has been in HELLO or later (R258). Reset: 0. -/
  upLostAt  : W64
  /-- THROTTLE tokens: effective instant in ns and level (R160). Reset: none. -/
  thrToks   : List (Nat × BitVec 3)
  /-- The HALL level (R159). Reset: 0. -/
  thrHall   : BitVec 3
  /-- Effective instant of the HALL level in force (R160). Reset: none. -/
  thrFrom   : Option Nat
  /-- Interpolator channel 0. -/
  ch0       : Chan
  /-- Interpolator channel 1. -/
  ch1       : Chan
  /-- Event inputs. -/
  evt       : EvtSt
  /-- Statistics. -/
  stat      : StatSt
  /-- Frequency counter. -/
  freq      : FreqSt
  /-- Clock gating. -/
  gate      : GateSt
  /-- LEAF_ERR: FATAL in bit 8, CELL in [5:0] (R371). Reset: 0. -/
  err       : BitVec 9
  /-- LEAF_ALARM: SEED_CMP, COPY_DIFF (R371). Reset: 0. -/
  alarm     : BitVec 2
  /-- The leaf is in LEAF_FATAL, which only leaf reset ends (R271). Reset: false. -/
  fatal     : Bool
  deriving DecidableEq, Repr

/-! ## The Maryel's own parts -/

/-- A queued host access (R295): a write of one word, or a read. -/
inductive HostAcc
  | write (off : Nat) (v : W32)
  | read (off : Nat)
  deriving DecidableEq, Repr

/-- One host port (R294, R295). -/
structure HostPort where
  /-- Accesses waiting for the core, at most 64 writes (R295). Reset: none. -/
  queue   : List HostAcc
  /-- Words read and handed to the port (R295). Reset: none. -/
  out     : List W32
  /-- STATUS [4:0]: OVERRUN, FRAME_ERR, WIDE_ABANDON, DENIED, REFUSED (R295). Reset: 0. -/
  status  : BitVec 5
  /-- The last status byte returned (R295). Reset: 0. -/
  statOut : Byte
  /-- Later writes are held until RWP_PEND clears (R337). Reset: false. -/
  sync    : Bool
  deriving DecidableEq, Repr

/-- A group of five cells (R284, Table 18.3). -/
structure Group where
  /-- The group's channel 0 (R78). -/
  ch0 : Chan
  /-- GRP_ERR_g: CH0_CHECK, ARB_PAR (Table 18.3). Reset: 0. -/
  err : BitVec 2
  /-- Cells still to be reset before a group fault is cleared (Table 12.1). Reset: 0. -/
  left : BitVec 5
  deriving DecidableEq, Repr

/-- A quadrant (R284, Table 18.3). -/
structure Quad where
  /-- QUAD_ERR_q: QARB_PAR, XBAR_PAR (Table 18.3). Reset: 0. -/
  err  : BitVec 2
  /-- QRST_HELD (R392). Reset: 0. -/
  held : Bool
  deriving DecidableEq, Repr

/-- The management engine (R299, R300). -/
structure Me where
  /-- The load buffer (R299). Reset: empty. -/
  buf   : List W32
  /-- ME_STATE: 0 HALTED, 1 RUNNING, 2 halted by the watchdog (Table 18.11). Reset: 0. -/
  state : BitVec 2
  /-- The OUTAGE record of this power-up has been filed (R348). Reset: false. -/
  outage : Bool
  /-- The first DELAY_TREND with HOPS = 0 on each DOWN cell since the last filing, as word 1 of its history record (R348). Reset: none. -/
  far    : Sparse W64
  /-- HOLD_SUM and the gains of the leaf below each DOWN cell, as words 1 of their history records (R348). Reset: none. -/
  leafs  : Sparse (W64 × W64)
  /-- The advisories of the last DELAY_TREND record of each cell (R348). Reset: none. -/
  adv    : Sparse Nat
  /-- The leaf directly below each DOWN cell, as its records with HOPS = 0 name it (R348). Reset: none. -/
  nbr    : Sparse Id20
  deriving DecidableEq, Repr

/-- Status of a reference entry (R313). -/
inductive RefStat | disabled | lost | qualifying | qualified | wtr
  deriving DecidableEq, Repr

/-- One reference entry at work (R311 to R316). -/
structure RefEnt where
  /-- The entry in effect, 64 bits (Table 14.2). Reset: 0. -/
  word    : W64
  /-- REF_STAT_i (R313). Reset: DISABLED. -/
  stat    : RefStat
  /-- RC since which the entry qualifies (R313). Reset: 0. -/
  since   : W64
  /-- RC at which WTR began (R315). Reset: 0. -/
  wtrAt   : W64
  /-- The entry has been QUALIFIED since the last chip reset (R315). Reset: false. -/
  wasQual : Bool
  /-- The entry went LOST after being QUALIFIED and must pass WTR (R315). Reset: false. -/
  mustWtr : Bool
  /-- REF_E_i, signed, 2^-16 ns (Table 18.9). Reset: 0. -/
  e       : Int
  /-- The TAI second of the entry's next pulse, once it has a label (R309). Reset: none. -/
  label   : Option Nat
  /-- RC since which every condition but the phase window holds (Table 14.5). Reset: 0. -/
  sinceNW : W64
  /-- The last stamp of a FREQ entry's edges, 2^-16 ns (R308). Reset: none. -/
  last    : Option Int
  /-- TCLK cycles of the last 1 s gate (R313). Reset: none. -/
  gate    : Option Nat
  deriving DecidableEq, Repr

/-- The selector's states (Table 14.5); codes of Table 14.7. -/
inductive SelState | freerun | acquire | locked | holdover | softloop
  deriving DecidableEq, Repr

/-- The holdover slot of a Maryel that is no root, which counts OCXO_IN (R95, R306). -/
structure HoldSlot where
  /-- The counts of the last valid gates, newest first, at most 8. Reset: none. -/
  gates : List (BitVec 40)
  /-- hold_ratio, Q8.32, once 8 gates are valid. Reset: none. -/
  ratio : Option (BitVec 40)
  deriving DecidableEq, Repr

/-- The reference section of a root (chapter 14, Table 18.9). -/
structure Selector where
  /-- SEL_STATE (R317). Reset: FREERUN. -/
  st        : SelState
  /-- SELECTED and SEL_VALID (R316). Reset: none. -/
  selected  : Option (Fin 8)
  /-- REF_CTL in effect (R399). Reset: 0x012C_0A00. -/
  ctl       : W32
  /-- The entries. -/
  ents      : Vector RefEnt 8
  /-- A table that REF_APPLY accepted, waiting for the next second (R399). Reset: none. -/
  pendTab   : Option (W32 × List W64)
  /-- REF_WHY (R312). Reset: 0. -/
  why       : Nat
  /-- OCXO_WARM pin (R307). Reset: low. -/
  warm      : Bool
  /-- OCXO_WARM has gone high, or OCXO_WAIT has elapsed (R307). Reset: false. -/
  warmOk    : Bool
  /-- k_int, units of K, exact (R318). Reset: nominal. -/
  kInt      : Rat
  /-- HT of the last loop run or SOFTLOOP step, 2^-16 ns (R318, R321). Reset: none. -/
  loopAt    : Option Nat
  /-- K over the seconds spent in LOCKED, newest first (R319). Reset: none. -/
  kHist     : List Nat
  /-- K_HO, 48 bits (R319). Reset: 0. -/
  kHo       : BitVec 48
  /-- RC at entry to HOLDOVER (R319). Reset: 0. -/
  holdAt    : W64
  /-- HT second of the last picot of the domain (R333, R399). Reset: 0. -/
  lastSec   : Nat
  /-- HOLD_SEC (R319). Reset: 0. -/
  holdSec   : Nat
  /-- The selector has reached LOCKED since the last reset (R344). Reset: false. -/
  wasLocked : Bool
  /-- The target of SOFT_K (R321). Reset: none. -/
  softTgt   : Option (BitVec 48)
  /-- RC of the last SOFT_K write or of entry to SOFTLOOP (R321). Reset: 0. -/
  softAt    : W64
  /-- SEL_MODE: true is SOFT (R321). Reset: AUTO. -/
  softMode  : Bool
  /-- ROOT_SEC_NEXT waiting for its pulse (R309). Reset: none. -/
  secNext   : Option (BitVec 48)
  /-- ROOT_HT_SET waiting for the picot, in ns and fraction as L(O) (R317). Reset: none. -/
  htSet     : Option Tu
  /-- K_DAY (R327). Reset: 0. -/
  kDay      : BitVec 48
  /-- K_DAY_PREV (R327). Reset: 0. -/
  kDayPrev  : BitVec 48
  /-- Sum and number of seconds of K in this HT day (R327). Reset: 0. -/
  daySum    : Nat × Nat
  /-- HT since which the root is LOCKED on a PHASE entry, 2^-16 ns (R327). Reset: none. -/
  phaseAt   : Option Nat
  /-- ROOT_STEP has left the domain, and LOCKED has not been reached since (R328). Reset: false. -/
  stepped   : Bool
  /-- Days stored since chip reset (R327). Reset: 0. -/
  days      : Nat
  /-- AGE_EST, signed units per day (R327). Reset: 0. -/
  ageEst    : Int
  /-- REF_EVT: SOFT_TMO, REF_STEP_NEEDED, REF_NOLABEL, OCXO_COLD (Table 18.9). Reset: 0. -/
  evt       : BitVec 4
  /-- AB_DIFF, signed, 2^-16 ns (R325). Reset: 0. -/
  abDiff    : Int
  /-- Picots in a row with |AB_DIFF| above 1 ns (R325). Reset: 0. -/
  abRun     : Nat
  /-- ADV_AB_WIDE (R325). Reset: false. -/
  advWide   : Bool
  deriving DecidableEq, Repr

/-- What an Announce says beside its header (R330, Table 14.9). -/
structure PtpAnn where
  priority1  : Nat
  clockClass : Nat
  accuracy   : Nat
  variance   : W16
  priority2  : Nat
  gmIdentity : W64
  steps      : Nat
  /-- currentUtcOffset in s. -/
  utcOffset  : Int
  utcValid   : Bool
  leap59     : Bool
  leap61     : Bool
  /-- timeTraceable. -/
  traceable  : Bool
  deriving DecidableEq, Repr

/-- A PTP message as a port sends it (R330, Table 14.9). -/
structure PtpSent where
  kind      : PtpKind
  /-- Sent over UDP and IPv4; false is IEEE 802.3. -/
  udp       : Bool
  domainNum : Nat
  seqId     : W16
  /-- twoStepFlag of a Sync. -/
  twoStep   : Bool
  /-- logMessageInterval. -/
  logInt    : Int
  /-- Egress timestamp in HT of the domain, 2^-16 ns. -/
  at_       : Int
  /-- The timestamp that the message carries: originTimestamp, preciseOriginTimestamp or receiveTimestamp, 2^-16 ns. -/
  stamp     : Int
  /-- requestingPortIdentity of a Delay_Resp. -/
  requester : W64
  ann       : Option PtpAnn
  deriving DecidableEq, Repr

/-- One IEEE 1588 port (R330, R331, Table 18.10). -/
structure PtpPort where
  /-- PTP_STATE, portState (R400). Reset: 1 INITIALIZING. -/
  state    : BitVec 4
  /-- The best foreign master's data set, as received in Announce (R330). Reset: none. -/
  master   : Option PtpMsg
  /-- The last Sync: sequence number, t1 when known, t2 and its corrections, in 2^-16 ns (R330). Reset: none. -/
  sync     : Option (W16 × Option Nat × Int × Int)
  /-- The last Delay_Req sent: sequence number and t3 (R330). Reset: none. -/
  dreq     : Option (W16 × Int)
  /-- Sequence number of the next message sent (R330). Reset: 0. -/
  seq      : W16
  /-- OFFSET_FM, signed, 2^-16 ns (R400). Reset: 0. -/
  offset   : Int
  /-- MEAN_DELAY, 2^-16 ns (R400). Reset: 0. -/
  delay    : Int
  /-- QL_RX (R331). Reset: 0. -/
  qlRx     : BitVec 4
  /-- The last ESMC's SSM code is refused by QL_ACCEPT (R331). Reset: false. -/
  qlBad    : Bool
  /-- RC of the last ESMC (R331). Reset: 0. -/
  esmcAt   : W64
  /-- The messages that the last command sent, in order (R330). Reset: none. -/
  sent     : List PtpSent
  /-- The last SSM code sent (R331). Reset: none. -/
  esmcSent : Option (BitVec 4)
  deriving DecidableEq, Repr

/-- Effective licences (Table 13.9). -/
structure Lic where
  /-- PORT_TIER (Table 13.9). Reset: 32. -/
  portTier : Nat
  /-- SD_TIER (Table 13.9). Reset: false. -/
  sdTier   : Bool
  /-- EXACT. Reset: false. -/
  exact    : Bool
  /-- QUORUM. Reset: false. -/
  quorum   : Bool
  /-- GRANDMASTER. Reset: false. -/
  gm       : Bool
  deriving DecidableEq, Repr

/-- A profile commit in progress: slot and contents (R293). -/
structure ProfPend where
  slot  : Fin 4
  bytes : List Byte
  deriving DecidableEq, Repr

/-- The Maryel's own parts. -/
structure MaryOnly where
  /-- The four host ports. -/
  ports     : Vector HostPort 4
  /-- The host last served (R296). Reset: 3, so host 0 is next. -/
  rrHost    : Fin 4
  /-- Sources whose CHIP_RST_KEY is armed (R359). Reset: none. -/
  rstKeys   : List Src
  /-- The 20 groups. -/
  groups    : Vector Group 20
  /-- The 4 quadrants. -/
  quads     : Vector Quad 4
  /-- CHIP_ERR, 6 bits (Table 18.4). Reset: 0. -/
  chipErr   : BitVec 6
  /-- SILENT (R279). Reset: false. -/
  silent    : Bool
  /-- ALARM_STAT [2:0] (R279). Reset: 0. -/
  alarm     : BitVec 3
  /-- TEL_FIFO, oldest first, at most 64 (R401). Reset: empty. -/
  tel       : List TeleRec
  /-- The tunnel table: tags whose requester is a host of this Maryel (R58). Reset: none. -/
  tags      : List (W16 × Fin 4)
  /-- Tunnel responses passed to hosts (R58). Reset: none. -/
  tunResp   : List (Fin 4 × TunnelMsg)
  /-- The management engine. -/
  me        : Me
  /-- The PROFSEL pins as last sampled (R293). Reset: DESIGN CHOICE 0 (log 12), a strap of the board. -/
  profsel   : Fin 4
  /-- PROF_ACTIVE (R293). Reset: PROFSEL. -/
  profAct   : Fin 4
  /-- PROF_ERR, 4 bits (R292). Reset: 0. -/
  profErr   : BitVec 4
  /-- A commit in progress (R293). Reset: none. -/
  profPend  : Option ProfPend
  /-- Licences in effect (R302). -/
  lic       : Lic
  /-- Licences accepted since the last picot (R302). Reset: none. -/
  licPend   : Bool
  /-- Slots with REMOVE_PENDING (R404). Reset: none. -/
  licRm     : W16
  /-- LIC_WHY (R302). Reset: 0. -/
  licWhy    : Nat
  /-- LIC_LOST, 16 bits (Table 15.5). Reset: 0. -/
  licLost   : W16
  /-- The selector. -/
  sel       : Selector
  /-- The 1588 ports. -/
  ptp       : Vector PtpPort 2
  /-- HT at which the last pulse on PPS_OUT_n rises and falls, 2^-16 ns (R328). Reset: none. -/
  pps       : Vector (Option (Nat × Nat)) 2
  /-- The HT second in which a GRANDMASTER licence took effect, after which its outputs start (R332). Reset: none. -/
  gmSec     : Option Nat
  /-- The reference channels: REFIN_0 to REFIN_3, SYNCE_0, SYNCE_1 (R308). -/
  refCh     : Vector Chan 6
  /-- The holdover slot of a Maryel below a root (R95, R306). -/
  hold      : HoldSlot
  /-- The last ToD sentence (R329). Reset: empty. -/
  tod       : List Byte
  /-- UTC_OFFSET has been written since PORST_N (Table 18.9). Reset: false. -/
  utcValid  : Bool
  /-- CAPREQ_PIN, the filtered level (Table 18.6). Reset: 1. -/
  capPin    : Bool
  /-- TSEQ, last sent (R161). Reset: 0. -/
  tseq      : Byte
  /-- Effective instant of the preceding assertion in ns (R161). Reset: none. -/
  capEff    : Option Nat
  /-- RC at the release of PORST_N (R307). Reset: 0. -/
  porstAt   : W64
  deriving DecidableEq, Repr

/-! ## The cellar (chapter 15) -/

/-- A word that waits in the cellar write queue (R336): word index, value, and the window offset of the RWP field it mirrors. -/
structure CelWord where
  word : Nat
  val  : W64
  rwp  : Option Nat
  deriving DecidableEq, Repr

/-- The families of reserved numbers (R338, R340). -/
inductive Family | step | vint | gen (sd : Sd)
  deriving DecidableEq, Repr

/-- An operation held for a ceiling raise (R338). -/
inductive HeldOp
  | stepWin (src : Src) (sd : Sd) (lo hi : W64)
  | vint (src : Src) (v : W32)
  | bind (src : Src) (sd : Sd) (words : List W32) (n : Nat) (gen : Gen)
  | teardown (src : Src) (sd : Sd)
  /-- RES_FLOOR, which sets counter and ceiling to its value once the raise to it is done (R340). -/
  | floor (src : Src) (v : W64)
  /-- A window whose grant record waits in the write queue; it takes effect once the record is written (R342). -/
  | grant (sd : Sd) (lo hi : W64)
  deriving DecidableEq, Repr

/-- A ceiling raise in progress (R338). -/
structure Raise where
  fam   : Family
  /-- The new ceiling. -/
  ceil  : Nat
  deriving DecidableEq, Repr

/-- The keep-alive domain (R343 to R345). -/
structure Ka where
  /-- KA_CNT, 48 bits (R343). Reset: 0. -/
  cnt     : BitVec 48
  /-- KA_ANCHOR_CNT (R343). Reset: 0. -/
  ancCnt  : BitVec 48
  /-- KA_ANCHOR_SEC (R343). Reset: 0. -/
  ancSec  : BitVec 48
  /-- KA_RATE, 2^-32 Hz (R343). Reset: 0. -/
  rate    : BitVec 48
  /-- KA_VALID (R345). Reset: false. -/
  valid   : Bool
  /-- KA_TIME as computed at power-up, in ns (R344). Reset: none. -/
  time    : Option Nat
  /-- KA_UNC in ns (R344). Reset: 0. -/
  unc     : Nat
  deriving DecidableEq, Repr

/-- The cellar. -/
structure Cellar where
  /-- The 8 MiB medium by byte address, unlisted reading 0 (R334). Reset: nothing listed. -/
  mem      : List Host.Cell
  /-- The write queue, in order (R336). Reset: empty. -/
  queue    : List CelWord
  /-- Writes of each block in the present second, and the RC at which it began (R336). Reset: none. -/
  rate     : Sparse Nat × W64
  /-- The supply monitor has not tripped (R335). Reset: true. -/
  supply   : Bool
  /-- Block write counts in logic (R346). Reset: 0. -/
  wear     : Sparse Nat
  /-- Ceilings in use by family (R338). Reset: 0. -/
  stepCeil : Nat
  /-- VINT_CEIL in use (R338). Reset: 0. -/
  vintCeil : Nat
  /-- GEN_CEIL in use by SD (R338). Reset: 0. -/
  genCeil  : Sparse Nat
  /-- Raises waiting, in order (R338). Reset: none. -/
  raises   : List Raise
  /-- The raise whose copies are written (R338). Reset: none. -/
  raising  : Option Raise
  /-- RC of the last raise (R338). Reset: none. -/
  raiseAt  : Option W64
  /-- Operations held for a raise, in order (R338). Reset: none. -/
  held     : List (Family × HeldOp)
  /-- JRNL_LOST families (R340). Reset: none. -/
  lost     : List Family
  /-- The keep-alive domain. -/
  ka       : Ka
  /-- Sources that wrote the erase key (R351). Reset: none. -/
  eraseKey : List Src
  /-- CEL_BUSY (R351). Reset: false. -/
  busy     : Bool
  /-- The erase is complete and the cellar waits for a chip reset (R351). Reset: false. -/
  waitRst  : Bool
  /-- RWP_LOST: window offset and flag (R403). Reset: 0. -/
  rwpLost  : Nat × Bool
  /-- Words found uncorrectable, by word index (R347). Reset: none. -/
  bad      : List Nat
  /-- Next record of the history ring (R348). Reset: 0. -/
  histPos  : Nat
  /-- HT seconds of the last history filing (R348). Reset: none. -/
  histAt   : Option Nat
  deriving DecidableEq, Repr

/-! ## Outcomes that stop -/

/-- Why the block would stop. No command of the spec stops the block: a command that does nothing, is refused, or finds its
condition unmet leaves a next state. The one constructor is for a state whose data breaks the model's own invariants; no
meaning raises it, which is safe. -/
inductive Fault
  /-- Raised by no command; safe, since nothing answers with it. -/
  | never
  deriving DecidableEq, Repr

/-- Why the model would refuse a command. -/
inductive Refusal
  /-- The command has no meaning in the model yet, with its mnemonic; raised by exec's refused arms only; safe. -/
  | notModelled (mnemonic : String)
  deriving DecidableEq, Repr

/-! ## The whole state -/

/-- The state of the block. -/
structure State where
  /-- What the leaf shares with the Maryel. -/
  leafN   : Node 6
  /-- What the Maryel shares with the leaf. -/
  maryN   : Node 100
  /-- The leaf's own parts. -/
  leaf    : LeafOnly
  /-- The Maryel's own parts. -/
  mary    : MaryOnly
  /-- The Maryel's cellar. -/
  cellar  : Cellar
  /-- The model's own field: the next argument of the free values of Config. Reset: DESIGN CHOICE 0 (log 3). -/
  freeCtr : Nat
  /-- The commands that wait, first in first out. Reset: none. -/
  pending : List Instr
  deriving DecidableEq, Repr


/-! ## Reset (R11, R359, R371, Tables 17.1 to 18.12) -/

/-- Nominal K of TCLK at 500 MHz: 2 ns in Q8.40 (R23). -/
def nominalK : BitVec 48 := 0x020000000000#48

/-- The correction set of R354: 0 s at RC 0, K nominal. -/
def CorrSet.reset : CorrSet := { anchor := 0, off := 0, rate := nominalK }

/-- A cleared O and K (Table 2.2; DOM_K_A of Table 17.4 reads 0 after reset). -/
def CorrSet.cleared : CorrSet := { anchor := 0, off := 0, rate := 0 }

/-- A domain after reset (R31, R354, R373). -/
def DomCore.reset : DomCore :=
  { st := .off, set := .cleared, kAcq := 0, integ := 0, overX := 0, holdSince := 0, seed := none, kPend := none, err := 0,
    accRun := 0, convRun := 0, reacq := false, lastPicot := 0, picotAt := none, prev := .cleared, kAt := 0 }

/-- The time core after reset (R354, R373). -/
def TimeCore.reset : TimeCore :=
  { rc := 0, domA := .reset, domB := .reset, read := .reset, active := .a, fold := none, noht := true, holdover := false,
    holdStart := 0, holdNs := 0, conv := false, pll := .refclk, frozen := false, pllAt := 0, tclk := true, refclk := true,
    htSetDone := false, rackReq := none, rackHt := 0, rackDue := false,
    snap := { rc := 0, ht := 0, htA := 0, htB := 0, stat := 0 }, snapUnread := false, picotAt := none, onSince := 0, evt := 0 }

/-- A cell record after reset (Table 13.4). -/
def CellCfg.reset : CellCfg := { role := 0, dom := .a, short := false, form := 0, lclass := 0 }

/-- Retry state after reset (R69 to R73). -/
def Retry.reset : Retry :=
  { next := 0, unacked := [], resends := 0, resendQ := [], resendDue := false, ackAt := 0, exp := 0, nakSent := false,
    accepted := 0, firstAcc := none, lossAt := none, discarded := false }

/-- Delay state after reset (R99 to R115). -/
def Delay.reset : Delay :=
  { probeId := 0, outst := [], probeDue := none, echoes := [], sf32 := 0, n := 0, rej := 0, sinceSeed := 0, afterLoss := false,
    d := 0, swapPend := false, swapEff := 0, sigmaCal := 0, voids := [], advResid := false, advJump := false, advVoid := false,
    absent := (0, 0, 0), wasFull := false, trendDue := false, trendAt := 0 }

/-- A port cell after reset: OFF, barred slot 6 (R62, R77, R374). -/
def Cell.reset : Cell :=
  { cfg := .reset, portEn := false, ts := .off, mute := 0, dark := false, everActive := false, downNs := 0, cdrSince := 0,
    commaRun := 0, goodRun := 0, badRun := 0, fseqRx := none, part0 := [], part2 := [], part3 := [], skip := (false, false, false), cutPorts := [], rxRd := false,
    rxMsgs := [], barRx := 6,
    barCand := (6, 0), barTx := 6, barPend := none, theta := 0, thetaLat := 0, helloOk := false, helloAck := false, gotHello := false,
    helloAt := 0, c0q := [], c2q := [], c3q := [], c3in := [], ackq := [], ctlq := [], echoq := [], fseqTx := 0,
    lastFrame := none, lastWords := [], lastSyms := [], txRd := false, frameRc := 0, frames := 0, retry := .reset, dly := .reset, annHt := none, annCount := 0, stampReq := [], stamps := [],
    phase := none, testAt := 0, prbsBits := 0, err := 0 }

/-- The bitstream port after reset (R384, R402). -/
def BsPort.reset : BsPort :=
  { buf := [], tooMany := false, owner := none, done := false, refd := false, why := 0, where_ := 0, patches := [] }

/-- No bitstream applied (R289). -/
def NodeCfg.reset : NodeCfg :=
  { loaded := false, nodeId := 0, dom := .a, root := false, island := false, fixlat := false, serial := 0, routes := [] }

/-- A root after reset (R339). -/
def Root.reset : Root :=
  { sds := [], genHwm := [], binds := [], bufs := [], batches := [], hoops := [], stepHwm := 0, vintHwm := 0, grants := [],
    instWhy := (0, 0, 0), instFail := (0, 0, 0), bindWhy := (0, 0), hoopWhy := 0, keyWhy := 0, evt := 0, exc := [], excSeen := [],
    alarms := [], paths := [], flightPlan := none, guardAdd := 0, deadlineAdd := 0, advFlight := false, c2out := [], c2rr := [] }

/-- A node after reset. -/
def Node.reset (n : Nat) : Node n :=
  { inReset := false, time := .reset, cells := Vector.replicate n .reset, cfg := .reset, bs := .reset, regs := [], eff := [], effB := [],
    ctr := [], irq := 0, expert := [], snaps := [], stages := [], rdata := (0, false), memb := [], curGen := [],
    membValid := false, recipes := [], ctxs := [], noCtx := [], closed := [], excised := [], freed := [], stale := [], arb := { defi := [], ptr := [] }, ownC3 := [],
    root := .reset }

/-- A region port after reset (R134, Table 17.11). -/
def Region.reset : Region :=
  { crN := true, launch := false, kind := 0, arg := 0, step := 0, seed := 0, vintage := 0, thrJob := 0, thrPlan := 0, thrOut := 0, thrAt := 0,
    picot := false, picotDue := none, tally := 0, anchor := none, corrOpen := none, corrVld := false, corr := { a := 0, h := 0, q := 0 },
    corrOk := false, queue := [], wait := [], land := [], landTally := none, tbEff := true, tbHt := 0, hcq := [], hcGap := false, hcAt := 0,
    hcErr := false, hcCode := 0, hoq := [], beats := [], hoVld := false,
    ho := { slot := 0, outcome := 0, verdict := 0, lane := 0, data := 0, lflag := 0, last := false } }

/-- The pricking after reset (R371). -/
def Prick.reset : Prick :=
  { entries := [], taken := [], counts := [], miss := [], pending := false, fatal := false, why := 0, scrubPtr := 0, scrubAt := 0,
    vintage := 0, lateBatch := [], seeds := [], marks := [], instDone := [], halts := [] }

/-- A free hoop slot (R197, Table 17.9). -/
def Slot.reset : Slot :=
  { st := .free, sd := 0, hoopId := 0, gen := 0, common := 0, lanes := [], ports := 0, landed := 0, contributed := 0,
    hostDone := false, openTick := 0, fp := none, accA := [], accB := [], wins := [], inWin := [], sentA := false, sentB := false,
    taken := none, relNs := none, eff := none, closedAt := 0,
    grace := 100, hold := 10000 }

/-- An idle install context (Table 17.9). -/
def InstCtx.reset : InstCtx :=
  { busy := false, sd := 0, gen := 0, hoopId := 0, batch := 0, deadln := 0, since := 0, taken := none, counts := (0, 0) }

/-- Keys and fingerprint after reset (Table 17.10). -/
def SeedSt.reset : SeedSt :=
  { key := none, keyChk := 0, stitchKey := 0, busy := none, done := false, err := false, out := 0, fpHash := 0, fpValue := 0,
    fpValid := false, fpPend := false }

/-- An interpolator channel after reset (R81). -/
def Chan.reset : Chan :=
  { table := none, built := none, hist := [], hEmpty := 0, hFull := 0, pairs := [], busyTo := 0, pairAt := none, hitAt := none, badShots := 0, advLow := false, advFail := false,
    absent := (0, 0) }

/-- Events after reset (R371). -/
def EvtSt.reset : EvtSt := { fifo0 := [], fifo1 := [], intv := [], open_ := none, last := none, lastAny := none, modeWr := false }

/-- Statistics after reset (Table 17.6). -/
def StatSt.reset : StatSt :=
  { run := false, done := false, x1 := 0, n := 0, sum := 0, sq := 0, min := 0, max := 0, mean := 0, sdev := 0 }

/-- The frequency counter after reset (Table 17.7). -/
def FreqSt.reset : FreqSt :=
  { sel := 0, mode := 0, g := 20, go := false, busy := false, start := 0, change := false, sweep := 0, done := false, noclk := false, count := 0,
    ratio := 0, regRatio := Vector.replicate 16 0, regMin := Vector.replicate 16 0xFFFFFFFFFF#40, gates := [], valid := 0,
    ratioHold := none, holdNoclk := false }

/-- The leaf's own parts after reset (chapter 17). -/
def LeafOnly.reset : LeafOnly :=
  { regions := Vector.replicate 16 .reset, landStat := 0, prick := .reset, slots := Vector.replicate 32 .reset,
    winq := [], insts := Vector.replicate 4 .reset, outs := [], hcWritten := 0, hcErr := 7, seed := .reset, binding := none, upLostAt := 0, thrToks := [],
    thrHall := 0, thrFrom := none, ch0 := .reset, ch1 := .reset, evt := .reset, stat := .reset, freq := .reset,
    gate := { off := 0, pend := 0, refused := 0, why := 0 }, err := 0, alarm := 0, fatal := false }

/-- A host port after reset (R295). -/
def HostPort.reset : HostPort := { queue := [], out := [], status := 0, statOut := 0, sync := false }

/-- A reference entry after reset (R313). -/
def RefEnt.reset : RefEnt :=
  { word := 0, stat := .disabled, since := 0, wtrAt := 0, wasQual := false, mustWtr := false, e := 0, label := none, sinceNW := 0,
    last := none, gate := none }

/-- The selector after reset (R317, R399). -/
def Selector.reset : Selector :=
  { st := .freerun, selected := none, ctl := 0x012C0A00, ents := Vector.replicate 8 .reset, pendTab := none, why := 0, warm := false,
    warmOk := false, kInt := 0x020000000000, loopAt := none, kHist := [], kHo := 0, holdAt := 0, lastSec := 0, holdSec := 0, wasLocked := false, softTgt := none, softAt := 0,
    softMode := false, secNext := none, htSet := none, kDay := 0, kDayPrev := 0, daySum := (0, 0), phaseAt := none, stepped := false,
    days := 0, ageEst := 0, evt := 0,
    abDiff := 0, abRun := 0, advWide := false }

/-- A 1588 port after reset (R400). -/
def PtpPort.reset : PtpPort :=
  { state := 1, master := none, sync := none, dreq := none, seq := 0, offset := 0, delay := 0, qlRx := 0, qlBad := false, esmcAt := 0,
    sent := [], esmcSent := none }

/-- A halted engine with an empty load buffer (R299). -/
def Me.reset : Me := { buf := [], state := 0, outage := false, far := [], leafs := [], adv := [], nbr := [] }

/-- No licence (Table 13.9). -/
def Lic.reset : Lic := { portTier := 32, sdTier := false, exact := false, quorum := false, gm := false }

/-- The Maryel's own parts after reset (chapter 18). -/
def MaryOnly.reset : MaryOnly :=
  { ports := Vector.replicate 4 .reset, rrHost := 3, rstKeys := [], groups := Vector.replicate 20 { ch0 := .reset, err := 0, left := 0 },
    quads := Vector.replicate 4 { err := 0, held := false }, chipErr := 0, silent := false, alarm := 0, tel := [], tags := [],
    tunResp := [], me := .reset, profsel := 0, profAct := 0, profErr := 0, profPend := none, lic := .reset,
    licPend := false, licRm := 0, licWhy := 0, licLost := 0, sel := .reset, ptp := Vector.replicate 2 .reset,
    pps := Vector.replicate 2 none, gmSec := none, refCh := Vector.replicate 6 .reset, hold := { gates := [], ratio := none }, tod := [], utcValid := false, capPin := true, tseq := 0, capEff := none, porstAt := 0 }

/-- A blank cellar (R351: after an erase every field is its listed reset value). -/
def Cellar.reset : Cellar :=
  { mem := [], queue := [], rate := ([], 0), supply := true, wear := [], stepCeil := 0, vintCeil := 0, genCeil := [], raises := [],
    raising := none, raiseAt := none, held := [], lost := [],
    ka := { cnt := 0, ancCnt := 0, ancSec := 0, rate := 0, valid := false, time := none, unc := 0 }, eraseKey := [], busy := false,
    waitRst := false, rwpLost := (0, false), bad := [], histPos := 0, histAt := none }

/-- The block right after power-on reset with a blank cellar (R11, R12, R359). -/
def State.reset : State :=
  { leafN := .reset 6, maryN := .reset 100, leaf := .reset, mary := .reset, cellar := .reset, freeCtr := 0, pending := [] }

end Sys2Proof.Machine
end

