-- ==== Sys2Proof/Machine/Ops.lean ====
section
/-! DEFINITION. The named operations over the state that every family uses: sparse maps, access to a node's parts and cells,
counters, interrupt bits, hall time read from a correction set, and the advance of RC to an event's edge. -/

namespace Sys2Proof.Machine

/-! ## Finite maps and vectors -/

/-- The entry of a sparse map. -/
def sget {β : Type} (m : Sparse β) (k : Nat) : Option β := (m.find? (fun p => p.1 == k)).map Prod.snd

/-- Set an entry, keeping the keys strictly rising. -/
def sput {β : Type} : Sparse β → Nat → β → Sparse β
  | [], k, v => [(k, v)]
  | (a, b) :: m, k, v => if k < a then (k, v) :: (a, b) :: m else if k = a then (k, v) :: m else (a, b) :: sput m k v

/-- Remove an entry. -/
def sdel {β : Type} (m : Sparse β) (k : Nat) : Sparse β := m.filter (fun p => p.1 != k)

/-- Look a key of any kind up in an association list. -/
def aget {κ β : Type} [DecidableEq κ] (m : List (κ × β)) (k : κ) : Option β := (m.find? (fun p => decide (p.1 = k))).map Prod.snd

/-- Set a key of an association list, one entry a key. -/
def aput {κ β : Type} [DecidableEq κ] (m : List (κ × β)) (k : κ) (v : β) : List (κ × β) :=
  m.filter (fun p => !decide (p.1 = k)) ++ [(k, v)]

/-- Remove a key of an association list. -/
def adel {κ β : Type} [DecidableEq κ] (m : List (κ × β)) (k : κ) : List (κ × β) := m.filter (fun p => !decide (p.1 = k))

/-- Element `i` of a vector, or a default beyond its end. -/
def vget {α : Type} {n : Nat} (v : Vector α n) (i : Nat) (d : α) : α := v[i]?.getD d

/-- Change element `i` of a vector; beyond its end nothing changes. -/
def vmod {α : Type} {n : Nat} (v : Vector α n) (i : Nat) (f : α → α) : Vector α n :=
  if h : i < n then v.set i (f v[i]) h else v

/-- Numbers 0 to n - 1 whose bit is set in a word. -/
def bitsSet {w : Nat} (v : BitVec w) : List Nat := (List.range w).filter (fun i => v.getLsbD i)

/-- A word with bit `i` set. -/
def setBit {w : Nat} (v : BitVec w) (i : Nat) : BitVec w := v ||| BitVec.ofNat w (2 ^ i)

/-- A word with bit `i` clear. -/
def clrBit {w : Nat} (v : BitVec w) (i : Nat) : BitVec w := v &&& ~~~ BitVec.ofNat w (2 ^ i)

/-- 1 for true. -/
def b01 (b : Bool) : Nat := if b then 1 else 0

/-- Two's complement in `w` bits of an integer. -/
def intBits (w : Nat) (x : Int) : Nat := (x % (2 ^ w : Nat)).toNat

/-- The signed value of the low `w` bits of a number. -/
def signedOf (w : Nat) (x : Nat) : Int :=
  if x % 2 ^ w < 2 ^ (w - 1) then (x % 2 ^ w : Nat) else ((x % 2 ^ w : Nat) : Int) - (2 ^ w : Nat)

/-- An integer saturated to `w` bits two's complement. -/
def satSigned (w : Nat) (x : Int) : Int :=
  if x > 2 ^ (w - 1) - 1 then 2 ^ (w - 1) - 1 else if x < -(2 ^ (w - 1)) then -(2 ^ (w - 1)) else x

/-! ## Nodes and cells -/


/-- A part of a node, whichever node it is. -/
def State.onNode {α : Type} (s : State) (k : NodeSel) (f : {n : Nat} → Node n → α) : α :=
  match k with
  | .leaf => f s.leafN
  | .mary => f s.maryN

/-- Change a part of a node. -/
def State.modNode (s : State) (k : NodeSel) (f : {n : Nat} → Node n → Node n) : State :=
  match k with
  | .leaf => { s with leafN := f s.leafN }
  | .mary => { s with maryN := f s.maryN }

/-- The time core of a node. -/
def State.time (s : State) (k : NodeSel) : TimeCore := s.onNode k (fun N => N.time)
/-- Change the time core of a node. -/
def State.modTime (s : State) (k : NodeSel) (f : TimeCore → TimeCore) : State := s.modNode k (fun N => { N with time := f N.time })
/-- RC of a node. -/
def State.rc (s : State) (k : NodeSel) : W64 := (s.time k).rc
/-- What the bitstream set of a node. -/
def State.cfg (s : State) (k : NodeSel) : NodeCfg := s.onNode k (fun N => N.cfg)
/-- The bitstream port of a node. -/
def State.bs (s : State) (k : NodeSel) : BsPort := s.onNode k (fun N => N.bs)
/-- Change the bitstream port. -/
def State.modBs (s : State) (k : NodeSel) (f : BsPort → BsPort) : State := s.modNode k (fun N => { N with bs := f N.bs })
/-- The root part of a node. -/
def State.root (s : State) (k : NodeSel) : Root := s.onNode k (fun N => N.root)
/-- Change the root part. -/
def State.modRoot (s : State) (k : NodeSel) (f : Root → Root) : State := s.modNode k (fun N => { N with root := f N.root })
/-- The node's reset pin is held. -/
def State.held (s : State) (k : NodeSel) : Bool := s.onNode k (fun N => N.inReset)
/-- Recipes held by a node. -/
def State.recipes (s : State) (k : NodeSel) : List Recipe := s.onNode k (fun N => N.recipes)
/-- Combine contexts of a node. -/
def State.ctxs (s : State) (k : NodeSel) : List Ctx := s.onNode k (fun N => N.ctxs)

/-- How many port cells a node has (R284, R366). -/
def cellCount : NodeSel → Nat
  | .leaf => 6
  | .mary => 100

/-- Port cell `i` of a node. -/
def State.cell (s : State) (k : NodeSel) (i : Nat) : Cell := s.onNode k (fun N => vget N.cells i .reset)

/-- Change port cell `i` of a node. -/
def State.modCell (s : State) (k : NodeSel) (i : Nat) (f : Cell → Cell) : State :=
  s.modNode k (fun N => { N with cells := vmod N.cells i f })

/-- Change the delay part of a cell. -/
def State.modDly (s : State) (k : NodeSel) (i : Nat) (f : Delay → Delay) : State :=
  s.modCell k i (fun c => { c with dly := f c.dly })

/-- Change the retry part of a cell. -/
def State.modRetry (s : State) (k : NodeSel) (i : Nat) (f : Retry → Retry) : State :=
  s.modCell k i (fun c => { c with retry := f c.retry })

/-- The indices of the cells of a node that satisfy a test, ascending. -/
def State.cellsWith (s : State) (k : NodeSel) (p : Cell → Bool) : List Nat :=
  (List.range (cellCount k)).filter (fun i => p (s.cell k i))

end Sys2Proof.Machine
namespace Sys2Proof
/-- The node of a cell. -/
def CellRef.node : CellRef → NodeSel
  | .leaf _ => .leaf
  | .mary _ => .mary
/-- The number of a cell at its node. -/
def CellRef.idx : CellRef → Nat
  | .leaf c => c.val
  | .mary c => c.val
end Sys2Proof
namespace Sys2Proof.Machine

/-- Change the leaf's own parts. -/
def State.modLeaf (s : State) (f : LeafOnly → LeafOnly) : State := { s with leaf := f s.leaf }
/-- Change the Maryel's own parts. -/
def State.modMary (s : State) (f : MaryOnly → MaryOnly) : State := { s with mary := f s.mary }
/-- Change the pricking. -/
def State.modPrick (s : State) (f : Prick → Prick) : State := s.modLeaf (fun l => { l with prick := f l.prick })
/-- Region port `i`. -/
def State.region (s : State) (i : Nat) : Region := vget s.leaf.regions i .reset
/-- Change region port `i`. -/
def State.modRegion (s : State) (i : Nat) (f : Region → Region) : State :=
  s.modLeaf (fun l => { l with regions := vmod l.regions i f })
/-- Hoop slot `i`. -/
def State.slot (s : State) (i : Nat) : Slot := vget s.leaf.slots i .reset
/-- Change hoop slot `i`. -/
def State.modSlot (s : State) (i : Nat) (f : Slot → Slot) : State := s.modLeaf (fun l => { l with slots := vmod l.slots i f })
/-- Change the selector. -/
def State.modSel (s : State) (f : Selector → Selector) : State := s.modMary (fun m => { m with sel := f m.sel })
/-- Change the cellar. -/
def State.modCellar (s : State) (f : Cellar → Cellar) : State := { s with cellar := f s.cellar }

/-! ## Counters and interrupt bits (R272, R370) -/

/-- The counter at a window offset. -/
def State.count (s : State) (k : NodeSel) (off : Nat) : W32 := s.onNode k (fun N => (sget N.ctr off).getD 0)

/-- A counter goes up by one and saturates (R272). -/
def State.bump (s : State) (k : NodeSel) (off : Nat) : State :=
  s.modNode k (fun N => { N with ctr := sput N.ctr off (satInc ((sget N.ctr off).getD 0)) })

/-- A counter goes up by `n` and saturates (R272). -/
def State.bumpBy (s : State) (k : NodeSel) (off n : Nat) : State :=
  if n = 0 then s else s.modNode k (fun N => { N with ctr := sput N.ctr off (satAdd ((sget N.ctr off).getD 0) n) })

/-- Bump if a condition holds. -/
def State.bumpIf (s : State) (c : Bool) (k : NodeSel) (off : Nat) : State := if c then s.bump k off else s

/-- A write is refused: its counter goes up, and the access carries the refusal (R295, Table 3.8). -/
def State.refuse (s : State) (k : NodeSel) (off : Nat) : State :=
  (s.bump k off).modNode k (fun N => { N with rdata := (N.rdata.1, true) })

/-- An RW1C bit of IRQ_STAT is set by its event (R370, R394). -/
def State.raiseIrq (s : State) (k : NodeSel) (bit : Nat) : State := s.modNode k (fun N => { N with irq := setBit N.irq bit })

/-- A bit of TIME_EVT is set (R373). -/
def State.raiseTime (s : State) (k : NodeSel) (bit : Nat) : State := s.modTime k (fun t => { t with evt := setBit t.evt bit })

/-! ## Offsets of a field of the time page and of a cell page at a node -/

/-- The time page at a node: the leaf's offset, or the Maryel's (R395). -/
def tOff (k : NodeSel) (off : Nat) : Nat :=
  match k with
  | .leaf => off
  | .mary => off - 0x1000 + 0x7E000

/-- The page of a cell: Tables 17.5 and 18.2. -/
def cOff (k : NodeSel) (i off : Nat) : Nat :=
  match k with
  | .leaf => 0x2000 + i * 0x1000 + off
  | .mary => i * 0x1000 + off

/-- ACC_ERR of a node's window (Tables 17.2, 18.4). -/
def offAccErr : NodeSel → Nat
  | .leaf => 0x0018
  | .mary => 0x7C018
/-- TIME_REFUSED of a node. -/
def offTimeRefused (k : NodeSel) : Nat := tOff k 0x1208

/-! ## Hall time (R23, R24) -/

/-- HT of a correction set at an RC value, in 2^-40 ns (R23). -/
def CorrSet.at_ (c : CorrSet) (rc : W64) : Tu := c.off + (rc - c.anchor).toNat * c.rate.toNat

/-- The set re-anchored exactly at an edge with a new rate (R24). -/
def CorrSet.reanchor (c : CorrSet) (rc : W64) (k : BitVec 48) : CorrSet := { anchor := rc, off := c.at_ rc, rate := k }

/-- HT in whole nanoseconds since the epoch. -/
def tuNs (u : Tu) : Nat := u / 2 ^ 40

/-- HT in units of 2^-16 ns: the residue is discarded (R23). -/
def tu16 (u : Tu) : Nat := u / 2 ^ 24

/-- HT in the register layout of R373, seconds modulo 2^48 (R23). -/
def htOf (u : Tu) : Ht96 :=
  BitVec.ofNat 96 (tu16 u % 2 ^ 16 + (tuNs u % 1000000000) * 2 ^ 16 + (tuNs u / 1000000000 % 2 ^ 48) * 2 ^ 48)

/-- The nanoseconds field of an HT register value. -/
def htNs (h : Ht96) : Nat := bitsOf h 47 16

/-- An HT register value as a count of 2^-40 ns. -/
def tuOfHt (h : Ht96) : Tu := (bitsOf h 95 48 * 1000000000 + bitsOf h 47 16) * 2 ^ 40 + bitsOf h 15 0 * 2 ^ 24

/-- The core of one domain. -/
def TimeCore.dom (t : TimeCore) : Dom → DomCore
  | .a => t.domA
  | .b => t.domB

/-- Change the core of one domain. -/
def TimeCore.modDom (t : TimeCore) (d : Dom) (f : DomCore → DomCore) : TimeCore :=
  match d with
  | .a => { t with domA := f t.domA }
  | .b => { t with domB := f t.domB }

/-- The other domain. -/
def otherDom : Dom → Dom
  | .a => .b
  | .b => .a

/-- 0 for A, 1 for B. -/
def domIdx : Dom → Nat
  | .a => 0
  | .b => 1

/-- HT of a set's line at an edge before or after its anchor. -/
def CorrSet.line (c : CorrSet) (rc : W64) : Int := (c.off : Int) + (rc - c.anchor).toInt * (c.rate.toNat : Int)

/-- The domain's HT at a past edge, by the set that was in effect there (R28). -/
def DomCore.htAt (x : DomCore) (rc : W64) : Int := (if (rc - x.kAt).toInt < 0 then x.prev else x.set).line rc

/-- A new line for a domain from an edge on, by which stamps of earlier edges are converted too: a step of O, or a reset (R26, R39). -/
def DomCore.stepTo (x : DomCore) (rc : W64) (c : CorrSet) : DomCore := { x with set := c, prev := c, kAt := rc }

/-- Change the core of one domain of a node. -/
def State.modDom (s : State) (k : NodeSel) (d : Dom) (f : DomCore → DomCore) : State := s.modTime k (fun t => t.modDom d f)

/-- Read-path HT of a node now, in 2^-40 ns (R23, R33). -/
def State.ht (s : State) (k : NodeSel) : Tu := (s.time k).read.at_ (s.rc k)

/-- A domain's HT now, in 2^-40 ns. -/
def State.htDom (s : State) (k : NodeSel) (d : Dom) : Tu := ((s.time k).dom d).set.at_ (s.rc k)

/-- Read-path HT in whole ns. -/
def State.htNs (s : State) (k : NodeSel) : Nat := tuNs (s.ht k)

/-- The first edge, from `rc` on, at which a set's HT is at least `t`. -/
def CorrSet.edgeOf (c : CorrSet) (rc : W64) (t : Tu) : W64 :=
  if t ≤ c.at_ rc then rc
  else rc + BitVec.ofNat 64 ((t - c.at_ rc + c.rate.toNat - 1) / c.rate.toNat)

/-- RC of a node moves on to an edge that lies ahead: the edge of the event that a command names. It never moves back (R22), and stands
still while TCLK does (R132). -/
def State.advTo (s : State) (k : NodeSel) (rc : W64) : State :=
  s.modTime k (fun t => if t.tclk ∧ t.rc.toNat < rc.toNat then { t with rc := rc } else t)

/-- RC of a node moves on to `n` cycles after a mark, if that lies ahead. -/
def State.advAfter (s : State) (k : NodeSel) (mark : W64) (n : Nat) : State := s.advTo k (mark + BitVec.ofNat 64 n)

/-- TCLK cycles in a microsecond at 500 MHz. -/
def cyclesUs : Nat := 500
/-- TCLK cycles in a millisecond. -/
def cyclesMs : Nat := 500000
/-- TCLK cycles in a second. -/
def cyclesS : Nat := 500000000

/-- RC moves on to the edge at which the read path reaches an HT. -/
def State.advHt (s : State) (k : NodeSel) (t : Tu) : State := s.advTo k ((s.time k).read.edgeOf (s.rc k) t)

/-- The next argument of the free values of Config, taken. -/
def State.takeFree (s : State) : Nat × State := (s.freeCtr, { s with freeCtr := s.freeCtr + 1 })

/-- A node held in reset does nothing (R359). -/
def State.live (s : State) (k : NodeSel) (f : State → State) : State := if s.held k then s else f s

/-- An event of the time or tally service: without TCLK there is none (R132). -/
def State.timed (s : State) (k : NodeSel) (f : State → State) : State := if (s.time k).tclk then f s else s

/-- An event of the time or tally service at a node that is not held in reset (R132, R359). -/
def State.liveT (s : State) (k : NodeSel) (f : State → State) : State := s.live k (fun s => s.timed k f)

/-- Fold an operation over a list, left to right. -/
def State.each {α : Type} (s : State) (l : List α) (f : State → α → State) : State := l.foldl f s

end Sys2Proof.Machine
end

