-- ==== Sys2Proof/Machine/Operands.lean ====
section
/-! DEFINITION. The operand forms of a register access: the fields that hold what a host wrote (Table 0.5), with their listed
reset values, ranges and refusal counters (chapters 17 and 18), the pages that repeat, and the reading of a field. -/

namespace Sys2Proof.Machine

/-- Field types that store what is written (Table 0.5). -/
inductive FTy | rw | rwx | rwk | rwp
  deriving DecidableEq, Repr

/-- The counter that a refused value of a field moves. -/
inductive RefCtr | acc | time | dly | intp | fc | prk | hoop | bind | inst | ref
  deriving DecidableEq, Repr

/-- A stored field: template offset, lowest bit, width, type, reset value, range, refusal counter. -/
structure Fld where
  off : Nat
  lo  : Nat
  w   : Nat
  ty  : FTy
  rst : Nat
  mn  : Nat
  mx  : Nat
  ctr : RefCtr
  deriving DecidableEq, Repr

/-- A field whose every value is in range. -/
def fAny (off lo w : Nat) (ty : FTy) (rst : Nat) : Fld := ⟨off, lo, w, ty, rst, 0, 2 ^ w - 1, .acc⟩

/-- The offset of the refusal counter at a node. -/
def RefCtr.off (r : RefCtr) (k : NodeSel) (root : Bool) : Nat :=
  match r with
  | .acc => offAccErr k
  | .time => offTimeRefused k
  | .dly => tOff k 0x1218
  | .intp => if k = .leaf then 0x821C else offAccErr k
  | .fc => 0x9310
  | .prk => 0xA104
  | .hoop => if root then 0x80718 else 0xB524
  | .bind => if root then 0x80708 else if k = .leaf then 0xE124 else offAccErr k
  | .inst => 0x80700
  | .ref => 0x98404

/-- Expert fields of the time core and of calibration (Tables 2.5, 5.6), at both nodes. -/
def fldsTime : List Fld :=
  [⟨0x1100, 8, 5, .rwx, 20, 14, 28, .time⟩, ⟨0x1100, 0, 6, .rwx, 34, 26, 44, .time⟩,
   ⟨0x1104, 0, 9, .rwx, 10, 1, 500, .time⟩, ⟨0x1108, 0, 16, .rwx, 1000, 1, 60000, .time⟩,
   ⟨0x110C, 0, 10, .rwx, 2, 1, 1000, .time⟩,
   fAny 0x1110 0 32 .rwx 0, fAny 0x1114 31 1 .rwx 0, fAny 0x1114 0 16 .rwx 0,
   fAny 0x1118 0 32 .rwx 0, fAny 0x111C 31 1 .rwx 0, fAny 0x111C 0 16 .rwx 0,
   ⟨0x1120, 0, 4, .rwx, 8, 4, 12, .dly⟩, ⟨0x1124, 0, 10, .rwx, 100, 10, 1000, .dly⟩,
   ⟨0x1128, 0, 10, .rwx, 100, 1, 1000, .dly⟩, ⟨0x112C, 0, 17, .rwx, 200, 20, 100000, .dly⟩,
   ⟨0x1130, 0, 5, .rwx, 10, 4, 16, .dly⟩, ⟨0x1134, 0, 10, .rwx, 100, 20, 1000, .dly⟩,
   fAny 0x1018 1 1 .rw 0]

/-- The asymmetry forms with the defaults of Table 5.2. -/
def fldsAsym : List Fld :=
  (List.range 8).flatMap (fun c =>
    [fAny (0x1140 + 8 * c) 0 32 .rwx 0,
     fAny (0x1144 + 8 * c) 0 32 .rwx (if c = 3 then 92 else if c = 4 then 0xFFFFF056 else 0)])

/-- Stored fields of a cell page (Table 17.5). -/
def fldsCell : List Fld := [fAny 0x2000 2 2 .rw 0, ⟨0x2030, 0, 7, .rw, 8, 1, 64, .acc⟩]

/-- Stored fields of the leaf's own pages (Tables 17.2 to 17.12). -/
def fldsLeaf : List Fld :=
  [fAny 0x0024 0 27 .rw 0, fAny 0x0034 0 9 .rw 0x1FF, fAny 0x003C 0 2 .rw 3,
   ⟨0x1000, 0, 19, .rw, 100000, 50000, 400000, .time⟩,
   fAny 0x1078 0 32 .rw 0, fAny 0x107C 0 8 .rw 0, fAny 0x10A4 0 28 .rw 0,
   ⟨0x8000, 0, 2, .rw, 0, 0, 2, .acc⟩,
   fAny 0x8004 12 2 .rw 0, fAny 0x8004 8 2 .rw 0, fAny 0x8004 4 2 .rw 0, fAny 0x8004 0 2 .rw 0,
   ⟨0x8008, 0, 32, .rw, 0x80000, 32, 0x80000000, .acc⟩,
   ⟨0x8100, 0, 32, .rw, 0, 0, 7, .intp⟩, ⟨0x8104, 0, 25, .rw, 1, 1, 0x1000000, .acc⟩,
   ⟨0x8300, 16, 3, .rwx, 4, 0, 4, .intp⟩, ⟨0x8300, 8, 5, .rwx, 20, 16, 24, .intp⟩,
   fAny 0x8300 4 1 .rwx 1, fAny 0x8300 0 2 .rwx 2,
   fAny 0x8304 31 1 .rwx 0, fAny 0x8304 0 18 .rwx 0, fAny 0x8308 31 1 .rwx 0, fAny 0x8308 0 18 .rwx 0,
   ⟨0x9000, 16, 5, .rw, 20, 10, 31, .fc⟩, ⟨0x9000, 8, 2, .rw, 0, 0, 2, .acc⟩, ⟨0x9000, 0, 5, .rw, 0, 0, 24, .fc⟩,
   ⟨0xA010, 0, 4, .rwx, 8, 6, 12, .prk⟩,
   fAny 0xB000 0 5 .rw 0, fAny 0xB00C 0 5 .rw 0,
   ⟨0xB020, 0, 20, .rwx, 100, 10, 1000000, .hoop⟩, ⟨0xB024, 0, 16, .rwx, 10000, 1, 60000, .hoop⟩,
   fAny 0xC010 0 32 .rw 0, fAny 0xC014 0 32 .rw 0, fAny 0xC018 0 20 .rw 0, fAny 0xC01C 0 12 .rw 0, fAny 0xC020 0 1 .rw 0,
   fAny 0xD010 0 16 .rwk 0xFFFF,
   fAny 0xE010 0 12 .rw 0, fAny 0xE014 0 3 .rw 0, fAny 0xE018 0 20 .rw 0, fAny 0xE01C 0 16 .rw 0, fAny 0xE024 0 12 .rw 0,
   ⟨0xE048, 0, 10, .rwx, 10, 1, 1000, .bind⟩, fAny 0xE04C 0 1 .rwx 0, fAny 0xE050 0 16 .rw 0]

/-- HC_LANE_i (Table 17.9). -/
def fldsHcLane : List Fld := (List.range 32).map (fun i => fAny (0xB100 + 4 * i) 0 32 .rw 0)

/-- Stored fields of a root: Table 18.7 and the planning fields of Table 18.6, at a top Maryel and in an island root's image. -/
def fldsRoot : List Fld :=
  [fAny 0x80108 0 15 .rw 0, fAny 0x8010C 0 16 .rw 0, ⟨0x80208, 0, 6, .rw, 0, 1, 32, .acc⟩,
   fAny 0x80400 0 32 .rw 0, fAny 0x80404 0 32 .rw 0, fAny 0x80408 0 32 .rw 0, fAny 0x8040C 0 32 .rw 0,
   fAny 0x80430 16 12 .rw 0, ⟨0x80430, 0, 2, .rw, 0, 0, 2, .acc⟩,
   ⟨0x80600, 0, 20, .rwx, 100, 20, 1000000, .inst⟩, ⟨0x80604, 0, 15, .rwx, 3600, 1, 32000, .inst⟩,
   ⟨0x80608, 0, 17, .rwx, 1000, 100, 100000, .inst⟩, ⟨0x8060C, 0, 17, .rwx, 1000, 200, 100000, .inst⟩,
   fAny 0x80610 0 1 .rw 1, ⟨0x80614, 0, 10, .rwx, 10, 1, 1000, .hoop⟩,
   ⟨0x7F024, 0, 14, .rwx, 100, 0, 10000, .dly⟩]

/-- Stored fields of the Maryel's own pages (Tables 18.3 to 18.13). DESIGN CHOICE (log 111): PAIR_DEPTH and DENSITY_N out of range on a
group page count in ACC_ERR. -/
def fldsMary : List Fld :=
  [fAny 0x7C02C 0 3 .rw 7, fAny 0x7D000 0 20 .rw 0xFFFFF, fAny 0x7D004 0 20 .rw 0x10055, fAny 0x7D008 0 20 .rw 0x10055,
   fAny 0x7D00C 0 20 .rw 0x10055, fAny 0x7D010 0 20 .rwp 0x55,
   fAny 0x7D040 0 14 .rw 0, fAny 0x7D044 0 14 .rw 0, fAny 0x7D048 0 14 .rw 0, fAny 0x7D04C 0 14 .rw 0,
   fAny 0x10A4 0 10 .rw 0,
   ⟨0x7F000, 0, 6, .rwp, 24, 16, 40, .time⟩, ⟨0x7F004, 0, 17, .rwp, 16, 1, 65536, .time⟩,
   ⟨0x7F008, 0, 11, .rwp, 16, 1, 1024, .time⟩,
   ⟨0x7F030, 4, 3, .rw, 4, 1, 7, .time⟩, fAny 0x7F030 0 1 .rw 0, ⟨0x7F034, 0, 12, .rw, 1000, 0, 2400, .time⟩,
   ⟨0x7F038, 0, 17, .rw, 100, 0, 100000, .time⟩, fAny 0x7F044 0 1 .rw 0,
   ⟨0x64100, 16, 3, .rwx, 4, 0, 4, .acc⟩, ⟨0x64100, 8, 5, .rwx, 20, 16, 24, .acc⟩,
   fAny 0x64104 31 1 .rwx 0, fAny 0x64104 0 18 .rwx 0,
   fAny 0x90104 0 12 .rw 0, fAny 0x90108 0 7 .rw 0, fAny 0x9010C 0 20 .rw 0, fAny 0x90110 0 16 .rw 0,
   fAny 0x90300 0 1 .rwx 0,
   ⟨0xF0018, 0, 9, .rwp, 30, 1, 365, .acc⟩, ⟨0xF001C, 0, 8, .rwp, 24, 1, 168, .acc⟩, fAny 0xF0020 0 20 .rwp 500,
   ⟨0xB0010, 0, 16, .rw, 1000, 1, 60000, .acc⟩]

/-- Stored fields of the selector, output and IEEE 1588 pages (Tables 18.9, 18.10). -/
def fldsRef : List Fld :=
  [fAny 0x98000 0 32 .rw 0x012C0A00, fAny 0x980C4 0 1 .rw 0,
   fAny 0x98200 8 1 .rw 1, fAny 0x98200 0 5 .rw 0,
   fAny 0x98208 0 32 .rw 0, fAny 0x9820C 0 8 .rw 0, fAny 0x98210 0 32 .rw 0, fAny 0x98214 0 8 .rw 0,
   ⟨0x98218, 0, 27, .rw, 25000000, 25, 125000000, .acc⟩, ⟨0x9821C, 16, 2, .rw, 0, 0, 2, .acc⟩, fAny 0x9821C 0 16 .rw 0,
   ⟨0x98300, 0, 13, .rwx, 64, 8, 4096, .ref⟩, ⟨0x98304, 0, 15, .rwx, 100, 1, 20000, .ref⟩,
   ⟨0x98308, 0, 10, .rwx, 10, 1, 1000, .ref⟩, ⟨0x9830C, 0, 17, .rwx, 4096, 64, 65536, .ref⟩,
   ⟨0x98310, 0, 20, .rwx, 10000, 100, 1000000, .ref⟩, ⟨0x98314, 0, 20, .rwx, 86400, 1, 604800, .ref⟩,
   ⟨0x98318, 0, 12, .rwx, 10, 1, 3600, .ref⟩, ⟨0x9831C, 0, 12, .rwx, 600, 0, 3600, .ref⟩,
   fAny 0x98320 0 1 .rwx 1, fAny 0x98324 0 32 .rwx 0, ⟨0x98328, 0, 16, .rwx, 22, 1, 65535, .ref⟩,
   ⟨0x99000, 4, 2, .rw, 0, 0, 1, .ref⟩, fAny 0x99000 3 1 .rw 0, fAny 0x99000 2 1 .rw 0, fAny 0x99000 1 1 .rw 0,
   fAny 0x99000 0 1 .rw 0, fAny 0x99004 16 8 .rw 128, fAny 0x99004 8 8 .rw 128, fAny 0x99004 0 7 .rw 0,
   fAny 0x99008 24 4 .rw 0, ⟨0x99008, 16, 4, .rw, 3, 2, 10, .ref⟩, fAny 0x99008 8 4 .rw 1, fAny 0x99008 0 4 .rw 0,
   fAny 0x99020 16 16 .rw 0xFFFF, fAny 0x99020 4 4 .rw 0, fAny 0x99020 0 4 .rw 0, fAny 0x99024 0 32 .rw 0,
   fAny 0x99028 0 32 .rw 0, fAny 0x9902C 0 16 .rw 0]

/-- REF_ENTRY_i as staged (Table 18.9). -/
def fldsRefEntry : List Fld := (List.range 16).map (fun i => fAny (0x98008 + 4 * i) 0 32 .rw 0)

/-- The template offset of a leaf offset: port pages repeat (Table 17.1). -/
def canonLeaf (off : Nat) : Nat := if 0x2000 ≤ off ∧ off < 0x8000 then 0x2000 + off % 0x1000 else off

/-- The template offset of a Maryel offset: cell, group, quadrant, time and 1588 pages (R391, R392, R395, R400); the mailbox in
one word. -/
def canonMary (off : Nat) : Nat :=
  if off < 0x64000 then 0x2000 + off % 0x1000
  else if off < 0x78000 then 0x64000 + off % 0x1000
  else if off < 0x7C000 then 0x78000 + off % 0x1000
  else if 0x7E000 ≤ off ∧ off < 0x7F000 then 0x1000 + (off - 0x7E000)
  else if 0x99000 ≤ off ∧ off < 0x9A000 then 0x99000 + off % 0x800
  else off

/-- The stored fields of a register of a node. An island root's image lies at Maryel offsets (R383). -/
def fieldsAt (k : NodeSel) (off : Nat) : List Fld :=
  match k with
  | .leaf =>
    if off < 0x10000 then
      (fldsTime ++ fldsAsym ++ fldsCell ++ fldsLeaf ++ fldsHcLane).filter (fun f => f.off == canonLeaf off)
    else fldsRoot.filter (fun f => f.off == off)
  | .mary =>
    if 0xB2000 ≤ off ∧ off < 0xB2400 then [fAny off 0 32 .rw 0]
    else (fldsTime ++ fldsAsym ++ fldsCell ++ fldsMary ++ fldsRoot ++ fldsRef ++ fldsRefEntry).filter
      (fun f => f.off == canonMary off)

/-- The listed reset value of the stored fields of a register. -/
def regReset (k : NodeSel) (off : Nat) : W32 :=
  (fieldsAt k off).foldl (fun a f => a ||| BitVec.ofNat 32 (f.rst * 2 ^ f.lo)) 0

/-- What a stored register holds: the value last written, else the listed reset value (R11). -/
def State.reg (s : State) (k : NodeSel) (off : Nat) : W32 := s.onNode k (fun N => (sget N.regs off).getD (regReset k off))

/-- Bits [hi:lo] of a stored register. -/
def State.fld (s : State) (k : NodeSel) (off hi lo : Nat) : Nat := bitsOf (s.reg k off) hi lo

/-- The value in effect of a register whose writes wait for a picot or a second (R44, R98, R116, R266, R333). -/
def State.effReg (s : State) (k : NodeSel) (off : Nat) : W32 := s.onNode k (fun N => (sget N.eff off).getD (regReset k off))

/-- Does a register of the time page of a leaf act on each domain by itself: loop settings, DOM_K_OVR, and the path delay settings that its
cells use (R44, R116)? -/
def perDomain (off : Nat) : Bool :=
  decide ((0x1100 ≤ off ∧ off < 0x110C) ∨ (0x1110 ≤ off ∧ off < 0x1120) ∨ (0x1120 ≤ off ∧ off < 0x1180))

/-- The value in effect for a domain: domain B of a leaf has its own, since its picot is its own (R44, R116). -/
def State.effRegD (s : State) (k : NodeSel) (d : Dom) (off : Nat) : W32 :=
  match k, d with
  | .leaf, .b => (sget s.leafN.effB off).getD (regReset .leaf off)
  | _, _ => s.effReg k off

/-- Bits [hi:lo] of a register in effect for a domain. -/
def State.effFldD (s : State) (k : NodeSel) (d : Dom) (off hi lo : Nat) : Nat := bitsOf (s.effRegD k d off) hi lo

/-- Bits [hi:lo] of a register in effect. -/
def State.effFld (s : State) (k : NodeSel) (off hi lo : Nat) : Nat := bitsOf (s.effReg k off) hi lo

/-- Store a register. -/
def State.setReg (s : State) (k : NodeSel) (off : Nat) (v : W32) : State :=
  s.modNode k (fun N => { N with regs := sput N.regs off v })

/-- A wide value of two stored registers, low word first (R9). -/
def State.reg64 (s : State) (k : NodeSel) (off : Nat) : W64 := s.reg k (off + 4) ++ s.reg k off

/-- Store a wide value of two registers. -/
def State.setReg64 (s : State) (k : NodeSel) (off : Nat) (v : W64) : State :=
  (s.setReg k off (v.extractLsb' 0 32)).setReg k (off + 4) (v.extractLsb' 32 32)

/-- Does the selector page's rule (the next second, R328, R333) or the picot's rule (R44) make a register's write effective? -/
def waitsForSecond (off : Nat) : Bool := decide ((0x98300 ≤ off ∧ off < 0x98400) ∨ (0x98208 ≤ off ∧ off < 0x9821C))

/-- Does a register hold host-set fields of Table 14.9, which take effect at the next announce interval (R400)? -/
def waitsForAnnounce (off : Nat) : Bool := decide (off = 0x99004 ∨ off = 0x99804)

/-- The written values of some registers put over those in effect. -/
def putWritten (p : Nat → Bool) (regs eff : Sparse W32) : Sparse W32 :=
  (regs.filter (fun x => p x.1)).foldl (fun m x => sput m x.1 x.2) eff

/-- At a picot of a domain, written values that wait for it take effect: fields of one domain at a leaf with that domain's picot, all others
with the picot of the active domain, or at a Maryel of its own (R44, R98, R116; log 86). -/
def State.commitPicot (s : State) (k : NodeSel) (d : Dom) : State :=
  let waits := fun (o : Nat) => !(waitsForSecond o || waitsForAnnounce o)
  match k with
  | .mary => s.modNode .mary (fun N => { N with eff := putWritten waits N.regs N.eff })
  | .leaf =>
    let act := decide (s.leafN.time.active = d)
    s.modNode .leaf (fun N =>
      { N with eff := putWritten (fun o => waits o && (if perDomain o then decide (d = .a) else act)) N.regs N.eff,
               effB := if d = .b then putWritten perDomain N.regs N.effB else N.effB })

/-- At a second, written values of the reference section take effect (R333). -/
def State.commitSecond (s : State) (k : NodeSel) : State :=
  s.modNode k (fun N => { N with eff := putWritten waitsForSecond N.regs N.eff })

/-- At an announce interval of a 1588 port, its written priorities take effect (R400). -/
def State.commitAnnounce (s : State) (k : Nat) : State :=
  s.modNode .mary (fun N =>
    match sget N.regs (0x99004 + 0x800 * k) with
    | some v => { N with eff := sput N.eff (0x99004 + 0x800 * k) v }
    | none => N)

/-- Does an access of `src` have expert access open at the node (R369, R390)? -/
def State.isExpert (s : State) (k : NodeSel) (src : Src) : Bool := s.onNode k (fun N => decide (src ∈ N.expert))

/-- The buffers and selectors of a source at a root (R389). -/
def Root.buf (r : Root) (src : Src) : SrcBuf :=
  (r.bufs.find? (fun b => decide (b.src = src))).getD
    { src := src, inst := [], bind := [], rcp := [], tooMany := (false, false, false, false), keyBuf := 0, keySet := false, sel := [], prof := [] }

/-- Change the buffers of a source. -/
def Root.modBuf (r : Root) (src : Src) (f : SrcBuf → SrcBuf) : Root :=
  { r with bufs := r.bufs.filter (fun b => !decide (b.src = src)) ++ [f (r.buf src)] }

end Sys2Proof.Machine
end

