-- ==== Sys2Proof/Machine/Numerics.lean ====
section
/-! DEFINITION. Bit-level numerics of the link: CRC-8 and CRC-32 (R51, R53), byte and word packing, integer roots and clamps. -/

namespace Sys2Proof.Machine

/-- One bit of the CRC-8 of R53. -/
def crc8Step (c : Byte) (b : Bool) : Byte := if c.msb != b then (c <<< 1) ^^^ 0x2F#8 else c <<< 1

/-- TCRC over bits [63:8] of a token (R53). -/
def crc8 (t : W64) : Byte := (List.range 56).foldl (fun c i => crc8Step c (t.getMsbD i)) 0xFF#8

/-- A token with its TCRC (Table 3.4). -/
def tok (type seg : Nat) (body : Body) : W64 :=
  let hi : BitVec 56 := (BitVec.ofNat 6 type ++ BitVec.ofNat 2 seg) ++ body
  hi ++ crc8 (hi ++ (0 : Byte))

/-- The NULL token (R53). -/
def nullTok : W64 := 0x0000000000000095#64

/-- TYPE of a token (Table 3.4). -/
def tokType (t : W64) : Nat := bitsOf t 63 58
/-- SEG of a token. -/
def tokSeg (t : W64) : Nat := bitsOf t 57 56
/-- BODY of a token. -/
def tokBody (t : W64) : Body := t.extractLsb' 8 48
/-- Does a token's TCRC match (R54)? -/
def tokGood (t : W64) : Bool := t.extractLsb' 0 8 == crc8 t
/-- A token stomped on its way: its TCRC is the complement (R54, R65). -/
def tokStomped (t : W64) : Bool := t.extractLsb' 0 8 == ~~~ crc8 t
/-- A token completed with the complement of its CRC-8 (R65). -/
def stompTok (t : W64) : W64 := (t.extractLsb' 8 56) ++ ~~~ crc8 t

/-- One bit of the CRC-32 of R51, least significant bit first. -/
def crc32Step (c : W32) (b : Bool) : W32 := if c.getLsbD 0 != b then (c >>> 1) ^^^ 0xEDB88320#32 else c >>> 1

/-- One byte of the CRC-32. -/
def crc32Byte (c : W32) (b : Byte) : W32 := (List.range 8).foldl (fun c i => crc32Step c (b.getLsbD i)) c

/-- The check of IEEE 802.3 over bytes, complemented (R51). -/
def crc32 (bs : List Byte) : W32 := ~~~ (bs.foldl crc32Byte 0xFFFFFFFF#32)

/-- The bytes of link words in transmission order, bits [15:8] first (R45). -/
def wordBytes (ws : List W16) : List Byte := ws.flatMap (fun w => [w.extractLsb' 8 8, w.extractLsb' 0 8])

/-- Words 30 and 31 of a frame over its words 1 to 29: the check-sequence bytes, least significant first (R51). -/
def frameCrc (ws : List W16) : List W16 :=
  let c := crc32 (wordBytes ws)
  [c.extractLsb' 0 8 ++ c.extractLsb' 8 8, c.extractLsb' 16 8 ++ c.extractLsb' 24 8]

/-- The four words of a token, most significant first (R52). -/
def tokWords (t : W64) : List W16 := [t.extractLsb' 48 16, t.extractLsb' 32 16, t.extractLsb' 16 16, t.extractLsb' 0 16]

/-- The token of four words. -/
def tokOfWords (a b c d : W16) : W64 := (a ++ b) ++ (c ++ d)

/-- A body from fields listed from the most significant bit down, as a number of `w` bits each. -/
def packBody (fs : List (Nat × Nat)) : Body := BitVec.ofNat 48 (fs.foldl (fun a f => a * 2 ^ f.1 + f.2 % 2 ^ f.1) 0)

/-- Split a number into `n` pieces of `w` bits, most significant first. -/
def pieces (w n : Nat) (x : Nat) : List Nat := (List.range n).map (fun i => x / 2 ^ (w * (n - 1 - i)) % 2 ^ w)

/-- A multi-token message of one class: the head's type, the following tokens' type, and the bodies (R55). -/
def message (headType restType : Nat) : List Body → List W64
  | [] => []
  | [b] => [tok headType 0 b]
  | b :: bs => tok headType 1 b ::
      (bs.zipIdx.map (fun p => tok restType (if p.2 + 1 = bs.length then 3 else 2) p.1))

/-- The limits of K (Table 2.1). -/
def kMin : Nat := 2198583450901
/-- The upper limit of K (Table 2.1). -/
def kMax : Nat := 2199463060203

/-- K clamped under R27, and whether the clamp acted. -/
def clampK (k : Int) : BitVec 48 × Bool :=
  if k < kMin then (BitVec.ofNat 48 kMin, true) else if k > kMax then (BitVec.ofNat 48 kMax, true)
  else (BitVec.ofInt 48 k, false)

/-- Integer square root by bisection over `n` bits. -/
def isqrtLoop (x : Nat) : Nat → Nat → Nat
  | 0, r => r
  | n + 1, r => if (r + 2 ^ n) * (r + 2 ^ n) ≤ x then isqrtLoop x n (r + 2 ^ n) else isqrtLoop x n r

/-- floor of the square root of a number below 2^(2n). -/
def isqrt (n x : Nat) : Nat := isqrtLoop x n 0

/-- trunc(a / b), toward zero. -/
def truncDiv (a : Int) (b : Nat) : Int := a.tdiv b

/-- The first instant at or after `now` whose nanosecond count has remainder `r` modulo 2^w (Table 3.7). -/
def resolveMod (w now r : Nat) : Nat := now + (r + 2 ^ w - now % 2 ^ w) % 2 ^ w

end Sys2Proof.Machine
end

