-- ==== Sys2Proof/Machine/PrickBase.lean ====
section
/-! DEFINITION. The fields of an entry image (Table 7.2), a firing's tick and step (R141), the removal of entries, and the one
operation that records a miss (R151, R152). -/

namespace Sys2Proof.Machine

/-- OP of an image (Table 7.2). -/
def imgOp (i : BitVec 256) : Bool := i.getLsbD 255
/-- KIND. -/
def imgKind (i : BitVec 256) : Nat := bitsOf i 254 252
/-- ADV. -/
def imgAdv (i : BitVec 256) : Bool := i.getLsbD 251
/-- HALT. -/
def imgHalt (i : BitVec 256) : Bool := i.getLsbD 250
/-- SD. -/
def imgSd (i : BitVec 256) : Sd := i.extractLsb' 238 12
/-- PORTS. -/
def imgPorts (i : BitVec 256) : W16 := i.extractLsb' 222 16
/-- EIDX. -/
def imgEidx (i : BitVec 256) : BitVec 6 := i.extractLsb' 216 6
/-- GUARD in ns: units of 4 ns. -/
def imgGuardNs (i : BitVec 256) : Nat := bitsOf i 215 204 * 4
/-- TICK_S. -/
def imgTickS (i : BitVec 256) : Nat := bitsOf i 203 188
/-- TICK_NS. -/
def imgTickNs (i : BitVec 256) : Nat := bitsOf i 187 158
/-- REP_INT. -/
def imgRepInt (i : BitVec 256) : Nat := bitsOf i 157 138
/-- REP_CNT. -/
def imgRepCnt (i : BitVec 256) : Nat := bitsOf i 137 128
/-- STEP. -/
def imgStep (i : BitVec 256) : W64 := i.extractLsb' 64 64
/-- ARG. -/
def imgArg (i : BitVec 256) : W64 := i.extractLsb' 0 64

/-- The instant of a tick, in ns, resolved against read-path seconds: of the seconds congruent to TICK_S the one from 32,768 s behind to
32,767 s ahead, which lies before the epoch where the time is young (R140). -/
def resolveTick (nowSec tickS tickNs : Nat) : Int :=
  ((nowSec : Int) + (((tickS + 65536 + 32768 - nowSec % 65536) % 65536 : Nat) : Int) - 32768) * 1000000000 + (tickNs : Int)

/-- Tick of the next firing of an entry, in ns (R141). -/
def Entry.tick (e : Entry) : Nat := e.tick0 + e.fired * imgRepInt e.image * 4096

/-- STEP that firing k carries (R141). -/
def imgStepAt (i : BitVec 256) (k : Nat) : W64 := if imgAdv i then imgStep i + BitVec.ofNat 64 k else imgStep i

/-- ARG that firing k carries: a HOOP_OPEN with ADV advances HOOP_ID (R141). -/
def imgArgAt (i : BitVec 256) (k : Nat) : W64 :=
  if imgAdv i ∧ imgKind i = 4 then
    (imgArg i).extractLsb' 48 16 + BitVec.ofNat 16 k ++ (imgArg i).extractLsb' 0 48
  else imgArg i

/-- The entry is armed by either tree's copy (R149, R273). -/
def Entry.armed (e : Entry) : Bool := e.armA || e.armB

/-- The entry's HT of edge g in ns: tick of firing 0 less GUARD (R150). -/
def Entry.guardAt (e : Entry) : Nat := e.tick0 - imgGuardNs e.image

/-- The earliest of some instants. -/
def minNat (l : List Nat) : Option Nat := l.foldl (fun a x => match a with | none => some x | some y => some (min x y)) none

/-- The miss record of an entry's next firing (R151). -/
def missOf (e : Entry) (cause : BitVec 2) : MissRec :=
  { sd := imgSd e.image, gen := e.gen, batch := e.batch, eidx := imgEidx e.image, kind := BitVec.ofNat 3 (imgKind e.image),
    step := imgStepAt e.image e.fired, tick := e.tick, cause := cause }

/-- A miss: one record to MISS_FIFO, or MISS_LOST when 16 are held; PRK_MISS_CNT, PRK_MISS_IRQ and MISS_PENDING (R151, R152). -/
def State.recordMiss (s : State) (m : MissRec) : State :=
  let s1 := if s.leaf.prick.miss.length < 16 then s.modPrick (fun p => { p with miss := p.miss ++ [m] }) else s.bump .leaf 0xA114
  ((s1.bump .leaf 0xA110).raiseIrq .leaf 6).modPrick (fun p => { p with pending := true })

/-- A missed entry: its record, and for a HOOP_OPEN the hoop it names, to which the mark goes at once if the leaf is its member
(R152). -/
def State.missEntry (s : State) (cause : BitVec 2) (e : Entry) : State :=
  let s1 := s.recordMiss (missOf e cause)
  if imgKind e.image = 4 then
    s1.modPrick (fun p => { p with marks := p.marks ++ [(imgArgAt e.image e.fired).extractLsb' 48 16] })
  else s1

/-- Remove from the pricking every entry that satisfies a test. -/
def State.dropEntries (s : State) (p : Entry → Bool) : State :=
  s.modPrick (fun q => { q with entries := q.entries.filter (fun e => !p e) })

/-- CONV clears, and each clear counts in CONV_DROP (R106). -/
def State.dropConv (s : State) (k : NodeSel) : State :=
  if (s.time k).conv then (s.modTime k (fun t => { t with conv := false })).bump k (tOff k 0x1214) else s

/-- The read-path step's consequences: every armed entry is discarded with a miss of cause STEPPED, and TIME_STEPPED is raised
(R32); an island root clears CONV (R106). -/
def State.readStep (s : State) : State :=
  let gone := s.leaf.prick.entries.filter (fun e => e.armed)
  ((((s.dropEntries (fun e => e.armed)).each gone (fun s e => s.missEntry 1 e)).raiseTime .leaf 4)).dropConv .leaf

/-- A withdraw image's target: the batch of ARG[15:0] and EIDX of ARG[21:16], where 63 names every entry of the batch (R146). -/
def imgNames (i : BitVec 256) (e : Entry) : Bool :=
  decide (imgSd e.image = imgSd i) && decide (e.batch = (imgArg i).extractLsb' 0 16) &&
    (decide (bitsOf (imgArg i) 21 16 = 63) || decide (imgEidx e.image = (imgArg i).extractLsb' 16 6))

/-- WITHDRAW: the named entries go, armed or not, each counted in PRK_WITHDRAWN, without a miss (R146). -/
def State.withdraw (s : State) (i : BitVec 256) : State :=
  (s.dropEntries (imgNames i)).bumpBy .leaf 0xA108 (s.leaf.prick.entries.filter (imgNames i)).length

end Sys2Proof.Machine
end

