-- ==== Sys2Proof/Machine/Access.lean ====
section
/-! DEFINITION. The judgement of a register access before its register's own rule: sources, a node held in reset, permission
classes (R297), root pages (R387), and the CHIP_RST key that any other access cancels (R359). -/

namespace Sys2Proof.Machine

/-- The permission class of a Maryel window offset (Table 13.7). -/
def permClass (off : Nat) : Nat :=
  if off < 0x7C000 then 0 else if off < 0x7D000 then 1 else if off < 0x7E000 then 2 else if off < 0x80000 then 3
  else if off < 0x90000 then 4 else if off < 0x98000 then 5 else if off < 0xA0000 then 3 else if off < 0xB0000 then 1
  else if off < 0xC0000 then 6 else if off < 0xD0000 then 7 else if off < 0xE0000 then 8 else 9

/-- The permission word of a source at the Maryel: HOST_PERM_n or HOST_PERM_TUN; the engine reads every register (R297, R300, R390). -/
def State.permOf (s : State) (src : Src) : W32 :=
  match src with
  | .host h => s.reg .mary (0x7D000 + 4 * h.val)
  | .tunnel => s.reg .mary 0x7D010
  | .qhp => 0
  | .engine => 0xFFFFF

/-- May a source write an offset of the Maryel's window? EXPERT_UNLOCK is writable by every source (Table 18.4). -/
def State.mayWrite (s : State) (src : Src) (off : Nat) : Bool :=
  decide (off = 0x7D020) || (s.permOf src).getLsbD (2 * permClass off + 1)

/-- May a source read an offset? The chip identity registers and CHIP_SUM are open to every host (R297). -/
def State.mayRead (s : State) (src : Src) (off : Nat) : Bool :=
  decide ((0x7C000 ≤ off ∧ off < 0x7C014) ∨ off = 0x7C024) || (s.permOf src).getLsbD (2 * permClass off)

/-- The denial counter of a source: HP_DENY_n, HP_DENY_TUN or ME_DENY. -/
def offDeny : Src → Nat
  | .host h => 0x7D060 + 4 * h.val
  | .tunnel => 0x7D080
  | .qhp => 0x7D080
  | .engine => 0xB0018

/-- Set a bit of the STATUS byte of a host (R295). -/
def State.hostStat (s : State) (src : Src) (bit : Nat) : State :=
  match src with
  | .host h => s.modMary (fun m => { m with ports := vmod m.ports h.val (fun p => { p with status := setBit p.status bit }) })
  | _ => s

/-- Offsets that act only at a root (Table 18.1). -/
def rootPage (off : Nat) : Bool :=
  decide ((0x80000 ≤ off ∧ off < 0x90000) ∨ (0x98000 ≤ off ∧ off < 0xA0000) ∨ (0xA0000 ≤ off ∧ off < 0xA0200) ∨ off = 0xA0300
    ∨ off = 0xA0304)

/-- Does the node serve root registers: a Maryel with ROOT = 1, or an island root (R383, R387)? -/
def State.isRoot (s : State) (k : NodeSel) : Bool :=
  match k with
  | .leaf => (s.cfg .leaf).island
  | .mary => (s.cfg .mary).root

/-- A source that exists at a node: QHP and REG-TUNNEL at the leaf, the hosts, REG-TUNNEL and the engine at the Maryel (R300, R369, R390). -/
def srcAt (k : NodeSel) (src : Src) : Bool :=
  match k, src with
  | .leaf, .qhp => true
  | .leaf, .tunnel => true
  | .mary, .host _ => true
  | .mary, .tunnel => true
  | .mary, .engine => true
  | _, _ => false

/-- Any access of a source cancels its CHIP_RST key (R359). -/
def State.cancelKey (s : State) (src : Src) : State :=
  s.modMary (fun m => { m with rstKeys := m.rstKeys.filter (fun x => !decide (x = src)) })

/-- Clear the mark of a refused access. -/
def State.clearRefused (s : State) (k : NodeSel) : State := s.modNode k (fun N => { N with rdata := (0, false) })

/-- Was the last access refused? -/
def State.wasRefused (s : State) (k : NodeSel) : Bool := s.onNode k (fun N => N.rdata.2)

/-- Mark the last access refused without a counter of its own. -/
def State.markRefused (s : State) (k : NodeSel) : State := s.modNode k (fun N => { N with rdata := (N.rdata.1, true) })

/-- The STATUS REFUSED bit of a host whose write was refused (R295). -/
def State.noteRefused (s : State) (k : NodeSel) (src : Src) : State := if s.wasRefused k then s.hostStat src 0 else s

/-- The registers that the engine can write: its mailbox. Its other targets are no registers: the ageing history (HIST_FILE), the pointers of
TEL_FIFO (FIFO_POP), the 1588 management buffers (R300). -/
def engineMay (off : Nat) : Bool := decide (0xB1000 ≤ off ∧ off < 0xB2000 ∧ off % 4 = 0)

/-- A write of the running engine: hardware blocks any but the allowed ones, counts it in ME_DENY and raises ME_IRQ; a halted engine writes
nothing (R300). -/
def State.engineAccess (s : State) (off : Nat) (f : State → State) : State :=
  if s.mary.me.state ≠ 1 then s
  else if engineMay off then f (s.clearRefused .mary)
  else (((s.clearRefused .mary).bump .mary 0xB0018).raiseIrq .mary 9).markRefused .mary

/-- A write access to a register: no effect from a source the node lacks or at a node held in reset, but for TIME_CTL of a leaf (R367); at a Maryel the key is
cancelled and the permission judged; a root register elsewhere than at a root is ignored and counted in ACC_ERR; else the
register's own rule `f` acts. The engine has rules of its own (R300). -/
def State.access (s : State) (k : NodeSel) (src : Src) (off : Nat) (f : State → State) : State :=
  if !srcAt k src || (s.held k && !decide (k = .leaf ∧ off = 0x1000)) then s
  else
    let s0 := s.clearRefused k
    match k with
    | .leaf => if off ≥ 0x10000 ∧ !s.isRoot .leaf then s0.refuse .leaf (offAccErr .leaf) else f s0
    | .mary =>
      if src = .engine then s.engineAccess off f
      else
        let s1 := s0.cancelKey src
        if !s.mayWrite src off then ((s1.bump .mary (offDeny src)).hostStat src 1).markRefused .mary
        else if rootPage off && !s.isRoot .mary then (s1.refuse .mary (offAccErr .mary)).noteRefused .mary src
        else (f s1).noteRefused .mary src

/-! ## Convergence (R106, R326) -/

/-- Is channel 0 at a cell still without its first density table (R81)? A Maryel's cells use their group's (R78). -/
def State.uncal0 (s : State) (k : NodeSel) (i : Nat) : Bool :=
  match k with
  | .leaf => s.leaf.ch0.table.isNone
  | .mary => (vget s.mary.groups (i / 5) { ch0 := .reset, err := 0, left := 0 }).ch0.table.isNone

/-- ADV_SPAN_FAIL stands at a node. -/
def State.spanFail (s : State) (k : NodeSel) : Bool :=
  match k with
  | .leaf => s.leaf.ch0.advFail || s.leaf.ch1.advFail
  | .mary => s.mary.groups.toList.any (fun g => g.ch0.advFail)

/-- DLY_SHIFT in effect for a domain. -/
def State.dlyShift (s : State) (k : NodeSel) (d : Dom) : Nat := s.effFldD k d (tOff k 0x1130) 4 0

/-- A cell's filter is full, with no reseed in its last 2^DLY_SHIFT samples (R104, R106). -/
def State.cellSettled (s : State) (k : NodeSel) (i : Nat) : Bool :=
  let x := (s.cell k i).dly
  let n := 2 ^ s.dlyShift k (s.cell k i).cfg.dom
  decide (n ≤ x.n ∧ n ≤ x.sinceSeed) && !s.uncal0 k i && !x.advResid

/-- A domain with an ACTIVE UP port is in TRACK and its last 64 accepted measurements since then lie within CONV_E (R106). -/
def State.domSettled (s : State) (k : NodeSel) (d : Dom) : Bool :=
  let x := (s.time k).dom d
  (s.cellsWith k (fun c => decide (c.ts = .active ∧ c.cfg.role = 1 ∧ c.cfg.dom = d))).isEmpty ||
    decide (x.st = .track ∧ 64 ≤ x.accRun ∧ 64 ≤ x.convRun)

/-- Every condition of R106 holds. -/
def State.convCond (s : State) (k : NodeSel) : Bool :=
  !(s.cellsWith k (fun c => decide (c.ts = .active ∧ c.cfg.role = 1))).isEmpty &&
    (s.cellsWith k (fun c => decide (c.ts = .active ∧ (c.cfg.role = 1 ∨ c.cfg.role = 3)))).all (s.cellSettled k) &&
    s.domSettled k .a && s.domSettled k .b &&
    (s.cellsWith k (fun c => c.dly.advResid)).isEmpty && !s.spanFail k

/-- The selected entry of a follower root is CROSS (R324, R326). -/
def State.crossSelected (s : State) : Bool :=
  s.mary.sel.ctl.getLsbD 30 &&
    (match s.mary.sel.selected with
     | some i => decide (bitsOf (vget s.mary.sel.ents i.val RefEnt.reset).word 62 59 = 8)
     | none => false)

/-- What CONV ought to be, where its conditions set it: below a root by R106; at a follower root that follows CROSS by that cell (R326);
an island root and any other root set and clear it at their own events. -/
def State.convWanted (s : State) (k : NodeSel) : Option Bool :=
  if !s.isRoot k then some (s.convCond k)
  else if decide (k = .mary) && s.crossSelected then
    some (match (s.cellsWith .mary (fun c => decide (c.ts = .active ∧ c.cfg.role = 3))).head? with
          | some i =>
            let x := (s.time .mary).dom (s.cfg .mary).dom
            s.cellSettled .mary i && decide (x.st = .track ∧ 64 ≤ x.accRun ∧ 64 ≤ x.convRun) &&
              !(vget s.mary.groups (i / 5) { ch0 := .reset, err := 0, left := 0 }).ch0.advFail
          | none => false)
  else none

/-- CONV follows its conditions; each clear counts in CONV_DROP (R106). -/
def State.convRefresh (s : State) (k : NodeSel) : State :=
  match s.convWanted k with
  | some true => s.modTime k (fun t => { t with conv := true })
  | some false => s.dropConv k
  | none => s

/-- An event at a node that is not held in reset, after which CONV follows its conditions. -/
def State.liveC (s : State) (k : NodeSel) (f : State → State) : State := s.live k (fun s => (f s).convRefresh k)

/-- A register write after which CONV follows its conditions. -/
def State.accessC (s : State) (k : NodeSel) (src : Src) (off : Nat) (f : State → State) : State :=
  s.access k src off (fun s => (f s).convRefresh k)

end Sys2Proof.Machine
end

