-- ==== Sys2Proof/Machine/Lanes.lean ====
section
/-! DEFINITION. The harvest's lane operations (Table 8.3, R174 to R179, R426): carried values, combining, results and lane flags, and
the recipe's fields (Tables 8.1, 8.2). -/

namespace Sys2Proof.Machine

/-! ## Recipe fields -/

/-- FMT (Table 8.1). -/
def rcFmt (c : BitVec 288) : Nat := bitsOf c 287 284
/-- MODE: true is QUORUM. -/
def rcQuorum (c : BitVec 288) : Bool := c.getLsbD 283
/-- ALIGN. -/
def rcAlign (c : BitVec 288) : Bool := c.getLsbD 282
/-- INST. -/
def rcInst (c : BitVec 288) : Bool := c.getLsbD 281
/-- SRC: true is the host. -/
def rcHost (c : BitVec 288) : Bool := c.getLsbD 280
/-- MSET. -/
def rcMset (c : BitVec 288) : Bool := c.getLsbD 279
/-- VERD. -/
def rcVerd (c : BitVec 288) : Bool := c.getLsbD 278
/-- NLANE. -/
def rcNlane (c : BitVec 288) : Nat := bitsOf c 276 272
/-- RCNT. -/
def rcCnt (c : BitVec 288) : Nat := bitsOf c 271 262
/-- BATCH. -/
def rcBatch (c : BitVec 288) : Batch := c.extractLsb' 246 16
/-- DEADLINE in units of 8 ns. -/
def rcDeadline (c : BitVec 288) : Nat := bitsOf c 245 215
/-- REL_LEAD in units of 64 ns. -/
def rcRelLead (c : BitVec 288) : Nat := bitsOf c 214 197
/-- The QUORUM window W in ns: 1,024 x 2^QWIN_LOG. -/
def rcWindow (c : BitVec 288) : Nat := 1024 * 2 ^ bitsOf c 196 193
/-- QSETTLE in units of 64 ns. -/
def rcSettle (c : BitVec 288) : Nat := bitsOf c 192 177
/-- RANK_LO. -/
def rcRankLo (c : BitVec 288) : Nat := bitsOf c 176 157
/-- RANK_HI. -/
def rcRankHi (c : BitVec 288) : Nat := bitsOf c 156 137
/-- Q. -/
def rcQ (c : BitVec 288) : Nat := bitsOf c 127 64
/-- NF_THR. -/
def rcNf (c : BitVec 288) : Nat := bitsOf c 63 32
/-- SAT_THR. -/
def rcSat (c : BitVec 288) : Nat := bitsOf c 31 0

/-- OP of a lane descriptor (Table 8.2). -/
def laneOp (d : W32) : Nat := bitsOf d 31 28
/-- ROLE of a lane descriptor. -/
def laneRole (d : W32) : Nat := bitsOf d 27 25
/-- Lane operation SUM_F32_EXACT. -/
def laneExact (d : W32) : Bool := laneOp d == 13

/-! ## binary32 and binary64 -/

/-- A finite binary value given as an integer count of its least subnormal, rounded to `m` fraction bits, ties to even, overflow to
infinity (exponent field `emax`): magnitude bits without the sign. -/
def roundMag (m emax : Nat) (x : Nat) : Nat :=
  if x < 2 ^ (m + 1) then x
  else
    let sh := Nat.log2 x - m
    let q := x / 2 ^ sh
    let r := x % 2 ^ sh
    let q' := if 2 * r > 2 ^ sh ∨ (2 * r = 2 ^ sh ∧ q % 2 = 1) then q + 1 else q
    let b := sh * 2 ^ m + q'
    if b ≥ emax * 2 ^ m then emax * 2 ^ m else b

/-- The magnitude of a finite value as a count of the least subnormal. -/
def magOf (m : Nat) (bits : Nat) : Nat :=
  let e := bits / 2 ^ m
  if e = 0 then bits else (bits % 2 ^ m + 2 ^ m) * 2 ^ (e - 1)

/-- round_binary32 of a signed count of 2^-149. -/
def roundF32 (x : Int) : W32 := BitVec.ofNat 32 ((if x < 0 then 2 ^ 31 else 0) + roundMag 23 255 x.natAbs)

/-- The signed count of 2^-149 of a finite binary32. -/
def f32Int (x : W32) : Int :=
  let m := magOf 23 (bitsOf x 30 0)
  if x.getLsbD 31 then -(m : Int) else m

/-- Is a binary32 a NaN? -/
def f32Nan (x : W32) : Bool := decide (bitsOf x 30 0 > 0x7F800000)
/-- Is a binary32 finite? -/
def f32Finite (x : W32) : Bool := decide (bitsOf x 30 23 < 255)

/-- The key of totalOrder (R175). -/
def f32Key (b : W32) : Nat := if b.getLsbD 31 then (b ^^^ 0xFFFFFFFF#32).toNat else (b ^^^ 0x80000000#32).toNat

/-- A binary32 converted to binary64 exactly; a NaN becomes the one NaN of R176. -/
def f32to64 (x : W32) : W64 :=
  let s := if x.getLsbD 31 then 2 ^ 63 else 0
  if f32Nan x then 0x7FF8000000000000#64
  else if !f32Finite x then BitVec.ofNat 64 (s + 2047 * 2 ^ 52)
  else BitVec.ofNat 64 (s + roundMag 52 2047 (magOf 23 (bitsOf x 30 0) * 2 ^ (1074 - 149)))

/-- binary64 addition with roundTiesToEven; any NaN result is 0x7FF8_0000_0000_0000 (R176). -/
def f64Add (a b : W64) : W64 :=
  let inf (x : W64) := decide (bitsOf x 62 0 = 2047 * 2 ^ 52)
  let nan (x : W64) := decide (bitsOf x 62 0 > 2047 * 2 ^ 52)
  if nan a || nan b || (inf a && inf b && (a.msb != b.msb)) then 0x7FF8000000000000#64
  else if inf a then a else if inf b then b
  else
    let v (x : W64) : Int := if x.msb then -(magOf 52 (bitsOf x 62 0) : Int) else magOf 52 (bitsOf x 62 0)
    let s := v a + v b
    if s = 0 then (if a.msb && b.msb then 0x8000000000000000#64 else 0)
    else BitVec.ofNat 64 ((if s < 0 then 2 ^ 63 else 0) + roundMag 52 2047 s.natAbs)

/-! ## Carried values (Table 8.3) -/

/-- The empty carried value of an operation (Table 8.11). -/
def laneEmpty (d : W32) : BitVec 240 :=
  match laneOp d with
  | 3 => 0xFFFFFFFFFFFFFFFF#240
  | 7 => 0xFFFFFFFFFFFFFFFF#240
  | 4 => 0x8000000000000000#240
  | 5 => 0x7FFFFFFFFFFFFFFF#240
  | 10 => 0xFFFFFFFFFFFFFFFF#240
  | 11 => 0xFFFFFFFF00000000#240
  | _ => 0

/-- The exact image of a binary32 and its flags as a carried EXACT value (R177, R178). -/
def exactOf (x : W32) : BitVec 240 :=
  let e := bitsOf x 30 23
  let m := bitsOf x 22 0
  if e = 255 then
    if m ≠ 0 then BitVec.ofNat 240 (2 ^ 239) else if x.getLsbD 31 then BitVec.ofNat 240 (2 ^ 237) else BitVec.ofNat 240 (2 ^ 238)
  else
    let mant := if e = 0 then m else m + 2 ^ 23
    let ee := if e = 0 then 1 else e
    let mag := if ee ≥ 67 then mant * 2 ^ (ee - 67) else mant / 2 ^ (67 - ee)
    let inex := decide (ee < 67) && decide (mant % 2 ^ (67 - ee) ≠ 0)
    let a : BitVec 236 := if x.getLsbD 31 then -(BitVec.ofNat 236 mag) else BitVec.ofNat 236 mag
    (if inex then BitVec.ofNat 240 (2 ^ 236) else 0) ||| a.zeroExtend 240

/-- The carried value of one input of a lane (Table 8.3, R174). -/
def laneInput (d : W32) (v : W64) : BitVec 240 :=
  match laneOp d with
  | 1 =>
    let x := signedOf 64 v.toNat
    let lo : Int := -(2 ^ 38)
    let hi : Int := 2 ^ 38 - 1
    let c := if x < lo then lo else if x > hi then hi else x
    BitVec.ofNat 240 ((if c = x then 0 else 2 ^ 63) + intBits 63 c)
  | 9 => if d.getLsbD 16 then BitVec.ofNat 240 (bitsOf v 31 0) else 1
  | 11 => BitVec.ofNat 240 (bitsOf v 63 32 * 2 ^ 32 + bitsOf v 30 0)
  | 12 => (f32to64 (v.extractLsb' 0 32)).zeroExtend 240
  | 13 => exactOf (v.extractLsb' 0 32)
  | 14 => BitVec.ofNat 240 (bitsOf v 30 0)
  | _ => v.zeroExtend 240

/-- The pair with the larger value, and at equal values the smaller tag (R175). -/
def pairMax (a b : W64) : W64 :=
  let ka := f32Key (a.extractLsb' 0 32)
  let kb := f32Key (b.extractLsb' 0 32)
  if ka > kb then a else if kb > ka then b else if bitsOf a 63 32 ≤ bitsOf b 63 32 then a else b

/-- Combine two carried values of a lane (Table 8.3, R175, R176, R178). -/
def laneCombine (d : W32) (x y : BitVec 240) : BitVec 240 :=
  let a : W64 := x.extractLsb' 0 64
  let b : W64 := y.extractLsb' 0 64
  let w (r : W64) : BitVec 240 := r.zeroExtend 240
  match laneOp d with
  | 0 => w (a + b)
  | 1 => w (BitVec.ofNat 64 ((if a.msb || b.msb then 2 ^ 63 else 0) + (a.toNat % 2 ^ 63 + b.toNat % 2 ^ 63) % 2 ^ 63))
  | 2 => if a.toNat ≥ b.toNat then w a else w b
  | 3 => if a.toNat ≤ b.toNat then w a else w b
  | 4 => if signedOf 64 a.toNat ≥ signedOf 64 b.toNat then w a else w b
  | 5 => if signedOf 64 a.toNat ≤ signedOf 64 b.toNat then w a else w b
  | 6 => w (a ||| b)
  | 7 => w (a &&& b)
  | 8 => w (a ^^^ b)
  | 9 => w (a + b)
  | 10 => w (pairMax a b)
  | 11 => w (pairMax a b)
  | 12 => w (f64Add a b)
  | 13 => ((x.extractLsb' 236 4 ||| y.extractLsb' 236 4) ++ (x.extractLsb' 0 236 + y.extractLsb' 0 236 : BitVec 236)).setWidth 240
  | 14 => w (pairMax a b)
  | _ => w a

/-- The pair (hi, lo) of SUM_F32_EXACT and its lane flag (R177, Table 8.3). -/
def exactResult (x : BitVec 240) : W64 × Bool :=
  let nan := x.getLsbD 239
  let pinf := x.getLsbD 238
  let ninf := x.getLsbD 237
  let bad := nan || pinf || ninf || x.getLsbD 236
  if nan || (pinf && ninf) then (0x7FC00000#64, true)
  else if pinf then (0x7F800000#64, true)
  else if ninf then (0xFF800000#64, true)
  else
    let v : Int := signedOf 236 (x.toNat % 2 ^ 236) * 2 ^ 66
    let hi := roundF32 v
    if f32Finite hi then (roundF32 (v - f32Int hi) ++ hi, bad) else (hi.zeroExtend 64, true)

/-- The code and flag of SCALE_E8 (R179). -/
def scaleResult (d : W32) (a : W32) : W64 × Bool :=
  let out (code : Nat) (fl : Bool) : W64 × Bool := (a ++ BitVec.ofNat 32 code, fl)
  if bitsOf a 30 23 = 255 then out 0xFF true
  else if a = 0 then out 0x7F false
  else
    let e : Int := if bitsOf a 30 23 = 0 then (Nat.log2 (bitsOf a 22 0) : Int) - 149 else (bitsOf a 30 23 : Int) - 127
    let sc := e - (bitsOf d 19 16 : Int) + (bitsOf d 23 20 : Int)
    if sc < -127 then out 0 true else if sc > 127 then out 254 true else out (sc + 127).toNat false

/-- A lane's 64-bit result and its lane flag (Table 8.3). -/
def laneResult (d : W32) (x : BitVec 240) : W64 × Bool :=
  let a : W64 := x.extractLsb' 0 64
  match laneOp d with
  | 1 => ((a.extractLsb' 0 63).signExtend 64, a.msb)
  | 10 => (a, f32Nan (a.extractLsb' 0 32))
  | 11 => (a, f32Nan (a.extractLsb' 0 32))
  | 12 => (a, decide (bitsOf a 62 52 = 2047))
  | 13 => exactResult x
  | 14 => scaleResult d (a.extractLsb' 0 32)
  | _ => (a, false)

/-- The empty carried values of a recipe's lanes. -/
def lanesEmpty (ds : List W32) : List (BitVec 240) := ds.map laneEmpty

/-- Combine two partials lane by lane. -/
def lanesCombine (ds : List W32) (x y : List (BitVec 240)) : List (BitVec 240) :=
  (ds.zip (x.zip y)).map (fun p => laneCombine p.1 p.2.1 p.2.2)

/-- The carried values of one input. -/
def lanesInput (ds : List W32) (v : List W64) : List (BitVec 240) :=
  ds.zipIdx.map (fun p => laneInput p.1 (v.getD p.2 0))

/-- Results of all lanes. -/
def lanesResult (ds : List W32) (x : List (BitVec 240)) : List W64 := (ds.zip x).map (fun p => (laneResult p.1 p.2).1)

/-- LFLAG: bit i is the flag of lane i (R181). -/
def lanesFlags (ds : List W32) (x : List (BitVec 240)) : W16 :=
  ((ds.zip x).zipIdx).foldl (fun a p => if (laneResult p.1.1 p.1.2).2 then setBit a p.2 else a) 0

/-- Do two partials agree in every lane other than SUM_F32_FAST (R187, R191)? -/
def lanesAgree (ds : List W32) (x y : List (BitVec 240)) : Bool :=
  (ds.zip (x.zip y)).all (fun p => laneOp p.1 == 12 || p.2.1 == p.2.2)

/-- Index of the first lane with a role, if any. -/
def laneWithRole (ds : List W32) (r : Nat) : Option Nat := ds.findIdx? (fun d => laneRole d == r)

end Sys2Proof.Machine
end

