-- ==== Sys2Proof/Machine/Msg.lean ====
section
/-! DEFINITION. The messages a node sends, as tokens (Tables 3.6 to 3.8, R180, R181). -/

namespace Sys2Proof.Machine

/-- LINK-CTL with SUB 0 HELLO or 1 BAR (Table 3.6). -/
def linkCtlTok (sub : Nat) (h : LinkCtl) : W64 :=
  tok 0x01 0 (packBody [(4, sub), (2, h.role.toNat), (1, domIdx h.dom), (1, match h.kind with | .leaf => 0 | .mary => 1),
    (20, h.nodeId.toNat), (3, h.bar.toNat), (8, h.rseqExp.toNat), (1, b01 h.fixlat), (1, b01 h.ack), (7, 0)])

/-- LINK-ACK (Table 3.6). -/
def linkAckTok (nak : Bool) (rseq : Byte) : W64 := tok 0x02 0 (packBody [(1, b01 nak), (8, rseq.toNat), (39, 0)])
/-- DELAY-PROBE (Table 3.6). -/
def probeTok (id : Byte) : W64 := tok 0x08 0 (packBody [(8, id.toNat), (40, 0)])
/-- DELAY-ECHO (Table 3.6). -/
def echoTok (id : Byte) (turn : Nat) : W64 := tok 0x09 0 (packBody [(8, id.toNat), (8, 0), (32, turn)])
/-- TIME-ANNOUNCE (Table 3.6). -/
def announceTok (acount : Nat) : W64 := tok 0x0A 0 (packBody [(48, acount)])
/-- ARM (Table 3.7). -/
def armTok (sd : Sd) (gen : Gen) (batch : Batch) : W64 :=
  tok 0x10 0 (packBody [(12, sd.toNat), (16, gen.toNat), (16, batch.toNat), (4, 0)])
/-- THROTTLE (Table 3.7). -/
def throttleTok (level : BitVec 3) (cap : Bool) (tseq : Byte) (eff : W32) : W64 :=
  tok 0x11 0 (packBody [(3, level.toNat), (1, b01 cap), (8, tseq.toNat), (4, 0), (32, eff.toNat)])

/-- A bit stream cut into bodies of 48 bits: stream bit s is bit s mod 48 of body s / 48 (R180). -/
def streamBodies (bits stream : Nat) : List Body :=
  (List.range ((bits + 47) / 48)).map (fun i => BitVec.ofNat 48 (stream / 2 ^ (48 * i)))

/-- A stream of values of `w` bits, the first in the lowest bits. -/
def streamOf (w : Nat) (vs : List Nat) : Nat := (vs.zipIdx).foldl (fun a p => a + p.1 % 2 ^ w * 2 ^ (w * p.2)) 0

/-- The up stream of a HOOP-UP (R180): lanes that are not EXACT, padding, then the EXACT lanes. -/
def upStream (ds : List W32) (vs : List (BitVec 240)) : List Body :=
  let ps := ds.zip vs
  let plain := (ps.filter (fun p => !laneExact p.1)).map (fun p => p.2.toNat)
  streamBodies (64 * plain.length) (streamOf 64 plain) ++
    (ps.filter (fun p => laneExact p.1)).flatMap (fun p => streamBodies 240 p.2.toNat)

/-- A window index as the body of a WIN or CUT token (R180, R181): [55:32] of the token. -/
def winBody (w : BitVec 24) : Body := packBody [(24, w.toNat), (24, 0)]

/-- A HOOP-UP message (Table 3.7, R180, R182). -/
def hoopUpToks (ds : List W32) (m : HoopUp) : Tokens :=
  message 0x12 0x14
    (packBody [(12, m.sd.toNat), (16, m.hoopId.toNat), (16, m.gen.toNat), (1, b01 m.missed), (1, b01 m.incomplete), (1, b01 m.xtree), (1, 0)]
      :: (m.win.map winBody).toList ++ (if m.missed || m.incomplete then [] else upStream ds m.lanes))

/-- A HOOP-DOWN message (Table 3.7, R181). -/
def hoopDownToks (m : HoopDown) : Tokens :=
  message 0x13 0x14
    (packBody [(12, m.sd.toNat), (16, m.hoopId.toNat), (16, m.gen.toNat), (3, m.outcome.toNat), (1, b01 m.aligned)]
      :: packBody [(3, m.verdict.toNat), (20, m.dest.toNat), (1, b01 m.all), (24, m.relNs.toNat)]
      :: (m.cut.map winBody).toList
      ++ (if m.lanes = [] then []
          else streamBodies (64 * m.lanes.length + 16)
            (streamOf 64 (m.lanes.map BitVec.toNat) + m.lflag.toNat * 2 ^ (64 * m.lanes.length))))

/-- The routing head of a C2 message (R58). -/
def c2Head (h : C2Head) : Body := packBody [(12, h.sd.toNat), (20, h.dest.toNat), (1, b01 h.all), (15, 0)]

/-- PRICK-INSTALL (Table 3.8). -/
def installToks (m : InstallMsg) : Tokens :=
  message 0x20 0x20 (c2Head m.head :: packBody [(16, m.head.gen.toNat), (16, m.batch.toNat), (16, 0)] ::
    (pieces 48 6 (m.image.toNat * 2 ^ 32)).map (BitVec.ofNat 48))

/-- NIMG of a recipe with n lanes (R172). -/
def nimgOf (n : Nat) : Nat := (36 + 4 * n + 5) / 6

/-- The recipe image as a number of NIMG x 6 bytes, zero padded (R172). -/
def recipeImage (common : BitVec 288) (lanes : List W32) : Nat :=
  (lanes.foldl (fun a d => a * 2 ^ 32 + d.toNat) common.toNat) * 2 ^ (8 * (nimgOf lanes.length * 6 - 36 - 4 * lanes.length))

/-- HOOP-RECIPE (Table 3.8). -/
def recipeToks (m : RecipeMsg) : Tokens :=
  let n := nimgOf m.lanes.length
  message 0x21 0x21 (c2Head m.head :: packBody [(16, m.head.gen.toNat), (16, m.hoopId.toNat), (8, n), (8, 0)] ::
    (pieces 48 n (recipeImage m.common m.lanes)).map (BitVec.ofNat 48))

/-- BIND (Table 3.8). -/
def bindToks (m : BindMsg) : Tokens :=
  message 0x22 0x22 [c2Head m.head,
    packBody [(16, m.head.gen.toNat), (20, m.rank.toNat), (1, b01 m.unbind), (1, b01 m.cnt), (10, 0)]]

/-- KEY (Table 3.8). -/
def keyToks (m : KeyMsg) : Tokens :=
  message 0x23 0x23 (c2Head m.head :: packBody [(16, m.head.gen.toNat), (32, 0)] ::
    (pieces 48 3 (m.key.toNat * 2 ^ 16)).map (BitVec.ofNat 48))

/-- REG-TUNNEL (Table 3.8). -/
def tunnelToks (resp : Bool) (m : TunnelMsg) : Tokens :=
  message 0x30 0x30 [packBody [(1, b01 resp), (1, b01 m.maryel), (1, b01 m.write), (4, m.status.toNat), (20, m.nodeId.toNat),
    (20, m.addr.toNat), (1, 0)], packBody [(32, m.data.toNat), (16, m.tag.toNat)]]

/-- TELEMETRY (Table 3.8). -/
def teleToks (r : TeleRec) : Tokens :=
  message 0x31 0x31 (packBody [(6, r.kind.toNat), (20, r.src.toNat), (1, b01 r.maryel), (21, 0)] :: r.data)

end Sys2Proof.Machine
end

