-- ==== Sys2Proof/Config.lean ====
section
/-! DEFINITION. What production test, the board and the outside fix, and the free values: constants without a body, so that no
proof can lean on a value of one. Every entry is named in the assumption log (rows 4 and 5). -/

namespace Sys2Proof.Config

/-- RCLASS of a node (Table 17.2, fused). -/
opaque rclass : NodeSel → W16
/-- STEPPING of the leaf (Table 17.2, fused). -/
opaque leafStepping : W16
/-- XFORM of the leaf, bit n for cell n (Table 17.2, fused). -/
opaque xform : BitVec 6
/-- CHIP_UID of the Maryel (Table 18.4, fused). -/
opaque chipUid : W64
/-- GRADE: false H, true E (R304, fused). -/
opaque gradeE : Bool
/-- MAC_ADDR of a 1588 port (Table 18.10, fused). -/
opaque macAddr : Fin 2 → BitVec 48
/-- offsetScaledLogVariance of the Maryel's own clock, which no register gives (R330). -/
opaque ptpVariance : W16
/-- The production transmit latency of a cell, 2^-16 ns (R100). -/
opaque txLat : NodeSel → Nat → Nat
/-- CAL_SKEW of a channel: node, channel or group (R82, fused), signed 2^-16 ns. -/
opaque calSkew : NodeSel → Nat → Int
/-- P[c] of the fused table of a channel by node, channel or group, and code, in 2^-16 ns (R81). -/
opaque fusedTap : NodeSel → Nat → Nat → Nat
/-- Does a signature verify: the content, the signature and the hash of the signing key (R293, R299, R302). -/
opaque signatureOk : List Byte → List Byte → Nat → Bool
/-- SHA-384 of a byte string (FIPS 180-4), of which the spec uses only whether two values are equal (Table 13.5). -/
opaque sha384 : List Byte → BitVec 384
/-- TEMP_C of the Maryel (Table 18.4): a measurement. -/
opaque tempC : Nat → Byte
/-- The error bits and the compared bits that the pattern checker counts between two observations (R77). -/
opaque prbs : Nat → Nat × Nat
/-- The pins' share of the latency from a cell to a cell, in 2^-8 ns (R68, Table 3.10). -/
opaque pinLat : NodeSel → Nat → Nat → Nat
/-- The register of a cell's pattern generator at entry to TEST, whose phase R77 leaves open. -/
opaque prbsSeed : NodeSel → Nat → BitVec 31
/-- The port latency of R68 from a cell to a cell outside fixed-latency mode, in 2^-8 ns: the fewest cycles available. -/
opaque portLat : NodeSel → Nat → Nat → W16
/-- Is the follower root LOCKED on CROSS with CONV set, which no message tells the leader (R325; log 98)? -/
opaque farTied : Nat → Bool
/-- The period of the receive clock of SYNCE_k in 2^-16 ns, which the spec does not give (R308; log 55). -/
opaque syncePeriod : Nat → Nat
/-- The ingress latency of a 1588 port, fused at test, in 2^-16 ns (R330; log 4). -/
opaque ptpIngress : Nat → Nat
/-- The egress latency of a 1588 port, fused at test, in 2^-16 ns (R330; log 4). -/
opaque ptpEgress : Nat → Nat
/-- GUARD_ADD and DEADLINE_ADD of the other root's tree, in ns, which no message carries between the roots (R114, log 98). -/
opaque farGuardAdd : Nat → Nat
/-- See farGuardAdd. -/
opaque farDeadlineAdd : Nat → Nat
/-- A free value of a given width: an open value of the spec (assumption log 3). -/
opaque freeBits : (w : Nat) → Nat → BitVec w

end Sys2Proof.Config
end

