-- ==== Sys2Proof/Machine/Time.lean ====
section
/-! DEFINITION. The time core (chapter 02): correction sets, the domain machine of Table 2.2, the tracking loop, racking and folds,
holdover, snapshots, and the commands of the time page. -/

namespace Sys2Proof.Machine

/-! ## Correction sets and the read path -/

/-- The read path follows domain `d`, or folds towards it (R31). -/
def TimeCore.isActive (t : TimeCore) (d : Dom) : Bool := !t.noht && decide (t.active = d)

/-- A domain takes a correction set; the read path follows it as an alias, or re-anchors with its fold's slope (R34). -/
def TimeCore.putSet (t : TimeCore) (d : Dom) (c : CorrSet) : TimeCore :=
  let t1 := t.modDom d (fun x => x.stepTo t.rc c)
  if !t.isActive d || (t.dom d).reacq then t1
  else match t.fold with
    | none => { t1 with read := c }
    | some f => { t1 with read := t.read.reanchor t.rc (BitVec.ofInt 48 ((c.rate.toNat : Int) - f.b)) }

/-- K of a domain changes at the present edge, re-anchoring exactly (R24); the line up to that edge is kept for stamps of earlier edges (R28). -/
def TimeCore.putK (t : TimeCore) (d : Dom) (k : BitVec 48) : TimeCore :=
  let x := t.dom d
  (t.putSet d (x.set.reanchor t.rc k)).modDom d (fun y =>
    if k = x.set.rate then { y with prev := x.prev, kAt := x.kAt } else { y with prev := x.set })

/-- Does a domain have HT: it is in TRACK, HOLD or LOST (R355)? -/
def TimeCore.hasHt (t : TimeCore) (d : Dom) : Bool := decide ((t.dom d).st = .track ∨ (t.dom d).st = .hold ∨ (t.dom d).st = .lost)

/-- The fold that racking to `y` at the present edge sets up: d_fold, n_fold and b (R34). -/
def TimeCore.foldTo (t : TimeCore) (y : Dom) : Fold :=
  let d : Int := (t.read.at_ t.rc : Int) - ((t.dom y).set.at_ t.rc : Int)
  let n := 2 ^ 16 * max 1 ((d.natAbs + nsTu - 1) / nsTu)
  { dFold := d, n := n, b := truncDiv d n, start := t.rc, dom := y }

/-- Racking to `y` at the present edge (R33, R34): the read path keeps its value and slopes towards `y`; the PLL moves to the new
active UP port (Table 2.3) unless the leaf is an island root (R39). -/
def TimeCore.rackTo (t : TimeCore) (island : Bool) (y : Dom) : TimeCore :=
  let f := t.foldTo y
  { (t.modDom t.active (fun x => { x with reacq := false })) with
    read := t.read.reanchor t.rc (BitVec.ofInt 48 (((t.dom y).set.rate.toNat : Int) - f.b)),
    active := y, fold := some f, pll := if island then t.pll else .up y, frozen := false, tclk := t.tclk || !island, pllAt := t.rc,
    rackReq := none, rackDue := false }

/-- A port cell with the UP role of the domain is in HELLO or a later state (R75). -/
def State.domAligned (s : State) (k : NodeSel) (d : Dom) : Bool :=
  (s.cellsWith k (fun c => decide (c.cfg.role = 1 ∧ c.cfg.dom = d ∧
    (c.ts = .hello ∨ c.ts = .delay ∨ c.ts = .active)))) != []

/-- A port cell holds the domain's UP role. -/
def State.hasUpRole (s : State) (k : NodeSel) (d : Dom) : Bool :=
  (s.cellsWith k (fun c => decide (c.cfg.role = 1 ∧ c.cfg.dom = d))) != []

/-- O, K and integrator of a domain cleared, in a given state (Table 2.2). -/
def DomCore.clear (x : DomCore) (st : DomState) : DomCore :=
  { x with st := st, set := .cleared, prev := .cleared, kAcq := 0, integ := 0, overX := 0, seed := none, kPend := none, accRun := 0, convRun := 0 }

/-- The state a cleared domain goes to: ACQUIRE when its UP port has frame alignment, else SEEK. -/
def State.acqOrSeek (s : State) (k : NodeSel) (d : Dom) : DomState := if s.domAligned k d then .acquire else .seek

/-- LOST and not active: clear, count DOM_REACQ_CNT, reacquire (Table 2.2). -/
def State.reacquire (s : State) (k : NodeSel) (d : Dom) : State :=
  (s.modDom k d (fun x => x.clear (s.acqOrSeek k d))).bump k (tOff k 0x120C)

/-- Racking, with what it means for the domain left behind if that is LOST (Table 2.2). -/
def State.rack (s : State) (k : NodeSel) (y : Dom) : State :=
  let old := (s.time k).active
  let s1 := s.modTime k (fun t => t.rackTo (s.cfg k).island y)
  if ((s.time k).dom old).st = .lost then s1.reacquire k old else s1

/-- A domain becomes LOST and raises STEP_NEEDED; active, it asks for racking where the other domain is in TRACK (Table 2.2). -/
def State.loseDomain (s : State) (k : NodeSel) (d : Dom) : State :=
  let s1 := (s.modDom k d (fun x => { x with st := .lost })).raiseTime k (2 + domIdx d)
  if (s.time k).isActive d then
    if ((s.time k).dom (otherDom d)).st = .track then s1.modTime k (fun t => { t with rackDue := true }) else s1
  else s1.reacquire k d

/-- A domain enters TRACK: NOHT ends with the first of them (R354), and an active LOST domain racks to it (Table 2.2). -/
def State.enterTrack (s : State) (k : NodeSel) (d : Dom) : State :=
  let s1 := s.modDom k d (fun x => { x with st := .track, accRun := 0, convRun := 0 })
  s1.modTime k (fun t =>
    if t.noht then { t with noht := false, active := d, fold := none, read := (t.dom d).set }
    else if t.active = otherDom d ∧ (t.dom (otherDom d)).st = .lost then { t with rackDue := true } else t)

/-! ## Alignment gained and lost (Table 2.2, R25, R38) -/

/-- Frame alignment gained on the UP port: SEEK becomes ACQUIRE; holdover ends and the PLL takes the port's clock (R38). -/
def State.domGained (s : State) (k : NodeSel) (d : Dom) : State :=
  let s1 := s.modDom k d (fun x => if x.st = .seek then { x with st := .acquire } else x)
  if (s.cfg k).island then s1
  else s1.modTime k (fun t =>
    if t.holdover then { t with holdover := false, holdNs := t.holdNs + (t.rc - t.holdStart) * 2, pll := .up d, frozen := false, tclk := true,
                                 pllAt := t.rc }
    else if t.pll = .refclk then { t with pll := .up d, frozen := false, tclk := true, pllAt := t.rc } else t)

/-- Frame alignment lost on the UP port of a domain (Table 2.2): ACQUIRE returns to SEEK and its seed ends, TRACK freezes K and goes
to HOLD, an active domain asks for racking; the PLL freezes (R25); with no UP port left the node enters holdover (R38). -/
def State.domLostAlign (s : State) (k : NodeSel) (d : Dom) : State :=
  let t := s.time k
  let s1 := s.modDom k d (fun x =>
    if x.st = .acquire then { x with st := .seek, seed := none }
    else if x.st = .track then { x with st := .hold, holdSince := t.rc, kPend := none } else x)
  let s2 := if (t.dom d).st = .track && t.isActive d then s1.modTime k (fun t => { t with rackDue := true }) else s1
  let s3 := s2.modTime k (fun t => if t.pll = .up d then { t with frozen := true, pllAt := t.rc } else t)
  if (s.cfg k).island || s3.domAligned k .a || s3.domAligned k .b || t.holdover then s3
  else (s3.modTime k (fun t => { t with holdover := true, holdStart := t.rc, pll := .refclk, frozen := false, tclk := t.refclk,
                                        pllAt := t.rc, rackDue := false,
                                        domA := { t.domA with kPend := none }, domB := { t.domB with kPend := none } })).raiseTime k 5

/-! ## Measurements (R29) -/

/-- STEP_LIMIT in effect for a domain, in 2^-40 ns. -/
def State.stepLimit (s : State) (k : NodeSel) (d : Dom) : Nat := s.effFldD k d (tOff k 0x1104) 8 0 * 1000 * nsTu

/-- DOM_K_OVR in effect for a domain (Table 2.5). -/
def State.kOvr (s : State) (k : NodeSel) (d : Dom) : Option (BitVec 48) :=
  let off := tOff k (0x1110 + 8 * domIdx d)
  if (s.effRegD k d (off + 4)).getLsbD 31 then some ((s.effRegD k d (off + 4)).extractLsb' 0 16 ++ s.effRegD k d off) else none

/-- The loop's arithmetic on an accepted measurement (R29): integrator, then K, clamped and counted (R27), pending for the next
picot (R30). -/
def State.loopUpdate (s : State) (k : NodeSel) (d : Dom) (e : Int) : State :=
  let x := (s.time k).dom d
  let li := s.effFldD k d (tOff k 0x1100) 5 0
  let lp := s.effFldD k d (tOff k 0x1100) 12 8
  let i := satSigned 96 (x.integ - e * 2 ^ (44 - li))
  let kc := clampK ((x.kAcq.toNat : Int) + i / 2 ^ 44 - e / 2 ^ lp)
  (s.modDom k d (fun x => { x with integ := i, kPend := some kc.1 })).bumpIf kc.2 k (tOff k (0x1200 + 4 * domIdx d))

/-- CONV_E in effect for a domain, in 2^-40 ns: 1 ps is 2^40 / 1000 (R106). -/
def State.convE (s : State) (k : NodeSel) (d : Dom) : Nat := s.effFldD k d (tOff k 0x1134) 9 0 * nsTu / 1000

/-- The runs of R106: accepted measurements since TRACK, and how many in a row had |e| within CONV_E. -/
def DomCore.noteConv (x : DomCore) (lim : Nat) (e : Int) : DomCore :=
  { x with accRun := x.accRun + 1, convRun := if e.natAbs ≤ lim then x.convRun + 1 else 0 }

/-- An accepted picot measurement with phase error `e` in 2^-40 ns (R29, Table 2.2). -/
def State.measured (s : State) (k : NodeSel) (d : Dom) (e : Int) : State :=
  let s1 := s.modDom k d (fun x => { x.noteConv (s.convE k d) e with err := BitVec.ofInt 32 (satSigned 32 (e / 2 ^ 24)) })
  let x := (s.time k).dom d
  let lim := s.stepLimit k d
  match x.st with
  | .track =>
    if (s.kOvr k d).isSome then s1
    else if e.natAbs ≤ lim then (s1.modDom k d (fun x => { x with overX := 0 })).loopUpdate k d e
    else
      let s2 := s1.modDom k d (fun x => { x with overX := x.overX + 1 })
      if x.overX + 1 ≥ 16 then s2.loseDomain k d else s2
  | .hold =>
    if !s.domAligned k d then s1
    else if e.natAbs ≤ lim then ((s1.modDom k d (fun x => { x with overX := 0 })).loopUpdate k d e).enterTrack k d
    else s1.loseDomain k d
  | .lost => if (s.time k).isActive d then s1.loopUpdate k d e else s1
  | _ => s1

/-- TCLK has the rate of a domain's UP port: the PLL follows that port, is not frozen, and has had the 2^33 cycles in which a move of
0.05 ppm in each millisecond covers more than the ±300 ppm that two inputs may lie apart (R25). -/
def State.onPort (s : State) (k : NodeSel) (d : Dom) : Bool :=
  let t := s.time k
  decide (t.pll = .up d) && !t.frozen && decide ((t.rc - t.pllAt).toNat ≥ 2 ^ 33)

/-- Cycles of a port's receive clock in 2^20 TCLK cycles: exactly 2^20 while TCLK has that port's rate, else a measurement of the
outside (Table 2.2; the free value of log 5). -/
def State.rxCount (s : State) (k : NodeSel) (d : Dom) : Nat :=
  if s.onPort k d then 2 ^ 20 else (Config.freeBits 21 s.freeCtr).toNat

/-- The ACQUIRE step: O at the stamp's edge, K from the frequency count clamped under R27, the integrator cleared, DOM_ACQ raised,
TRACK entered; a reacquired active domain steps the read path (Table 2.2, R26, R32). -/
def State.acquireStep (s : State) (k : NodeSel) (d : Dom) (edge : W64) (off : Tu) : State :=
  let kc := clampK (((s.rxCount k d) * 2 ^ 21 : Nat) : Int)
  let c : CorrSet := { anchor := edge, off := off, rate := kc.1 }
  let steps := (s.time k).isActive d && ((s.time k).dom d).reacq
  let s0 := if s.onPort k d then s else s.takeFree.2
  let s1 := s0.modDom k d (fun x =>
    { x.stepTo edge c with kAcq := kc.1, integ := 0, overX := 0, seed := none, kPend := none, reacq := false, accRun := 0, convRun := 0 })
  let s2 := (s1.bumpIf kc.2 k (tOff k (0x1200 + 4 * domIdx d))).raiseTime k (domIdx d)
  let s3 := if steps then s2.modTime k (fun t => { t with read := c, fold := none }) else s2
  let s4 := s3.enterTrack k d
  if steps && decide (k = .leaf) then s4.readStep else s4

/-- A seed (R353): O from the announced HT, K nominal; it gives the domain no HT for any other purpose. -/
def State.seedDomain (s : State) (k : NodeSel) (d : Dom) (edge : W64) (off : Tu) : State :=
  s.modDom k d (fun x => { x with seed := some { anchor := edge, off := off, rate := nominalK } })

/-! ## Snapshots (R41) -/

/-- DOM_STATE code (R373). -/
def DomState.code : DomState → Nat
  | .off => 0
  | .seek => 1
  | .acquire => 2
  | .track => 3
  | .hold => 4
  | .lost => 5

/-- SEL_STATE's codes (Table 14.7). -/
def SelState.code : SelState → Nat
  | .freerun => 0
  | .acquire => 1
  | .locked => 2
  | .holdover => 3
  | .softloop => 4

/-- DOM_STATE of a domain (R373). At a Maryel the domain that its CHIP section does not name reads 0, and a root reports its selector by
the codes of Table 14.7 (R395). -/
def State.domCode (s : State) (k : NodeSel) (d : Dom) : Nat :=
  match k with
  | .leaf => ((s.time k).dom d).st.code
  | .mary =>
    if d ≠ (s.cfg k).dom then 0
    else if (s.cfg k).root then (if s.mary.silent then 7 else s.mary.sel.st.code)
    else ((s.time k).dom d).st.code

/-- TIME_STAT [31:25] as a 7-bit number (Table 17.4). -/
def State.timeFlags (s : State) (k : NodeSel) : Nat :=
  let t := s.time k
  b01 t.noht * 64 + b01 t.fold.isSome * 32 + (match t.fold with | some f => domIdx f.dom | none => 0) * 16 + domIdx t.active * 8
    + b01 t.holdover * 4 + b01 (s.cfg k).island * 2 + b01 t.conv

/-- The snapshot of R41 at the present edge. -/
def State.snapNow (s : State) (k : NodeSel) : Snap :=
  let t := s.time k
  { rc := t.rc, ht := htOf (s.ht k), htA := htOf (s.htDom k .a), htB := htOf (s.htDom k .b),
    stat := BitVec.ofNat 13 (s.timeFlags k + s.domCode k .a * 2 ^ 7 + s.domCode k .b * 2 ^ 10) }

/-- Take a snapshot that a host has not yet read. -/
def State.takeSnap (s : State) (k : NodeSel) : State := s.modTime k (fun t => { t with snap := s.snapNow k, snapUnread := true })

/-- SNAP_PICOT is set (R41). -/
def State.snapsPicots (s : State) (k : NodeSel) : Bool := (s.reg k (tOff k 0x1018)).getLsbD 1

/-- SNAP_PICOT at a picot of the read path: the snapshot replaces the last only once that has been read, else TIME_SNAP_LOST (R41). -/
def State.snapPicot (s : State) (k : NodeSel) : State :=
  if !s.snapsPicots k then s
  else if (s.time k).snapUnread then s.bump k (tOff k 0x1210) else s.takeSnap k

/-- Is a region port gated off by its own gate, its group's, or LEAF's (R133)? -/
def State.gated (s : State) (p : Nat) : Bool :=
  let g := s.leaf.gate.off
  g.getLsbD p || g.getLsbD (16 + p / 4) || g.getLsbD 20

/-- A picot of the read path falls due at the region ports, at the first edge at or after its HT; during a fold that edge may lie ahead of, or
behind, the picot of the active domain (log 113). A port at which the last picot has not landed has missed its anchor (R118, R124). -/
def State.portsPicot (s : State) : State :=
  let t := s.time .leaf
  let due := t.read.edgeOf t.rc ((t.read.at_ t.rc + 512 * nsTu) / (1024 * nsTu) * (1024 * nsTu))
  s.each (List.range 16) (fun s p =>
    if s.gated p then s
    else s.modRegion p (fun r => { r with picotDue := some due, anchor := if r.picotDue.isSome then none else r.anchor }))

/-- A picot of the read path, each of which is judged once: its snapshot, and at a leaf its landing falls due (R41, R118). A picot of the other
domain within 256 cycles is the same picot of a read path that has just racked. -/
def State.readPicot (s : State) (k : NodeSel) : State :=
  let t := s.time k
  if match t.picotAt with | some r => decide ((t.rc - r).toNat < 256) | none => false then s
  else
    let s1 := (s.modTime k (fun t => { t with picotAt := some t.rc })).snapPicot k
    match k with
    | .leaf => s1.portsPicot
    | .mary => s1

/-- SNAP_GO: a snapshot at the present edge. With SNAP_PICOT set the picots alone take snapshots (R41). -/
def opSnapGo (k : NodeSel) (s : State) : State := if s.snapsPicots k then s else s.takeSnap k

/-! ## The commands of the time page -/

/-- REANCHOR: every correction set re-anchors exactly at the present edge with its K unchanged (R24). -/
def TimeCore.reanchorAll (t : TimeCore) : TimeCore :=
  { t with
    domA := { t.domA with set := t.domA.set.reanchor t.rc t.domA.set.rate },
    domB := { t.domB with set := t.domB.set.reanchor t.rc t.domB.set.rate },
    read := t.read.reanchor t.rc t.read.rate }

/-- REANCHOR at a node (R24). -/
def opReanchor (k : NodeSel) (s : State) : State := s.modTime k TimeCore.reanchorAll

/-- DOM_EN set for one domain: OFF becomes SEEK when a cell holds its UP role, and ACQUIRE when that port is aligned already
(Table 2.2). -/
def State.domStart (s : State) (k : NodeSel) (d : Dom) : State :=
  let t := s.time k
  if (t.dom d).st = .off ∧ s.hasUpRole k d then
    s.modTime k (fun t => { t.modDom d (fun x => { x with st := s.acqOrSeek k d }) with
      onSince := if (t.dom (otherDom d)).st = .off then t.rc else t.onSince })
  else s

/-- DOM_EN of a domain as written. -/
def State.domEnabled (s : State) (k : NodeSel) (d : Dom) : Bool := (s.reg k (tOff k 0x1004)).getLsbD (domIdx d)

/-- The bit of DOM_EN of one domain becomes `b`. -/
def State.setDomEn (s : State) (k : NodeSel) (d : Dom) (b : Bool) : State :=
  let r := s.reg k (tOff k 0x1004)
  s.setReg k (tOff k 0x1004) (if b then setBit r (domIdx d) else clrBit r (domIdx d))

/-- DOM_EN written for one domain (Table 2.2). A 0 clears a domain that is not OFF whether or not its bit was 1 before, an island root's domains
among them; the racking of an active domain that is cleared follows neither AB_LIMIT nor AB_WIDE, and clears the domain without a count
in DOM_REACQ_CNT (log 111). -/
def opDomEn1 (k : NodeSel) (d : Dom) (b : Bool) (s : State) : State :=
  if b then (s.setDomEn k d true).domStart k d
  else if !s.domEnabled k d && decide (((s.time k).dom d).st = .off) then s
  else if (s.time k).isActive d then
    if ((s.time k).dom (otherDom d)).st = .track ∧ k = .leaf then
      ((s.modTime k (fun t => t.rackTo (s.cfg k).island (otherDom d))).modDom k d (fun x => x.clear .off)).setDomEn k d false
    else s.refuse k (offTimeRefused k)
  else (s.modDom k d (fun x => x.clear .off)).setDomEn k d false

/-- DOM_EN: domain A, then domain B (Table 2.2). At a Maryel only the domain of its CHIP section exists (R395). -/
def opDomEn (k : NodeSel) (v : BitVec 2) (s : State) : State :=
  match k with
  | .leaf => opDomEn1 k .b (v.getLsbD 1) (opDomEn1 k .a (v.getLsbD 0) s)
  | .mary => if (s.cfg k).root then s.setReg k (tOff k 0x1004) (v.zeroExtend 32)
    else opDomEn1 k (s.cfg k).dom (v.getLsbD (domIdx (s.cfg k).dom)) s

/-- AB_LIMIT in 2^-40 ns. -/
def State.abLimit (s : State) (k : NodeSel) : Nat := s.effFld k (tOff k 0x110C) 9 0 * nsTu

/-- The HT of the next multiple of 1,024 ns above the present HT of a set. -/
def CorrSet.nextPicot (c : CorrSet) (rc : W64) : Tu := (c.at_ rc / (1024 * nsTu) + 1) * (1024 * nsTu)

/-- The three cases in which a planned racking is refused (R36). -/
def State.rackBad (s : State) (d : Dom) : Bool :=
  let t := s.time .leaf
  decide ((t.dom d).st ≠ .track) || t.isActive d || decide ((t.foldTo d).dFold.natAbs > s.abLimit .leaf)

/-- RACK_CMD: refused and counted when the target is not in TRACK, is already active, or |d_fold| exceeds AB_LIMIT (R36); accepted, it waits
for the next multiple of 1,024 ns of the read path (Table 2.3). -/
def opRackCmd (d : Dom) (s : State) : State :=
  if s.rackBad d then s.refuse .leaf (offTimeRefused .leaf)
  else s.modTime .leaf (fun t => { t with rackReq := some d, rackHt := t.read.nextPicot t.rc })

/-- A waiting planned racking at the present edge, once the read path has reached its multiple of 1,024 ns: the checks of R36 stand there, and the
fold is set up after the edge's K update (R37). -/
def State.rackDueNow (s : State) : State :=
  match (s.time .leaf).rackReq with
  | none => s
  | some d =>
    if s.ht .leaf < (s.time .leaf).rackHt then s
    else if s.rackBad d then (s.modTime .leaf (fun t => { t with rackReq := none })).bump .leaf (offTimeRefused .leaf)
    else s.rack .leaf d

/-- UNPLANNED_RACK: racking that a loss has made due, if the other domain is in TRACK; AB_WIDE when |d_fold| exceeds AB_LIMIT (R35,
R36). Where it is not, the leaf does not rack. -/
def opUnplannedRack (s : State) : State :=
  let t := s.time .leaf
  let y := otherDom t.active
  if !t.rackDue then s
  else if t.noht || decide ((t.dom y).st ≠ .track) then s.modTime .leaf (fun t => { t with rackDue := false })
  else
    let s1 := if (t.foldTo y).dFold.natAbs > s.abLimit .leaf then s.raiseTime .leaf 6 else s
    s1.rack .leaf y

/-- FOLD_COMPLETE: n_fold cycles after the racking edge the read path becomes an alias of its domain (R34). -/
def opFoldComplete (s : State) : State :=
  match (s.time .leaf).fold with
  | none => s
  | some f => (s.advAfter .leaf f.start f.n).modTime .leaf (fun t => { t with fold := none, read := (t.dom f.dom).set })

/-- DOM_REACQ: acts on the active LOST domain only; the read path keeps its set until the ACQUIRE step (R32). A root refuses it
(R395). -/
def opDomReacq (k : NodeSel) (d : Dom) (s : State) : State :=
  let t := s.time k
  if !t.isActive d || decide ((t.dom d).st ≠ .lost) || (decide (k = .mary) && (s.cfg k).root) then s.refuse k (offTimeRefused k)
  else s.modTime k (fun t =>
    { (t.modDom d (fun x => { x.clear (s.acqOrSeek k d) with reacq := true })) with fold := none })

/-- The bound of R56: 2^68 ns since the epoch. -/
def htBound : Nat := 2 ^ 68

/-- HT_SET: only at an island root, with a nanoseconds field in range and below the bound of R56; O of both domains is set; a write
after the first is a read-path step (R32, R39, R42). -/
def opHtSet (v : Ht96) (s : State) : State :=
  if !(s.cfg .leaf).island || decide (htNs v > 999999999) || decide (tuNs (tuOfHt v) ≥ htBound) then s.refuse .leaf (offTimeRefused .leaf)
  else
    let s1 := s.modTime .leaf (fun t =>
      let c (k : BitVec 48) : CorrSet := { anchor := t.rc, off := tuOfHt v, rate := k }
      { t with domA := t.domA.stepTo t.rc (c t.domA.set.rate), domB := t.domB.stepTo t.rc (c t.domB.set.rate),
               read := c (t.dom t.active).set.rate, fold := none, htSetDone := true, picotAt := none })
    if (s.time .leaf).htSetDone then s1.readStep else s1

/-- ISLAND_K: only at an island root; a K outside Table 2.1 is refused; K of both domains changes together, at their
next picot, since no domain changes K more than once a picot (R30, R39, R42). -/
def opIslandK (kk : BitVec 48) (s : State) : State :=
  if !(s.cfg .leaf).island || decide (kk.toNat < kMin) || decide (kk.toNat > kMax) then s.refuse .leaf (offTimeRefused .leaf)
  else s.modTime .leaf (fun t => { t with domA := { t.domA with kPend := some kk }, domB := { t.domB with kPend := some kk } })

/-- HOLD_LIMIT_EXPIRY: HOLD_LIMIT after entry to HOLD the domain raises STEP_NEEDED and becomes LOST (Table 2.2). -/
def opHoldLimit (k : NodeSel) (d : Dom) (s : State) : State :=
  let x := (s.time k).dom d
  if x.st ≠ .hold then s
  else (s.advAfter k x.holdSince (s.effFldD k d (tOff k 0x1108) 15 0 * cyclesMs)).loseDomain k d

/-- REANCHOR. -/
def execReanchor (n : NodeSel) (s : State) : Host.Outcome State Fault Refusal := .next (s.live n (opReanchor n))
/-- DOM_EN. -/
def execDomEn (n : NodeSel) (src : Src) (v : BitVec 2) (s : State) : Host.Outcome State Fault Refusal :=
  .next (s.accessC n src (tOff n 0x1004) (opDomEn n v))
/-- RACK_CMD. -/
def execRackCmd (src : Src) (d : Dom) (s : State) : Host.Outcome State Fault Refusal := .next (s.access .leaf src 0x1008 (opRackCmd d))
/-- UNPLANNED_RACK. -/
def execUnplannedRack (s : State) : Host.Outcome State Fault Refusal := .next (s.liveC .leaf opUnplannedRack)
/-- FOLD_COMPLETE. -/
def execFoldComplete (s : State) : Host.Outcome State Fault Refusal := .next (s.live .leaf opFoldComplete)
/-- DOM_REACQ. -/
def execDomReacq (n : NodeSel) (src : Src) (d : Dom) (s : State) : Host.Outcome State Fault Refusal :=
  .next (s.accessC n src (tOff n 0x100C) (opDomReacq n d))
/-- ISLAND_K. -/
def execIslandK (src : Src) (k : BitVec 48) (s : State) : Host.Outcome State Fault Refusal :=
  .next (s.access .leaf src 0x1074 (opIslandK k))
/-- HOLD_LIMIT_EXPIRY. -/
def execHoldLimitExpiry (n : NodeSel) (d : Dom) (s : State) : Host.Outcome State Fault Refusal := .next (s.liveC n (opHoldLimit n d))
/-- SNAP_GO (R41). -/
def execSnapGo (n : NodeSel) (src : Src) (s : State) : Host.Outcome State Fault Refusal :=
  .next (s.access n src (tOff n 0x1018) (opSnapGo n))

end Sys2Proof.Machine
end

