-- ==== Sys2Proof/Machine/Route.lean ====
section
/-! DEFINITION. Routing and queueing: membership tables (R256, R361), the ports a message goes to (R59), and the queues of a cell
(R63, R73, R263); excision records and telemetry towards the root (R277, R278, R401). -/

namespace Sys2Proof.Machine

/-! ## Ports by role and membership -/

/-- DOWN cells of a domain (Table 13.4: ROLE 2). -/
def State.downCells (s : State) (k : NodeSel) (d : Dom) : List Nat := s.cellsWith k (fun c => decide (c.cfg.role = 2 ∧ c.cfg.dom = d))

/-- The UP cell of a domain. -/
def State.upCell (s : State) (k : NodeSel) (d : Dom) : Option Nat :=
  (s.cellsWith k (fun c => decide (c.cfg.role = 1 ∧ c.cfg.dom = d))).head?

/-- An UP port of a domain is ACTIVE. -/
def State.upActive (s : State) (k : NodeSel) (d : Dom) : Bool :=
  s.cellsWith k (fun c => decide (c.cfg.role = 1 ∧ c.cfg.dom = d ∧ c.ts = .active)) != []

/-- The CROSS cell of a root. -/
def State.crossCell (s : State) : Option Nat := (s.cellsWith .mary (fun c => decide (c.cfg.role = 3))).head?

/-- M(SD, p) (R256). -/
def State.membOf (s : State) (k : NodeSel) (sd : Sd) (p : Nat) : Nat := s.onNode k (fun N => (aget N.memb (sd, p)).getD 0)

/-- The SDs a node's membership table holds. -/
def State.membSds (s : State) (k : NodeSel) : List Sd := s.onNode k (fun N => (N.memb.map (fun e => e.1.1)).eraseDups)

/-- CUR_GEN of an SD (R255). -/
def State.curGenOf (s : State) (k : NodeSel) (sd : Sd) : Option Gen := s.onNode k (fun N => aget N.curGen sd)

/-- MEMB_VALID in force: it reads 1 at a root (R361, R398). -/
def State.membOk (s : State) (k : NodeSel) : Bool := s.isRoot k || s.onNode k (fun N => N.membValid)

/-- A 65th SD at a relaying leaf: its membership could not be kept (R256). -/
def State.membOver (s : State) (k : NodeSel) (sd : Sd) : Bool :=
  decide (k = .leaf) && (s.curGenOf k sd).isSome && decide (64 ≤ (s.membSds k).length) && !decide (sd ∈ s.membSds k)

/-- DOWN ports of a domain whose subtree holds a member of the SD; all of them while membership is not known (R59, R361). -/
def State.memberPorts (s : State) (k : NodeSel) (d : Dom) (sd : Sd) : List Nat :=
  (s.downCells k d).filter (fun p => !s.membOk k || s.membOver k sd || decide (s.membOf k sd p > 0))

/-- The DOWN ports whose subtree holds a node ID, by the route table (R59, R287). -/
def State.routePorts (s : State) (k : NodeSel) (mary : Bool) (id : Id20) : List Nat :=
  ((s.cfg k).routes.filter (fun r => decide (r.mary = mary ∧ r.lo.toNat ≤ id.toNat ∧ id.toNat ≤ r.hi.toNat))).map (fun r => r.cell)

/-- L(p), the live count of a DOWN port (R263). -/
def State.liveCount (s : State) (k : NodeSel) (p : Nat) : Nat :=
  s.onNode k (fun N => (N.memb.filter (fun e => e.1.2 == p)).foldl (fun a e => a + e.2) 0)

/-! ## Queues -/

/-- TOK_DROP_ROUTE of a port; at a Maryel it also raises ROUTE of IRQ_STAT (Tables 17.5, 18.5). -/
def State.dropRoute (s : State) (k : NodeSel) (i : Nat) : State :=
  let s1 := s.bump k (cOff k i 0x110)
  if k = .mary then s1.raiseIrq k 13 else s1

/-- A C0 message to a port: it leaves only where the port is ACTIVE (R75). -/
def State.sendC0 (s : State) (k : NodeSel) (i : Nat) (m : Tokens) : State :=
  s.modCell k i (fun c => if c.ts = .active then { c with c0q := c.c0q ++ [m] } else c)

/-- A port to which a C2 or C3 message is dropped at once (R73): not ACTIVE, and its retry state discarded or never ACTIVE. -/
def Cell.refuses (c : Cell) : Bool := decide (c.ts ≠ .active) && (c.retry.discarded || !c.everActive)

/-- A C2 message to a port, held while the port is not ACTIVE (R73). -/
def State.sendC2 (s : State) (k : NodeSel) (i : Nat) (m : Tokens) : State :=
  if (s.cell k i).refuses then s.dropRoute k i else s.modCell k i (fun c => { c with c2q := c.c2q ++ [m] })

/-- A downward C3 message to a port (R59, R73). -/
def State.sendC3 (s : State) (k : NodeSel) (i : Nat) (m : Tokens) : State :=
  if (s.cell k i).refuses then s.dropRoute k i else s.modCell k i (fun c => { c with c3q := c.c3q ++ [m] })

/-- A node's own C3 message towards the root of a domain (R263, R277). -/
def State.sendOwnC3 (s : State) (k : NodeSel) (d : Dom) (m : Tokens) : State :=
  match s.upCell k d with
  | none => s
  | some i => if (s.cell k i).refuses then s.dropRoute k i else s.modNode k (fun N => { N with ownC3 := N.ownC3 ++ [(d, m)] })

/-- An upward C3 message received on a DOWN cell waits there for arbitration (R263); with no UP port it has no route. -/
def State.passUpC3 (s : State) (k : NodeSel) (i : Nat) (m : Tokens) : State :=
  match s.upCell k (s.cell k i).cfg.dom with
  | none => s.dropRoute k i
  | some u => if (s.cell k u).refuses then s.dropRoute k u else s.modCell k i (fun c => { c with c3in := c.c3in ++ [m] })

/-- Send a C0 message on several ports. -/
def State.sendC0All (s : State) (k : NodeSel) (ps : List Nat) (m : Tokens) : State := s.each ps (fun s p => s.sendC0 k p m)
/-- Send a C2 message on several ports. -/
def State.sendC2All (s : State) (k : NodeSel) (ps : List Nat) (m : Tokens) : State := s.each ps (fun s p => s.sendC2 k p m)

/-- The ports of a C2 message at a node (R59); a directed message without a route has none. -/
def State.c2Ports (s : State) (k : NodeSel) (d : Dom) (h : C2Head) : List Nat :=
  if h.all then s.memberPorts k d h.sd
  else (s.routePorts k false h.dest).filter (fun p => decide (p ∈ s.downCells k d))

/-- The node's ID as 20 bits. -/
def State.nodeId (s : State) (k : NodeSel) : Id20 := (s.cfg k).nodeId

/-- A node forwards a C2 message received on cell `c`: in a leaf or Maryel below a root, by R59; one for another node without a route is
dropped and counted. -/
def State.forwardC2 (s : State) (k : NodeSel) (c : Nat) (h : C2Head) (ports : List Nat) (m : Tokens) : State :=
  if ports = [] ∧ !h.all ∧ !(decide (k = .leaf ∧ h.dest = s.nodeId .leaf)) then s.dropRoute k c else s.sendC2All k ports m

/-! ## Forwarding latency (R61, R68) -/

/-- The forwarding depth P of R61, in cycles. -/
def barDepth : NodeSel → Nat
  | .leaf => 4
  | .mary => 9

/-- The wait w of R68 for the next C0-eligible slot, in cycles: slots start at words 2 + 4j of the node's own frame, and a token registered at
theta + 2 + 4i is ready P cycles later. -/
def slotWait (theta p : Nat) : Nat := (4 - (theta + p) % 4) % 4

/-- The latency from cell `i`'s input pins to cell `m`'s output pins in 2^-8 ns, a cycle being 2 ns: P_max + w cycles in fixed-latency mode, with the
pins' share; else the fewest cycles available (R68). -/
def State.latOf (s : State) (k : NodeSel) (i m : Nat) : Nat :=
  if (s.cfg k).fixlat then (Config.pinLat k i m + (barDepth k + slotWait (s.cell k i).thetaLat.toNat (barDepth k)) * 512) % 2 ^ 16
  else (Config.portLat k i m).toNat

/-! ## EXC_FIFO, TEL_FIFO and the alarm (R278, R279, R401) -/

/-- A root files an excision record: EXC_FIFO holds 256, a further one counts EXC_LOST; the first of a hoop raises EXC_IRQ (R278).
At an island root the bit is ROOT's own: no EXC bit exists in Table 17.2. -/
def State.fileExc (s : State) (k : NodeSel) (r : ExcRec) : State :=
  let key : Sd × HoopId × Gen := (r.t2.extractLsb' 36 12, r.t2.extractLsb' 20 16, r.t2.extractLsb' 4 16)
  let s1 := if (s.root k).exc.length < 256 then s.modRoot k (fun t => { t with exc := t.exc ++ [r] }) else s.bump k 0xA0300
  if key ∈ (s.root k).excSeen then s1
  else
    let s2 := s1.modRoot k (fun t => { t with excSeen := t.excSeen ++ [key] })
    if k = .mary then s2.raiseIrq .mary 2 else s2

/-- A TELEMETRY record enters the Maryel's TEL_FIFO of 64 records, or counts TEL_LOST; a running engine drains it at once (R300, R401). -/
def State.fileTel (s : State) (r : TeleRec) : State :=
  if s.mary.me.state = 1 then s.raiseIrq .mary 3
  else if s.mary.tel.length < 64 then
    let s1 := s.modMary (fun m => { m with tel := m.tel ++ [r] })
    if s.mary.tel = [] then s1.raiseIrq .mary 3 else s1
  else s.bump .mary 0xA0308

/-- A node's own TELEMETRY record (R112, R277, R401): a Maryel files it too; below a root it goes towards the root of a domain; a root
puts an excision record into its EXC_FIFO (R277). -/
def State.originTel (s : State) (k : NodeSel) (d : Dom) (r : TeleRec) : State :=
  let s1 := if k = .mary then s.fileTel r else s
  if s.isRoot k then
    if r.kind = 3 then s1.fileExc k { mary := r.maryel, src := r.src, t2 := r.data.getD 0 0, t3 := r.data.getD 1 0, t4 := r.data.getD 2 0 }
    else s1
  else s1.sendOwnC3 k d (teleToks r)

/-- An alarm at a root: ALARM_STAT of its class at a Maryel, and a record in ALARM_FIFO of 32 (R279). -/
def State.raiseAlarm (s : State) (k : NodeSel) (cls : Nat) (sd : Sd) (h : HoopId) (ns : Nat) : State :=
  let s1 := if k = .mary then s.modMary (fun m => { m with alarm := setBit m.alarm cls }) else s
  let r : AlarmRec := { cls := BitVec.ofNat 3 cls, sd := sd, hoopId := h, ns := BitVec.ofNat 32 (ns % 1000000000) }
  if (s1.root k).alarms.length < 32 then s1.modRoot k (fun t => { t with alarms := t.alarms ++ [r] }) else s1.bump k 0xA0304

/-- PSTATE of a cell (Table 12.3). -/
def Cell.pstate (c : Cell) : Nat :=
  if decide (c.mute ≠ 0) || c.dark then 8
  else match c.ts with
    | .off => 0
    | .cdr => 1
    | .word => 2
    | .frame => 3
    | .hello => 4
    | .delay => 5
    | .active => 6
    | .test => 7

/-- Data token 2 of an excision record (Table 12.3). -/
def excTok2 (sd : Sd) (h : HoopId) (g : Gen) (d : Dom) (cause : Nat) (more : Bool) : Body :=
  packBody [(12, sd.toNat), (16, h.toNat), (16, g.toNat), (1, domIdx d), (2, cause), (1, b01 more)]

/-- The ports for which a node has written a record of a hoop and domain (R276). -/
def State.excisedOf (s : State) (k : NodeSel) (sd : Sd) (h : HoopId) (d : Dom) : List Nat :=
  s.onNode k (fun N => (N.excised.filter (fun x => decide (x.1 = sd ∧ x.2.1 = h ∧ x.2.2.1 = d))).map (fun x => x.2.2.2))

/-- Note a record as written. -/
def State.noteExcised (s : State) (k : NodeSel) (sd : Sd) (h : HoopId) (d : Dom) (p : Nat) : State :=
  s.modNode k (fun N => { N with excised := N.excised ++ [(sd, h, d, p)] })

/-- The excision records of a Maryel for silent ports of a hoop: one for each port, at most 16 per hoop, with MORE on the sixteenth when more
than 16 are silent (R276, Table 12.3). -/
def State.exciseMary (s : State) (sd : Sd) (h : HoopId) (g : Gen) (d : Dom) (silent : List Nat) (cause outcome : Nat) : State :=
  let n := (s.excisedOf .mary sd h d).length
  let fresh := silent.filter (fun p => !decide (p ∈ s.excisedOf .mary sd h d))
  s.each (fresh.take (16 - n)).zipIdx (fun s p =>
    let c := s.cell .mary p.1
    (s.originTel .mary d { kind := 3, src := s.nodeId .mary, maryel := true, data :=
      [excTok2 sd h g d cause (decide (n + p.2 = 15) && decide (n + fresh.length > 16)),
       packBody [(7, p.1), (4, c.pstate), (20, s.membOf .mary sd p.1), (17, 0)],
       packBody [(32, if c.ts = .active then 0xFFFFFFFF else c.downNs.toNat), (3, outcome), (13, 0)]] }).noteExcised .mary sd h d p.1)

/-- The one excision record of a leaf for a hoop on a tree: silent region ports, silent DOWN ports with members, the missing host (R276,
Table 12.3). -/
def State.exciseLeaf (s : State) (sd : Sd) (h : HoopId) (g : Gen) (d : Dom) (got : List Nat) (regs : W16) (self : Bool)
    (cause outcome : Nat) : State :=
  let dn := ((s.memberPorts .leaf d sd).filter (fun p => !decide (p ∈ got))).foldl (fun a p => a + 2 ^ p) 0
  if (dn = 0 ∧ regs = 0 ∧ self = false) ∨ s.excisedOf .leaf sd h d ≠ [] then s
  else (s.originTel .leaf d { kind := 3, src := s.nodeId .leaf, maryel := false, data :=
      [excTok2 sd h g d cause false, packBody [(16, regs.toNat), (6, dn), (1, b01 self), (25, 0)],
       packBody [(32, 0xFFFFFFFF), (3, outcome), (13, 0)]] }).noteExcised .leaf sd h d 0

end Sys2Proof.Machine
end

