-- ==== Sys2Proof/Machine/LeafTake.lean ====
section
/-! DEFINITION. Recipes held by a node and the end of an ID (R169), the members of a hoop (R170), and what a leaf does with an outcome:
taking it (R196), its effect on slots, ports and HALT entries (R153, R193, R197), and its relay down the tree (R59, R276). -/

namespace Sys2Proof.Machine

/-! ## Counter offsets that differ between the two builds -/

/-- HOOP_NORECIPE. -/
def offNoRecipe : NodeSel → Nat | .leaf => 0xB500 | .mary => 0x9042C
/-- HOOP_DROP_DONE. -/
def offDropDone : NodeSel → Nat | .leaf => 0xB50C | .mary => 0x9041C
/-- TOK_DROP_STALE. -/
def offDropStale : NodeSel → Nat | .leaf => 0xE100 | .mary => 0x90400
/-- GEN_AHEAD. -/
def offGenAhead : NodeSel → Nat | .leaf => 0xE11C | .mary => 0x90404
/-- HOOP_STALE_RET. -/
def offStaleRet : NodeSel → Nat | .leaf => 0xE120 | .mary => 0x90408
/-- MEMB_INVALID. -/
def offMembInvalid : NodeSel → Nat | .leaf => 0xE118 | .mary => 0x9040C
/-- RCP_FULL. -/
def offRcpFull : NodeSel → Nat | .leaf => 0xB528 | .mary => 0x90430
/-- CTX_ORPHAN. -/
def offCtxOrphan : NodeSel → Nat | .leaf => 0xE130 | .mary => 0x90418
/-- DARK_CNT_A or DARK_CNT_B. -/
def offDark (k : NodeSel) (d : Dom) : Nat :=
  match k with
  | .leaf => 0xE128 + 4 * domIdx d
  | .mary => 0x90420 + 4 * domIdx d

/-- A counter that also raises DIAG at a Maryel (Table 18.5). -/
def State.bumpDiag (s : State) (k : NodeSel) (off : Nat) : State :=
  match k with
  | .leaf => s.bump k off
  | .mary => (s.bump k off).raiseIrq .mary 8

/-! ## Recipes (R169, R170) -/

/-- Does a recipe's range cover an ID (R169)? -/
def Recipe.covers (r : Recipe) (sd : Sd) (h : HoopId) : Bool := decide (r.sd = sd) && decide ((h - r.hoopId).toNat ≤ rcCnt r.common)

/-- The recipe a node holds for a hoop. -/
def State.recipeOf (s : State) (k : NodeSel) (sd : Sd) (h : HoopId) : Option Recipe := (s.recipes k).find? (fun r => r.covers sd h)

/-- How many recipes a node can hold (Table 8.9). -/
def recipeCap : NodeSel → Nat | .leaf => 64 | .mary => 1024

/-- Has an ID ended at a node, or its context closed, so that a later message is dropped (R185, R276)? -/
def State.isClosed (s : State) (k : NodeSel) (sd : Sd) (h : HoopId) (d : Dom) : Bool :=
  (match s.recipeOf k sd h with | some r => decide (h ∈ r.ended) | none => false)
    || s.onNode k (fun N => decide ((sd, h, d) ∈ N.closed))

/-- A closed context of a node is remembered (R185). -/
def State.markClosed (s : State) (k : NodeSel) (sd : Sd) (h : HoopId) (d : Dom) : State :=
  s.modNode k (fun N => if (sd, h, d) ∈ N.closed then N else { N with closed := N.closed ++ [(sd, h, d)] })

/-- What a node keeps of a freed recipe: its IDs stay closed (R185), and at a leaf the tree whose copy is still to come is noted, so that
the copy has no effect (R169). -/
def Node.freeRecipe {n : Nat} (N : Node n) (leaf : Bool) (r : Recipe) : Node n :=
  { N with
    recipes := N.recipes.filter (fun x => !decide (x.sd = r.sd ∧ x.hoopId = r.hoopId)),
    noCtx := N.noCtx.filter (fun x => !r.covers x.1 x.2.1),
    closed := N.closed.filter (fun x => !r.covers x.1 x.2.1)
      ++ (List.range (rcCnt r.common + 1)).flatMap (fun i =>
            [(r.sd, r.hoopId + BitVec.ofNat 16 i, Dom.a), (r.sd, r.hoopId + BitVec.ofNat 16 i, Dom.b)]),
    freed := if !leaf || (r.seen.1 && r.seen.2) then N.freed
      else N.freed ++ [(r.sd, r.hoopId, r.gen, if r.seen.1 then .b else .a)] }

/-- An ID ends at a node; the recipe is freed when every ID of its range has ended, in any order (R169). -/
def State.endId (s : State) (k : NodeSel) (sd : Sd) (h : HoopId) : State :=
  match s.recipeOf k sd h with
  | none => s
  | some r =>
    let r1 := { r with ended := if h ∈ r.ended then r.ended else r.ended ++ [h] }
    s.modNode k (fun N =>
      if r1.ended.length > rcCnt r.common then N.freeRecipe (decide (k = .leaf)) r1
      else { N with recipes := N.recipes.map (fun x => if x.covers sd h then r1 else x) })

/-- Is a leaf of a binding a member of a hoop with this recipe (R170)? -/
def memberOf (b : Binding) (c : BitVec 288) : Bool :=
  !rcMset c || (decide (rcRankLo c ≤ b.rank.toNat) && decide (b.rank.toNat ≤ rcRankHi c))

/-! ## Outcomes at the region ports (R128, R193, R196) -/

/-- Does window `w` lie above CUT (R193)? CUT travels modulo 2^24 and is read within half that range of `w`. -/
def aboveCut (w : Nat) (cut : BitVec 24) : Bool :=
  decide (0 < (w + (2 ^ 24 - cut.toNat)) % 2 ^ 24) && decide ((w + (2 ^ 24 - cut.toNat)) % 2 ^ 24 < 2 ^ 23)

/-- The window of the input of a port (16 is the host), if it has contributed. -/
def Slot.winOf (x : Slot) (p : Nat) : Option Nat := (x.inWin.find? (fun q => q.1 == p)).map Prod.snd

/-- Was the input of a port not counted by a QUORUM close (R193)? -/
def Slot.uncounted (x : Slot) (m : HoopDown) (p : Nat) : Bool :=
  rcQuorum x.common && decide (m.outcome = 0) &&
    (match x.winOf p, m.cut with | some w, some c => aboveCut w c | _, _ => false)

/-- A port whose QUORUM input came after the outcome was taken has had its LATE already (R193). -/
def Slot.told (x : Slot) (p : Nat) : Bool := rcQuorum x.common && x.contributed.getLsbD p && (x.winOf p).isNone

/-- The lane results at the ports: those of a COMPLETE outcome, zero for every other (Table 8.6). -/
def Slot.results (x : Slot) (m : HoopDown) : List W64 :=
  if m.outcome = 0 then (if m.lanes = [] then List.replicate x.lanes.length 0 else m.lanes) else List.replicate x.lanes.length 0

/-- What a port receives for an outcome: LATE (3) where its input was not counted. LFLAG is zero for a hoop without lanes and for an outcome
that carries zero results (R128). -/
def Slot.portOut (x : Slot) (slot : Nat) (m : HoopDown) (late : Bool) : PortOut :=
  { slot := BitVec.ofNat 5 slot, outcome := if late then 3 else m.outcome, verdict := m.verdict, lanes := x.results m,
    lflag := if m.outcome = 0 ∧ x.lanes ≠ [] then m.lflag else 0, at_ := 0 }

/-- An outcome is queued at a region port (R128). -/
def State.queueOut (s : State) (p : Nat) (o : PortOut) : State :=
  s.modRegion p (fun r => { r with hoq := r.hoq ++ [{ o with at_ := s.rc .leaf }] })

/-- The beats of an outcome: one for each lane, ascending; a hoop without lanes has one with lane 31 and data 0 (R128). -/
def PortOut.beats (o : PortOut) : List Beat :=
  let beat (lane : Nat) (v : W64) (last : Bool) : Beat :=
    { slot := o.slot, outcome := o.outcome, verdict := o.verdict, lane := BitVec.ofNat 5 lane, data := v, lflag := o.lflag, last := last }
  match o.lanes with
  | [] => [beat 31 0 true]
  | l => l.zipIdx.map (fun p => beat p.2 p.1 (p.2 + 1 == l.length))

/-! ## The edges of a region clock (R117, R124, R126, R128) -/

/-- Region edges pass: rp_tally counts, the pulses of earlier edges fall, and an outcome in progress presents a beat at each (R117, R124,
R128). -/
def Region.count (r : Region) (n : BitVec 48) : Region :=
  if n = 0 then r
  else
    let r1 := { r with tally := r.tally + n, launch := false, picot := false, corrVld := false, hcErr := false }
    if !r.hoVld then r1
    else match r.beats[n.toNat - 1]? with
      | some b => { r1 with ho := b, beats := r.beats.drop n.toNat }
      | none => { r1 with hoVld := false, beats := [] }

/-- The time bus at a region edge: the HT of the TCLK edge 4 ns and the edge's place in its cycle before it, zero while disabled (R126). -/
def State.timeBus (s : State) (on : Bool) : Ht96 := if on then htOf (s.ht .leaf - 2 * (s.time .leaf).read.rate.toNat) else 0

/-- The region edge that a command tells of. -/
def State.regionEdge (s : State) (p : Nat) (e : RpEdge) : State :=
  s.modRegion p (fun r => { r.count e.edges with tbHt := s.timeBus r.tbEff })

/-- Read-path HT at a place within the present TCLK cycle. -/
def State.edgeHt (s : State) (pos : Fin 16) : Tu := s.ht .leaf + (s.time .leaf).read.rate.toNat * pos.val / 16

/-- A landing lies more than 1 ns after the TCLK edge `e` of its event: one told of too early is at the same place of the first TCLK cycle
that allows it (R118, log 113). -/
def State.landFrom (s : State) (e : W64) (pos : Fin 16) : State :=
  let s1 := s.advTo .leaf e
  if s1.rc .leaf = e ∧ pos.val ≤ 8 then s1.advAfter .leaf e 1 else s1

/-- The batch of an install context has had the end of its install hoop at the leaf (R146). -/
def State.endInstAt (s : State) (k : Nat) : State :=
  let c := vget s.leaf.insts k .reset
  s.modLeaf (fun l : LeafOnly =>
    { l with insts := vmod l.insts k (fun _ => .reset),
             prick := if c.busy ∧ c.batch ∉ l.prick.instDone then { l.prick with instDone := l.prick.instDone ++ [c.batch] } else l.prick })

/-- HALT: every HALT entry of the SD is removed and counted in PRK_HALTED, without a miss (R153). -/
def State.haltEntries (s : State) (sd : Sd) : State :=
  let hit (e : Entry) : Bool := imgHalt e.image && decide (imgSd e.image = sd)
  let n := (s.leaf.prick.entries.filter hit).length
  (s.dropEntries hit).bumpBy .leaf 0xA118 n

/-- The window partials that a slot has not sent yet (R190). -/
def Slot.unsent (x : Slot) (i : Nat) : List WinLeft :=
  (x.wins.filter (fun w => !w.sent)).map (fun w =>
    { slot := i, sd := x.sd, hoopId := x.hoopId, gen := x.gen, common := x.common, lanes := x.lanes, win := w.win, acc := w.acc })

/-- A slot becomes FREE; what it has still to send stays owed (R190, R197, log 109). -/
def State.freeSlot (s : State) (i : Nat) : State :=
  (s.modLeaf (fun l => { l with winq := l.winq ++ (s.slot i).unsent i })).modSlot i (fun _ => .reset)

/-- A slot becomes FREE when every member port has contributed (R197); a host hoop's slot stays until SLOT_HOLD or a reclaim
(R378, log 26). -/
def State.freeIfDone (s : State) (i : Nat) : State :=
  let x := s.slot i
  if x.st = .closed ∧ !rcHost x.common ∧ x.ports &&& ~~~ x.contributed = 0 then s.freeSlot i else s

/-- An outcome takes effect at a slot: CLOSED, delivered to every member port, HALT entries removed under BROKEN and ABORTED, HOOP_OUT
for a host hoop (R153, R193, R196, R197, R378). -/
def State.slotEffect (s : State) (i : Nat) (m : HoopDown) : State :=
  let x := s.slot i
  let s1 := s.modSlot i (fun x => { x with st := .closed, eff := some m, closedAt := s.rc .leaf })
  let s2 := s1.each ((bitsSet x.ports).filter (fun p => !x.told p)) (fun s p => s.queueOut p (x.portOut i m (x.uncounted m p)))
  let s3 := if rcHost x.common then s2.raiseIrq .leaf 14 else s2
  let s4 := if m.outcome = 1 ∨ m.outcome = 4 then s3.haltEntries x.sd else s3
  s4.freeIfDone i

/-- A slot is open for a hoop of a binding's generation. -/
def Slot.holds (x : Slot) (sd : Sd) (h : HoopId) (g : Gen) : Bool :=
  decide (x.st ≠ .free) && decide (x.sd = sd) && decide (x.hoopId = h) && decide (x.gen = g)

/-- The slot a leaf holds for a hoop. -/
def State.slotFor (s : State) (sd : Sd) (h : HoopId) (g : Gen) : Option Nat :=
  (List.range 32).find? (fun i => (s.slot i).holds sd h g)

/-- Install context `k`. -/
def State.instCtx (s : State) (k : Nat) : InstCtx := vget s.leaf.insts k .reset
/-- Change install context `k`. -/
def State.modInst (s : State) (k : Nat) (f : InstCtx → InstCtx) : State := s.modLeaf (fun l => { l with insts := vmod l.insts k f })

/-- The install context a leaf holds for a hoop. -/
def State.instFor (s : State) (sd : Sd) (h : HoopId) (g : Gen) : Option Nat :=
  (List.range 4).find? (fun i =>
    let c := s.instCtx i
    c.busy && decide (c.sd = sd) && decide (c.hoopId = h) && decide (c.gen = g))

/-- HOOP_COPY_DIFF: a later copy differs from the one taken (R196, Table 12.5). -/
def State.copyDiff (s : State) : State :=
  ((s.bump .leaf 0xB510).raiseIrq .leaf 15).modLeaf (fun l => { l with alarm := setBit l.alarm 0 })

/-- The release HT of an aligned outcome in ns, and whether it has passed: REL_NS names the first instant from now on with that
remainder; one farther ahead than any release the recipe schedules is the one just gone (Table 3.7, R195, log 27). -/
def releaseOf (now relLead : Nat) (m : HoopDown) : Nat × Bool :=
  let r := resolveMod 24 now m.relNs.toNat
  (r, decide (r - now > max (2 ^ 23) (relLead * 64 + 64)))

/-- The outcome a leaf has taken for a hoop, and whether it held the hoop (R196). -/
def State.outOf (s : State) (m : HoopDown) : Option (HoopDown × Bool) :=
  s.leaf.outs.find? (fun x => decide (x.1.sd = m.sd ∧ x.1.hoopId = m.hoopId ∧ x.1.gen = m.gen))

/-- An outcome is taken. -/
def State.noteOut (s : State) (m : HoopDown) (held : Bool) : State := s.modLeaf (fun l => { l with outs := l.outs ++ [(m, held)] })

/-- An outcome of a hoop that the leaf holds in a slot: it takes effect at its release HT, at receipt when ALIGN = 0, and at receipt,
counted in HOOP_REL_LATE, when it arrives after its release HT (R196). -/
def State.takeSlot (s : State) (i : Nat) (m : HoopDown) : State :=
  let s1 := s.modSlot i (fun x => { x with taken := some m })
  if !m.aligned then s1.slotEffect i m
  else
    let rel := releaseOf (s.htNs .leaf) (rcRelLead (s.slot i).common) m
    if rel.2 then (s1.slotEffect i m).bump .leaf 0xB514 else s1.modSlot i (fun x => { x with relNs := some rel.1 })

/-- An outcome of an install hoop frees its install context in the same way (R196). -/
def State.takeInst (s : State) (k : Nat) (m : HoopDown) : State :=
  if !m.aligned then s.endInstAt k
  else if (releaseOf (s.htNs .leaf) 0 m).2 then (s.endInstAt k).bump .leaf 0xB514
  else s.modInst k (fun c => { c with taken := some m })

/-- A BROKEN or ABORTED outcome of a job hoop of its SD halts a leaf that holds no slot for it, at the same HT as every other (R153). -/
def State.takeHalt (s : State) (relLead : Nat) (m : HoopDown) : State :=
  if (m.outcome ≠ 1 ∧ m.outcome ≠ 4) ∨ m.hoopId.toNat > 0xEFFF then s
  else
    let rel := releaseOf (s.htNs .leaf) relLead m
    if !m.aligned || rel.2 then s.haltEntries m.sd
    else s.modPrick (fun p => { p with halts := p.halts ++ [(m.sd, rel.1)] })

/-- A leaf takes a HOOP-DOWN for its own binding: the first copy acts, a later copy is compared where the leaf held the hoop (R153, R196,
R254). -/
def State.takeDown (s : State) (m : HoopDown) : State :=
  match s.leaf.binding with
  | none => s.bump .leaf 0xE108
  | some b =>
    if b.sd ≠ m.sd then s.bump .leaf 0xE104
    else if b.gen ≠ m.gen then s.bump .leaf 0xE100
    else if !m.all && decide (m.dest ≠ s.nodeId .leaf) then s
    else match s.outOf m with
      | some t => if t.2 && decide (t.1 ≠ m) then s.copyDiff else s
      | none =>
        match s.slotFor m.sd m.hoopId m.gen, s.instFor m.sd m.hoopId m.gen with
        | some i, _ => if (s.slot i).st = .open_ then (s.noteOut m true).takeSlot i m else s
        | none, some k => (s.noteOut m true).takeInst k m
        | none, none =>
          (s.noteOut m false).takeHalt (match s.recipeOf .leaf m.sd m.hoopId with | some c => rcRelLead c.common | none => 0) m

/-! ## Relay of an outcome down a tree -/

/-- A node whose combine context is closed by an outcome it forwards: BROKEN and ABORTED write excision records with cause OUTCOME, a
COMPLETE outcome writes none (R276). -/
def State.closeOnDown (s : State) (k : NodeSel) (d : Dom) (m : HoopDown) : State :=
  let mine (x : Ctx) : Bool := decide (x.sd = m.sd) && decide (x.hoopId = m.hoopId) && decide (x.dom = d)
  let bad := decide (m.outcome = 1 ∨ m.outcome = 4)
  let c := (s.ctxs k).find? mine
  let s1 := s.modNode k (fun N => { N with ctxs := N.ctxs.filter (fun x => !mine x),
                                           noCtx := N.noCtx.filter (fun x => !decide (x = (m.sd, m.hoopId, d))) })
  match k with
  | .mary =>
    match c with
    | none => s1
    | some x =>
      let silent := (s.memberPorts .mary d m.sd).filter (fun p => !decide (p ∈ x.got))
      (if bad then s1.exciseMary x.sd x.hoopId x.gen d silent 1 m.outcome.toNat else s1).markClosed .mary m.sd m.hoopId d
  | .leaf =>
    let own := (s.slotFor m.sd m.hoopId m.gen).map (fun i => s.slot i)
    let waits := match own with
      | some x => decide (x.st = .open_) && !(match d with | .a => x.sentA | .b => x.sentB)
      | none => false
    if c.isNone && !waits then s1
    else
      let s2 := s1.markClosed .leaf m.sd m.hoopId d
      if !bad then s2
      else
        let regs := match own with | some x => (if waits then x.ports &&& ~~~ x.contributed else 0) | none => 0
        let self := match own with | some x => waits && rcHost x.common && !x.hostDone | none => false
        s2.exciseLeaf m.sd m.hoopId (match c with | some x => x.gen | none => m.gen) d
          (match c with | some x => x.got | none => []) regs self 1 m.outcome.toNat

/-- The DOWN ports an outcome goes to: member ports, or the one route of a directed outcome (R57, R59). -/
def State.downPorts (s : State) (k : NodeSel) (d : Dom) (m : HoopDown) : List Nat :=
  if m.all then s.memberPorts k d m.sd else (s.routePorts k false m.dest).filter (fun p => decide (p ∈ s.downCells k d))

/-- An outcome leaves on the DOWN ports of one tree; the ID ends at the node (R59, R169). -/
def State.sendDown (s : State) (k : NodeSel) (d : Dom) (m : HoopDown) : State :=
  (s.sendC0All k (s.downPorts k d m) (hoopDownToks m)).endId k m.sd m.hoopId

/-- A node relays an outcome on one tree and closes its context there (R276). -/
def State.relayDown (s : State) (k : NodeSel) (d : Dom) (m : HoopDown) : State := (s.closeOnDown k d m).sendDown k d m

end Sys2Proof.Machine
end

