-- ==== Sys2Proof/Machine/RootHoop.lean ====
section
/-! DEFINITION. Deciding at a root (R186 to R195): hoops held, decisions and their outcomes, verdicts (R224, R225), what both roots draw
from an outcome (R148, R157, R158, R228), QUORUM windows, the deadline and HOOP_ABORT. -/

namespace Sys2Proof.Machine

/-! ## Root contexts -/

/-- The root context of an SD (Table 7.1). -/
def Root.ctxOf (r : Root) (sd : Sd) : Option SdCtx := r.sds.find? (fun c => decide (c.sd = sd))
/-- Change the root context of an SD. -/
def Root.modCtx (r : Root) (sd : Sd) (f : SdCtx → SdCtx) : Root :=
  { r with sds := r.sds.map (fun c => if c.sd = sd then f c else c) }
/-- SD_GEN_HWM (R247). -/
def Root.hwmOf (r : Root) (sd : Sd) : Nat := (sget r.genHwm sd.toNat).getD 0

/-- The decider of every hoop: an island root, or the root of the tree HOOP_DECIDER names (R186). -/
def State.isDecider (s : State) (k : NodeSel) : Bool :=
  match k with
  | .leaf => (s.cfg .leaf).island
  | .mary => (s.cfg .mary).root && decide ((s.fld .mary 0x7F044 0 0 = 1) ↔ ((s.cfg .mary).dom = .b))

/-- The root's CROSS cell while it is ACTIVE (R186). -/
def State.crossActive (s : State) : Option Nat := s.crossCell.filter (fun c => decide ((s.cell .mary c).ts = .active))

/-- FLIGHT_MAX in 2^-16 ns: the largest PATH of the leaf records of the last 68.7 s (R114; 2^35 cycles, log 28). -/
def State.flightMax (s : State) (k : NodeSel) : Nat :=
  ((s.root k).paths.filter (fun p => decide ((s.rc k - p.2.2).toNat ≤ 2 ^ 35))).foldl (fun a p => max a p.2.1) 0

/-- The domains of the trees a root sends on: both at an island root (R137, R383). -/
def State.rootDoms (s : State) (k : NodeSel) : List Dom :=
  match k with
  | .leaf => [.a, .b]
  | .mary => [(s.cfg .mary).dom]

/-- A C2 message of an SD joins the root's queue for its DOWN ports (R262); `inst` names the install hoop whose recipe it is (R188). -/
def State.rootC2 (s : State) (k : NodeSel) (h : C2Head) (inst : Option HoopId) (m : Tokens) : State :=
  let ps := ((s.rootDoms k).flatMap (fun d => s.c2Ports k d h)).eraseDups
  if ps = [] then s
  else s.modRoot k (fun r => { r with c2out := r.c2out ++ [{ sd := h.sd, toks := m, ports := ps, debited := false, inst := inst }] })

/-! ## Install hoops: failure of a batch (R148) -/

/-- The automatic withdraw of a failed batch (R148): the image removes every entry of the batch. -/
def withdrawImage (sd : Sd) (b : Batch) : BitVec 256 :=
  BitVec.ofNat 256 (2 ^ 255 + sd.toNat * 2 ^ 238 + 63 * 2 ^ 216 + 63 * 2 ^ 16 + b.toNat)

/-- A batch fails: it is never armed, INST_FAIL is raised with its reason, and for COUNT, REFUSED and LATE the automatic withdraw goes
out where INST_AUTOWD is 1 (R148). -/
def State.failBatch (s : State) (k : NodeSel) (b : BatchRec) (why : Nat) : State :=
  let s1 := (s.modRoot k (fun r =>
    { r with batches := r.batches.map (fun x => if x.sd = b.sd ∧ x.batch = b.batch ∧ x.st = .pending then { x with st := .failed } else x),
             instFail := (why, b.sd, b.batch), evt := setBit r.evt 0 })).bump k 0x80704
  if why < 3 ∨ s.fld k 0x80610 0 0 = 0 then s1
  else
    let g : Gen := BitVec.ofNat 16 ((s.root k).hwmOf b.sd)
    let m : InstallMsg := { head := { sd := b.sd, dest := 0, all := true, gen := g }, batch := b.batch, image := withdrawImage b.sd b.batch }
    let s2 := s1.rootC2 k m.head none (installToks m)
    match k, s.leaf.binding with
    | .leaf, some x => if x.sd = b.sd ∧ x.gen = g then s2.withdraw m.image else s2
    | _, _ => s2

/-- The install hoop of a batch has ended at the root (R148): its outcome, and its counts once the root knows them. -/
def State.endInstall (s : State) (k : NodeSel) (sd : Sd) (h : HoopId) (outcome : BitVec 3) (tot : Option (List (BitVec 240))) : State :=
  match (s.root k).batches.find? (fun b => decide (b.sd = sd ∧ b.hoopId = h ∧ b.st = .pending) && b.ended.isNone) with
  | none => s
  | some b =>
    let put (l : W64 × W64) (s : State) : State := s.modRoot k (fun r =>
      { r with batches := r.batches.map (fun x => if x.sd = sd ∧ x.hoopId = h ∧ x.st = .pending then { x with ended := some (outcome, l.1, l.2) } else x) })
    if outcome = 1 then (put (0, 0) s).failBatch k b 1
    else if outcome ≠ 0 then (put (0, 0) s).failBatch k b 2
    else match tot with
      | none => s
      | some t =>
        let l0 : W64 := (t.getD 0 0).extractLsb' 0 64
        let l1 : W64 := (t.getD 1 0).extractLsb' 0 64
        let s1 := put (l0, l1) s
        if l1 ≠ 0 then s1.failBatch k b 4 else if l0.toNat ≠ b.expected then s1.failBatch k b 3 else s1

/-! ## What both roots draw from an outcome -/

/-- A lane result is not finite (R225). -/
def notFinite (d : W32) (x : W64) : Bool :=
  match laneOp d with
  | 10 => decide (bitsOf x 30 23 = 255)
  | 11 => decide (bitsOf x 30 23 = 255)
  | 12 => decide (bitsOf x 62 52 = 2047)
  | 13 => decide (bitsOf x 30 23 = 255)
  | 14 => decide (bitsOf x 62 55 = 255)
  | _ => false

/-- The result of the lane with a role, where the recipe has one. -/
def roleResult (lanes : List W32) (res : List W64) (role : Nat) : Option W64 := (laneWithRole lanes role).map (fun i => res.getD i 0)

/-- The verdict of a COMPLETE outcome: the first rule of Table 9.7 that holds (R224). -/
def verdictOf (common : BitVec 288) (lanes : List W32) (res : List W64) : BitVec 3 :=
  if !rcVerd common then 0
  else
    let differ := match roleResult lanes res 5, roleResult lanes res 6 with | some a, some b => decide (a ≠ b) | _, _ => false
    let skip := (match roleResult lanes res 3 with | some x => decide (x.toNat > rcNf common) | none => false)
      || (lanes.zip res).any (fun p => notFinite p.1 p.2)
    let wide := match roleResult lanes res 4 with | some x => decide (x.toNat > rcSat common) | none => false
    if differ then 4 else if skip then 2 else if wide then 3 else 1

/-- The opening tick of a hoop as the root resolved it from an accepted batch that has not failed, in ns (R188). -/
def State.openTickOf (s : State) (k : NodeSel) (sd : Sd) (h : HoopId) : Option Nat :=
  ((s.root k).batches.filter (fun b => decide (b.sd = sd ∧ b.st ≠ .failed))).findSome? (fun b =>
    b.opens.findSome? (fun o =>
      let i := (h - o.1).toNat
      if o.2.1 then (if i ≤ o.2.2.2.2 then some (o.2.2.1 + i * o.2.2.2.1 * 4096) else none)
      else if i = 0 then some o.2.2.1 else none))

/-- What a root draws from an outcome of a job hoop: SD_STAGED from the VINTAGE lane (R157), SD_VINTAGE from the armed flips whose tick
lies before the opening (R158), FP_STATE from the fingerprint lanes (R228); STRAY_PENDING clears under STALE and ABORTED (R194). -/
def State.rootDraw (s : State) (k : NodeSel) (m : HoopDown) (common : BitVec 288) (lanes : List W32) (openTick : Option Nat) : State :=
  if m.outcome = 2 ∨ m.outcome = 4 then s.modRoot k (fun r => r.modCtx m.sd (fun c => { c with stray := false }))
  else if m.outcome ≠ 0 then s
  else s.modRoot k (fun r => r.modCtx m.sd (fun c =>
    let c1 := match roleResult lanes m.lanes 2 with
      | some x => if x = 0xFFFFFFFFFFFFFFFF#64 then c else { c with staged := x.extractLsb' 0 32 }
      | none => c
    let due : List (W32 × Nat) := match openTick with | some t => c1.flips.filter (fun f => decide (f.2 < t)) | none => []
    let c2 := { c1 with vintage := due.foldl (fun a f => if a.toNat < f.1.toNat then f.1 else a) c1.vintage,
                        flips := c1.flips.filter (fun f => !decide (f ∈ due)) }
    if rcVerd common then
      match roleResult lanes m.lanes 5, roleResult lanes m.lanes 6 with
      | some a, some b => { c2 with fpState := if a = b then 1 else 2 }
      | _, _ => c2
    else c2))

/-! ## Hoops held at a root -/

/-- A hoop the root holds. -/
def State.rhoop (s : State) (k : NodeSel) (sd : Sd) (h : HoopId) : Option RHoop :=
  (s.root k).hoops.find? (fun r => decide (r.sd = sd ∧ r.hoopId = h))

/-- Put a hoop in place of any other of its ID. -/
def State.putRHoop (s : State) (k : NodeSel) (x : RHoop) : State :=
  s.modRoot k (fun r => { r with hoops := r.hoops.filter (fun y => !decide (y.sd = x.sd ∧ y.hoopId = x.hoopId)) ++ [x] })

/-- An empty tree. -/
def TreeSt.empty : TreeSt := { total := none, incAll := false, incWin := [], wins := [] }

/-- A hoop as the root first meets it (R188). -/
def State.newRHoop (s : State) (k : NodeSel) (sd : Sd) (h : HoopId) (g : Gen) (c : Recipe) : RHoop :=
  { sd := sd, hoopId := h, gen := g, openTick := s.openTickOf k sd h, firstHead := some (s.htNs k), own := .empty, other := .empty,
    missed := false, lastWin := none, running := none, crossLost := false, soloWin := none, decided := none, common := c.common, lanes := c.lanes }

/-- The deadline of the hoop runs: its opening tick is known, its install recipe has left, or a first head has come (R188). -/
def RHoop.begun (r : RHoop) : Bool := r.openTick.isSome || r.firstHead.isSome

/-- The instant from which the deadline counts: the opening tick, or else the first head (R188). -/
def RHoop.start (r : RHoop) : Nat := r.openTick.getD (r.firstHead.getD 0)

/-- The deadline in ns (R188). -/
def RHoop.deadline (r : RHoop) : Nat := r.start + rcDeadline r.common * 8

/-! ## A decision and its outcome (R186, R187, R195) -/

/-- The decider's outcome on one tree: its own contexts of the hoop close, but for those of a COMPLETE hoop in ALL mode, whose total it
still compares (R187, R276, log 110). -/
def State.decideDown (s : State) (k : NodeSel) (d : Dom) (m : HoopDown) : State :=
  if m.outcome = 0 ∧ m.cut = none then s.sendDown k d m else s.relayDown k d m

/-- An outcome leaves the decider on its own tree and over CROSS; at an island root on both trees, and its own leaf takes it (R186). -/
def State.sendOutcome (s : State) (k : NodeSel) (m : HoopDown) : State :=
  match k with
  | .mary =>
    let s1 := s.decideDown .mary (s.cfg .mary).dom m
    match s1.crossActive with | some c => s1.sendC0 .mary c (hoopDownToks m) | none => s1
  | .leaf =>
    let s1 := (s.decideDown .leaf .a m).decideDown .leaf .b m
    match s.leaf.binding with
    | some b => if b.sd = m.sd ∧ b.gen = m.gen then s1.takeDown m else s1
    | none => s1

/-- The release HT of a decision at the present edge, in ns: plus max(REL_LEAD, FLIGHT_MAX + 1,000 ns), up to a multiple of 64 ns (R195). -/
def State.releaseNs (s : State) (k : NodeSel) (common : BitVec 288) : Nat :=
  let lead := max (rcRelLead common * 64 * nsTu) ((s.flightMax k + 1000 * 2 ^ 16) * 2 ^ 24)
  (s.ht k + lead + 64 * nsTu - 1) / (64 * nsTu) * 64

/-- Does the SD hold STRAY_PENDING (R194)? -/
def State.strayPending (s : State) (k : NodeSel) (sd : Sd) : Bool :=
  match (s.root k).ctxOf sd with | some c => c.stray | none => false

/-- The decider ends a hoop: STRAY_PENDING turns it BROKEN (R194); results, lane flags, verdict and release HT go out, and what a root
draws from the outcome is drawn. `bare` is the head and status token of R250 and R259. The CUT of a QUORUM outcome other than COMPLETE
is a free value (log 29). -/
def State.finishHoop (s : State) (k : NodeSel) (r : RHoop) (outcome : BitVec 3) (cut : Option Nat) (tot : List (BitVec 240)) (bare : Bool) :
    State :=
  let inst := rcInst r.common
  let struck := !inst && decide (outcome = 0 ∨ outcome = 1) && s.strayPending k r.sd
  let oc : BitVec 3 := if struck then 1 else outcome
  let ok := decide (oc = 0)
  let res := if ok then lanesResult r.lanes tot else List.replicate r.lanes.length 0
  let verd : BitVec 3 := if ok && !inst then verdictOf r.common r.lanes res else 0
  let aligned := rcAlign r.common && !bare
  let rel := s.releaseNs k r.common
  let q := rcQuorum r.common && !bare
  let s0 := if q && !ok then s.takeFree.2 else s
  let m : HoopDown :=
    { sd := r.sd, hoopId := r.hoopId, gen := r.gen, outcome := oc, aligned := aligned, verdict := verd, dest := 0, all := true,
      relNs := if aligned then BitVec.ofNat 24 rel else 0,
      cut := if !q then none else if ok then cut.map (BitVec.ofNat 24) else some (Config.freeBits 24 s.freeCtr),
      lanes := if inst || bare then [] else res, lflag := if ok && !inst then lanesFlags r.lanes tot else 0 }
  let dec : Decision := { outcome := oc, cut := m.cut, lanes := res, lflag := m.lflag, verdict := verd,
                          relNs := if aligned then some rel else none, ns := s.htNs k }
  let s1 := if struck then s0.modRoot k (fun x => x.modCtx r.sd (fun c => { c with stray := false })) else s0
  let s2 := s1.putRHoop k { r with decided := some dec }
  let s3 := if inst then s2.endInstall k r.sd r.hoopId oc (some tot) else s2.rootDraw k { m with lanes := res } r.common r.lanes r.openTick
  s3.sendOutcome k m

/-! ## Trees at the decider -/

/-- The full index of a window known modulo 2^24, near a full index. -/
def nearWin (cur : Nat) (w : BitVec 24) : Nat := cur + 2 ^ 23 - (cur + 2 ^ 23 + (2 ^ 24 - w.toNat)) % 2 ^ 24

/-- A tree takes a message: an INCOMPLETE, for one window or for all, a window's partial, or a total (R187, R191). -/
def TreeSt.take (t : TreeSt) (quorum : Bool) (lanes : List W32) (m : HoopUp) : TreeSt :=
  if m.incomplete then
    match m.win with
    | some w => { t with incWin := t.incWin ++ [w] }
    | none => { t with incAll := true }
  else if quorum then
    match m.win with
    | some w =>
      match t.wins.find? (fun p => decide (p.1 = w)) with
      | some p => { t with wins := t.wins.map (fun q => if q.1 = w then (w, lanesCombine lanes p.2 m.lanes) else q) }
      | none => { t with wins := t.wins ++ [(w, m.lanes)] }
    | none => { t with incAll := true }
  else { t with total := some m.lanes }

/-- The hoop with a message taken into one of its trees. -/
def RHoop.take (r : RHoop) (other : Bool) (m : HoopUp) : RHoop :=
  if other then { r with other := r.other.take (rcQuorum r.common) r.lanes m } else { r with own := r.own.take (rcQuorum r.common) r.lanes m }

/-- The two totals of a decided COMPLETE hoop are compared when the second arrives (R187). -/
def State.compareTotals (s : State) (k : NodeSel) (r : RHoop) (m : HoopUp) (other : Bool) : State :=
  let first := if other then r.own.total else r.other.total
  match r.decided, first with
  | some d, some t =>
    if d.outcome = 0 ∧ !lanesAgree r.lanes t m.lanes then (s.bump k 0x8071C).raiseAlarm k 0 r.sd r.hoopId d.ns else s
  | _, _ => s

/-- A message that arrives after the decision (R187, R193, R194): compared or dropped; in QUORUM mode a window above CUT is counted in
Q_AFTER_CLOSE and one at or below CUT is a stray. -/
def State.afterDecision (s : State) (k : NodeSel) (r : RHoop) (d : Decision) (other : Bool) (m : HoopUp) : State :=
  if m.missed || m.incomplete then s.bump k (offDropDone k)
  else if rcQuorum r.common then
    match m.win, d.cut with
    | some w, some c =>
      if d.outcome ≠ 0 then s.bump k (offDropDone k)
      else if aboveCut w.toNat c then s.bump k 0x8072C
      else (((s.bump k 0x80728).modRoot k (fun x => x.modCtx r.sd (fun c => { c with stray := true }))).raiseAlarm k 2 r.sd r.hoopId d.ns)
    | _, _ => s.bump k (offDropDone k)
  else ((s.compareTotals k r m other).putRHoop k (r.take other m)).bump k (offDropDone k)

/-- A window already processed at the decider: a partial for it is a stray (R194). -/
def RHoop.processed (r : RHoop) (w : BitVec 24) : Bool :=
  match r.lastWin with | some l => decide ((l + (2 ^ 24 - w.toNat)) % 2 ^ 24 < 2 ^ 23) | none => false

/-- The decider takes a HOOP-UP from one of its trees: MISSED breaks the hoop, a whole tree completes it, a stray before the close
breaks it (R187, R191, R194). -/
def State.deciderTake (s : State) (k : NodeSel) (r : RHoop) (other : Bool) (m : HoopUp) : State :=
  match r.decided with
  | some d => s.afterDecision k r d other m
  | none =>
    if m.missed then s.finishHoop k { r with missed := true } 1 none [] false
    else if rcQuorum r.common && !m.incomplete && (match m.win with | some w => r.processed w | none => false) then
      (s.bump k 0x80728).finishHoop k r 1 none [] false
    else
      let r1 := r.take other m
      if rcQuorum r.common || m.incomplete then s.putRHoop k r1 else s.finishHoop k r1 0 none m.lanes false

/-- A decider without a recipe ends the hoop BROKEN at once, with ALIGNED = 0, counted in HOOP_NORECIPE (R188); as the end of a job hoop it
clears STRAY_PENDING (R194). -/
def State.decideNoRecipe (s : State) (k : NodeSel) (m : HoopUp) : State :=
  (((s.bump k (offNoRecipe k)).modRoot k (fun r =>
    if m.hoopId.toNat ≤ 0xEFFF then r.modCtx m.sd (fun c => { c with stray := false }) else r)).putRHoop k
    { sd := m.sd, hoopId := m.hoopId, gen := m.gen, openTick := none, firstHead := some (s.htNs k), own := .empty, other := .empty,
      missed := false, lastWin := none, running := none, crossLost := false, soloWin := none,
      decided := some { outcome := 1, cut := none, lanes := [], lflag := 0, verdict := 0, relNs := none, ns := s.htNs k }, common := 0, lanes := [] }).sendOutcome k
    { sd := m.sd, hoopId := m.hoopId, gen := m.gen, outcome := 1, aligned := false, verdict := 0, dest := 0, all := true, relNs := 0,
      cut := none, lanes := [], lflag := 0 }

/-- The lanes of the recipe a node holds for a hoop. -/
def State.lanesOf (s : State) (k : NodeSel) (sd : Sd) (h : HoopId) : List W32 :=
  match s.recipeOf k sd h with | some c => c.lanes | none => []

/-- A HOOP-UP over CROSS with XTREE = 1; with CROSS not ACTIVE it is dropped and counted in HOOP_XDROP (R186). -/
def State.sendCross (s : State) (ds : List W32) (m : HoopUp) : State :=
  match s.crossActive with
  | some c => s.sendC0 .mary c (hoopUpToks ds { m with xtree := true })
  | none => s.bump .mary 0x80724

/-- A HOOP-UP of its own tree reaches a root, or over CROSS from the other root (R186). -/
def State.rootUp (s : State) (k : NodeSel) (other : Bool) (m : HoopUp) : State :=
  let held := s.rhoop k m.sd m.hoopId
  let hoop := match held with
    | some r => some r
    | none => (s.recipeOf k m.sd m.hoopId).bind (fun c =>
        if m.hoopId ∈ c.ended then none else some (s.newRHoop k m.sd m.hoopId m.gen c))
  if s.isDecider k then
    match hoop with
    | some r => s.deciderTake k r other m
    | none => if s.isClosed k m.sd m.hoopId .a then s.bump k (offDropDone k) else s.decideNoRecipe k m
  else if other then s.bump k 0x80724
  else
    match hoop with
    | none => s.sendCross (s.lanesOf k m.sd m.hoopId) m
    | some r =>
      if s.crossActive.isNone then
        (s.modRoot k (fun x => { x with hoops := x.hoops.filter (fun y => !decide (y.sd = r.sd ∧ y.hoopId = r.hoopId) || y.decided.isSome) })).bump k 0x80724
      else
        let r1 := { r.take false m with missed := r.missed || m.missed }
        let s1 := (s.putRHoop k r1).sendCross r.lanes m
        if rcInst r.common && !m.missed && !m.incomplete then
          match r.decided with
          | some d => s1.endInstall k r.sd r.hoopId d.outcome r1.own.total
          | none => s1
        else s1

/-! ## QUORUM windows and the deadline (R190 to R192) -/

/-- A tree is clean for a window: no INCOMPLETE for it, an earlier one, or all (R191). -/
def TreeSt.clean (t : TreeSt) (w : Nat) : Bool :=
  !t.incAll && t.incWin.all (fun i => !decide ((w + (2 ^ 24 - i.toNat)) % 2 ^ 24 < 2 ^ 23))

/-- A tree's sum for a window. -/
def TreeSt.sum (t : TreeSt) (lanes : List W32) (w : Nat) : List (BitVec 240) :=
  match t.wins.find? (fun p => decide (p.1 = BitVec.ofNat 24 w)) with | some p => p.2 | none => lanesEmpty lanes

/-- A tree without the sums of a window. -/
def TreeSt.drop (t : TreeSt) (w : Nat) : TreeSt := { t with wins := t.wins.filter (fun p => !decide (p.1 = BitVec.ofNat 24 w)) }

/-- The next window the decider processes: after the last; first the one that holds the opening, or, where no opening tick is known, the lowest
of which a partial has come (R191, log 29). -/
def RHoop.nextWin (r : RHoop) : Nat :=
  let w0 := r.start / rcWindow r.common
  match r.lastWin with
  | some w => w + 1
  | none => if r.openTick.isSome then w0 else ((r.own.wins ++ r.other.wins).map (fun p => nearWin w0 p.1)).foldl min w0

/-- The HT, in ns, at which a window is processed (R191). -/
def RHoop.winDue (r : RHoop) (w : Nat) : Nat := (w + 1) * rcWindow r.common + rcSettle r.common * 64

/-- Process one window of a QUORUM hoop at the present edge (R191). -/
def State.processWin (s : State) (k : NodeSel) (r : RHoop) (w : Nat) : State :=
  let ca := r.own.clean w
  let linked := match k with | .leaf => true | .mary => s.crossActive.isSome
  let solo := match r.soloWin with | some x => decide (w ≤ x) | none => false
  let cb := r.other.clean w && !r.crossLost && linked && !solo
  let a := r.own.sum r.lanes w
  let b := r.other.sum r.lanes w
  if !ca && !cb then s.finishHoop k r 1 none [] false
  else if ca && cb && !lanesAgree r.lanes a b then (s.raiseAlarm k 0 r.sd r.hoopId (s.htNs k)).finishHoop k r 1 none [] false
  else
    let run := lanesCombine r.lanes (r.running.getD (lanesEmpty r.lanes)) (if ca then a else b)
    let r1 := { r with own := r.own.drop w, other := r.other.drop w, lastWin := some w, running := some run, crossLost := false }
    let q := (roleResult r.lanes (lanesResult r.lanes run) 1).getD 0
    if q.toNat ≥ rcQ r.common then s.finishHoop k r1 0 (some w) run false else s.putRHoop k r1

/-- The decider's hoop, open: held, or one whose recipe and opening tick the root knows (R188). -/
def State.openHoop (s : State) (k : NodeSel) (sd : Sd) (h : HoopId) : Option RHoop :=
  match s.rhoop k sd h with
  | some r => if r.decided.isNone then some r else none
  | none =>
    match s.recipeOf k sd h with
    | some c =>
      if h ∈ c.ended then none
      else if (s.openTickOf k sd h).isSome then some { s.newRHoop k sd h (BitVec.ofNat 16 ((s.root k).hwmOf sd)) c with firstHead := none }
      else none
    | none => none

/-- The open hoops of an SD at the decider: those held, and those whose recipe and passed opening tick it knows (R188). -/
def State.openHoops (s : State) (k : NodeSel) (sd : Sd) : List RHoop :=
  let ids := (((s.root k).hoops.filter (fun r => decide (r.sd = sd))).map (fun r => r.hoopId)
    ++ ((s.recipes k).filter (fun r => decide (r.sd = sd))).flatMap (fun r =>
        (List.range (rcCnt r.common + 1)).map (fun i => r.hoopId + BitVec.ofNat 16 i))).eraseDups
  (ids.filterMap (fun h => s.openHoop k sd h)).filter (fun r => r.firstHead.isSome || decide (r.start ≤ s.htNs k))

/-- Is a window due no later than the deadline: at the edge of the deadline, or before it (R192)? -/
def State.winInTime (s : State) (k : NodeSel) (r : RHoop) : Bool :=
  let at_ (t : Nat) : W64 := (s.time k).read.edgeOf (s.rc k) (t * nsTu)
  decide ((at_ (r.winDue r.nextWin)).toNat ≤ (at_ r.deadline).toNat)

/-- QUORUM_WINDOW_PROCESS: the next window, at the edge at which it is due, if that is no later than the deadline (R191, R192). -/
def opWindowProcess (k : NodeSel) (sd : Sd) (h : HoopId) (s : State) : State :=
  if !s.isDecider k then s
  else match s.openHoop k sd h with
    | none => s
    | some r =>
      let w := r.nextWin
      if !rcQuorum r.common || !r.begun || !s.winInTime k r then s
      else (s.advHt k (r.winDue w * nsTu)).processWin k r w

/-- Windows due by the deadline, one after another, before the deadline closes the hoop (R192). -/
def State.winsToDeadline (s : State) (k : NodeSel) (sd : Sd) (h : HoopId) : Nat → State
  | 0 => s
  | n + 1 =>
    match s.openHoop k sd h with
    | none => s
    | some r =>
      let w := r.nextWin
      if !s.winInTime k r then s else ((s.advHt k (r.winDue w * nsTu)).processWin k r w).winsToDeadline k sd h n

/-- HOOP_DEADLINE: the decider's HT reaches the deadline with no tree whole: BROKEN in ALL mode; in QUORUM mode COMPLETE with the windows
processed so far (R187, R192). -/
def opHoopDeadline (k : NodeSel) (sd : Sd) (h : HoopId) (s : State) : State :=
  if !s.isDecider k then s
  else match s.openHoop k sd h with
    | none => s
    | some r =>
      if !r.begun then s
      else if !rcQuorum r.common then (s.advHt k (r.deadline * nsTu)).finishHoop k r 1 none [] false
      else
        let s1 := s.winsToDeadline k sd h (r.deadline / rcWindow r.common + 2 - r.nextWin)
        match s1.openHoop k sd h with
        | none => s1
        | some r1 =>
          let cut := match r1.lastWin with | some w => w | none => r1.start / rcWindow r1.common - 1
          (s1.advHt k (r1.deadline * nsTu)).finishHoop k r1 0 (some cut) (r1.running.getD (lanesEmpty r1.lanes)) false

/-- HOOP_ABORT: the decider ends the hoop ABORTED unless it has been decided; an ID without a recipe has no effect (R189). -/
def opHoopAbort (k : NodeSel) (sd : Sd) (h : HoopId) (s : State) : State :=
  if !s.isDecider k then s
  else match s.recipeOf k sd h with
    | none => s
    | some c =>
      if h ∈ c.ended then s
      else
        let r := (s.rhoop k sd h).getD { s.newRHoop k sd h (BitVec.ofNat 16 ((s.root k).hwmOf sd)) c with firstHead := none }
        if r.decided.isSome then s else s.finishHoop k r 4 none [] false

/-! ## The other root (R186, R227) -/

/-- The root that does not decide takes an outcome over CROSS: verdict computed again, its own tree's hoop ended, what a root draws from
it, and the outcome unchanged on its own tree (R186, R194, R227, R228). No message tells this root the decision HT: the nanoseconds in its
alarm record are a free value (R279, log 118). -/
def State.otherRootDown (s : State) (k : NodeSel) (m : HoopDown) : State :=
  let held := s.rhoop k m.sd m.hoopId
  let rc := s.recipeOf k m.sd m.hoopId
  let common := match held with | some r => r.common | none => (match rc with | some c => c.common | none => 0)
  let lanes := match held with | some r => r.lanes | none => (match rc with | some c => c.lanes | none => [])
  let known := held.isSome || rc.isSome
  let s1 :=
    if known && decide (m.outcome = 0) && !rcInst common && decide (verdictOf common lanes m.lanes ≠ m.verdict) then
      (s.takeFree.2.bump k 0x80720).raiseAlarm k 1 m.sd m.hoopId (Config.freeBits 30 s.freeCtr).toNat
    else s
  let s2 := match held with
    | some r => s1.putRHoop k { r with decided := some { outcome := m.outcome, cut := m.cut, lanes := m.lanes, lflag := m.lflag,
                                                         verdict := m.verdict, relNs := none, ns := s.htNs k } }
    | none => s1
  let s3 :=
    if !known then s2
    else if rcInst common then s2.endInstall k m.sd m.hoopId m.outcome (held.bind (fun r => r.own.total))
    else s2.rootDraw k m common lanes (match held with | some r => r.openTick | none => s.openTickOf k m.sd m.hoopId)
  s3.relayDown k (s.cfg k).dom m

/-- HOOP_DECIDER: a root that ceases to decide sends over CROSS what such a root sends for each open hoop; one that begins to decide
judges every open hoop from its own tree, a QUORUM hoop in the windows that are already due (R186, log 116). -/
def opHoopDecider (v : Bool) (s : State) : State :=
  let was := s.isDecider .mary
  let s1 := s.setReg .mary 0x7F044 (BitVec.ofNat 32 (b01 v))
  let now := s1.isDecider .mary
  let hoops := (s1.root .mary).hoops.filter (fun r => r.decided.isNone)
  let up (r : RHoop) (inc : Bool) (w : Option (BitVec 24)) (ls : List (BitVec 240)) : HoopUp :=
    { sd := r.sd, hoopId := r.hoopId, gen := r.gen, missed := false, incomplete := inc, xtree := true, win := w, lanes := ls }
  if was && !now then
    s1.each hoops (fun s r =>
      let s2 := match r.own.total with | some t => s.sendCross r.lanes (up r false none t) | none => s
      let s3 := if r.own.incAll then s2.sendCross r.lanes (up r true none []) else s2
      let s4 := s3.each r.own.incWin (fun s w => s.sendCross r.lanes (up r true (some w) []))
      s4.each r.own.wins (fun s p => s.sendCross r.lanes (up r false (some p.1) p.2)))
  else if !was && now then
    s1.each hoops (fun s r =>
      let past := (s.htNs .mary - rcSettle r.common * 64) / rcWindow r.common
      if r.missed then s.finishHoop .mary r 1 none [] false
      else if rcQuorum r.common then s.putRHoop .mary { r with soloWin := if past = 0 then none else some (past - 1) }
      else match r.own.total with
        | some t => s.finishHoop .mary r 0 none t false
        | none => s)
  else s1

/-- CROSS leaves ACTIVE: the decider's hoops note it for their windows; a root that does not decide drops its open hoops and combine
contexts and counts them in HOOP_XDROP (R186, R191). -/
def State.crossLeft (s : State) : State :=
  if s.isDecider .mary then
    let sds := ((s.root .mary).hoops.map (fun r => r.sd) ++ (s.recipes .mary).map (fun r => r.sd)).eraseDups
    s.each sds (fun s sd => s.each ((s.openHoops .mary sd).filter (fun r => rcQuorum r.common)) (fun s r => s.putRHoop .mary { r with crossLost := true }))
  else
    let n := ((s.root .mary).hoops.filter (fun x => x.decided.isNone)).length + (s.ctxs .mary).length
    ((s.modRoot .mary (fun r => { r with hoops := r.hoops.filter (fun x => x.decided.isSome) })).modNode .mary
      (fun N => { N with ctxs := [] })).bumpBy .mary 0x80724 n

/-- HOOP_DEADLINE. -/
def execHoopDeadline (n : NodeSel) (sd : Sd) (h : HoopId) (s : State) : Host.Outcome State Fault Refusal :=
  .next (s.live n (opHoopDeadline n sd h))
/-- QUORUM_WINDOW_PROCESS. -/
def execQuorumWindowProcess (n : NodeSel) (sd : Sd) (h : HoopId) (s : State) : Host.Outcome State Fault Refusal :=
  .next (s.live n (opWindowProcess n sd h))
/-- HOOP_ABORT. -/
def execHoopAbort (n : NodeSel) (src : Src) (sd : Sd) (h : HoopId) (s : State) : Host.Outcome State Fault Refusal :=
  .next (s.access n src 0x80214 (opHoopAbort n sd h))
/-- HOOP_DECIDER. -/
def execHoopDecider (src : Src) (v : Bool) (s : State) : Host.Outcome State Fault Refusal :=
  .next (s.access .mary src 0x7F044 (opHoopDecider v))

end Sys2Proof.Machine
end

