-- ==== Sys2Proof/Machine/Combine.lean ====
section
/-! DEFINITION. Combining HOOP-UPs at a node (R183 to R185), stale traffic (R255), the relay of outcomes (R186, R196), and their
commands. -/

namespace Sys2Proof.Machine

/-! ## Sending toward the root -/

/-- The values of a window's partial that waits in a queue as tokens (R180). -/
def decodeUp (ds : List W32) (toks : Tokens) : List (BitVec 240) :=
  let bodies := (toks.drop 2).map (fun t => (tokBody t).toNat)
  let np := (ds.filter (fun d => !laneExact d)).length
  let nt := (64 * np + 47) / 48
  let plain := streamOf 48 (bodies.take nt)
  let exact := bodies.drop nt
  let step (acc : List (BitVec 240) × Nat × Nat) (d : W32) : List (BitVec 240) × Nat × Nat :=
    if laneExact d then (acc.1 ++ [BitVec.ofNat 240 (streamOf 48 ((exact.drop (5 * acc.2.2)).take 5))], acc.2.1, acc.2.2 + 1)
    else (acc.1 ++ [BitVec.ofNat 240 (plain / 2 ^ (64 * acc.2.1) % 2 ^ 64)], acc.2.1 + 1, acc.2.2)
  (ds.foldl step ([], 0, 0)).1

/-- A QUORUM partial joins an output queue: merged with a partial of the same hoop and window that waits there (R190). -/
def mergeUp (ds : List W32) (q : List Tokens) (m : HoopUp) : List Tokens :=
  let t := hoopUpToks ds m
  if m.win.isNone || m.incomplete || m.missed then q ++ [t]
  else if q.any (fun x => decide (x.take 2 = t.take 2 ∧ x.length = t.length)) then
    q.map (fun x =>
      if x.take 2 = t.take 2 ∧ x.length = t.length then hoopUpToks ds { m with lanes := lanesCombine ds (decodeUp ds x) m.lanes } else x)
  else q ++ [t]

/-- A HOOP-UP goes toward the root of a domain: on the UP port, or into the node's own root (R59, R186). -/
def State.emitUp (s : State) (k : NodeSel) (d : Dom) (ds : List W32) (m : HoopUp) : State :=
  if s.isRoot k then s.rootUp k (decide (k = .leaf) && decide (d = .b)) m
  else match s.upCell k d with
    | none => s
    | some i => s.modCell k i (fun c => if c.ts = .active then { c with c0q := mergeUp ds c.c0q m } else c)

/-- A head-only HOOP-UP (R180, R182). -/
def headUp (sd : Sd) (h : HoopId) (g : Gen) (missed incomplete : Bool) (win : Option (BitVec 24)) : HoopUp :=
  { sd := sd, hoopId := h, gen := g, missed := missed, incomplete := incomplete, xtree := false, win := win, lanes := [] }

/-- The window of the present edge (R190). -/
def State.winNow (s : State) (k : NodeSel) (c : BitVec 288) : Nat := s.htNs k / rcWindow c

/-- The WIN token of a head-only message: the current window in QUORUM mode (R180, R190). -/
def State.winTok (s : State) (k : NodeSel) (c : BitVec 288) : Option (BitVec 24) :=
  if rcQuorum c then some (BitVec.ofNat 24 (s.winNow k c)) else none

/-! ## Contexts -/

/-- The open context of a key (R184). -/
def State.ctxOf (s : State) (k : NodeSel) (sd : Sd) (h : HoopId) (d : Dom) : Option Ctx :=
  (s.ctxs k).find? (fun x => decide (x.sd = sd ∧ x.hoopId = h ∧ x.dom = d))

/-- Put a context in place of any other of its key. -/
def State.putCtx (s : State) (k : NodeSel) (c : Ctx) : State :=
  s.modNode k (fun N => { N with ctxs := N.ctxs.filter (fun x => !decide (x.sd = c.sd ∧ x.hoopId = c.hoopId ∧ x.dom = c.dom)) ++ [c] })

/-- Close the context of a key (R185). -/
def State.closeCtx (s : State) (k : NodeSel) (sd : Sd) (h : HoopId) (d : Dom) : State :=
  (s.modNode k (fun N => { N with ctxs := N.ctxs.filter (fun x => !decide (x.sd = sd ∧ x.hoopId = h ∧ x.dom = d)) })).markClosed k sd h d

/-- Is no context free: 4,096 at a Maryel, one a slot and tree at a leaf (R184, Table 8.9)? -/
def State.ctxFull (s : State) (k : NodeSel) (d : Dom) : Bool :=
  match k with
  | .mary => decide (4096 ≤ (s.ctxs .mary).length)
  | .leaf => decide (32 ≤ ((s.ctxs .leaf).filter (fun x => decide (x.dom = d))).length)

/-- The sum of a slot's partial for a tree (R176). -/
def Slot.accOf (x : Slot) (d : Dom) : List (BitVec 240) := match d with | .a => x.accA | .b => x.accB

/-- Change the sum of a slot's partial for a tree. -/
def Slot.modAcc (x : Slot) (d : Dom) (f : List (BitVec 240) → List (BitVec 240)) : Slot :=
  match d with
  | .a => { x with accA := f x.accA }
  | .b => { x with accB := f x.accB }

/-- The slot in which a leaf holds a hoop of its binding open. -/
def State.openSlotOf (s : State) (sd : Sd) (h : HoopId) : Option Nat :=
  match s.leaf.binding with
  | none => none
  | some b => if b.sd ≠ sd then none else (s.slotFor sd h b.gen).filter (fun i => decide ((s.slot i).st = .open_))

/-- A leaf's partial for a tree, given its children's part: none where it is no member; else, once every member input is taken, the sum
its slot keeps (R170, R176, R183), or the children's part with its install counts (R147). -/
def State.leafOwn (s : State) (sd : Sd) (h : HoopId) (c : Recipe) (d : Dom) (acc : List (BitVec 240)) :
    Option (Option (List (BitVec 240))) :=
  match s.leaf.binding with
  | none => none
  | some b =>
    if b.sd ≠ sd ∨ !memberOf b c.common then none
    else if rcInst c.common then
      some ((s.instFor sd h b.gen).map (fun k =>
        lanesCombine c.lanes acc [BitVec.ofNat 240 (s.instCtx k).counts.1, BitVec.ofNat 240 (s.instCtx k).counts.2]))
    else
      some ((s.openSlotOf sd h).bind (fun i =>
        let x := s.slot i
        if (if rcHost c.common then x.hostDone = true else x.ports &&& ~~~ x.contributed = 0) then some (x.accOf d) else none))

/-- Note at a leaf's slot that a tree's partial has been sent (Table 17.9). -/
def State.noteSent (s : State) (sd : Sd) (h : HoopId) (d : Dom) : State :=
  match s.leaf.binding with
  | none => s
  | some b =>
    match s.slotFor sd h b.gen with
    | none => s
    | some i => s.modSlot i (fun x => match d with | .a => { x with sentA := true } | .b => { x with sentB := true })

/-- In ALL mode a tree's partial leaves once every own input and every DOWN port with members has sent (R183, R184). -/
def State.tryUp (s : State) (k : NodeSel) (d : Dom) (sd : Sd) (h : HoopId) (g : Gen) (c : Recipe) : State :=
  let x := s.ctxOf k sd h d
  let got := match x with | some y => y.got | none => []
  let acc := match x with | some y => y.acc | none => lanesEmpty c.lanes
  if rcQuorum c.common || !((s.memberPorts k d sd).all (fun p => decide (p ∈ got))) then s
  else
    let send (v : List (BitVec 240)) : State :=
      let m : HoopUp := { sd := sd, hoopId := h, gen := g, missed := false, incomplete := false, xtree := false, win := none, lanes := v }
      let s1 := s.closeCtx k sd h d
      (if k = .leaf then s1.noteSent sd h d else s1).emitUp k d c.lanes m
    match k with
    | .mary => send acc
    | .leaf =>
      match s.leafOwn sd h c d acc with
      | none => if x.isSome then send acc else s
      | some none => s
      | some (some v) => if s.isClosed .leaf sd h d then s else send v

/-! ## HOOP_UP_RX -/

/-- STALE_RETURN: the message is dropped and counted, and a STALE outcome goes back down its port once (R255). -/
def State.staleReturn (s : State) (k : NodeSel) (cell : Nat) (m : HoopUp) : State :=
  let s1 := s.bump k (offDropStale k)
  let r : StaleRet := { sd := m.sd, hoopId := m.hoopId, gen := m.gen, port := cell }
  if s.onNode k (fun N => decide (r ∈ N.stale)) then s1
  else
    let down : HoopDown := { sd := m.sd, hoopId := m.hoopId, gen := m.gen, outcome := 2, aligned := false, verdict := 0, dest := 0,
                             all := true, relNs := 0, cut := none, lanes := [], lflag := 0 }
    ((s1.modNode k (fun N => { N with stale := (r :: N.stale).take 64 })).bump k (offStaleRet k)).sendC0 k cell (hoopDownToks down)

/-- Has the decider ended a hoop COMPLETE, so that it goes on taking messages of it to compare or count them (R187, R193)? -/
def State.comparing (s : State) (k : NodeSel) (sd : Sd) (h : HoopId) : Bool :=
  s.isDecider k && (match s.rhoop k sd h with
    | some r => (match r.decided with | some x => decide (x.outcome = 0) | none => false)
    | none => false)

/-- The recipe a node combines with: the one it holds, or at a root that of a hoop it still decides or compares (R187). -/
def State.combRecipe (s : State) (k : NodeSel) (sd : Sd) (h : HoopId) (g : Gen) : Option Recipe :=
  match s.rhoop k sd h with
  | some r =>
    if s.isRoot k && (r.decided.isNone || (s.comparing k sd h && !rcQuorum r.common)) then
      some { sd := sd, gen := g, hoopId := h, common := r.common &&& ~~~ (BitVec.ofNat 288 (0x3FF * 2 ^ 262)), lanes := r.lanes, ended := [],
             seen := (true, true) }
    else s.recipeOf k sd h
  | none => s.recipeOf k sd h

/-- Would a message find its context closed (R185)? The decider goes on taking those of a COMPLETE hoop (R187). -/
def State.upClosed (s : State) (k : NodeSel) (sd : Sd) (h : HoopId) (d : Dom) : Bool := s.isClosed k sd h d && !s.comparing k sd h

/-- A HOOP-UP that a node cannot combine goes on at once as a head-only INCOMPLETE, with the WIN token given (R180, R184, R185, R256,
R361). -/
def State.passIncomplete (s : State) (k : NodeSel) (d : Dom) (m : HoopUp) (win : Option (BitVec 24)) : State :=
  s.emitUp k d [] { m with incomplete := true, win := win, lanes := [] }

/-- No context is free for a key: the message goes on INCOMPLETE, CTX_FULL counts, and later messages of the key fare the same (R184). -/
def State.passFull (s : State) (k : NodeSel) (d : Dom) (m : HoopUp) : State :=
  let key : Sd × HoopId × Dom := (m.sd, m.hoopId, d)
  let s1 := s.modNode k (fun N => if key ∈ N.noCtx then N else { N with noCtx := N.noCtx ++ [key] })
  (if k = .mary then s1.bumpDiag .mary 0x90410 else s1).passIncomplete k d m none

/-- A child's partial enters the sum of a leaf's open slot, in the order taken (R176). -/
def State.addPart (s : State) (k : NodeSel) (d : Dom) (m : HoopUp) (lanes : List W32) : State :=
  match k, s.openSlotOf m.sd m.hoopId with
  | .leaf, some i => s.modSlot i (fun x => x.modAcc d (fun acc => lanesCombine lanes acc m.lanes))
  | _, _ => s

/-- A HOOP-UP in ALL mode at a node that holds its recipe: MISSED and INCOMPLETE go on at once and close the context, a partial is
combined (R184, R185). -/
def State.combine (s : State) (k : NodeSel) (cell : Nat) (d : Dom) (m : HoopUp) (c : Recipe) : State :=
  if s.onNode k (fun N => decide ((m.sd, m.hoopId, d) ∈ N.noCtx)) then s.passFull k d m
  else if m.missed || m.incomplete then
    (s.closeCtx k m.sd m.hoopId d).emitUp k d c.lanes (headUp m.sd m.hoopId m.gen m.missed m.incomplete none)
  else
    match s.ctxOf k m.sd m.hoopId d with
    | some x =>
      if cell ∈ x.got then s.bump k (offDropDone k)
      else ((s.putCtx k { x with got := x.got ++ [cell], acc := lanesCombine c.lanes x.acc m.lanes }).addPart k d m c.lanes).tryUp
        k d m.sd m.hoopId m.gen c
    | none =>
      if s.ctxFull k d then s.passFull k d m
      else
        ((s.putCtx k { sd := m.sd, hoopId := m.hoopId, dom := d, gen := m.gen, openAt := s.ht k, got := [cell],
                       acc := lanesCombine c.lanes (lanesEmpty c.lanes) m.lanes }).addPart k d m c.lanes).tryUp k d m.sd m.hoopId m.gen c

/-- A HOOP-UP of a QUORUM hoop: a window's partial goes on as it arrives; the hoop, unless it has ended, is known to be open (R190). -/
def State.passWindow (s : State) (k : NodeSel) (cell : Nat) (d : Dom) (m : HoopUp) (c : Recipe) : State :=
  let s1 := if s.isClosed k m.sd m.hoopId d then s else match s.ctxOf k m.sd m.hoopId d with
    | some x => s.putCtx k { x with got := if cell ∈ x.got then x.got else x.got ++ [cell] }
    | none => s.putCtx k { sd := m.sd, hoopId := m.hoopId, dom := d, gen := m.gen, openAt := s.ht k, got := [cell], acc := [] }
  s1.emitUp k d c.lanes (if m.missed || m.incomplete then { m with lanes := [] } else m)

/-- The partial of a combine context, or of a leaf's slot, is lost: a head-only INCOMPLETE goes on, and in ALL mode the context closes (R184,
R271). -/
def State.ctxLost (s : State) (k : NodeSel) (d : Dom) (sd : Sd) (h : HoopId) (g : Gen) (c : Recipe) : State :=
  if rcQuorum c.common then s.emitUp k d c.lanes (headUp sd h g false true (s.winTok k c.common))
  else
    let s1 := s.closeCtx k sd h d
    (if k = .leaf then s1.noteSent sd h d else s1).emitUp k d c.lanes (headUp sd h g false true none)

/-- An uncorrectable error in a combine context, counted in CTX_UE (R184, R271). -/
def State.ctxUe (s : State) (k : NodeSel) (d : Dom) (sd : Sd) (h : HoopId) (g : Gen) (c : Recipe) : State :=
  (s.bumpDiag k (match k with | .leaf => 0xB51C | .mary => 0x90414)).ctxLost k d sd h g c

/-- Does a node hold a partial of a hoop that a message is about to enter: a context, or at a leaf an open slot (R184)? -/
def State.holdsPart (s : State) (k : NodeSel) (d : Dom) (sd : Sd) (h : HoopId) : Bool :=
  (s.ctxOf k sd h d).isSome || (decide (k = .leaf) && (s.openSlotOf sd h).isSome)

/-- The decider holds a hoop from its first HOOP-UP head on, from which the deadline counts where no opening tick is known (R188). -/
def State.noteHead (s : State) (k : NodeSel) (m : HoopUp) (c : Recipe) : State :=
  if s.isRoot k && s.isDecider k && (s.rhoop k m.sd m.hoopId).isNone && !decide (m.hoopId ∈ c.ended) then
    s.putRHoop k (s.newRHoop k m.sd m.hoopId m.gen c)
  else s

/-- A root that does not decide, with CROSS not ACTIVE: it drops hoop contexts and what would open one (R186). -/
def State.cutOff (s : State) (k : NodeSel) : Bool := decide (k = .mary) && s.isRoot k && !s.isDecider k && s.crossActive.isNone

/-- A message that a node can combine: it meets the error its context shows, or is combined or, in QUORUM mode, passed on (R184, R190). -/
def State.takeUp (s : State) (k : NodeSel) (cell : Nat) (d : Dom) (m : HoopUp) (ue : Bool) (c : Recipe) : State :=
  if ue && s.holdsPart k d m.sd m.hoopId then
    let s1 := s.ctxUe k d m.sd m.hoopId m.gen c
    if rcQuorum c.common then s1.passWindow k cell d m c else s1.bump k (offDropDone k)
  else if rcQuorum c.common then s.passWindow k cell d m c
  else s.combine k cell d m c

/-- A 65th SD at a relaying leaf: one head-only INCOMPLETE without a WIN token for each hoop (R256). -/
def State.passOver (s : State) (k : NodeSel) (d : Dom) (m : HoopUp) : State :=
  if s.isClosed k m.sd m.hoopId d then s.bump k (offDropDone k)
  else (s.markClosed k m.sd m.hoopId d).passIncomplete k d m none

/-- A HOOP-UP from below (R184, R185, R186, R255, R256, R361). -/
def State.upFromBelow (s : State) (k : NodeSel) (cell : Nat) (m : HoopUp) (ue : Bool) : State :=
  let d := (s.cell k cell).cfg.dom
  let cur := s.curGenOf k m.sd
  if (match cur with | some g => decide (m.gen.toNat < g.toNat) | none => false) then s.staleReturn k cell m
  else
    let s1 := s.bumpIf (match cur with | some g => decide (m.gen.toNat > g.toNat) | none => false) k (offGenAhead k)
    if s.cutOff k then s1.bump .mary 0x80724
    else if !s.membOk k then (s1.bumpDiag k (offMembInvalid k)).passIncomplete k d m m.win
    else if s.membOver k m.sd then s1.passOver k d m
    else if s.upClosed k m.sd m.hoopId d then s1.bump k (offDropDone k)
    else
      match s.combRecipe k m.sd m.hoopId m.gen with
      | none =>
        if s.isRoot k && s.isDecider k then s1.rootUp k (decide (k = .leaf) && decide (d = .b)) m
        else (s1.bump k (offNoRecipe k)).passIncomplete k d m none
      | some c => (s1.noteHead k m c).takeUp k cell d m ue c

/-- HOOP_UP_RX: from a DOWN cell it is combined or forwarded; from CROSS it is the other root's (R184, R186). `ue` is an uncorrectable error that
the context of its key shows when the message enters it. -/
def opHoopUpRx (c : CellRef) (m : HoopUp) (ue : Bool) (s : State) : State :=
  let x := s.cell c.node c.idx
  if x.ts ≠ .active then s
  else if x.cfg.role = 2 then s.upFromBelow c.node c.idx m ue
  else if x.cfg.role = 3 ∧ m.xtree then
    if (match s.curGenOf .mary m.sd with | some g => decide (m.gen.toNat < g.toNat) | none => false) then s.staleReturn .mary c.idx m
    else s.rootUp .mary true m
  else s.dropRoute c.node c.idx

/-- CONTEXT_DEADLINE: a context open for DEADLINE sends INCOMPLETE and closes, with the excision record of its silent ports (R185, R276);
one in which the decider only compares closes without either (log 110). -/
def opContextDeadline (k : NodeSel) (d : Dom) (sd : Sd) (h : HoopId) (s : State) : State :=
  match s.ctxOf k sd h d, s.combRecipe k sd h 0 with
  | some x, some c =>
    if rcQuorum c.common then s
    else
      let s1 := s.advHt k (x.openAt + rcDeadline c.common * 8 * nsTu)
      if s.comparing k sd h then s1.closeCtx k sd h d
      else
        let s2 := match k with
          | .mary => s1.exciseMary sd h x.gen d ((s1.memberPorts .mary d sd).filter (fun p => !decide (p ∈ x.got))) 0 7
          | .leaf =>
            let own := match s.leaf.binding with
              | some b => if b.sd = sd then (s.slotFor sd h b.gen).map (fun i => s.slot i) else none
              | none => none
            let regs := match own with | some y => y.ports &&& ~~~ y.contributed | none => 0
            let self := match own with | some y => rcHost y.common && !y.hostDone | none => false
            s1.exciseLeaf sd h x.gen d x.got regs self 0 7
        (s2.closeCtx k sd h d).emitUp k d c.lanes (headUp sd h x.gen false true none)
  | _, _ => s

/-- The QUORUM hoops of a tree that a node knows to be open: by a message that has passed; at a leaf by its own slot; at the decider by
their opening; else for each recipe held the lowest ID that has not ended (R190, log 117). -/
def State.openQuorum (s : State) (k : NodeSel) (d : Dom) : List (Sd × HoopId × Gen × List Nat) :=
  let seen : List (Sd × HoopId × Gen × List Nat) := (s.ctxs k).filterMap (fun x =>
    if x.dom = d then some (x.sd, x.hoopId, x.gen, x.got) else none)
  let own : List (Sd × HoopId × Gen × List Nat) := match k with
    | .leaf => (List.range 32).filterMap (fun i =>
        let y := s.slot i
        if y.st = .open_ ∧ y.taken = none then some (y.sd, y.hoopId, y.gen, []) else none)
    | .mary =>
      if s.isDecider .mary then
        ((s.recipes .mary).map (fun r => r.sd)).eraseDups.flatMap (fun sd =>
          (s.openHoops .mary sd).map (fun r => (r.sd, r.hoopId, r.gen, [])))
      else (s.recipes .mary).filterMap (fun r =>
        ((List.range (rcCnt r.common + 1)).find? (fun i => r.hoopId + BitVec.ofNat 16 i ∉ r.ended)).map (fun i =>
          (r.sd, r.hoopId + BitVec.ofNat 16 i, r.gen, [])))
  seen ++ own.filter (fun x => !seen.any (fun y => decide (y.1 = x.1 ∧ y.2.1 = x.2.1)))

/-- A DOWN port with members has left ACTIVE: for each QUORUM hoop open below it the node sends INCOMPLETE for the current window, with a
record PORT_LOST (R190, R276). -/
def State.portLost (s : State) (k : NodeSel) (cell : Nat) : State :=
  let d := (s.cell k cell).cfg.dom
  s.each (s.openQuorum k d) (fun s x =>
    match s.recipeOf k x.1 x.2.1 with
    | none => s
    | some c =>
      if !rcQuorum c.common || s.membOf k x.1 cell = 0 || s.isClosed k x.1 x.2.1 d then s
      else
        let s1 := match k with
          | .mary => s.exciseMary x.1 x.2.1 x.2.2.1 d [cell] 2 7
          | .leaf => s.exciseLeaf x.1 x.2.1 x.2.2.1 d ((s.memberPorts .leaf d x.1).filter (fun p => p != cell)) 0 false 2 7
        s1.emitUp k d c.lanes (headUp x.1 x.2.1 x.2.2.1 false true (s.winTok k c.common)))

/-- HOOP_DOWN_RX: from an UP cell the outcome is relayed on its tree, and a leaf takes it; over CROSS it reaches the root that does not
decide (R57, R186, R196). -/
def opHoopDownRx (c : CellRef) (m : HoopDown) (s : State) : State :=
  let k := c.node
  let x := s.cell k c.idx
  if x.ts ≠ .active then s
  else if x.cfg.role = 1 then
    let own := decide (k = .leaf) && (m.all || decide (m.dest = s.nodeId .leaf))
    if !m.all && !own && decide (s.downPorts k x.cfg.dom m = []) then s.dropRoute k c.idx
    else
      let s1 := s.relayDown k x.cfg.dom m
      if own then s1.takeDown m else s1
  else if x.cfg.role = 3 ∧ !s.isDecider .mary then s.otherRootDown .mary m
  else s.dropRoute k c.idx

/-- HOOP_UP_RX. -/
def execHoopUpRx (c : CellRef) (m : HoopUp) (s : State) (ue : Bool := false) : Host.Outcome State Fault Refusal :=
  .next (s.live c.node (opHoopUpRx c m ue))
/-- CONTEXT_DEADLINE. -/
def execContextDeadline (n : NodeSel) (d : Dom) (sd : Sd) (h : HoopId) (s : State) : Host.Outcome State Fault Refusal :=
  .next (s.live n (opContextDeadline n d sd h))
/-- HOOP_DOWN_RX. -/
def execHoopDownRx (c : CellRef) (m : HoopDown) (s : State) : Host.Outcome State Fault Refusal := .next (s.live c.node (opHoopDownRx c m))

end Sys2Proof.Machine
end

