-- ==== Sys2Proof/Machine/LeafHoop.lean ====
section
/-! DEFINITION. Hoops at a leaf: opening (R171), contributions of regions and of the host (R127, R378), windows (R190), marked
contributions (R152), outcomes and limits (R196 to R198), and the arrival of recipes (R147, R169). -/

namespace Sys2Proof.Machine

/-! ## MISSED (R152, R171) -/

/-- A leaf sends a head-only MISSED for a hoop on every UP port on which it has not yet sent, and closes the hoop's contexts (R152,
R171). -/
def State.leafMissed (s : State) (sd : Sd) (h : HoopId) (g : Gen) : State :=
  s.each [Dom.a, Dom.b] (fun s d =>
    match s.recipeOf .leaf sd h with
    | none => s.emitUp .leaf d [] (headUp sd h g true false none)
    | some c =>
      if s.isClosed .leaf sd h d then s
      else ((s.closeCtx .leaf sd h d).noteSent sd h d).emitUp .leaf d c.lanes (headUp sd h g true false (s.winTok .leaf c.common)))

/-- A HOOP-UP can leave on a tree: at a root, or on an ACTIVE UP port. -/
def State.canSend (s : State) (d : Dom) : Bool := s.isRoot .leaf || s.upActive .leaf d

/-- A mark can still be sent for a hoop: on some tree on which a HOOP-UP can leave, its contexts are not closed (R152). -/
def State.canMiss (s : State) (sd : Sd) (h : HoopId) : Bool :=
  [Dom.a, Dom.b].any (fun d => s.canSend d && ((s.recipeOf .leaf sd h).isNone || !s.isClosed .leaf sd h d))

/-- A slot owes a contribution: on some tree none has left, and none has been replaced by INCOMPLETE or MISSED (R152). -/
def State.owes (s : State) (i : Nat) (sd : Sd) : Bool :=
  let x := s.slot i
  decide (x.st = .open_) && decide (x.sd = sd) && x.taken.isNone &&
    [Dom.a, Dom.b].any (fun d => s.canSend d && !(match d with | .a => x.sentA | .b => x.sentB) && !s.isClosed .leaf sd x.hoopId d)

/-- The first open hoop of the SD, by opening tick, to which the leaf owes a contribution (R152). -/
def State.firstOwed (s : State) (sd : Sd) : Option Nat :=
  ((List.range 32).filter (fun i => s.owes i sd)).foldl (fun a i =>
    match a with
    | none => some i
    | some j => if (s.slot i).openTick < (s.slot j).openTick then some i else some j) none

/-- MISS_PENDING meets a hoop that is owed a contribution: the mark is sent and MISS_PENDING clears (R152). -/
def State.markOwed (s : State) : State :=
  if !s.leaf.prick.pending || s.leaf.fatal then s
  else match s.leaf.binding with
    | none => s
    | some b =>
      match s.firstOwed b.sd with
      | none => s
      | some i => (s.leafMissed b.sd (s.slot i).hoopId b.gen).modPrick (fun p => { p with pending := false })

/-- Marks that misses have made due: at once to the hoop a missed HOOP_OPEN names, where the leaf is its member, else to the first hoop
owed a contribution (R152). A leaf without the recipe takes itself for a member (log 31). -/
def State.sendMarks (s : State) : State :=
  let s0 := s.modPrick (fun p => { p with marks := [] })
  let s1 := match s.leaf.binding with
    | none => s0
    | some b =>
      s0.each s.leaf.prick.marks (fun s h =>
        if s.leaf.fatal || !s.canMiss b.sd h || (match s.recipeOf .leaf b.sd h with | some c => !memberOf b c.common | none => false) then s
        else (s.leafMissed b.sd h b.gen).modPrick (fun p => { p with pending := false }))
  s1.markOwed

/-! ## Opening (R171, R222) -/

/-- The slot an open takes: the lowest FREE, or the oldest CLOSED (R171, R197). -/
def State.openSlot (s : State) : Option Nat :=
  match (List.range 32).find? (fun i => decide ((s.slot i).st = .free)) with
  | some i => some i
  | none =>
    ((List.range 32).filter (fun i => decide ((s.slot i).st = .closed))).foldl (fun a i =>
      match a with
      | none => some i
      | some j => if (s.slot i).closedAt.toNat < (s.slot j).closedAt.toNat then some i else some j) none

/-- A hoop of an SD whose membership below the leaf could not be kept opens: on each tree with DOWN ports its contribution is a head-only
INCOMPLETE (R256). -/
def State.openOver (s : State) (sd : Sd) (h : HoopId) (g : Gen) (c : Recipe) : State :=
  if !s.membOver .leaf sd then s
  else s.each [Dom.a, Dom.b] (fun s d =>
    if s.downCells .leaf d = [] ∨ s.isClosed .leaf sd h d then s
    else ((s.closeCtx .leaf sd h d).noteSent sd h d).emitUp .leaf d c.lanes (headUp sd h g false true none))

/-- HOOP_OPEN at a leaf: the slot whose strobe lands, or none where the firing has no effect or the leaf sends MISSED (R171). -/
def State.openHoopAt (s : State) (b : Binding) (h : HoopId) (ports : W16) (tick : Nat) : State × Option Nat :=
  match s.recipeOf .leaf b.sd h with
  | none => ((s.bump .leaf 0xB500).leafMissed b.sd h b.gen, none)
  | some c =>
    if !memberOf b c.common then (s, none)
    else if (List.range 32).any (fun i => decide ((s.slot i).st = .open_) && (s.slot i).holds b.sd h b.gen) then (s.bump .leaf 0xB508, none)
    else match s.openSlot with
      | none => ((s.bump .leaf 0xB504).leafMissed b.sd h b.gen, none)
      | some i =>
        let sum (d : Dom) : List (BitVec 240) := match s.ctxOf .leaf b.sd h d with
          | some y => if rcQuorum c.common then lanesEmpty c.lanes else y.acc
          | none => lanesEmpty c.lanes
        let x : Slot :=
          { Slot.reset with
            st := .open_, sd := b.sd, hoopId := h, gen := b.gen, common := c.common, lanes := c.lanes,
            ports := if rcHost c.common then 0 else ports, openTick := tick,
            fp := if s.leaf.seed.fpValid then some s.leaf.seed.fpValue else none, accA := sum .a, accB := sum .b,
            grace := s.fld .leaf 0xB020 19 0, hold := s.fld .leaf 0xB024 15 0 }
        ((((s.freeSlot i).modSlot i (fun _ => x)).openOver b.sd h b.gen c).markOwed, some i)

/-! ## Inputs (R127, R183, R190, R193, R222) -/

/-- Carried values of one input, fingerprint lanes replaced (R222). -/
def Slot.input (x : Slot) (v : List W64) : List (BitVec 240) :=
  lanesInput x.lanes (x.lanes.zipIdx.map (fun p =>
    if laneRole p.1 = 5 then x.fp.getD 0
    else if laneRole p.1 = 6 then x.fp.getD 0xFFFFFFFFFFFFFFFF#64
    else v.getD p.2 0))

/-- A window's own sum takes an input. -/
def addWin (lanes : List W32) (ws : List WinAcc) (w : Nat) (v : List (BitVec 240)) : List WinAcc :=
  if ws.any (fun x => x.win == w && !x.sent) then
    ws.map (fun x => if x.win == w && !x.sent then { x with acc := lanesCombine lanes x.acc v } else x)
  else ws ++ [{ win := w, acc := lanesCombine lanes (lanesEmpty lanes) v, sent := false }]

/-- The slot with an input taken from port `p` (16 is the host) in window `w`. -/
def Slot.take (x : Slot) (p w : Nat) (v : List W64) : Slot :=
  let y := if p = 16 then { x with hostDone := true } else { x with contributed := setBit x.contributed p }
  let z := { y with inWin := y.inWin ++ [(p, w)] }
  if rcQuorum x.common then { z with wins := addWin x.lanes x.wins w (x.input v) }
  else { z with accA := lanesCombine x.lanes x.accA (x.input v), accB := lanesCombine x.lanes x.accB (x.input v) }

/-- The recipe of an open hoop: the one held, or the slot's copy of it. -/
def State.slotRecipe (s : State) (x : Slot) : Recipe :=
  (s.recipeOf .leaf x.sd x.hoopId).getD
    { sd := x.sd, gen := x.gen, hoopId := x.hoopId, common := x.common, lanes := x.lanes, ended := [], seen := (true, true) }

/-- An input taken at a slot; in ALL mode a complete partial leaves on each tree (R183). -/
def State.takeInput (s : State) (i p : Nat) (v : List W64) : State :=
  let x := s.slot i
  let c := s.slotRecipe x
  let s1 := s.modSlot i (fun x => x.take p (s.winNow .leaf x.common) v)
  (s1.tryUp .leaf .a x.sd x.hoopId x.gen c).tryUp .leaf .b x.sd x.hoopId x.gen c

/-- The partial of a slot shows an uncorrectable error when an input enters it: each tree on which nothing has left gets a head-only INCOMPLETE
(R271). -/
def State.slotUe (s : State) (i : Nat) : State :=
  let x := s.slot i
  (s.bump .leaf 0xB51C).each [Dom.a, Dom.b] (fun s d =>
    if s.isClosed .leaf x.sd x.hoopId d then s else s.ctxLost .leaf d x.sd x.hoopId x.gen (s.slotRecipe x))

/-- Offset of a register of region port n (Table 17.11). -/
def rOff (n off : Nat) : Nat := 0xD100 + n * 0x40 + off

/-- A refused contribution: rp_hc_err with the code, counted in RP_HC_ERR_n (R127). -/
def State.hcRefuse (s : State) (p : Nat) (code : BitVec 2) : State :=
  (s.modRegion p (fun r => { r with hcErr := true, hcCode := code })).bump .leaf (rOff p 0x1C)

/-- rp_hc_rdy: 0 only when the queue of 64 lanes is full, and while the port presents nothing (R127, R133, R134). -/
def Region.hcRdy (r : Region) : Bool := r.crN && decide (r.hcq.length < 64)

/-- A lane transfers; the queue remembers whether rp_hc_vld fell for more than 64 region cycles since its first (R127, Table 6.3). -/
def Region.putLane (r : Region) (x : HcLane) : Region :=
  { r with hcq := r.hcq ++ [x], hcAt := r.tally, hcGap := r.hcq != [] && (r.hcGap || decide ((r.tally - r.hcAt).toNat > 65)) }

/-- Are the lanes of a contribution the recipe's, each once and ascending (R127)? -/
def lanesOk (n : Nat) (ls : List (BitVec 4 × W64)) : Bool :=
  if n = 0 then ls.length == 1 else ls.map (fun p => p.1.toNat) == List.range n

/-- What a LATE contribution of a port receives at once: the results of a COMPLETE outcome, else zeros (R193, R197). -/
def State.lateOut (s : State) (i p : Nat) (m : HoopDown) : State :=
  let x := s.slot i
  ((s.modSlot i (fun x => { x with contributed := setBit x.contributed p })).queueOut p (x.portOut i m true)).freeIfDone i

/-- A taken outcome whose release HT has passed takes effect, before any input of the same edge (R196, R199). -/
def State.effectDue (s : State) (i : Nat) : State :=
  let x := s.slot i
  match x.taken, x.relNs with
  | some m, some t => if x.st = .open_ ∧ t * nsTu ≤ s.ht .leaf then s.slotEffect i m else s
  | _, _ => s

/-- The halts whose HT has come (R153). -/
def State.haltsDue (s : State) : State :=
  let due (x : Sd × Nat) : Bool := decide (x.2 * nsTu ≤ s.ht .leaf)
  s.each (s.leaf.prick.halts.filter due) (fun s x =>
    (s.haltEntries x.1).modPrick (fun p => { p with halts := p.halts.filter (fun y => decide (y ≠ x)) }))

/-- Every outcome that takes effect by the present edge, ahead of the guard checks and firings of that edge (R155, R199). -/
def State.outcomesDue (s : State) : State := (s.each (List.range 32) State.effectDue).haltsDue

/-- A whole contribution: taken, refused with a code of Table 6.3, or answered LATE (R127, R193, R197). Lanes told for more than one slot are
missing or outside the recipe of the last lane's slot (log 113). -/
def State.takeLanes (s : State) (p slot : Nat) (ls : List HcLane) (gap ue : Bool) : State :=
  let x := s.slot slot
  if x.st = .free ∨ !x.ports.getLsbD p ∨ !x.landed.getLsbD p then s.hcRefuse p 0
  else if x.contributed.getLsbD p then s.hcRefuse p 1
  else if gap then s.hcRefuse p 3
  else if !(ls.all (fun l => l.slot.toNat == slot) && lanesOk x.lanes.length (ls.map (fun l => (l.lane, l.data)))) then s.hcRefuse p 2
  else
    match (if x.st = .closed then x.eff else if rcQuorum x.common then x.taken else none) with
    | some m => s.lateOut slot p m
    | none => (if ue then s.slotUe slot else s).takeInput slot p (ls.map HcLane.data)

/-- REGION_CONTRIBUTION: a lane transfers at a region edge at which rp_hc_vld and rp_hc_rdy are 1; with the last one the contribution leaves the
queue and is taken or refused (R127), after what the leaf applies first at that edge (R199). `ue` is an uncorrectable error that the slot's
partial shows when a contribution enters it (R271). -/
def opRegionContribution (p : Nat) (e : RpEdge) (slot : Nat) (lane : BitVec 4) (data : W64) (last ue : Bool) (s : State) : State :=
  if s.gated p || s.leaf.fatal then s
  else
    let s1 := s.regionEdge p e
    if !(s1.region p).hcRdy then s1
    else
      let s2 := s1.modRegion p (fun r => r.putLane { slot := BitVec.ofNat 5 slot, lane := lane, data := data })
      if !last then s2
      else
        let r := s2.region p
        ((s2.modRegion p (fun r => { r with hcq := [], hcGap := false })).effectDue slot).takeLanes p slot r.hcq r.hcGap ue

/-- A refused host contribution (R378). -/
def State.hostRefuse (s : State) (code : BitVec 3) : State :=
  ((s.modLeaf (fun l => { l with hcErr := code })).raiseIrq .leaf 25).bump .leaf 0xB520

/-- HC_COMMIT: lanes 0 to NLANE - 1 become the host's input; codes 0 to 2 refuse; at a CLOSED slot it is LATE (R378). -/
def opHcCommit (s : State) : State :=
  let i := s.fld .leaf 0xB000 4 0
  let x := s.slot i
  if x.st = .free ∨ !rcHost x.common then s.hostRefuse 0
  else if x.hostDone then s.hostRefuse 1
  else if (List.range x.lanes.length).any (fun j => !s.leaf.hcWritten.getLsbD j) then s.hostRefuse 2
  else
    let s1 := s.modLeaf (fun l => { l with hcWritten := 0 })
    if x.st = .closed ∨ (rcQuorum x.common ∧ x.taken.isSome) then s1.modSlot i (fun x => { x with hostDone := true })
    else s1.takeInput i 16 ((List.range x.lanes.length).map (fun j => s.reg64 .leaf (0xB100 + 8 * j)))

/-- A window's partial leaves on each UP port, at the window's end (R190). -/
def State.sendWin (s : State) (q : WinLeft) : State :=
  let m : HoopUp := { sd := q.sd, hoopId := q.hoopId, gen := q.gen, missed := false, incomplete := false, xtree := false,
                      win := some (BitVec.ofNat 24 q.win), lanes := q.acc }
  ((s.advHt .leaf ((q.win + 1) * rcWindow q.common * nsTu)).emitUp .leaf .a q.lanes m).emitUp .leaf .b q.lanes m

/-- QUORUM_WINDOW_SEND: at the end of a window in which the leaf took an own input, its partial leaves on each UP port; what a slot owed
when it became FREE goes first (R190, log 109). -/
def opWindowSend (i : Nat) (s : State) : State :=
  match s.leaf.winq.find? (fun q => decide (q.slot = i)) with
  | some q => (s.modLeaf (fun l => { l with winq := l.winq.erase q })).sendWin q
  | none =>
    match ((s.slot i).unsent i).head? with
    | none => s
    | some q =>
      (s.modSlot i (fun x => { x with wins := x.wins.map (fun y => if y.win = q.win then { y with sent := true } else y) })).sendWin q

/-! ## Outcomes and limits (R196 to R198) -/

/-- OUTCOME_TAKE_EFFECT: the release HT of a taken outcome is reached: of a slot, of an install context, or of the first halt of a hoop
without one (R153, R196). -/
def opTakeEffect (r : SlotRef) (s : State) : State :=
  match r with
  | .slot i =>
    let x := s.slot i.val
    match x.taken, x.relNs with
    | some m, some t => if x.st = .open_ then (s.advHt .leaf (t * nsTu)).slotEffect i.val m else s
    | _, _ => s
  | .inst k =>
    match (s.instCtx k.val).taken with
    | some m =>
      let rel := releaseOf (s.htNs .leaf) 0 m
      (if rel.2 then s else s.advHt .leaf (rel.1 * nsTu)).endInstAt k.val
    | none => s
  | .halt =>
    match minNat (s.leaf.prick.halts.map Prod.snd) with
    | some t => (s.advHt .leaf (t * nsTu)).haltsDue
    | none => s

/-- SLOT_HOLD_EXPIRY: SLOT_HOLD after it closed a slot becomes FREE (R197). -/
def opSlotHold (i : Nat) (s : State) : State :=
  let x := s.slot i
  if x.st = .closed then (s.advAfter .leaf x.closedAt (x.hold * cyclesMs)).freeSlot i else s

/-- The outcome limit of a slot in ns (R198). -/
def Slot.limit (x : Slot) : Nat :=
  x.openTick + rcDeadline x.common * 8 + rcRelLead x.common * 64 + (if rcQuorum x.common then rcSettle x.common * 64 else 0) + x.grace * 1000

/-- A hoop that ends at the leaf itself with an outcome of zero results (R198, R252). -/
def Slot.localEnd (x : Slot) (outcome : BitVec 3) : HoopDown :=
  { sd := x.sd, hoopId := x.hoopId, gen := x.gen, outcome := outcome, aligned := false, verdict := 0, dest := 0, all := true, relNs := 0,
    cut := none, lanes := [], lflag := 0 }

/-- OUTCOME_LIMIT_EXPIRY: a leaf that has taken no outcome ends the hoop ABORTED at its own ports (R198). -/
def opOutcomeLimit (i : Nat) (s : State) : State :=
  let x := s.slot i
  if x.st ≠ .open_ ∨ x.taken.isSome then s
  else ((((s.advHt .leaf (x.limit * nsTu)).bump .leaf 0xB518).raiseIrq .leaf 16).slotEffect i (x.localEnd 4))

/-- INSTALL_CONTEXT_EXPIRY: an install context frees at INST_DEADLINE plus HOOP_GRACE after its recipe arrived (R198). -/
def opInstExpiry (k : Nat) (s : State) : State :=
  let c := s.instCtx k
  if c.busy then (s.advAfter .leaf c.since (c.deadln * 4)).endInstAt k else s

/-! ## C2 at a leaf and the arrival of a recipe (R59, R147, R169, R254) -/

/-- Is a C2 message for this leaf's binding? What is not is dropped and counted (R254). -/
def State.c2Mine (s : State) (h : C2Head) : State × Bool :=
  if !h.all && decide (h.dest ≠ s.nodeId .leaf) then (s, false)
  else match s.leaf.binding with
    | none => (s.bump .leaf 0xE108, false)
    | some b =>
      if b.sd ≠ h.sd then (s.bump .leaf 0xE104, false)
      else if b.gen ≠ h.gen then (s.bump .leaf 0xE100, false)
      else (s, true)

/-- A node forwards a C2 message received on an UP cell (R59). -/
def State.passC2 (s : State) (k : NodeSel) (cell : Nat) (h : C2Head) (m : Tokens) : State :=
  s.forwardC2 k cell h (s.c2Ports k (s.cell k cell).cfg.dom h) m

/-- A node keeps a recipe: its contexts, its marks of closed contexts, records and taken outcomes for the range go, since the IDs are new
(R169). -/
def State.keepRecipe (s : State) (k : NodeSel) (r : Recipe) : State :=
  let s1 := match k with
    | .leaf => s.modLeaf (fun l => { l with outs := l.outs.filter (fun x => !r.covers x.1.sd x.1.hoopId) })
    | .mary => s
  s1.modNode k (fun N => { N with recipes := N.recipes ++ [r], closed := N.closed.filter (fun x => !r.covers x.1 x.2.1),
                                  excised := N.excised.filter (fun x => !r.covers x.1 x.2.1),
                                  noCtx := N.noCtx.filter (fun x => !r.covers x.1 x.2.1),
                                  ctxs := N.ctxs.filter (fun x => !r.covers x.sd x.hoopId) })

/-- Accepted and refused images of a batch so far (R147). -/
def State.batchCounts (s : State) (b : Batch) : Nat × Nat := (aget s.leaf.prick.counts b).getD (0, 0)

/-- INSTALL_HOOP_OPEN: the leaf opens the install hoop and contributes its counts at once; with all four contexts busy it sends MISSED
(R147, R171). -/
def State.openInstall (s : State) (r : Recipe) : State :=
  match (List.range 4).find? (fun i => !(s.instCtx i).busy) with
  | none => (s.bump .leaf 0xB504).leafMissed r.sd r.hoopId r.gen
  | some k =>
    let s1 := (s.modPrick (fun p => { p with instDone := p.instDone.filter (fun b => decide (b ≠ rcBatch r.common)) })).modInst k (fun _ =>
      { busy := true, sd := r.sd, gen := r.gen, hoopId := r.hoopId, batch := rcBatch r.common,
        deadln := rcDeadline r.common + s.fld .leaf 0xB020 19 0 * 125, since := s.rc .leaf, taken := none,
        counts := s.batchCounts (rcBatch r.common) })
    (s1.tryUp .leaf .a r.sd r.hoopId r.gen r).tryUp .leaf .b r.sd r.hoopId r.gen r

/-- A recipe reaches the node itself on tree `d`, after it has been forwarded (R169). -/
def State.takeRecipe (s : State) (k : NodeSel) (d : Dom) (m : RecipeMsg) : State :=
  let mine := match k with | .mary => (s, true) | .leaf => s.c2Mine m.head
  let s0 := mine.1
  let relay := s.downCells k d ≠ []
  let key : Sd × HoopId × Gen × Dom := (m.head.sd, m.hoopId, m.head.gen, d)
  if s.onNode k (fun N => decide (key ∈ N.freed)) then
    s0.modNode k (fun N => { N with freed := N.freed.filter (fun x => !decide (x = key)) })
  else if (s.recipes k).any (fun r => decide (r.sd = m.head.sd ∧ r.hoopId = m.hoopId ∧ r.gen = m.head.gen)) then
    s0.modNode k (fun N => { N with recipes := N.recipes.map (fun r =>
      if r.sd = m.head.sd ∧ r.hoopId = m.hoopId then
        { r with seen := match d with | .a => (true, r.seen.2) | .b => (r.seen.1, true) } else r) })
  else if !mine.2 && !relay then s0
  else
    let r : Recipe := { sd := m.head.sd, gen := m.head.gen, hoopId := m.hoopId, common := m.common, lanes := m.lanes, ended := [],
                        seen := (decide (d = .a), decide (d = .b)) }
    let inst := rcInst m.common && mine.2 && decide (k = .leaf)
    if recipeCap k ≤ (s.recipes k).length then
      let s1 := s0.bumpDiag k (offRcpFull k)
      if inst then (s1.bump .leaf 0xB500).leafMissed r.sd r.hoopId r.gen else s1
    else
      let s1 := s0.keepRecipe k r
      if inst then s1.openInstall r else s1

/-- HOOP_RECIPE_RX: forwarded on the member ports, and kept (R59, R169). -/
def opHoopRecipeRx (c : CellRef) (m : RecipeMsg) (s : State) : State :=
  let k := c.node
  let x := s.cell k c.idx
  if x.ts ≠ .active then s
  else if x.cfg.role ≠ 1 then s.dropRoute k c.idx
  else (s.passC2 k c.idx m.head (recipeToks m)).takeRecipe k x.cfg.dom m

/-- HT_SET, and the marks that its read-path step makes due (R39, R152). -/
def opHtSetMarks (v : Ht96) (s : State) : State := (opHtSet v s).sendMarks

/-- HT_SET. -/
def execHtSet (src : Src) (v : Ht96) (s : State) : Host.Outcome State Fault Refusal := .next (s.access .leaf src 0x1068 (opHtSetMarks v))
/-- HOOP_RECIPE_RX. -/
def execHoopRecipeRx (c : CellRef) (m : RecipeMsg) (s : State) : Host.Outcome State Fault Refusal := .next (s.live c.node (opHoopRecipeRx c m))
/-- REGION_CONTRIBUTION. -/
def execRegionContribution (p : Fin 16) (slot : Fin 32) (lane : BitVec 4) (data : W64) (s : State) (e : RpEdge := .same)
    (last : Bool := true) (ue : Bool := false) : Host.Outcome State Fault Refusal :=
  .next (s.live .leaf (opRegionContribution p.val e slot.val lane data last ue))
/-- HC_COMMIT. -/
def execHcCommit (src : Src) (s : State) : Host.Outcome State Fault Refusal := .next (s.access .leaf src 0xB004 opHcCommit)
/-- QUORUM_WINDOW_SEND. -/
def execQuorumWindowSend (slot : Fin 32) (s : State) : Host.Outcome State Fault Refusal := .next (s.live .leaf (opWindowSend slot.val))
/-- OUTCOME_TAKE_EFFECT. -/
def execOutcomeTakeEffect (r : SlotRef) (s : State) : Host.Outcome State Fault Refusal := .next (s.live .leaf (opTakeEffect r))
/-- SLOT_HOLD_EXPIRY. -/
def execSlotHoldExpiry (slot : Fin 32) (s : State) : Host.Outcome State Fault Refusal := .next (s.live .leaf (opSlotHold slot.val))
/-- OUTCOME_LIMIT_EXPIRY. -/
def execOutcomeLimitExpiry (slot : Fin 32) (s : State) : Host.Outcome State Fault Refusal := .next (s.live .leaf (opOutcomeLimit slot.val))
/-- INSTALL_CONTEXT_EXPIRY. -/
def execInstallContextExpiry (k : Fin 4) (s : State) : Host.Outcome State Fault Refusal := .next (s.live .leaf (opInstExpiry k.val))
/-- MISS_MARK_SEND: the marked contribution (R152). -/
def execMissMarkSend (s : State) : Host.Outcome State Fault Refusal := .next (s.live .leaf State.sendMarks)

end Sys2Proof.Machine
end

