-- ==== Sys2Proof/Machine/Seed.lean ====
section
/-! DEFINITION. The stitch generator (R210 to R212), the job key (R206, R208), the calculator (R219), the settings fingerprint (R220,
R221) and the step mark of an island root (R205). -/

namespace Sys2Proof.Machine

/-! ## The stitch generator -/

/-- g[i] (Table 9.2). -/
def stitchG : List W32 := [0x5173A6D1, 0x2B0E8C47, 0xC4D219F3, 0x7A95E06B]
/-- ra[r] (Table 9.3). -/
def stitchRa : List Nat := [12, 28, 16, 24, 20, 8, 4, 12, 28, 16, 24, 20]
/-- rb[r] (Table 9.3). -/
def stitchRb : List Nat := [20, 8, 4, 12, 28, 16, 24, 20, 8, 4, 12, 28]

/-- Word i of a 128-bit quantity, word 0 lowest. -/
def word128 (v : BitVec 128) (i : Nat) : W32 := v.extractLsb' (32 * i) 32

/-- ks(j, i) (R211). -/
def stitchKs (key : BitVec 128) (j i : Nat) : W32 := (word128 key ((i + j) % 4) ^^^ stitchG.getD i 0) + BitVec.ofNat 32 j

/-- The four state words. -/
structure StitchX where
  x0 : W32
  x1 : W32
  x2 : W32
  x3 : W32
  deriving DecidableEq, Repr

/-- Add subkey j to the state (R212). -/
def stitchInject (key : BitVec 128) (j : Nat) (x : StitchX) : StitchX :=
  { x0 := x.x0 + stitchKs key j 0, x1 := x.x1 + stitchKs key j 1, x2 := x.x2 + stitchKs key j 2, x3 := x.x3 + stitchKs key j 3 }

/-- Round r with its injection after every fourth (R212). -/
def stitchRound (key : BitVec 128) (x : StitchX) (r : Nat) : StitchX :=
  let a := x.x0 + x.x1
  let b := x.x1.rotateLeft (stitchRa.getD r 0) ^^^ a
  let c := x.x2 + x.x3
  let d := x.x3.rotateLeft (stitchRb.getD r 0) ^^^ c
  let y : StitchX := { x0 := a, x1 := d, x2 := c, x3 := b }
  if r % 4 = 3 then stitchInject key ((r + 1) / 4) y else y

/-- stitch(KEY, STEP, RANK, STREAM) (R210). -/
def stitch (key : BitVec 128) (step : W64) (rank : Id20) (stream : BitVec 12) : BitVec 128 :=
  let x := (List.range 12).foldl (stitchRound key) (stitchInject key 0
    { x0 := step.extractLsb' 0 32, x1 := step.extractLsb' 32 32, x2 := rank ++ stream, x3 := 0 })
  (x.x3 ++ x.x2) ++ (x.x1 ++ x.x0)

/-- KEY_CHK of a key (R208). -/
def keyChk (key : BitVec 128) : W32 := (stitch key 0xFFFFFFFFFFFFFFFF#64 0xFFFFF#20 0xFFF#12).extractLsb' 0 32

/-- The fingerprint word p of this leaf (Table 9.6). -/
def fpWord : W64 := (Config.rclass .leaf ++ 0x01#8) ++ (0x01#8 ++ 0x7FFF#16) ++ 0x0003#16

/-- The fingerprint of a settings hash and a word p (R220). -/
def fingerprint (hash p : W64) : W64 :=
  let fold := (stitch (p ++ hash) 0 0 0).extractLsb' 0 64
  if fold = 0 then 1 else if fold = 0xFFFFFFFFFFFFFFFF#64 then 0xFFFFFFFFFFFFFFFE#64 else fold

/-! ## Key, calculator, fingerprint, step mark -/

/-- Change the seed part of the leaf. -/
def State.modSeed (s : State) (f : SeedSt → SeedSt) : State := s.modLeaf (fun l => { l with seed := f l.seed })

/-- A leaf takes a key (R206, R208); the same key has no effect. -/
def State.takeKey (s : State) (key : BitVec 128) : State :=
  if s.leaf.seed.key = some key then s else s.modSeed (fun x => { x with key := some key, keyChk := keyChk key })

/-- The key is cleared (R206). -/
def State.clearKey (s : State) : State := s.modSeed (fun x => { x with key := none, keyChk := 0 })

/-- KEY_RX: forwarded on the member ports, and taken by a leaf of its binding (R206, R254). -/
def opKeyRx (c : CellRef) (m : KeyMsg) (s : State) : State :=
  let k := c.node
  let x := s.cell k c.idx
  if x.ts ≠ .active then s
  else if x.cfg.role ≠ 1 then s.dropRoute k c.idx
  else
    let s1 := s.passC2 k c.idx m.head (keyToks m)
    match k with
    | .mary => s1
    | .leaf =>
      let mine := s1.c2Mine m.head
      if mine.2 then mine.1.takeKey m.key else mine.1

/-- STITCH_GO: a calculation starts; with the SD key selected and none held STITCH_ERR is set (R219). -/
def opStitchGo (s : State) : State :=
  let key := if s.fld .leaf 0xC020 0 0 = 0 then s.leaf.seed.key else some s.leaf.seed.stitchKey
  match key with
  | none => s.modSeed (fun x => { x with err := true })
  | some v =>
    let out := stitch v (s.reg64 .leaf 0xC010) ((s.reg .leaf 0xC018).extractLsb' 0 20) ((s.reg .leaf 0xC01C).extractLsb' 0 12)
    s.modSeed (fun x => { x with busy := some (out, s.rc .leaf) })

/-- STITCH_DONE: the result is shown (R219). -/
def opStitchDone (s : State) : State :=
  match s.leaf.seed.busy with
  | some r => s.modSeed (fun x => { x with busy := none, done := true, out := r.1 })
  | none => s

/-- FP_HASH committed: FP_VALID falls until the fingerprint is computed; at a bound leaf the change is counted (R221). -/
def opFpHash (v : W64) (s : State) : State :=
  let s1 := s.modSeed (fun x => { x with fpHash := v, fpValid := false, fpPend := true })
  if s.leaf.binding.isSome then (s1.bump .leaf 0xC114).raiseIrq .leaf 13 else s1

/-- FP_VALID: the fingerprint is shown (R220, R221). -/
def opFpValid (s : State) : State :=
  if s.leaf.seed.fpPend then
    s.modSeed (fun x => { x with fpPend := false, fpValid := true, fpValue := fingerprint x.fpHash fpWord })
  else s

/-- STEP_HWM written: it only rises, and only an island root has one (R205, R380). -/
def opStepHwm (v : W64) (s : State) : State :=
  if (s.cfg .leaf).island ∧ v.toNat > (s.root .leaf).stepHwm.toNat then s.modRoot .leaf (fun r => { r with stepHwm := v })
  else s.refuse .leaf 0xC118

/-- KEY_RX. -/
def execKeyRx (c : CellRef) (m : KeyMsg) (s : State) : Host.Outcome State Fault Refusal := .next (s.live c.node (opKeyRx c m))
/-- STITCH_GO. -/
def execStitchGo (src : Src) (s : State) : Host.Outcome State Fault Refusal := .next (s.access .leaf src 0xC024 opStitchGo)
/-- STITCH_DONE. -/
def execStitchDone (s : State) : Host.Outcome State Fault Refusal := .next (s.live .leaf opStitchDone)
/-- FP_HASH. -/
def execFpHash (src : Src) (v : W64) (s : State) : Host.Outcome State Fault Refusal := .next (s.access .leaf src 0xC054 (opFpHash v))
/-- FP_VALID. -/
def execFpValid (s : State) : Host.Outcome State Fault Refusal := .next (s.live .leaf opFpValid)
/-- STEP_HWM. -/
def execStepHwm (src : Src) (v : W64) (s : State) : Host.Outcome State Fault Refusal := .next (s.access .leaf src 0xC06C (opStepHwm v))

end Sys2Proof.Machine
end

