-- ==== Sys2Proof/Machine/Bind.lean ====
section
/-! DEFINITION. Bindings: what a BIND does at a leaf (Table 11.2, R252, R253), membership at the nodes (R256), leaving an SD (R258), and
the membership registers (R361, R382, R398). -/

namespace Sys2Proof.Machine

/-! ## A leaf's binding ends or changes (R252, R253) -/

/-- R252: entries of the SD go without miss records, MISS_PENDING clears, and every open slot and install context ends STALE. -/
def State.rebound (s : State) (sd : Sd) : State :=
  let n := (s.leaf.prick.entries.filter (fun e => decide (imgSd e.image = sd))).length
  let s1 := (s.dropEntries (fun e => decide (imgSd e.image = sd))).bumpBy .leaf 0xA124 n
  let s2 := s1.modPrick (fun p => { p with pending := false, marks := [], taken := [], counts := [], lateBatch := [], seeds := [], instDone := [], halts := [] })
  let s3 := s2.each (List.range 32) (fun s i =>
    let x := s.slot i
    if x.st = .open_ ∧ x.sd = sd then s.slotEffect i (x.localEnd 2) else s)
  s3.modLeaf (fun l => { l with outs := [], insts := l.insts.map (fun c => if c.busy ∧ c.sd = sd then .reset else c) })

/-- The leaf leaves its SD: R252, then the key and the JOB and PLAN levels are cleared (R253); the levels reach rp_throttle
by THROTTLE_EFFECT (R123). -/
def State.leaveSd (s : State) : State :=
  match s.leaf.binding with
  | none => s
  | some b =>
    ((s.rebound b.sd).clearKey).modLeaf (fun l =>
      { l with binding := none, regions := l.regions.map (fun r => { r with thrJob := 0, thrPlan := 0 }) })

/-- A leaf acts on a BIND for its own binding (Table 11.2); a binding of an unbound leaf starts with MISS_PENDING cleared (R251). -/
def State.leafBind (s : State) (m : BindMsg) : State :=
  let mine := decide (m.head.dest = s.nodeId .leaf)
  match s.leaf.binding with
  | none =>
    if !m.head.all && mine && !m.unbind then
      s.modLeaf (fun l =>
        { l with binding := some { sd := m.head.sd, rank := m.rank, gen := m.head.gen },
                 prick := { l.prick with pending := false, marks := [] } })
    else s.bump .leaf 0xE108
  | some b =>
    if b.sd = m.head.sd then
      if !m.head.all && !mine then s
      else if m.head.gen.toNat ≤ b.gen.toNat then s
      else if m.unbind then s.leaveSd
      else (s.rebound b.sd).modLeaf (fun l =>
        { l with binding := some { b with gen := m.head.gen, rank := if m.head.all then b.rank else m.rank } })
    else if m.head.all then s.bump .leaf 0xE104
    else if mine then (s.bump .leaf 0xE10C).raiseIrq .leaf 19
    else s

/-! ## Membership (R255, R256) -/

/-- M(SD, p) takes a value; zero is no entry. -/
def State.setMemb (s : State) (k : NodeSel) (sd : Sd) (p n : Nat) : State :=
  s.modNode k (fun N => { N with memb := if n = 0 then adel N.memb (sd, p) else aput N.memb (sd, p) n })

/-- Would this SD be a 65th at a leaf (R256)? -/
def State.memb65 (s : State) (k : NodeSel) (sd : Sd) : Bool :=
  decide (k = .leaf) && decide (64 ≤ (s.membSds .leaf).length) && !decide (sd ∈ s.membSds .leaf)

/-- CUR_GEN is the highest GEN of any BIND of the SD that the node has forwarded or taken (R255). -/
def State.raiseGen (s : State) (k : NodeSel) (sd : Sd) (g : Gen) : State :=
  match s.curGenOf k sd with
  | some c => if c.toNat < g.toNat then s.modNode k (fun N => { N with curGen := aput N.curGen sd g }) else s
  | none => s.modNode k (fun N => { N with curGen := aput N.curGen sd g })

/-- A node updates M at the edge at which it accepts a BIND of domain `d` (R256). -/
def State.bindMemb (s : State) (k : NodeSel) (d : Dom) (m : BindMsg) : State :=
  if m.head.all then
    if m.unbind then (s.downCells k d).foldl (fun s p => s.setMemb k m.head.sd p 0) s else s
  else
    s.each ((s.routePorts k false m.head.dest).filter (fun p => decide (p ∈ s.downCells k d))) (fun s p =>
      let n := s.membOf k m.head.sd p
      if !m.cnt then s
      else if m.unbind then s.setMemb k m.head.sd p (n - 1)
      else if s.memb65 k m.head.sd then (s.bump .leaf 0xE114).raiseIrq .leaf 20
      else s.setMemb k m.head.sd p (n + 1))

/-- Every recipe of an SD is freed, and with it what the node holds of its hoops (R169, R259). -/
def State.freeSd (s : State) (k : NodeSel) (sd : Sd) : State :=
  s.modNode k (fun N => { N with recipes := N.recipes.filter (fun r => !decide (r.sd = sd)),
                                 ctxs := N.ctxs.filter (fun x => !decide (x.sd = sd)),
                                 noCtx := N.noCtx.filter (fun x => !decide (x.1 = sd)),
                                 closed := N.closed.filter (fun x => !decide (x.1 = sd)),
                                 excised := N.excised.filter (fun x => !decide (x.1 = sd)),
                                 freed := N.freed.filter (fun x => !decide (x.1 = sd)) })

/-- Does the leaf itself take a BIND (Table 11.2)? -/
def State.takesBind (s : State) (k : NodeSel) (m : BindMsg) : Bool :=
  decide (k = .leaf) && (match s.leaf.binding with
    | some b => decide (b.sd = m.head.sd) && (m.head.all || decide (m.head.dest = s.nodeId .leaf))
    | none => !m.head.all && !m.unbind && decide (m.head.dest = s.nodeId .leaf))

/-- A BIND passes a node: ports by M as it stood before an UNBIND of all (R59), M and CUR_GEN updated, then the message forwarded (R255,
R256); an UNBIND of all frees the SD's recipes (R259). -/
def State.passBind (s : State) (k : NodeSel) (cell : Nat) (m : BindMsg) : State :=
  let d := (s.cell k cell).cfg.dom
  let before := s.c2Ports k d m.head
  let relays := decide (k = .mary) || decide (s.downCells k .a ++ s.downCells k .b ≠ [])
  let passes := decide (k = .mary) || decide (s.downCells k d ≠ []) || s.takesBind k m
  let s1 := s.bindMemb k d m
  let s2 := if relays && passes then s1.raiseGen k m.head.sd m.head.gen else s1
  let ports := if m.head.all && m.unbind then before else s2.c2Ports k d m.head
  let s3 := s2.forwardC2 k cell m.head ports (bindToks m)
  if m.head.all && m.unbind then s3.freeSd k m.head.sd else s3

/-- BIND_RX. -/
def opBindRx (c : CellRef) (m : BindMsg) (s : State) : State :=
  let k := c.node
  let x := s.cell k c.idx
  if x.ts ≠ .active then s
  else if x.cfg.role ≠ 1 then s.dropRoute k c.idx
  else
    let s1 := s.passBind k c.idx m
    match k with
    | .mary => s1
    | .leaf => s1.leafBind m

/-- LEAVE_LIMIT_EXPIRY: no UP port has been in HELLO or later for LEAVE_LIMIT; never at an island root (R258). -/
def opLeaveLimit (s : State) : State :=
  if s.leaf.binding.isNone || (s.cfg .leaf).island || s.domAligned .leaf .a || s.domAligned .leaf .b then s
  else
    let s1 := s.advAfter .leaf s.leaf.upLostAt (s.effFld .leaf 0xE048 9 0 * cyclesMs)
    ((s1.leaveSd.bump .leaf 0xE110).raiseIrq .leaf 21)

/-- Offsets of the membership registers: SD, CELL, CNT, GEN. -/
def membOffs : NodeSel → Nat × Nat × Nat × Nat
  | .leaf => (0xE010, 0xE014, 0xE018, 0xE01C)
  | .mary => (0x90104, 0x90108, 0x9010C, 0x90110)

/-- MEMB_WR: M(MEMB_SD, MEMB_CELL) and CUR_GEN are set; refused for a cell that is not DOWN, and at a root Maryel (R361, R382, R398). -/
def opMembWr (k : NodeSel) (s : State) : State :=
  let o := membOffs k
  let sd : Sd := (s.reg k o.1).extractLsb' 0 12
  let p := s.fld k o.2.1 (if k = .leaf then 2 else 6) 0
  if (s.cell k p).cfg.role ≠ 2 ∨ (k = .mary ∧ (s.cfg .mary).root = true) then s.refuse k (offAccErr k)
  else
    let s1 := s.modNode k (fun N => { N with curGen := aput N.curGen sd ((s.reg k o.2.2.2).extractLsb' 0 16) })
    if s.memb65 k sd then (s1.bump .leaf 0xE114).raiseIrq .leaf 20 else s1.setMemb k sd p (s.fld k o.2.2.1 19 0)

/-- MEMB_VALID; at a root Maryel writes are ignored (R382, R398). -/
def opMembValid (k : NodeSel) (v : Bool) (s : State) : State :=
  if k = .mary ∧ (s.cfg .mary).root = true then s else s.modNode k (fun N => { N with membValid := v })

/-- BIND_RX. -/
def execBindRx (c : CellRef) (m : BindMsg) (s : State) : Host.Outcome State Fault Refusal := .next (s.live c.node (opBindRx c m))
/-- SD_LEAVE. -/
def execSdLeave (src : Src) (s : State) : Host.Outcome State Fault Refusal := .next (s.access .leaf src 0xE008 State.leaveSd)
/-- LEAVE_LIMIT_EXPIRY. -/
def execLeaveLimitExpiry (s : State) : Host.Outcome State Fault Refusal := .next (s.live .leaf opLeaveLimit)
/-- MEMB_WR. -/
def execMembWr (n : NodeSel) (src : Src) (s : State) : Host.Outcome State Fault Refusal :=
  .next (s.access n src (match n with | .leaf => 0xE020 | .mary => 0x90114) (opMembWr n))
/-- MEMB_VALID. -/
def execMembValid (n : NodeSel) (src : Src) (v : Bool) (s : State) : Host.Outcome State Fault Refusal :=
  .next (s.access n src (match n with | .leaf => 0xE00C | .mary => 0x90100) (opMembValid n v))

end Sys2Proof.Machine
end

