-- ==== Sys2Proof/Machine/Coding.lean ====
section
/-! DEFINITION. Below the 16-bit word (R45, R46, R77): the 8b/10b code with its running disparity, the symbols of a frame and their dealing to
the lanes of a W-form port, and the test patterns. The code groups are those of IEEE 802.3 Clause 36, which R45 names and does not print
(PRESUMED, log 112). A code group's bit a is the most significant of its 10 bits; a running disparity is true where it is positive. -/

namespace Sys2Proof.Machine

/-! ## The code (R45) -/

/-- How many of the low `w` bits of a number are 1. -/
def onesIn (w n : Nat) : Nat := ((List.range w).filter (fun i => n.testBit i)).length

/-- The sub-blocks abcdei of D.0 to D.31 at negative running disparity. -/
def sixTable : List Nat :=
  [0b100111, 0b011101, 0b101101, 0b110001, 0b110101, 0b101001, 0b011001, 0b111000,
   0b111001, 0b100101, 0b010101, 0b110100, 0b001101, 0b101100, 0b011100, 0b010111] ++
  [0b011011, 0b100011, 0b010011, 0b110010, 0b001011, 0b101010, 0b011010, 0b111010,
   0b110011, 0b100110, 0b010110, 0b110110, 0b001110, 0b101110, 0b011110, 0b101011]

/-- The sub-blocks fghj of D.x.0 to D.x.7 at negative running disparity. -/
def fourTable : List Nat := [0b1011, 0b1001, 0b0101, 0b1100, 0b1101, 0b1010, 0b0110, 0b1110]

/-- abcdei of D.x: complemented at positive disparity where it is unbalanced, and for D.7. -/
def sixOf (rd : Bool) (x : Nat) : Nat :=
  let g := sixTable.getD x 0
  if rd && (onesIn 6 g != 3 || x == 7) then 63 - g else g

/-- Does D.x.7 take its alternate form, which keeps a comma out of the data? -/
def altSeven (rd : Bool) (x : Nat) : Bool := if rd then [11, 13, 14].contains x else [17, 18, 20].contains x

/-- fghj of D.x.y: complemented at positive disparity where it is unbalanced, and for D.x.3. -/
def fourOf (rd : Bool) (x y : Nat) : Nat :=
  if y = 7 ∧ altSeven rd x then (if rd then 0b1000 else 0b0111)
  else
    let g := fourTable.getD y 0
    if rd && (onesIn 4 g != 2 || y == 3) then 15 - g else g

/-- The running disparity after a sub-block of `w` bits. -/
def rdAfter (w : Nat) (rd : Bool) (g : Nat) : Bool :=
  let n := 2 * onesIn w g
  if n > w ∨ (w = 6 ∧ g = 0b000111) ∨ (w = 4 ∧ g = 0b0011) then true
  else if n < w ∨ (w = 6 ∧ g = 0b111000) ∨ (w = 4 ∧ g = 0b1100) then false
  else rd

/-- The running disparity after a code group. -/
def rdGroup (rd : Bool) (g : BitVec 10) : Bool := rdAfter 4 (rdAfter 6 rd (g.toNat / 16)) (g.toNat % 16)

/-- The code group of a data byte. -/
def encByte (rd : Bool) (b : Byte) : BitVec 10 :=
  let x := b.toNat % 32
  let s := sixOf rd x
  BitVec.ofNat 10 (s * 16 + fourOf (rdAfter 6 rd s) x (b.toNat / 32))

/-- The code group of K28.5, the one control symbol that QSL uses. -/
def encComma (rd : Bool) : BitVec 10 := if rd then 0b1100000101 else 0b0011111010

/-- A received symbol: a data byte, K28.5, or a symbol error, which any other control symbol is too. -/
inductive Sym | data (b : Byte) | comma | bad
  deriving DecidableEq, Repr

/-- A code group as the receiver decodes it at a running disparity. -/
def decSym (rd : Bool) (g : BitVec 10) : Sym :=
  let s := g.toNat / 16
  if g = encComma rd then .comma
  else match (List.range 32).find? (fun x => sixOf rd x == s) with
    | none => .bad
    | some x => match (List.range 8).find? (fun y => fourOf (rdAfter 6 rd s) x y == g.toNat % 16) with
      | none => .bad
      | some y => .data (BitVec.ofNat 8 (y * 32 + x))

/-- The symbols of a run of code groups, and the running disparity behind it. -/
def decSyms (rd : Bool) : List (BitVec 10) → List Sym × Bool
  | [] => ([], rd)
  | g :: l => let r := decSyms (rdGroup rd g) l; (decSym rd g :: r.1, r.2)

/-- The code groups of a run of bytes, and the running disparity behind it. -/
def encBytes (rd : Bool) : List Byte → List (BitVec 10) × Bool
  | [] => ([], rd)
  | b :: l => let r := encBytes (rdGroup rd (encByte rd b)) l; (encByte rd b :: r.1, r.2)

/-! ## The symbols of a frame (R45, R46, R48) -/

/-- Word 0 of every frame: K28.5, then D16.2 (Table 3.2). -/
def commaWord : W16 := 0xBC50

/-- The code groups of a frame whose first symbol is K28.5. -/
def encFrame (rd : Bool) (ws : List W16) : List (BitVec 10) × Bool :=
  let r := encBytes (rdGroup rd (encComma rd)) ((wordBytes ws).drop 1)
  (encComma rd :: r.1, r.2)

/-- The symbols that go on lane `i` of a W-form port: symbol 4m + i for every m (R46). -/
def laneSyms (l : List (BitVec 10)) (i : Nat) : List (BitVec 10) := (List.range (l.length / 4)).map (fun m => l.getD (4 * m + i) 0)

/-- The forwarded-clock lane's pattern, the first bit in the most significant place (R46). -/
def clockLane : BitVec 10 := 0b1111100000

end Sys2Proof.Machine
namespace Sys2Proof
open Machine

/-- The code groups of a received frame in the order of the symbol stream: as they came on the one lane of an X-form port, or taken in turn from
the four deskewed lanes of a W-form port (R46). -/
def LineFrame.syms : LineFrame → List (BitVec 10)
  | .x v => v.toList
  | .w v => (List.range 64).map (fun n => vget (vget v (n % 4) (Vector.replicate 16 0)) (n / 4) 0)

/-- The word of two symbols; a symbol that is no data byte gives 0. -/
def wordOfSyms (a b : Sym) : W16 :=
  let v (x : Sym) : Byte := match x with | .data y => y | _ => 0
  v a ++ v b

/-- A received frame decoded at the cell's running disparity: its 32 words, the comma in its place, and the words with a symbol error; K28.5
elsewhere than in front counts as one (R45, R76, log 112). -/
def LineFrame.decode (f : LineFrame) (rd : Bool) (pos : Nat) : Frame × Bool :=
  let r := decSyms rd f.syms
  let sym (n : Nat) : Sym := r.1.getD n .bad
  let isData (x : Sym) : Bool := match x with | .data _ => true | _ => false
  let first := sym 0 == .comma
  let bad (i : Nat) : Bool := !(isData (sym (2 * i)) || (i == 0 && first)) || !isData (sym (2 * i + 1))
  ({ words := Vector.ofFn (fun i : Fin 32 => wordOfSyms (sym (2 * i.val)) (sym (2 * i.val + 1))),
     comma := first && sym 1 == .data 0x50,
     symErr := BitVec.ofNat 32 (((List.range 32).map (fun i => if bad i then 2 ^ i else 0)).sum), pos := pos }, r.2)

end Sys2Proof
namespace Sys2Proof.Machine

/-! ## Test patterns (R77, Table 3.13) -/

/-- Degree and second tap of a pattern's polynomial, by PATSEL (Table 3.13). -/
def prbsTaps (sel : Nat) : Nat × Nat := [(7, 6), (15, 14), (23, 18), (31, 28)].getD sel (7, 6)

/-- The next bit of a pattern and the register behind it; bit 0 of the register is the latest bit. -/
def prbsNext (sel : Nat) (r : BitVec 31) : BitVec 31 :=
  let p := prbsTaps sel
  (r <<< 1) ||| (BitVec.ofBool (r.getLsbD (p.1 - 1) != r.getLsbD (p.2 - 1))).setWidth 31

/-- The register of a pattern after `n` bits. -/
def prbsAfter (sel : Nat) : Nat → BitVec 31 → BitVec 31
  | 0, r => r
  | n + 1, r => prbsAfter sel n (prbsNext sel r)

/-- The next `n` bits of a pattern from a register. -/
def patternBits (sel : Nat) : Nat → BitVec 31 → List Bool
  | 0, _ => []
  | n + 1, r => let q := prbsNext sel r; q.getLsbD 0 :: patternBits sel n q

end Sys2Proof.Machine
end

