-- ==== Sys2Proof/Machine/RefSel.lean ====
section
/-! DEFINITION. The reference entries and the selector of a root (chapter 14): qualification (R313 to R315), selection (R316, R317), the
root loop (R318), holdover (R319) and software steering (R321). -/

namespace Sys2Proof.Machine

/-! ## The table (R311, R312, Table 14.2, Table 14.3) -/

/-- EN. -/
def refEn (w : W64) : Bool := w.getLsbD 63
/-- SRC. -/
def refSrc (w : W64) : Nat := bitsOf w 62 59
/-- PHASE. -/
def refPhase (w : W64) : Bool := w.getLsbD 58
/-- FREQ_WIN, units of 0.01 ppm. -/
def refFreqWin (w : W64) : Nat := bitsOf w 57 48
/-- PHASE_WIN in 2^-16 ns. -/
def refPhaseWin (w : W64) : Nat := bitsOf w 47 36 * 4 * 65536
/-- Is the entry a PHASE source: the bit is set, or the source is PTP or CROSS, which can be nothing else (Table 14.1). -/
def refIsPhase (w : W64) : Bool := refPhase w || refSrc w == 4 || refSrc w == 5 || refSrc w == 8
/-- REVERTIVE. -/
def refRevertive (c : W32) : Bool := c.getLsbD 31
/-- CROSS_FOLLOW. -/
def refFollow (c : W32) : Bool := c.getLsbD 30
/-- WTR in seconds. -/
def refWtr (c : W32) : Nat := bitsOf c 27 16
/-- QUAL_TIME in seconds. -/
def refQual (c : W32) : Nat := bitsOf c 15 8

/-- Does an enabled entry name a source twice in the table? -/
def refTwice (ws : List W64) : Bool :=
  ws.any (fun w => refEn w && decide ((ws.filter (fun v => refEn v && refSrc v == refSrc w)).length > 1))

/-- The first reason of R312 that refuses a table, 1 to 4, or 0. Reasons 1 and 3 are about enabled entries; 2 and 4 name no such limit and hold
of every entry, a blank one among them, whose windows are 0. -/
def refCheck (c : W32) (ws : List W64) : Nat :=
  let on := ws.filter refEn
  if refTwice ws then 1
  else if ws.any (fun w => decide (refSrc w > 8) || (refPhase w && (refSrc w == 6 || refSrc w == 7))) then 2
  else if (!refFollow c && on.any (fun w => refSrc w == 8)) ||
      (refFollow c && !(match ws.head? with | some w => refEn w && refSrc w == 8 | none => false)) then 3
  else if ws.any (fun w => refFreqWin w == 0 || bitsOf w 47 36 == 0) || decide (refWtr c > 3600)
      || decide (bitsOf c 29 28 ≠ 0 ∨ bitsOf c 7 0 ≠ 0) || ws.any (fun w => decide (bitsOf w 35 32 ≠ 0)) then 4
  else 0

/-- An entry takes its word: unchanged it keeps its status, else it starts again in LOST, or DISABLED (R313, R399). -/
def RefEnt.load (e : RefEnt) (w : W64) : RefEnt :=
  if e.word = w ∧ e.stat ≠ .disabled then e
  else { RefEnt.reset with word := w, stat := if refEn w then .lost else .disabled, wasQual := e.wasQual && decide (e.word = w) }

/-- Entry `i`. -/
def State.ent (s : State) (i : Nat) : RefEnt := vget s.mary.sel.ents i .reset
/-- Change entry `i`. -/
def State.modEnt (s : State) (i : Nat) (f : RefEnt → RefEnt) : State := s.modSel (fun x => { x with ents := vmod x.ents i f })

/-- A table takes effect (R399). -/
def State.putTable (s : State) (c : W32) (ws : List W64) : State :=
  (List.range 8).foldl (fun s i => s.modEnt i (fun e => e.load (ws.getD i 0))) (s.modSel (fun x => { x with ctl := c, pendTab := none }))

/-! ## HT of a root's domain -/

/-- The domain of a top Maryel. -/
def State.rootDom (s : State) : Dom := (s.cfg .mary).dom

/-- Does the root's domain have HT (Table 14.5)? -/
def State.rootHasHt (s : State) : Bool := (s.time .mary).hasHt s.rootDom

/-- K of the root's domain. -/
def State.rootK (s : State) : Int := ((s.time .mary).dom s.rootDom).set.rate.toNat

/-- A new K of the root's domain: it waits for the next picot, clamped and counted (R24, R27, R30). -/
def State.pendRootK (s : State) (k : Int) : State :=
  let c := clampK k
  (s.modDom .mary s.rootDom (fun x => { x with kPend := some c.1 })).bumpIf c.2 .mary (tOff .mary (0x1200 + 4 * domIdx s.rootDom))

/-- The root's domain gains HT with a correction set: a leader sets CONV (R326). -/
def State.rootGainHt (s : State) (c : CorrSet) : State :=
  let s1 := (s.modDom .mary s.rootDom (fun x =>
    { x.stepTo c.anchor c with kAcq := c.rate, integ := 0, overX := 0, seed := none, kPend := none })).enterTrack .mary s.rootDom
  if s1.crossSelected then s1 else s1.modTime .mary (fun t => { t with conv := true })

/-- The root's domain is left: O and K cleared, no HT (Table 14.5). K is nominal again, as in every state without HT. -/
def State.rootLoseHt (s : State) : State :=
  s.modTime .mary (fun t =>
    { (t.modDom s.rootDom (fun x => (x.clear .off).stepTo t.rc { CorrSet.reset with anchor := t.rc })) with
      noht := true, read := { CorrSet.reset with anchor := t.rc } })

/-! ## Selection (R316, R317) -/

/-- Is entry `i` eligible (R315)? -/
def State.eligible (s : State) (i : Nat) : Bool := decide ((s.ent i).stat = .qualified)

/-- The eligible entries with a property, lowest index first. -/
def State.eligibles (s : State) (p : RefEnt → Bool) : List Nat := (List.range 8).filter (fun i => s.eligible i && p (s.ent i))

/-- A FREQ entry's phase starts from 0 at its selection (R308). -/
def RefEnt.zero (e : RefEnt) : RefEnt := if refIsPhase e.word then e else { e with e := 0 }

/-- Entry `i` is selected. -/
def State.select (s : State) (i : Nat) : State :=
  if h : i < 8 then (s.modEnt i RefEnt.zero).modSel (fun x => { x with selected := some ⟨i, h⟩ }) else s

/-- A bit of REF_EVT is set. -/
def State.raiseRef (s : State) (b : Nat) : State := s.modSel (fun x => { x with evt := setBit x.evt b })

/-- HT of the root's domain now, in 2^-16 ns. -/
def State.rootHt16 (s : State) : Nat := tu16 (s.htDom .mary s.rootDom)

/-- LOCKED on entry `i` from now on; time on a PHASE entry counts towards K_DAY (R327), and a step made by ROOT_STEP is over (R328). -/
def State.noteLocked (s : State) (i : Nat) : State :=
  let p := refIsPhase (s.ent i).word
  s.modSel (fun x =>
    { x with st := .locked, wasLocked := true, stepped := false,
             phaseAt := if p then some (x.phaseAt.getD s.rootHt16) else none,
             daySum := if p && x.phaseAt.isSome then x.daySum else (0, 0) })

/-- LOCKED is left: no day is whole (R327). -/
def Selector.endDay (x : Selector) : Selector := { x with phaseAt := none, daySum := (0, 0) }

/-- Keep-alive time now in ns: KA_TIME as computed at power-up, and the time since (R344). -/
def State.kaNow (s : State) : Option Nat := s.cellar.ka.time.map (fun t => t + (s.rc .mary - s.mary.porstAt).toNat * 2)

/-- The keep-alive time is within 1 ms (R309). -/
def State.kaLabel (s : State) : Bool := s.cellar.ka.time.isSome && decide (s.cellar.ka.unc ≤ 1000000)

/-- A qualified PTP entry, the first source of a label (R309). -/
def State.labelPtp (s : State) : Option Nat := (s.eligibles (fun e => refSrc e.word == 4 || refSrc e.word == 5)).head?

/-- Does the entry have a seconds label: PTP and CROSS carry their own, a REFIN PHASE entry has one from its pulses or has a source at hand (R309)? A
second at or beyond the bound of R56 is none. -/
def State.labelled (s : State) (i : Nat) : Bool :=
  decide (refSrc (s.ent i).word ≥ 4) || (s.ent i).label.isSome || s.labelPtp.isSome ||
    (match s.mary.sel.secNext with | some v => decide (v.toNat * 1000000000 < htBound) | none => s.kaLabel)

/-- HO_AVG in effect, in seconds. -/
def State.hoAvg (s : State) : Nat := s.effFld .mary 0x9830C 16 0

/-- K_HO on entry to HOLDOVER: the mean K of the last HO_AVG seconds in LOCKED to the nearest unit, or the present K where there are fewer
than 64 (R319). -/
def State.meanK (s : State) : Int :=
  let l := s.mary.sel.kHist.take s.hoAvg
  if l.length < 64 then s.rootK else (((2 * l.sum + l.length) / (2 * l.length) : Nat) : Int)

/-- HOLDOVER is entered with a K_HO (R319, R321). -/
def State.enterHold (s : State) (kho : Int) : State :=
  (s.modSel (fun x => { x.endDay with st := .holdover, selected := none, kHo := BitVec.ofInt 48 kho, holdSec := 0, holdAt := s.rc .mary,
                                      softTgt := none, softMode := false })).pendRootK kho

/-- LOCKED is entered on entry `i` with k_int := K (Table 14.5). -/
def State.enterLocked (s : State) (i : Nat) : State :=
  ((s.select i).modSel (fun x => { x with kInt := (s.rootK : Rat), loopAt := none, holdSec := 0, softTgt := none,
                                          softMode := false })).noteLocked i

/-- The selector in FREERUN (Table 14.5). -/
def State.selFree (s : State) : State :=
  if !s.mary.sel.warmOk then s
  else
    let ph := s.eligibles (fun e => refIsPhase e.word)
    match ph.filter s.labelled with
    | i :: _ => (s.select i).modSel (fun x => { x with st := .acquire })
    | [] =>
      if ph ≠ [] then s.raiseRef 1
      else match s.eligibles (fun _ => true) with
        | i :: _ => if s.rootHasHt then s.enterLocked i else s
        | [] => s

/-- A switch from the selected entry in LOCKED keeps K and k_int and counts in REF_SWITCH (R316, Table 14.5). -/
def State.switchTo (s : State) (i : Nat) : State := ((s.select i).bump .mary 0x98400).noteLocked i

/-- The selector acts on what is eligible now (R316, Table 14.5). -/
def State.selAct (s : State) : State :=
  let x := s.mary.sel
  let all := s.eligibles (fun _ => true)
  match x.st with
  | .freerun => s.selFree
  | .acquire =>
    match x.selected with
    | some i => if s.eligible i.val then s else (s.modSel (fun x => { x with st := .freerun, selected := none })).selFree
    | none => s
  | .locked =>
    match x.selected, all with
    | some i, j :: _ =>
      if !s.eligible i.val then s.switchTo j
      else if refRevertive x.ctl && decide (j < i.val) then s.switchTo j else s
    | none, j :: _ => s.switchTo j
    | _, [] => s.enterHold s.meanK
  | .holdover =>
    match all with
    | i :: _ => s.enterLocked i
    | [] => s
  | .softloop => s

/-! ## The root loop (R318) -/

/-- A rational clamped to both sides of a centre. -/
def ratClamp (x lo hi : Rat) : Rat := if x < lo then lo else if x > hi then hi else x

/-- trunc of a rational, toward zero. -/
def ratTrunc (x : Rat) : Int := x.num.tdiv x.den

/-- ROOT_SLEW in effect in units of K (R318). -/
def State.rootSlew (s : State) : Nat := s.effFld .mary 0x98304 14 0 * 2 ^ 41 / 10 ^ 8
/-- ROOT_DK_MAX in effect in units of K per second (R318). -/
def State.rootDkMax (s : State) : Nat := s.effFld .mary 0x98308 9 0 * 2 ^ 41 / 10 ^ 9

/-- One run of the root loop: k_int and the new K from the error e in 2^-16 ns (R318). -/
def rootLoop (kInt : Rat) (k : Int) (e : Int) (tau slew dk : Nat) : Rat × Int :=
  let eu : Rat := (e : Rat) / 65536 * (2 ^ 41 / 10 ^ 9 : Rat)
  let ki := kInt - eu / ((tau * tau : Nat) : Rat)
  let tgt := ratClamp (ki - eu / (tau : Rat)) (ki - slew) (ki + slew)
  (ki, k + ratTrunc (ratClamp (tgt - k) (-(dk : Rat)) dk))

/-- One second of HT at least since the last run or step (R318, R321). Pulses of 1PPS come once per second of their reference, whose HT a
correction may make shorter; for them half a second tells the seconds apart (log 111). -/
def State.loopDue (s : State) (pulse : Bool) : Bool :=
  match s.mary.sel.loopAt with
  | some t => decide (s.rootHt16 ≥ t + (if pulse then 500000000 else 1000000000) * 65536)
  | none => true

/-- K of a second spent in LOCKED is kept for K_HO, and on a PHASE entry for K_DAY (R319, R327). -/
def State.keepK (s : State) (phase : Bool) : State :=
  let k := s.rootK.toNat
  s.modSel (fun x => { x with loopAt := some s.rootHt16, kHist := (k :: x.kHist).take 65536,
                              daySum := if phase then (x.daySum.1 + k, x.daySum.2 + 1) else x.daySum })

/-- The root loop on an accepted measurement of the selected entry, at most once per second (R318). -/
def State.runRootLoop (s : State) (e : Int) (phase pulse : Bool) : State :=
  if !s.loopDue pulse then s
  else
    let r := rootLoop s.mary.sel.kInt s.rootK e (s.effFld .mary 0x98300 12 0) s.rootSlew s.rootDkMax
    ((s.keepK phase).modSel (fun x => { x with kInt := r.1 })).pendRootK r.2

/-- K from a 1 s count of TCLK cycles against a reference: that of the cycles which make up its second (Table 14.5; rounded down, log 111). -/
def kOfGate (n : Nat) : Int := ((1000000000 * 2 ^ 40 / n : Nat) : Int)

/-- The ACQUIRE step of a root on entry `i`: O so that e = 0; K from the entry's last 1 s count, clamped under R27, or a free value where it has
had none (Table 14.5; log 5). -/
def State.rootAcquire (s : State) (i : Nat) (e : Int) : State :=
  let rc := s.rc .mary
  let off := (((s.time .mary).dom s.rootDom).set.at_ rc : Int) - e * 2 ^ 24
  let p : Int × State :=
    match (s.ent i).gate with
    | some (n + 1) => (kOfGate (n + 1), s)
    | _ => (((Config.freeBits 48 s.freeCtr).toNat : Int), s.takeFree.2)
  let kc := clampK p.1
  let s1 := ((p.2.rootGainHt { anchor := rc, off := off.toNat, rate := kc.1 }).raiseTime .mary (domIdx s.rootDom)).bumpIf kc.2
    .mary (tOff .mary (0x1200 + 4 * domIdx s.rootDom))
  (s1.modSel (fun x => { x.endDay with kInt := ((kc.1.toNat : Nat) : Rat), loopAt := some s1.rootHt16 })).noteLocked i

/-! ## Measurements, losses and timers of the entries (R309, R313 to R315) -/

/-- The nearest whole second to an instant in 2^-16 ns. -/
def nearSec (t : Int) : Nat := ((t + 500000000 * 65536) / (1000000000 * 65536)).toNat

/-- An entry takes the label of its present pulse, from which its next ones count on; a second at or beyond the bound of R56 is no label (R56,
R309). -/
def State.giveLabel (s : State) (i n : Nat) : State × Option Nat :=
  if n * 1000000000 ≥ htBound then (s.raiseRef 1, none) else (s.modEnt i (fun e => { e with label := some (n + 1) }), some n)

/-- The label of the present pulse of a REFIN PHASE entry, whose stamp less DELAY is `t`: the count of its pulses, or the first source available,
each taken to the nearest second; ROOT_SEC_NEXT is used once (R309). -/
def State.takeLabel (s : State) (i : Nat) (t : Int) : State × Option Nat :=
  match (s.ent i).label with
  | some n => s.giveLabel i n
  | none =>
    match s.labelPtp with
    | some j => s.giveLabel i (nearSec (t - (s.ent j).e))
    | none =>
      match s.mary.sel.secNext with
      | some v => (s.modSel (fun x => { x with secNext := none })).giveLabel i v.toNat
      | none => if s.kaLabel then s.giveLabel i (nearSec ((s.kaNow.getD 0 : Int) * 65536)) else (s, none)

/-- The phase window of an entry now, in 2^-16 ns (R313). -/
def State.phaseWin (s : State) (w : W64) : Nat :=
  if s.mary.sel.st = .locked then refPhaseWin w else s.effFld .mary 0x98310 19 0 * 65536

/-- A break sends an entry back to QUALIFYING; a QUALIFIED one counts REF_DISQ_i (R313, R315). -/
def State.breakEnt (s : State) (i : Nat) (onlyWin : Bool) : State :=
  let q := decide ((s.ent i).stat = .qualified)
  let rc := s.rc .mary
  (s.modEnt i (fun e =>
    { e with stat := .qualifying, since := rc, sinceNW := if onlyWin then e.sinceNW else rc })).bumpIf q .mary (0x98410 + 4 * i)

/-- A break of the phase window of entry `i`; in HOLDOVER REF_STEP_NEEDED tells of one that keeps back an otherwise qualified PHASE entry (R313,
Table 14.5). -/
def State.breakPhase (s : State) (i : Nat) : State :=
  let s2 := s.breakEnt i true
  let due := decide ((s.rc .mary - (s2.ent i).sinceNW).toNat ≥ refQual s.mary.sel.ctl * cyclesS)
  (if decide (s.mary.sel.st = .holdover) && due then s2.raiseRef 2 else s2).selAct

/-- The phase error of entry `i`, judged against its phase window while the domain has HT (R313); true where it stands. -/
def State.judgeRef (s : State) (i : Nat) (e : Int) : State × Bool :=
  let w := (s.ent i).word
  let s1 := s.modEnt i (fun x => { x with e := e })
  if refIsPhase w && s.rootHasHt && decide (e.natAbs > s.phaseWin w) then (s1.breakPhase i, false) else (s1, true)

/-- A phase error of an entry (R308, R313, R317): judged; of the selected entry an accepted one runs the ACQUIRE step or the root loop. One of
an entry that is not selected before and after the judgement runs neither (R332); CROSS runs them by its picots (R324). -/
def State.refSample (s : State) (i : Nat) (e : Int) (pulse : Bool) : State :=
  let w := (s.ent i).word
  if !s.isRoot .mary || decide ((s.ent i).stat = .disabled ∨ (s.ent i).stat = .lost) then s
  else
    let r := s.judgeRef i e
    if !r.2 then r.1
    else
      let s1 := r.1.selAct
      let mine (s : State) : Bool := decide (s.mary.sel.selected.map Fin.val = some i)
      if !mine s || !mine s1 || refSrc w == 8 then s1
      else match s1.mary.sel.st with
        | .acquire => s1.rootAcquire i e
        | .locked => s1.runRootLoop e (refIsPhase w) pulse
        | _ => s1

/-- A 1 s gate lies within FREQ_WIN: the TCLK cycles times the root's K against 1 s, exactly (R313). -/
def gateOk (w : W64) (n : Nat) (k : Int) : Bool :=
  let t : Int := (n : Int) * k
  decide ((1000000000 * 2 ^ 40 - t).natAbs * 100000000 ≤ refFreqWin w * t.toNat)

/-- A 1 s frequency gate of an entry, kept for ACQUIRE and judged against FREQ_WIN (R313). -/
def State.gateRef (s : State) (i n : Nat) : State :=
  if decide ((s.ent i).stat = .disabled ∨ (s.ent i).stat = .lost) then s
  else
    let s1 := s.modEnt i (fun e => { e with gate := some n })
    if gateOk (s.ent i).word n s.rootK then s1 else (s1.breakEnt i false).selAct

/-- A loss of Table 14.4: the entry is LOST; having been QUALIFIED it must pass WTR; the selector acts at this edge (R314 to R316). -/
def State.loseRef (s : State) (i : Nat) : State :=
  let x := s.ent i
  if x.stat = .disabled ∨ x.stat = .lost then s
  else (s.modEnt i (fun e => { e with stat := .lost, mustWtr := e.mustWtr || e.wasQual, label := none, last := none, gate := none })).selAct

/-- The entries with a source that a condition names lose it. -/
def State.loseSrc (s : State) (src : Nat) : State :=
  s.each ((List.range 8).filter (fun i => refEn (s.ent i).word && refSrc (s.ent i).word == src)) (fun s i => s.loseRef i)

/-- REF_SIGNAL_PRESENT: LOST becomes QUALIFYING (R313). -/
def opRefPresent (i : Nat) (s : State) : State :=
  if !s.isRoot .mary || decide ((s.ent i).stat ≠ .lost) then s
  else s.modEnt i (fun e => { e with stat := .qualifying, since := s.rc .mary, sinceNW := s.rc .mary })

/-- REF_QUALIFIED: QUAL_TIME without a break; an entry that was lost after being QUALIFIED enters WTR (R313, R315). -/
def opRefQualified (i : Nat) (s : State) : State :=
  let x := s.ent i
  let ql := refSrc x.word ≥ 6 && refSrc x.word ≤ 7 && (vget s.mary.ptp (refSrc x.word - 6) .reset).qlBad
  if !s.isRoot .mary || ql || decide (x.stat ≠ .qualifying) then s
  else
    let s1 := s.advAfter .mary x.since (refQual s.mary.sel.ctl * cyclesS)
    let w := x.mustWtr && decide (refWtr s.mary.sel.ctl > 0)
    let s2 := s1.modEnt i (fun e => { e with stat := if w then .wtr else .qualified, wasQual := true, wtrAt := s1.rc .mary, mustWtr := w })
    s2.selAct

/-- REF_WTR_END: WTR seconds without a break (R315). -/
def opRefWtrEnd (i : Nat) (s : State) : State :=
  let x := s.ent i
  if !s.isRoot .mary || decide (x.stat ≠ .wtr) then s
  else ((s.advAfter .mary x.wtrAt (refWtr s.mary.sel.ctl * cyclesS)).modEnt i (fun e => { e with stat := .qualified, mustWtr := false })).selAct

/-! ## CROSS (R324 to R326) -/

/-- The entry of CROSS, if enabled. -/
def State.crossEnt (s : State) : Option Nat := (List.range 8).find? (fun i => refEn (s.ent i).word && refSrc (s.ent i).word == 8)

/-- AB_DIFF and ADV_AB_WIDE at a CROSS picot of a root (R325). -/
def State.noteAb (s : State) (e : Int) : State :=
  let d := -(e / 2 ^ 24)
  s.modSel (fun x =>
    let n := if d.natAbs > 65536 then x.abRun + 1 else 0
    { x with abDiff := satSigned 48 d, abRun := min 64 n, advWide := decide (n ≥ 64) })

/-- A picot measurement of the CROSS cell of a root with HT: AB_DIFF, the entry's judgement, and at a follower LOCKED on CROSS the loop of
R29 in place of R318 (R308, R324, R325). -/
def State.crossMeasured (s : State) (e : Int) : State :=
  let s1 := s.noteAb e
  match s.crossEnt with
  | none => s1
  | some i =>
    if (s.ent i).stat = .lost ∨ (s.ent i).stat = .disabled then s1
    else
      let r := s1.judgeRef i (e / 2 ^ 24)
      if r.2 && s.crossSelected && decide (s.mary.sel.st = .locked) then
        let s2 := r.1.measured .mary s.rootDom e
        if s2.loopDue false then s2.keepK true else s2
      else r.1

/-- The ACQUIRE step of a follower on CROSS has been made: LOCKED (R324, Table 14.5). -/
def State.crossAcquired (s : State) : State :=
  (s.modSel (fun x => { x.endDay with kInt := (s.rootK : Rat), loopAt := some s.rootHt16 })).noteLocked (s.crossEnt.getD 8)

/-! ## Time-driven states (R319, R321) -/

/-- AGE_COMP in effect (R319). -/
def State.ageComp (s : State) : Int := signedOf 32 (s.effReg .mary 0x98324).toNat

/-- AGE_COMP := AGE_EST while AGE_AUTO is 1 (R327). -/
def State.autoAge (s : State) : State :=
  if !(s.effReg .mary 0x98320).getLsbD 0 then s
  else
    let v := BitVec.ofInt 32 s.mary.sel.ageEst
    (s.setReg .mary 0x98324 v).modNode .mary (fun N => { N with eff := sput N.eff 0x98324 v })

/-- HOLDOVER_K_UPDATE: one more second of HOLDOVER; K := K_HO + trunc(AGE_COMP t_hold / 86,400) (R319). -/
def opHoldoverK (s : State) : State :=
  let x := s.mary.sel
  if !s.isRoot .mary || decide (x.st ≠ .holdover) then s
  else
    let n := x.holdSec + 1
    ((s.advAfter .mary x.holdAt (n * cyclesS)).modSel (fun x => { x with holdSec := n })).pendRootK
      ((x.kHo.toNat : Int) + truncDiv (s.ageComp * n) 86400)

/-- SOFTLOOP's approach to its target, by at most ROOT_DK_MAX once per second (R321). -/
def State.softStep (s : State) : State :=
  match s.mary.sel.softTgt with
  | none => s
  | some t =>
    if s.mary.sel.st ≠ .softloop ∨ !s.loopDue false then s
    else
      let d := (t.toNat : Int) - s.rootK
      let m : Int := s.rootDkMax
      (s.modSel (fun x => { x with loopAt := some s.rootHt16 })).pendRootK (s.rootK + (if d > m then m else if d < -m then -m else d))

/-- SEL_MODE: SOFT holds K and opens the loop where Table 14.5 lets it, and from FREERUN once R307 lets the selector leave it; AUTO ends SOFTLOOP with k_int := K (R321). -/
def opSelMode (soft : Bool) (s : State) : State :=
  let x := s.mary.sel
  let s0 := s.setReg .mary 0x980C4 (if soft then 1 else 0)
  if soft then
    if x.st = .locked ∨ x.st = .holdover ∨ (x.st = .freerun ∧ s.rootHasHt ∧ x.warmOk = true) then
      (s0.modSel (fun x => { x.endDay with st := .softloop, softMode := true, softTgt := none, softAt := s.rc .mary,
                                           loopAt := none })).modDom .mary s.rootDom (fun x => { x with kPend := none })
    else s0
  else if x.st = .softloop then
    match (match x.selected with | some i => [i.val].filter s.eligible | none => []) ++ s.eligibles (fun _ => true) with
    | i :: _ => (s0.enterLocked i).selAct
    | [] => s0.enterHold s.meanK
  else s0

/-- SOFT_K: a target for SOFTLOOP, clamped under R27 (R321). -/
def opSoftK (k : BitVec 48) (s : State) : State :=
  if s.mary.sel.st ≠ .softloop then s
  else
    let c := clampK (k.toNat : Int)
    (s.modSel (fun x => { x with softTgt := some c.1, softAt := s.rc .mary })).bumpIf c.2 .mary (tOff .mary (0x1200 + 4 * domIdx s.rootDom))

/-- SOFT_TMO: no SOFT_K for SOFT_TMO seconds; HOLDOVER with K_HO := K (R321). -/
def opSoftTmo (s : State) : State :=
  let x := s.mary.sel
  if !s.isRoot .mary || decide (x.st ≠ .softloop) then s
  else
    let s1 := s.advAfter .mary x.softAt (s.effFld .mary 0x98318 11 0 * cyclesS)
    ((s1.enterHold s1.rootK).raiseRef 3).setReg .mary 0x980C4 0

/-- Does any SD have members (R322)? -/
def State.anyMembers (s : State) : Bool := (s.root .mary).binds != []

/-- ROOT_STEP: refused while any SD has members, else the domain is left and reacquired (R322, Table 14.5), from FREERUN only once R307 allows;
CONV clears (R326). -/
def opRootStep (s : State) : State :=
  if s.anyMembers then s.refuse .mary (offTimeRefused .mary)
  else if !s.rootHasHt then s
  else
    let s1 := (s.rootLoseHt.dropConv .mary).modSel (fun x => { x.endDay with selected := none, kHist := [], softTgt := none, softMode := false, stepped := true })
    let ph := if s.mary.sel.warmOk then (s.eligibles (fun e => refIsPhase e.word)).filter s.labelled else []
    match ph with
    | i :: _ => (s1.select i).modSel (fun x => { x with st := .acquire })
    | [] => s1.modSel (fun x => { x with st := .freerun })

/-- ROOT_HT_SET: refused while any SD has members, or with a value R42 refuses; in FREERUN without HT it waits for the picot (R322,
Table 14.5). -/
def opRootHtSet (v : Ht96) (s : State) : State :=
  if s.anyMembers || decide (htNs v > 999999999) || decide (tuNs (tuOfHt v) ≥ htBound) then s.refuse .mary (offTimeRefused .mary)
  else if s.mary.sel.st = .freerun ∧ !s.rootHasHt then s.modSel (fun x => { x with htSet := some (tuOfHt v) })
  else s

/-- ROOT_HT_SET at the picot: O is set, K nominal (Table 14.5). -/
def State.rootHtPicot (s : State) : State :=
  match s.mary.sel.htSet with
  | none => s
  | some v =>
    let s1 := s.modSel (fun x => { x with htSet := none })
    if s.mary.sel.st = .freerun ∧ !s.rootHasHt then (s1.rootGainHt { anchor := s.rc .mary, off := v, rate := nominalK }).selAct else s1

/-- ROOT_SEC_NEXT: the label of the next pulse, for which an entry may have waited (R309). -/
def opRootSecNext (v : BitVec 48) (s : State) : State :=
  let s1 := s.modSel (fun x => { x with secNext := some v })
  if s.isRoot .mary then s1.selAct else s1

/-- OCXO_WARM_CHANGE: high lets the selector leave FREERUN; a fall raises OCXO_COLD and changes no state (R307). -/
def opOcxoWarm (v : Bool) (s : State) : State :=
  let s1 := s.modSel (fun x => { x with warm := v, warmOk := x.warmOk || v })
  if !s.isRoot .mary then s1 else if v then s1.selAct else if s.mary.sel.warm then s1.raiseRef 0 else s1

/-- OCXO_WAIT_EXPIRY: OCXO_WAIT after the release of PORST_N without a warm oscillator (R307). -/
def opOcxoWait (s : State) : State :=
  if !s.isRoot .mary || s.mary.sel.warmOk then s
  else (((s.advAfter .mary s.mary.porstAt (s.effFld .mary 0x9831C 11 0 * cyclesS)).modSel (fun x => { x with warmOk := true })).raiseRef 0).selAct

/-- K_DAY_END, at the next whole HT day: the mean K of a day spent LOCKED on PHASE entries throughout; AGE_EST once both days are full, AGE_COMP,
and OCXO_TREND (R327). The K of a day that was not whole is dropped. -/
def opKDayEnd (s : State) : State :=
  if !s.isRoot .mary || !s.rootHasHt then s
  else
    let day := 86400 * 1000000000 * nsTu
    let b := (s.htDom .mary s.rootDom / day + 1) * day
    let s0 := s.advTo .mary (((s.time .mary).dom s.rootDom).set.edgeOf (s.rc .mary) b)
    let x := s0.mary.sel
    let whole := match x.phaseAt with | some t => decide (t * 2 ^ 24 + day ≤ b ∧ x.st = .locked ∧ x.daySum.2 ≠ 0) | none => false
    if !whole then s0.modSel (fun x => { x with daySum := (0, 0) })
    else
      let m : BitVec 48 := BitVec.ofNat 48 ((2 * x.daySum.1 + x.daySum.2) / (2 * x.daySum.2))
      let est : Int := if x.days ≥ 1 then satSigned 32 ((m.toNat : Int) - x.kDay.toNat) else x.ageEst
      let s1 := (s0.modSel (fun x => { x with kDay := m, kDayPrev := x.kDay, days := x.days + 1, daySum := (0, 0), ageEst := est })).autoAge
      s1.originTel .mary s.rootDom { kind := 4, src := s.nodeId .mary, maryel := true, data := [m, x.kDay] }

/-- A second of HT has begun: RWX fields of the section and a table that waited take effect (R333, R399). -/
def State.rootSecond (s : State) : State :=
  let s1 := (s.commitSecond .mary).autoAge
  match s.mary.sel.pendTab with
  | some (c, ws) => (s1.putTable c ws).selAct
  | none => s1

/-- The seconds side of a picot at a root. -/
def State.secondPicot (s : State) : State :=
  let sec := s.htDom .mary s.rootDom / (1000000000 * nsTu)
  if sec = s.mary.sel.lastSec then s else (s.modSel (fun x => { x with lastSec := sec })).rootSecond

/-- A write to a field that waits for the second: what earlier writes left comes into effect first, should a second have begun since; without HT
there is no second to wait for (R328, R333; log 119). -/
def State.aroundSecond (s : State) (off : Nat) (f : State → State) : State :=
  if !waitsForSecond off then f s
  else if s.isRoot .mary && s.rootHasHt then f s.secondPicot
  else (f s).commitSecond .mary

/-- REF_APPLY: the staged table, refused with its first reason, or effective from the next second, at once while the domain has no HT and so no
seconds (R312, R399; log 119). -/
def opRefApply (s : State) : State :=
  let c := s.reg .mary 0x98000
  let ws := (List.range 8).map (fun i => s.reg64 .mary (0x98008 + 8 * i))
  let w := refCheck c ws
  if w ≠ 0 then (s.refuse .mary 0x98404).modSel (fun x => { x with why := w })
  else
    let s1 := (if s.rootHasHt then s.secondPicot else s).modSel (fun x => { x with pendTab := some (c, ws) })
    if s.rootHasHt then s1 else s1.rootSecond

/-- REF_QUALIFIED. -/
def execRefQualified (i : Fin 8) (s : State) : Host.Outcome State Fault Refusal := .next (s.liveC .mary (opRefQualified i.val))
/-- REF_WTR_END. -/
def execRefWtrEnd (i : Fin 8) (s : State) : Host.Outcome State Fault Refusal := .next (s.liveC .mary (opRefWtrEnd i.val))
/-- REF_SIGNAL_PRESENT. -/
def execRefSignalPresent (i : Fin 8) (s : State) : Host.Outcome State Fault Refusal := .next (s.live .mary (opRefPresent i.val))
/-- HOLDOVER_K_UPDATE. -/
def execHoldoverKUpdate (s : State) : Host.Outcome State Fault Refusal := .next (s.live .mary opHoldoverK)
/-- SEL_MODE. -/
def execSelMode (src : Src) (soft : Bool) (s : State) : Host.Outcome State Fault Refusal :=
  .next (s.accessC .mary src 0x980C4 (opSelMode soft))
/-- SOFT_K. -/
def execSoftK (src : Src) (k : BitVec 48) (s : State) : Host.Outcome State Fault Refusal := .next (s.access .mary src 0x980CC (opSoftK k))
/-- SOFT_TMO. -/
def execSoftTmo (s : State) : Host.Outcome State Fault Refusal := .next (s.liveC .mary opSoftTmo)
/-- ROOT_STEP. -/
def execRootStep (src : Src) (s : State) : Host.Outcome State Fault Refusal := .next (s.access .mary src 0x980D0 opRootStep)
/-- ROOT_HT_SET. -/
def execRootHtSet (src : Src) (v : Ht96) (s : State) : Host.Outcome State Fault Refusal := .next (s.access .mary src 0x980E0 (opRootHtSet v))
/-- ROOT_SEC_NEXT. -/
def execRootSecNext (src : Src) (v : BitVec 48) (s : State) : Host.Outcome State Fault Refusal :=
  .next (s.access .mary src 0x980EC (opRootSecNext v))
/-- OCXO_WARM_CHANGE: a pin, whose level a Maryel held in reset does not act on. -/
def execOcxoWarmChange (v : Bool) (s : State) : Host.Outcome State Fault Refusal :=
  .next (if s.held .mary then s.modSel (fun x => { x with warm := v }) else opOcxoWarm v s)
/-- OCXO_WAIT_EXPIRY. -/
def execOcxoWaitExpiry (s : State) : Host.Outcome State Fault Refusal := .next (s.live .mary opOcxoWait)
/-- K_DAY_END. -/
def execKDayEnd (s : State) : Host.Outcome State Fault Refusal := .next (s.live .mary opKDayEnd)
/-- REF_APPLY. -/
def execRefApply (src : Src) (s : State) : Host.Outcome State Fault Refusal := .next (s.access .mary src 0x98048 opRefApply)

end Sys2Proof.Machine
end

