-- ==== Sys2Proof/Machine/Cel.lean ====
section
/-! DEFINITION. The cellar's medium (R334 to R337, R346): bytes and words, blocks and their write cap, the write queue, the ceiling
words (R338, R339) and the grant log (R342). -/

namespace Sys2Proof.Machine

/-! ## The medium: bytes by address, unlisted reading 0 -/

/-- The canonical form: addresses strictly rising, no entry equal to what an unlisted address reads as. -/
def Memory.wf : List Host.Cell → Bool
  | [] => true
  | [c] => decide (c.2 ≠ 0)
  | c :: d :: m => decide (c.2 ≠ 0) && decide (c.1 < d.1) && Memory.wf (d :: m)

/-- The byte at an address. -/
def mget : List Host.Cell → Nat → Byte
  | [], _ => 0
  | c :: m, a => if c.1 = a then c.2 else mget m a

/-- Write a byte, keeping the canonical form. -/
def mput : List Host.Cell → Nat → Byte → List Host.Cell
  | [], a, b => if b = 0 then [] else [(a, b)]
  | c :: m, a, b =>
    if a < c.1 then (if b = 0 then c :: m else (a, b) :: c :: m)
    else if a = c.1 then (if b = 0 then m else (a, b) :: m)
    else c :: mput m a b

/-- Write consecutive bytes. -/
def mputs (m : List Host.Cell) (a : Nat) : List Byte → List Host.Cell
  | [] => m
  | b :: bs => mputs (mput m a b) (a + 1) bs

/-- The bytes of a word, the byte at the lowest address first (little-endian). -/
def wordLe (v : W64) : List Byte := (List.range 8).map (fun i => v.extractLsb' (8 * i) 8)

/-- The word of eight bytes. -/
def leWord (bs : List Byte) : W64 := BitVec.ofNat 64 ((bs.zipIdx).foldl (fun a p => a + p.1.toNat * 2 ^ (8 * p.2)) 0)

/-- Word `w` of the medium (R334). -/
def memWord (m : List Host.Cell) (w : Nat) : W64 := leWord ((List.range 8).map (fun i => mget m (8 * w + i)))

/-- Word `w` of the cellar. -/
def State.celWord (s : State) (w : Nat) : W64 := memWord s.cellar.mem w

/-- Is a word readable: no uncorrectable error has been found in it (R347)? -/
def State.celOk (s : State) (w : Nat) : Bool := !decide (w ∈ s.cellar.bad)

/-! ## Word indices of the regions (Table 15.1) -/

/-- CEIL_A. -/
def celCeilA : Nat := 0x2000
/-- CEIL_B. -/
def celCeilB : Nat := 0x4000
/-- GRANT. -/
def celGrant : Nat := 0x6000
/-- RWP. -/
def celRwp : Nat := 0xE000
/-- WEAR. -/
def celWear : Nat := 0x10000
/-- LIC. -/
def celLic : Nat := 0x12000
/-- CAL. -/
def celCal : Nat := 0x14000
/-- PROF. -/
def celProf : Nat := 0x20000
/-- HIST. -/
def celHist : Nat := 0x40000
/-- Records of the history ring (Table 15.1). -/
def histRecs : Nat := 393216

/-! ## Writes, the cap and the queue (R335, R336, R346) -/

/-- The block of a word: 512 words (R334). -/
def celBlock (w : Nat) : Nat := w / 512

/-- Word writes of each block in the present second. -/
def State.celRate (s : State) : Sparse Nat × W64 :=
  if (s.rc .mary - s.cellar.rate.2).toNat ≥ cyclesS then ([], s.rc .mary) else s.cellar.rate

/-- The cellar takes no writes during an erase, and after it until a chip reset (R351). -/
def State.celClosed (s : State) : Bool := s.cellar.busy || s.cellar.waitRst

/-- Must a word wait: the cellar is closed, or its block is at the cap of 100 writes a second, which the history region lacks (R336)? -/
def State.celCapped (s : State) (w : Nat) : Bool :=
  s.celClosed || (decide (w < celHist) && decide (100 ≤ (sget s.celRate.1 (celBlock w)).getD 0))

/-- One word written in the medium, and counted for its block; not begun while the supply monitor has tripped (R335, R346). -/
def State.celRaw (s : State) (w : Nat) (v : W64) : State :=
  if !s.cellar.supply then s
  else
    let b := celBlock w
    let r := s.celRate
    s.modCellar (fun c =>
      { c with mem := mputs c.mem (8 * w) (wordLe v), rate := (sput r.1 b ((sget r.1 b).getD 0 + 1), r.2),
               wear := sput c.wear b ((sget c.wear b).getD 0 + 1), bad := c.bad.filter (fun x => x != w) })

/-- A word joins the write queue; a mirror word replaces the one of its field that still waits (R336, R337). -/
def State.celEnqueue (s : State) (w : Nat) (v : W64) (rwp : Option Nat) : State :=
  s.modCellar (fun c =>
    { c with queue := if rwp.isSome && c.queue.any (fun q => q.rwp == rwp)
        then c.queue.map (fun q => if q.rwp == rwp then { q with val := v } else q)
        else c.queue ++ [{ word := w, val := v, rwp := rwp }] })

/-- A write of word `w`, after which a count of its block that has grown by 4,096 is written to WEAR as `put` does it (R346). -/
def State.celWrite (s : State) (w : Nat) (v : W64) (put : State → Nat → W64 → State) : State :=
  let s1 := s.celRaw w v
  let n := (sget s1.cellar.wear (celBlock w)).getD 0
  if n ≠ (sget s.cellar.wear (celBlock w)).getD 0 ∧ n % 4096 = 0 then put s1 (celWear + celBlock w) (BitVec.ofNat 64 n) else s1

/-- A word of WEAR under the cap and the queue of its own block (R336), whose count it makes grow in turn. -/
def State.celWearPut (s : State) (w : Nat) (v : W64) : State :=
  let direct (s : State) (w : Nat) : Bool := decide (s.cellar.queue = []) && !s.celCapped w
  if direct s w then s.celWrite w v (fun s w v => if direct s w then s.celRaw w v else s.celEnqueue w v none) else s.celEnqueue w v none

/-- A word write now; each time a block's count has grown by 4,096 it goes to WEAR (R346). -/
def State.celNow (s : State) (w : Nat) (v : W64) : State := s.celWrite w v State.celWearPut

/-- A word write: at once, or behind the queue and the cap, in order (R336). -/
def State.celPut (s : State) (w : Nat) (v : W64) : State :=
  if s.cellar.queue = [] ∧ !s.celCapped w then s.celNow w v else s.celEnqueue w v none

/-- Several words written one after another. -/
def State.celPuts (s : State) (l : List (Nat × W64)) : State := s.each l (fun s p => s.celPut p.1 p.2)

/-- RWP fields, in the order of their mirror words (Table 0.5; log 60). -/
def rwpOffs : List Nat :=
  [0x7D010, 0x7F000, 0x7F004, 0x7F008, 0xF0018, 0xF001C, 0xF0020] ++ (List.range 100).map (fun n => n * 0x1000 + 0x40)

/-- A write to an RWP register: at once in the register, its mirror word queued (R337). -/
def State.setRwp (s : State) (off : Nat) (v : W32) : State :=
  let s1 := s.setReg .mary off v
  match rwpOffs.findIdx? (fun o => o == off) with
  | some i => s1.celEnqueue (celRwp + i) (BitVec.ofNat 64 (2 ^ 63 + v.toNat)) (some off)
  | none => s1

/-! ## Reservation journals (R338 to R341) -/

/-- The word of a family in the ceiling table (Table 15.2). -/
def Family.word : Family → Nat
  | .step => 0
  | .vint => 1
  | .gen sd => 2 + sd.toNat

/-- The highest ceiling of a family (R338). -/
def Family.cap : Family → Nat
  | .step => 0xFFFFFFFFFFFFFFFE
  | .vint => 0xFFFFFFFE
  | .gen _ => 0xFFFF

/-- The counter of a family at the top Maryel. -/
def State.famCtr (s : State) : Family → Nat
  | .step => (s.root .mary).stepHwm.toNat
  | .vint => (s.root .mary).vintHwm.toNat
  | .gen sd => (s.root .mary).hwmOf sd

/-- The ceiling in use of a family. -/
def State.famCeil (s : State) : Family → Nat
  | .step => s.cellar.stepCeil
  | .vint => s.cellar.vintCeil
  | .gen sd => (sget s.cellar.genCeil sd.toNat).getD 0

/-- The block of a family (Table 15.2). -/
def State.famBlock (s : State) : Family → Nat
  | .step => 2 ^ s.fld .mary 0x7F000 5 0
  | .vint => s.fld .mary 0x7F004 16 0
  | .gen _ => s.fld .mary 0x7F008 10 0

/-- Set the ceiling in use. -/
def State.setCeil (s : State) (f : Family) (n : Nat) : State :=
  s.modCellar (fun c =>
    match f with
    | .step => { c with stepCeil := n }
    | .vint => { c with vintCeil := n }
    | .gen sd => { c with genCeil := sput c.genCeil sd.toNat n })

/-- The two copies of a family's ceiling word, each none while it is not readable (R339). -/
def State.ceilCopies (s : State) (f : Family) : List Nat :=
  [celCeilA + f.word, celCeilB + f.word].filterMap (fun w => if s.celOk w then some (s.celWord w).toNat else none)

/-- A raise to a ceiling joins the raises, unless one that reaches it waits already (R338). -/
def State.queueRaise (s : State) (f : Family) (need : Nat) : State :=
  let ceil := min f.cap (need + s.famBlock f)
  if (s.cellar.raises ++ s.cellar.raising.toList).any (fun r => decide (r.fam = f) && decide (r.ceil ≥ need)) then s
  else s.modCellar (fun c => { c with raises := c.raises ++ [{ fam := f, ceil := ceil }] })

/-- A raise ahead: the counter has reached its ceiling less half its block (R338). -/
def State.raiseAhead (s : State) (f : Family) : State :=
  let n := s.famCtr f
  let ceil := s.famCeil f
  if n + s.famBlock f / 2 ≥ ceil ∧ ceil < f.cap ∧
      !(s.cellar.raises ++ s.cellar.raising.toList).any (fun r => decide (r.fam = f)) then s.queueRaise f n else s

/-- An operation that needs counter value `x` is held for a raise on demand (R338). -/
def State.holdFor (s : State) (f : Family) (x : Nat) (op : HeldOp) : State :=
  (s.queueRaise f x).modCellar (fun c => { c with held := c.held ++ [(f, op)] })

/-- A RES_FLOOR of a family waits for its raise (R340). -/
def State.floorHeld (s : State) (f : Family) : Bool :=
  s.cellar.held.any (fun h => decide (h.1 = f) && (match h.2 with | .floor _ _ => true | _ => false))

/-- Does an operation at a root need a raise first? While a RES_FLOOR of its family waits for one, it waits behind it. An island root has no cellar
(R383). -/
def State.needsRaise (s : State) (k : NodeSel) (f : Family) (x : Nat) : Bool :=
  decide (k = .mary) && (decide (x > s.famCeil f) || s.floorHeld f)

/-- Is a family's journal lost at a root, and no RES_FLOOR for it accepted yet (R340)? It reads 0 at an island root (R383). -/
def State.jrnlLost (s : State) (k : NodeSel) (f : Family) : Bool := decide (k = .mary) && decide (f ∈ s.cellar.lost) && !s.floorHeld f

/-! ## The grant log (R342, Table 15.3) -/

/-- The bytes of a word, most significant first. -/
def wordBe (v : W64) : List Byte := (wordLe v).reverse

/-- The four words of a grant record with its CRC. -/
def grantWords (seq : Nat) (sd : Sd) (lo hi : W64) : List W64 :=
  let w0 := BitVec.ofNat 64 (2 ^ 56 + seq % 2 ^ 48)
  let w3 := BitVec.ofNat 64 (sd.toNat * 2 ^ 52)
  let c := crc32 ((wordBe w0 ++ wordBe lo ++ wordBe hi ++ wordBe w3).take 28)
  [w0, lo, hi, w3 ||| c.zeroExtend 64]

/-- Record `i` of the log, as (SEQ, LO, HI), when it is valid. -/
def State.grantRec (s : State) (i : Nat) : Option (Nat × W64 × W64) :=
  let b := celGrant + 4 * i
  let w0 := s.celWord b
  let w3 := s.celWord (b + 3)
  if (List.range 4).all (fun j => s.celOk (b + j)) && decide (bitsOf w0 63 56 = 1) &&
      decide (grantWords (bitsOf w0 47 0) (w3.extractLsb' 52 12) (s.celWord (b + 1)) (s.celWord (b + 2))
        = [w0, s.celWord (b + 1), s.celWord (b + 2), w3]) then
    some (bitsOf w0 47 0, s.celWord (b + 1), s.celWord (b + 2))
  else none

/-- The valid records; only places that hold anything are looked at. -/
def State.grantRecs (s : State) : List (Nat × W64 × W64) :=
  let is := ((s.cellar.mem.filter (fun c => decide (8 * celGrant ≤ c.1 ∧ c.1 < 8 * celRwp))).map
    (fun c => (c.1 - 8 * celGrant) / 32)).eraseDups
  is.filterMap s.grantRec

/-- The words of the next record: SEQ one above the highest of a valid record, those that still wait in the queue counted; a full ring
overwrites the lowest (R342). -/
def State.grantNext (s : State) (sd : Sd) (lo hi : W64) : List (Nat × W64) :=
  let waiting := (s.cellar.queue.filter (fun q => decide (celGrant ≤ q.word ∧ q.word < celRwp ∧ q.word % 4 = 3))).length
  let seq := s.grantRecs.foldl (fun a r => max a r.1) 0 + waiting + 1
  (grantWords seq sd lo hi).zipIdx.map (fun p => (celGrant + 4 * (seq % 8192) + p.2, p.1))

/-- Do words of the grant log wait in the queue? -/
def State.grantWaits (s : State) : Bool := s.cellar.queue.any (fun q => decide (celGrant ≤ q.word ∧ q.word < celRwp))

end Sys2Proof.Machine
end

