-- ==== Sys2Proof/Machine/Prick.lean ====
section
/-! DEFINITION. The pricking (chapter 07): installs and withdraws at a leaf, ARM, guard checks and firings, the seeds of a firing
(R214 to R217), strobes on their way to a region (R119, R122), throttle tokens (R159 to R161) and the table's protection (R163 to
R166). -/

namespace Sys2Proof.Machine

/-! ## Installing at a leaf (R145, R146, Table 7.4) -/

/-- The kinds whose image ADV may be 1 (Table 7.4, code 5): LAUNCH, SEED_ROLL and HOOP_OPEN. -/
def advKind (kind : Nat) : Bool := kind == 0 || kind == 3 || kind == 4

/-- Are the ARG bits that Table 7.3 gives as zero, zero? -/
def argZeros (i : BitVec 256) : Bool :=
  match imgKind i with
  | 1 => decide (bitsOf (imgArg i) 63 32 = 0)
  | 2 => decide (bitsOf (imgArg i) 63 3 = 0)
  | 4 => decide (bitsOf (imgArg i) 47 0 = 0)
  | 6 => decide (bitsOf (imgArg i) 63 3 = 0)
  | _ => true

/-- Code 5 of Table 7.4. -/
def imgMalformed (i : BitVec 256) : Bool :=
  decide (imgTickNs i > 999999999) || (decide (imgRepCnt i > 0) && decide (imgRepInt i = 0))
    || (decide (imgKind i = 1) && (decide (imgRepCnt i > 0) || imgAdv i))
    || (imgAdv i && !advKind (imgKind i)) || decide (imgEidx i = 63) || !argZeros i

/-- The lowest-numbered code of Table 7.4 that applies to an install image at a leaf; a leaf without HT refuses with code 2 (R145,
R354). -/
def State.refuseCode (s : State) (i : BitVec 256) : Option Nat :=
  let tick := resolveTick (s.htNs .leaf / 1000000000) (imgTickS i) (imgTickNs i)
  if decide (512 ≤ s.leaf.prick.entries.length) || s.leaf.prick.fatal || s.leaf.fatal then some 1
  else if (s.time .leaf).noht || decide (tick * nsTu ≤ ((s.ht .leaf + imgGuardNs i * nsTu : Nat) : Int)) then some 2
  else if imgGuardNs i < 500 then some 3
  else if imgPorts i = 0 ∨ (bitsSet (imgPorts i)).any (fun p => s.gated p) then some 4
  else if imgMalformed i then some 5
  else none

/-- One more accepted or refused image of a batch (R147). -/
def State.countImage (s : State) (b : Batch) (acc : Bool) : State :=
  s.modPrick (fun p =>
    let c := (aget p.counts b).getD (0, 0)
    { p with counts := aput p.counts b (if acc then (c.1 + 1, c.2) else (c.1, c.2 + 1)) })

/-- The lowest place of the table that holds no entry (R139, log 99). -/
def Prick.freePos (p : Prick) : Nat := ((List.range 512).find? (fun i => !p.entries.any (fun e => e.pos == i))).getD 0

/-- A new entry: its image, tag and full-width tick (R139, R140). -/
def State.newEntry (s : State) (m : InstallMsg) : Entry :=
  { image := m.image, batch := m.batch, gen := m.head.gen,
    tick0 := (resolveTick (s.htNs .leaf / 1000000000) (imgTickS m.image) (imgTickNs m.image)).toNat,
    fired := 0, armA := false, armB := false, judged := false, pos := s.leaf.prick.freePos }

/-- A leaf takes, drops or refuses an image for its binding; a withdraw after the end of its batch's install hoop counts nowhere (R145, R146). -/
def State.takeImage (s : State) (m : InstallMsg) : State :=
  let key : Gen × Batch × BitVec 6 := (m.head.gen, m.batch, imgEidx m.image)
  if !imgOp m.image && decide (imgSd m.image ≠ m.head.sd) then s.bump .leaf 0xE104
  else if key ∈ s.leaf.prick.taken then s.bump .leaf 0xA100
  else
    let s1 := s.modPrick (fun p => { p with taken := p.taken ++ [key] })
    if imgOp m.image then
      (if m.batch ∈ s1.leaf.prick.instDone then s1 else s1.countImage m.batch true).withdraw (m.image &&& ~~~ (BitVec.ofNat 256 (0xFFF * 2 ^ 238)) ||| BitVec.ofNat 256 (m.head.sd.toNat * 2 ^ 238))
    else match s.refuseCode m.image with
      | some c =>
        (((s1.countImage m.batch false).bump .leaf 0xA104).raiseIrq .leaf 5).modPrick (fun p => { p with why := BitVec.ofNat 3 c })
      | none => (s1.countImage m.batch true).modPrick (fun p => { p with entries := p.entries ++ [s.newEntry m] })

/-- A PRICK-INSTALL reaches the leaf itself (R145, R254). -/
def State.leafInstall (s : State) (m : InstallMsg) : State :=
  let mine := s.c2Mine m.head
  if mine.2 then mine.1.takeImage m else mine.1

/-- PRICK_INSTALL_RX: forwarded on its ports, and taken by a leaf (R59, R144, R145). -/
def opPrickInstallRx (c : CellRef) (m : InstallMsg) (s : State) : State :=
  let k := c.node
  let x := s.cell k c.idx
  if x.ts ≠ .active then s
  else if x.cfg.role ≠ 1 then s.dropRoute k c.idx
  else
    let s1 := s.passC2 k c.idx m.head (installToks m)
    match k with
    | .mary => s1
    | .leaf => s1.leafInstall m

/-! ## ARM (R149, R150, R273) -/

/-- A leaf arms every installed entry of a batch on one tree. -/
def Entry.arm (e : Entry) (d : Dom) : Entry :=
  match d with
  | .a => { e with armA := true }
  | .b => { e with armB := true }

/-- A leaf accepts an ARM for its binding (R149); for a batch with an entry removed at its guard edge it changes nothing and is counted
(R150). -/
def State.leafArm (s : State) (d : Dom) (sd : Sd) (g : Gen) (b : Batch) : State :=
  match s.leaf.binding with
  | none => s.bump .leaf 0xE108
  | some x =>
    if x.sd ≠ sd then s.bump .leaf 0xE104
    else if x.gen ≠ g then s.bump .leaf 0xE100
    else if b ∈ s.leaf.prick.lateBatch then s.bump .leaf 0xA10C
    else s.modPrick (fun p => { p with entries := p.entries.map (fun e => if e.batch = b then e.arm d else e) })

/-- An error that the read of an entry shows: corrected in place and counted in PRK_CE; an uncorrectable one removes the entry with all its
firings before any action, with a miss of cause UE, PRK_UE and its interrupt (R163 to R165). -/
def State.prkErr (s : State) (x : PrkErr) : State :=
  match s.leaf.prick.entries.find? (fun e => decide (e.batch = x.batch ∧ imgEidx e.image = x.eidx)) with
  | none => s
  | some e =>
    if x.ue then (((s.dropEntries (fun y => decide (y = e))).missEntry 2 e).bump .leaf 0xA120).raiseIrq .leaf 7
    else s.bump .leaf 0xA11C

/-- The errors that the reads of the entries that satisfy a test show. -/
def State.prkErrs (s : State) (p : Entry → Bool) (errs : List PrkErr) : State :=
  s.each errs (fun s x =>
    if s.leaf.prick.entries.any (fun e => p e && decide (e.batch = x.batch ∧ imgEidx e.image = x.eidx)) then s.prkErr x else s)

/-- ARM_RX: forwarded to the member ports, and taken by a leaf (R59, R149); `errs` are the errors that the reads of the batch's entries show
(R163). -/
def opArmRx (c : CellRef) (sd : Sd) (g : Gen) (b : Batch) (errs : List PrkErr) (s : State) : State :=
  let k := c.node
  let x := s.cell k c.idx
  if x.ts ≠ .active then s
  else if x.cfg.role ≠ 1 then s.dropRoute k c.idx
  else
    let s1 := s.sendC0All k (s.memberPorts k x.cfg.dom sd) (armTok sd g b :: [])
    match k with
    | .mary => s1
    | .leaf =>
      if s1.leaf.binding.any (fun y => decide (y.sd = sd ∧ y.gen = g)) && decide (b ∉ s1.leaf.prick.lateBatch) then
        ((s1.prkErrs (fun e => decide (e.batch = b)) errs).leafArm x.cfg.dom sd g b).sendMarks
      else s1.leafArm x.cfg.dom sd g b

/-! ## Guard (R150, R273) -/

/-- The guard checks due at the present edge: an unarmed entry is removed with a miss, one armed by a single tree counts ARM_SOLO. -/
def State.guardNow (s : State) : State :=
  let now := s.ht .leaf
  let due (e : Entry) : Bool := !e.judged && decide (e.guardAt * nsTu ≤ now)
  let es := s.leaf.prick.entries.filter due
  let late := es.filter (fun e => !e.armed)
  let solo := (es.filter (fun e => e.armed && !(e.armA && e.armB))).length
  let s1 := (s.modPrick (fun p =>
    { p with entries := (p.entries.filter (fun e => !(due e && !e.armed))).map (fun e => if due e then { e with judged := true } else e),
             lateBatch := (late.map (fun e => e.batch)).foldl (fun l b => if b ∈ l then l else l ++ [b]) p.lateBatch })).bumpBy .leaf 0xA12C solo
  s1.each late (fun s e => s.missEntry 0 e)

/-- GUARD_CHECK: the next guard edge g of an entry not yet judged; outcomes that take effect at that edge come first (R150, R155). -/
def opGuardCheck (s : State) : State :=
  match minNat ((s.leaf.prick.entries.filter (fun e => !e.judged)).map Entry.guardAt) with
  | none => s
  | some g => (((s.advHt .leaf (g * nsTu)).outcomesDue).guardNow).sendMarks

/-! ## Strobes to a region (R119, R121, R122, R134) -/

/-- The region's outputs take a strobe's step, seed and vintage (R121, R122); the vintage of a port never decreases (R158). -/
def Region.takeStrobe (r : Region) (x : Strobe) : Region :=
  if x.kind = 1 ∨ x.kind = 3 then { r with step := x.step, seed := x.seed }
  else if x.kind = 2 then { r with vintage := if r.vintage.toNat < bitsOf x.arg 31 0 then x.arg.extractLsb' 0 32 else r.vintage }
  else r

/-- A strobe is discarded: RP_LAND_TMO_n, RP_LAND_STAT, the values taken, and for a HOOP_OPEN in ALL mode at a member port
MISSED at once (R122, R134, R198). -/
def State.discardStrobe (s : State) (p : Nat) (x : Strobe) : State :=
  let s1 := ((s.modRegion p (fun r => r.takeStrobe x)).bump .leaf (rOff p 0x18)).modLeaf (fun l => { l with landStat := setBit l.landStat p })
  if x.kind = 4 then
    let y := s.slot (bitsOf x.arg 4 0)
    if y.st = .open_ ∧ y.hoopId = x.arg.extractLsb' 48 16 ∧ y.ports.getLsbD p ∧ !rcQuorum y.common then s1.leafMissed y.sd y.hoopId y.gen else s1
  else s1

/-- Strobes next in line whose seed is ready enter the crossing, which holds 8 (R119, R122). -/
def Region.takeIn (r : Region) (rc : W64) : Region :=
  let n := min (8 - r.queue.length) (r.wait.takeWhile (fun x => x.ready)).length
  { r with queue := r.queue ++ (r.wait.take n).map (fun x => { x with entered := rc }), wait := r.wait.drop n }

/-- A strobe falls due at a port: discarded while rp_cr_n is low (R134), else in line (R119). -/
def State.pushStrobe (s : State) (p : Nat) (x : Strobe) : State :=
  if (s.region p).crN then s.modRegion p (fun r => Region.takeIn { r with wait := r.wait ++ [{ x with entered := s.rc .leaf }] } (s.rc .leaf)) else s.discardStrobe p x

/-! ## Firing (R141, R142, R154, R214 to R216) -/

/-- The place of a kind in the order of R142. -/
def kindRank (kind : Nat) : Nat :=
  match kind with
  | 1 => 0
  | 2 => 1
  | 6 => 2
  | 3 => 3
  | 0 => 4
  | 4 => 5
  | 5 => 6
  | _ => 7

/-- The order of R142 on kind, BATCH and EIDX. -/
def fireOrder (ka kb : Nat) (ba bb : Batch) (ea eb : BitVec 6) : Bool :=
  if kindRank ka ≠ kindRank kb then decide (kindRank ka < kindRank kb)
  else if ba ≠ bb then decide (1 ≤ (bb - ba).toNat) && decide ((bb - ba).toNat ≤ 32767)
  else decide (ea < eb)

/-- Does a firing come before another at one edge (R142)? -/
def fireBefore (a b : Entry) : Bool := fireOrder (imgKind a.image) (imgKind b.image) a.batch b.batch (imgEidx a.image) (imgEidx b.image)

/-- Insert a firing into its place. -/
def fireInsert (e : Entry) : List Entry → List Entry
  | [] => [e]
  | x :: l => if fireBefore e x then e :: x :: l else x :: fireInsert e l

/-- The order of R142. -/
def fireSort (l : List Entry) : List Entry := l.foldl (fun acc e => fireInsert e acc) []

/-- Is the seed of a firing ready for a port: computed with the held key (R215)? -/
def State.seedReady (s : State) (e : Entry) (k p : Nat) : Bool :=
  s.leaf.prick.seeds.any (fun r => decide (r.batch = e.batch ∧ r.eidx = imgEidx e.image) && r.k == k && r.port == p
    && decide (some r.key = s.leaf.seed.key))

/-- The strobe of a firing at a port. -/
def Entry.strobe (e : Entry) (kind : BitVec 4) (arg : W64) (seed : BitVec 128) (ready : Bool) : Strobe :=
  { kind := kind, arg := arg, step := imgStepAt e.image e.fired, seed := seed, ready := ready, tick := e.tick,
    batch := e.batch, eidx := imgEidx e.image, entered := 0 }

/-- A LAUNCH or SEED_ROLL firing: each port's seed from the key and rank at the firing edge, zero without a key (R214, R216); a seed not
ready holds its strobe back (R215). -/
def State.fireSeeded (s : State) (b : Binding) (e : Entry) (kind : BitVec 4) : State :=
  let ports := bitsSet (imgPorts e.image)
  match s.leaf.seed.key with
  | none =>
    let s1 := ((s.bump .leaf 0xC10C).raiseIrq .leaf 10).modPrick (fun p => { p with pending := true })
    s1.each ports (fun s p => s.pushStrobe p (e.strobe kind (imgArg e.image) 0 true))
  | some key =>
    s.each ports (fun s p =>
      let ok := s.seedReady e e.fired p
      let seed := stitch key (imgStepAt e.image e.fired) b.rank (BitVec.ofNat 12 p)
      s.pushStrobe p (e.strobe kind (imgArg e.image) seed ok))

/-- One firing takes effect (Tables 6.2, 7.3). -/
def State.fireOne (s : State) (b : Binding) (e : Entry) : State :=
  let i := e.image
  let arg := imgArgAt i e.fired
  let ports := bitsSet (imgPorts i)
  let plain (kind : BitVec 4) (a : W64) (s : State) : State := s.each ports (fun s p => s.pushStrobe p (e.strobe kind a 0 true))
  match imgKind i with
  | 0 => s.fireSeeded b e 1
  | 1 => (plain 2 ((imgArg i).extractLsb' 0 32 |>.zeroExtend 64) s).modPrick (fun p => { p with vintage := (imgArg i).extractLsb' 0 32 })
  | 2 => s.each ports (fun s p => s.modRegion p (fun r => { r with thrJob := (imgArg i).extractLsb' 0 3, thrAt := s.rc .leaf }))
  | 3 => s.fireSeeded b e 3
  | 4 =>
    let h : HoopId := arg.extractLsb' 48 16
    let o := s.openHoopAt b h (imgPorts i) e.tick
    match o.2 with
    | some n => plain 4 (BitVec.ofNat 64 (h.toNat * 2 ^ 48 + n)) o.1
    | none => o.1
  | 5 => plain 5 arg s
  | 6 => s.each ports (fun s p => s.modRegion p (fun r => { r with thrPlan := (imgArg i).extractLsb' 0 3, thrAt := s.rc .leaf }))
  | _ => plain 6 arg s

/-- An entry after a firing: one firing further, or gone after its last (R141); its computed seeds are used up. -/
def Prick.afterFire (p : Prick) (e : Entry) : Prick :=
  let same (x : Entry) : Bool := decide (x.batch = e.batch ∧ x.gen = e.gen ∧ imgEidx x.image = imgEidx e.image)
  { p with
    entries := if e.fired ≥ imgRepCnt e.image then p.entries.filter (fun x => !same x)
      else p.entries.map (fun x => if same x then { x with fired := e.fired + 1 } else x),
    seeds := p.seeds.filter (fun r => !(decide (r.batch = e.batch ∧ r.eidx = imgEidx e.image) && r.k == e.fired)) }

/-- Is a firing of an entry due at the present edge? -/
def State.dueNow (s : State) (e : Entry) : Bool := e.armed && e.judged && decide (e.tick * nsTu ≤ s.ht .leaf)

/-- Every firing due at the present edge, in order; an entry removed meanwhile does not fire. -/
def State.fireDue (s : State) : State :=
  match s.leaf.binding with
  | none => s
  | some b =>
    let due := fireSort (s.leaf.prick.entries.filter s.dueNow)
    s.each due (fun s e => if e ∈ s.leaf.prick.entries then (s.modPrick (fun p => p.afterFire e)).fireOne b e else s)

/-- FIRING: the read path reaches the next tick of an armed entry; outcomes that take effect, then the guard checks of that edge come first, and
`errs` are the errors that the reads of the firing entries show (R154, R155, R163, Table 7.5). -/
def opFiring (errs : List PrkErr) (s : State) : State :=
  match minNat ((s.leaf.prick.entries.filter Entry.armed).map Entry.tick) with
  | none => s
  | some t =>
    let s1 := ((s.advHt .leaf (t * nsTu)).outcomesDue).guardNow
    ((s1.prkErrs s1.dueNow errs).fireDue).sendMarks

/-! ## Seeds ahead of a firing (R209, R215, R217) -/

/-- The firings whose seeds are to be computed next: of armed LAUNCH and SEED_ROLL entries, the next eight of each. -/
def State.seedWork (s : State) : List (Entry × Nat) :=
  (s.leaf.prick.entries.filter (fun e => e.armed && decide (imgKind e.image = 0 ∨ imgKind e.image = 3))).flatMap (fun e =>
    ((List.range 8).map (fun j => e.fired + j)).filter (fun k =>
      decide (k ≤ imgRepCnt e.image) && (bitsSet (imgPorts e.image)).any (fun p => !s.seedReady e k p)) |>.map (fun k => (e, k)))

/-- The tick of firing k of an entry (R141). -/
def Entry.tickAt (e : Entry) (k : Nat) : Nat := e.tick0 + k * imgRepInt e.image * 4096

/-- The first work in tick order, and within a tick in the order of R142 (R215). -/
def seedFirst (l : List (Entry × Nat)) : Option (Entry × Nat) :=
  l.foldl (fun a x =>
    match a with
    | none => some x
    | some y =>
      if x.1.tickAt x.2 < y.1.tickAt y.2 ∨ (x.1.tickAt x.2 = y.1.tickAt y.2 ∧ fireBefore x.1 y.1 = true) then some x else some y) none

/-- The KIND of the image whose firing a seeded strobe carries (Table 6.2): LAUNCH 0, SEED_ROLL 3. -/
def Strobe.imgKind (x : Strobe) : Nat := if x.kind = 1 then 0 else 3

/-- Do two strobes belong to one firing? -/
def Strobe.sameFiring (x y : Strobe) : Bool := decide (x.tick = y.tick ∧ x.batch = y.batch ∧ x.eidx = y.eidx ∧ x.kind = y.kind)

/-- The waiting strobe whose seed is computed next: the first firing in tick order, and within a tick in the order of R142 (R215). -/
def State.firstWaiting (s : State) : Option Strobe :=
  ((s.leaf.regions.toList.flatMap (fun r => r.wait)).filter (fun x => !x.ready)).foldl (fun a x =>
    match a with
    | none => some x
    | some y =>
      if x.tick < y.tick ∨ (x.tick = y.tick ∧ fireOrder x.imgKind y.imgKind x.batch y.batch x.eidx y.eidx = true) then some x else some y) none

/-- The seeds of a firing that wait at one port become ready: the strobes enter the crossing, or are discarded while rp_cr_n is low (R134); each
that a later edge than its firing has held back counts in SEED_LATE (R215, log 115). -/
def State.readyAt (s : State) (x : Strobe) (p : Nat) : State :=
  let r := s.region p
  let mine := r.wait.filter (fun y => !y.ready && y.sameFiring x)
  let late := (mine.filter (fun y => decide (y.entered.toNat < (s.rc .leaf).toNat))).length
  let s1 := s.bumpBy .leaf 0xC108 late
  if r.crN then
    s1.modRegion p (fun r => Region.takeIn
      { r with wait := r.wait.map (fun y => if y.sameFiring x then { y with ready := true } else y) } (s.rc .leaf))
  else (s1.modRegion p (fun r => { r with wait := r.wait.filter (fun y => !(!y.ready && y.sameFiring x)) })).each mine
    (fun s y => s.discardStrobe p y)

/-- The records of the seeds of firing k of an entry, for each port it names, with the held key and the leaf's rank (R214, R215). -/
def Entry.seedRecs (e : Entry) (k : Nat) (key : BitVec 128) (rank : Id20) : List SeedRec :=
  (bitsSet (imgPorts e.image)).map (fun p : Nat =>
    { batch := e.batch, eidx := imgEidx e.image, k := k, port := p, key := key,
      seed := stitch key (imgStepAt e.image k) rank (BitVec.ofNat 12 p) })

/-- The next firing ahead of its tick whose seeds are to be computed, with those seeds (R215). -/
def State.seedsAhead (s : State) : Option (Entry × Nat × List SeedRec) :=
  match s.leaf.seed.key, s.leaf.binding with
  | some key, some b => (seedFirst s.seedWork).map (fun x => (x.1, x.2, x.1.seedRecs x.2 key b.rank))
  | _, _ => none

/-- The ports and seeds that the pipelines compute next: of strobes that wait, fixed at their firing edge, else of a firing ahead (R214, R215). -/
def State.seedsNext (s : State) : List (Nat × BitVec 128) :=
  match s.firstWaiting with
  | some x => (List.range 16).flatMap (fun p => ((s.region p).wait.filter (fun y => !y.ready && y.sameFiring x)).map (fun y => (p, y.seed)))
  | none => match s.seedsAhead with
    | some w => w.2.2.map (fun r => (r.port, r.seed))
    | none => []

/-- The seeds of one firing are computed (R214, R215). -/
def State.computeSeeds (s : State) : State :=
  match s.firstWaiting with
  | some x => s.each (List.range 16) (fun s p => s.readyAt x p)
  | none =>
    match s.seedsAhead with
    | none => s
    | some (e, k, recs) =>
      (s.advHt .leaf ((e.tickAt k - imgGuardNs e.image) * nsTu)).modPrick (fun p =>
        { p with seeds := p.seeds.filter (fun r => !(decide (r.batch = e.batch ∧ r.eidx = imgEidx e.image) && r.k == k)) ++ recs })

/-- The outputs of the two pipelines differ: SEED_CMP_ERR, its interrupt and alarm, and MISS_PENDING; pipeline 0's seed stands (R217). -/
def State.seedDiffers (s : State) : State :=
  (((s.bump .leaf 0xC110).raiseIrq .leaf 11).modLeaf (fun l =>
    { l with alarm := setBit l.alarm 1, prick := { l.prick with pending := true } })).sendMarks

/-- SEED_COMPUTE, and what the pipelines and the key store show in it (R209, R215, R217). -/
def opSeedCompute (ev : SeedEvent) (s : State) : State :=
  match ev with
  | .agree => s.computeSeeds
  | .differ p second =>
    if s.seedsNext.any (fun x => decide (x.1 = p.val ∧ x.2 ≠ second)) then s.computeSeeds.seedDiffers else s.computeSeeds
  | .keyCe => (s.bumpIf s.leaf.seed.key.isSome .leaf 0xC100).computeSeeds
  | .keyUe => if s.leaf.seed.key.isSome then ((s.clearKey).bump .leaf 0xC104).raiseIrq .leaf 9 else s

/-! ## Throttle (R159 to R161) -/

/-- A THROTTLE token at a leaf: on time it waits for its effective instant, late it takes effect or is discarded (R160). -/
def State.leafThrottle (s : State) (level : BitVec 3) (effNs : W32) : State :=
  let now := s.htNs .leaf
  let r := resolveMod 32 now effNs.toNat
  if r - now ≤ 2 ^ 31 then s.modLeaf (fun l => { l with thrToks := l.thrToks ++ [(r, level)] })
  else
    let at_ := r - 2 ^ 32
    (s.bump .leaf 0xA128).modLeaf (fun l =>
      match l.thrFrom with
      | some t =>
        if t > at_ then l
        else { l with thrHall := if t = at_ ∧ level.toNat < l.thrHall.toNat then l.thrHall else level, thrFrom := some at_ }
      | none => { l with thrHall := level, thrFrom := some at_ })

/-- THROTTLE_RX: to every DOWN port of the domain, and taken by a leaf (R59, R160). -/
def opThrottleRx (c : CellRef) (level : BitVec 3) (cap : Bool) (tseq : Byte) (effNs : W32) (s : State) : State :=
  let k := c.node
  let x := s.cell k c.idx
  if x.ts ≠ .active then s
  else if x.cfg.role ≠ 1 then s.dropRoute k c.idx
  else
    let s1 := s.sendC0All k (s.downCells k x.cfg.dom) [throttleTok level cap tseq effNs]
    match k with
    | .mary => s1
    | .leaf => s1.leafThrottle level effNs

/-- The HALL level at the present edge: of the tokens whose instant has passed the latest one's level, the deepest at one instant (R160). -/
def State.hallNow (s : State) : State :=
  let now := s.ht .leaf
  let due := s.leaf.thrToks.filter (fun t => decide (t.1 * nsTu ≤ now))
  s.modLeaf (fun l =>
    { due.foldl (fun l t =>
        match l.thrFrom with
        | some f =>
          if f > t.1 then l else { l with thrHall := if f = t.1 ∧ t.2.toNat < l.thrHall.toNat then l.thrHall else t.2, thrFrom := some t.1 }
        | none => { l with thrHall := t.2, thrFrom := some t.1 }) l with
      thrToks := l.thrToks.filter (fun t => !decide (t.1 * nsTu ≤ now)) })

/-- EFF_NS of a THROTTLE that a Maryel originates: its HT plus THR_FLIGHT plus 500 ns, up to a whole nanosecond (R161). -/
def State.throttleAt (s : State) : Nat := (s.ht .mary + nsTu - 1) / nsTu + s.fld .mary 0x7F034 11 0 + 500

/-- A Maryel originates a THROTTLE on every DOWN port of its domain; without HT none (R161). -/
def State.originThrottle (s : State) (level : BitVec 3) (cap : Bool) : State :=
  if (s.time .mary).noht then s
  else
    let seq := s.mary.tseq + 1
    let s1 := s.modMary (fun m => { m with tseq := seq })
    s1.sendC0All .mary (s.downCells .mary (s.cfg .mary).dom) [throttleTok level cap seq (BitVec.ofNat 32 s.throttleAt)]

/-- CAPREQ_EN. -/
def State.capEn (s : State) : Bool := (s.reg .mary 0x7F030).getLsbD 0
/-- CAP_MIN_HOLD in ns. -/
def State.capHold (s : State) : Nat := s.fld .mary 0x7F038 16 0 * 1000

/-- CAPREQ_EDGE: a filtered edge of CAPREQ_N; the falling edge asserts, the rising edge releases no earlier than CAP_MIN_HOLD after the
assertion's instant (R161). -/
def opCapreqEdge (s : State) : State :=
  let fall := s.mary.capPin
  let s1 := s.modMary (fun m => { m with capPin := !m.capPin })
  if !s.capEn || (s.time .mary).noht then s1
  else if fall then
    (s1.originThrottle ((s.reg .mary 0x7F030).extractLsb' 4 3) true).modMary (fun m => { m with capEff := some s.throttleAt })
  else match s.mary.capEff with
    | some t => if s.htNs .mary ≥ t + s.capHold then (s1.originThrottle 0 true).modMary (fun m => { m with capEff := none }) else s1
    | none => s1.originThrottle 0 true

/-- CAP_RELEASE: the release that a rising edge left waiting, CAP_MIN_HOLD after the assertion's effective instant (R161). -/
def opCapRelease (s : State) : State :=
  match s.mary.capEff with
  | some t =>
    if s.mary.capPin && s.capEn && !(s.time .mary).noht then
      ((s.advHt .mary ((t + s.capHold) * nsTu)).originThrottle 0 true).modMary (fun m => { m with capEff := none })
    else s
  | none => s

/-! ## Protecting the table (R163 to R166) -/

/-- Every entry is discarded with one record of cause FATAL (R166, R271). -/
def State.fatalMiss (s : State) : State :=
  let r : MissRec :=
    { sd := match s.leaf.binding with | some b => b.sd | none => 0, gen := match s.leaf.binding with | some b => b.gen | none => 0,
      batch := 0, eidx := 0, kind := 0, step := 0, tick := 0, cause := 3 }
  (s.dropEntries (fun _ => true)).recordMiss r

/-- PRK_SCRUB: one word read every PRK_SCRUB_DIV cycles, or an error that a read to resolve or to halt an entry shows (R163 to R166).
The division is that last written (DEDUCED, log 114). -/
def opPrkScrub (r : ScrubResult) (s : State) : State :=
  let s0 := s.advAfter .leaf s.leaf.prick.scrubAt (2 ^ s.fld .leaf 0xA010 3 0)
  let i := s.leaf.prick.scrubPtr / 4
  let s1 := s0.modPrick (fun p => { p with scrubPtr := (p.scrubPtr + 1) % 2048, scrubAt := s0.rc .leaf })
  match r with
  | .clean => s1
  | .corrected => s1.bump .leaf 0xA11C
  | .uncorrectable =>
    match s.leaf.prick.entries.find? (fun e => e.pos == i) with
    | none => s1
    | some e => (s1.prkErr { batch := e.batch, eidx := imgEidx e.image, ue := true }).sendMarks
  | .tagParity => ((s1.fatalMiss).modPrick (fun p => { p with fatal := true })).sendMarks
  | .read e => (s.prkErr e).sendMarks

/-- PRICK_INSTALL_RX. -/
def execPrickInstallRx (c : CellRef) (m : InstallMsg) (s : State) : Host.Outcome State Fault Refusal :=
  .next (s.live c.node (opPrickInstallRx c m))
/-- ARM_RX. -/
def execArmRx (c : CellRef) (sd : Sd) (gen : Gen) (batch : Batch) (s : State) (errs : List PrkErr := []) : Host.Outcome State Fault Refusal :=
  .next (s.live c.node (opArmRx c sd gen batch errs))
/-- GUARD_CHECK. -/
def execGuardCheck (s : State) : Host.Outcome State Fault Refusal := .next (s.live .leaf opGuardCheck)
/-- FIRING. -/
def execFiring (s : State) (errs : List PrkErr := []) : Host.Outcome State Fault Refusal := .next (s.live .leaf (opFiring errs))
/-- SEED_COMPUTE. -/
def execSeedCompute (ev : SeedEvent) (s : State) : Host.Outcome State Fault Refusal := .next (s.live .leaf (opSeedCompute ev))
/-- THROTTLE_RX. -/
def execThrottleRx (c : CellRef) (level : BitVec 3) (cap : Bool) (tseq : Byte) (effNs : W32) (s : State) :
    Host.Outcome State Fault Refusal :=
  .next (s.live c.node (opThrottleRx c level cap tseq effNs))
/-- CAPREQ_EDGE. -/
def execCapreqEdge (s : State) : Host.Outcome State Fault Refusal := .next (s.live .mary opCapreqEdge)
/-- CAP_RELEASE. -/
def execCapRelease (s : State) : Host.Outcome State Fault Refusal := .next (s.live .mary opCapRelease)
/-- THR_CMD (R161). -/
def execThrCmd (src : Src) (level : BitVec 3) (s : State) : Host.Outcome State Fault Refusal :=
  .next (s.access .mary src 0x7F03C (fun s => s.originThrottle level false))
/-- PRK_SCRUB. -/
def execPrkScrub (r : ScrubResult) (s : State) : Host.Outcome State Fault Refusal := .next (s.live .leaf (opPrkScrub r))
/-- PRK_FATAL_CLR (R166). -/
def execPrkFatalClr (src : Src) (s : State) : Host.Outcome State Fault Refusal :=
  .next (s.access .leaf src 0xA008 (fun s => s.modPrick (fun p => { p with fatal := false })))

end Sys2Proof.Machine
end

