-- ==== Sys2Proof/Machine/RootOps.lean ====
section
/-! DEFINITION. Operations at a root (chapters 07 to 11, 15, 18): the append buffers, INST_GO, RCP_GO, BIND_GO and SD_TEARDOWN in the order
of R427, ARM_SEND, keys, step windows, vintages, RES_FLOOR, and C2 pacing. -/

namespace Sys2Proof.Machine

/-! ## Append buffers (R389, R396) -/

/-- The append buffers. -/
inductive BufId | inst | bind | rcp | prof
  deriving DecidableEq, Repr

/-- Words a buffer holds: 1,024 images, 16,384 entries, 32 words, 64 KiB; at an island root 128 images and 1,024 entries (R383). -/
def bufCap (k : NodeSel) : BufId → Nat
  | .inst => if k = .leaf then 1280 else 10240
  | .bind => if k = .leaf then 2048 else 32768
  | .rcp => 32
  | .prof => 16384

/-- The words of a buffer. -/
def SrcBuf.words (b : SrcBuf) : BufId → List W32
  | .inst => b.inst
  | .bind => b.bind
  | .rcp => b.rcp
  | .prof => b.prof

/-- Set the words of a buffer. -/
def SrcBuf.setWords (b : SrcBuf) (i : BufId) (l : List W32) : SrcBuf :=
  match i with
  | .inst => { b with inst := l }
  | .bind => { b with bind := l }
  | .rcp => { b with rcp := l }
  | .prof => { b with prof := l }

/-- A word was appended beyond the capacity of a buffer. -/
def SrcBuf.full (b : SrcBuf) : BufId → Bool
  | .inst => b.tooMany.1
  | .bind => b.tooMany.2.1
  | .rcp => b.tooMany.2.2.1
  | .prof => b.tooMany.2.2.2

/-- Set the mark of a buffer. -/
def SrcBuf.setFull (b : SrcBuf) (i : BufId) (v : Bool) : SrcBuf :=
  match i with
  | .inst => { b with tooMany := (v, b.tooMany.2.1, b.tooMany.2.2.1, b.tooMany.2.2.2) }
  | .bind => { b with tooMany := (b.tooMany.1, v, b.tooMany.2.2.1, b.tooMany.2.2.2) }
  | .rcp => { b with tooMany := (b.tooMany.1, b.tooMany.2.1, v, b.tooMany.2.2.2) }
  | .prof => { b with tooMany := (b.tooMany.1, b.tooMany.2.1, b.tooMany.2.2.1, v) }

/-- The buffers of a source at a root. -/
def State.srcBuf (s : State) (k : NodeSel) (src : Src) : SrcBuf := (s.root k).buf src
/-- Change the buffers of a source. -/
def State.modSrcBuf (s : State) (k : NodeSel) (src : Src) (f : SrcBuf → SrcBuf) : State := s.modRoot k (fun r => r.modBuf src f)

/-- Append a word; beyond the capacity it is discarded and marked refused (R389). -/
def opAppend (k : NodeSel) (src : Src) (i : BufId) (v : W32) (s : State) : State :=
  let b := s.srcBuf k src
  if (b.words i).length ≥ bufCap k i then (s.modSrcBuf k src (fun b => b.setFull i true)).markRefused k
  else s.modSrcBuf k src (fun b => b.setWords i (b.words i ++ [v]))

/-- A _CLR register empties the writer's buffer (R389). -/
def opBufClr (k : NodeSel) (src : Src) (i : BufId) (s : State) : State :=
  s.modSrcBuf k src (fun b => (b.setWords i []).setFull i false)

/-! ## Licences and the bind table -/

/-- Licences in effect at a root; a leaf holds none, so the base values apply at an island root (Table 13.9, log 61). -/
def State.licOf (s : State) (k : NodeSel) : Lic :=
  match k with
  | .leaf => .reset
  | .mary => s.mary.lic

/-- SD_TIER: an SD above 255 needs the licence (Table 13.9). -/
def State.sdRefused (s : State) (k : NodeSel) (sd : Sd) : Bool := decide (sd.toNat > 255) && !(s.licOf k).sdTier

/-- Members of an SD in the bind table (R148). -/
def Root.members (r : Root) (sd : Sd) : List BindEnt := r.binds.filter (fun e => decide (e.sd = sd))

/-- Number of 32-bit words as one number, the first word highest. -/
def wordsNum (l : List W32) : Nat := l.foldl (fun a w => a * 2 ^ 32 + w.toNat) 0

/-! ## INST_GO (R138, R143, R147, R427) -/

/-- An install entry of the buffer (R396). -/
structure InstEnt where
  all   : Bool
  dest  : Id20
  image : BitVec 256
  deriving DecidableEq, Repr

/-- The entries of an install buffer. -/
def instEnts : Nat → List W32 → List InstEnt
  | 0, _ => []
  | n + 1, l =>
    if l = [] then []
    else { all := (l.getD 0 0).getLsbD 31, dest := (l.getD 0 0).extractLsb' 0 20, image := BitVec.ofNat 256 (wordsNum ((l.drop 2).take 8)) }
      :: instEnts n (l.drop 10)

/-- The image with a GUARD in ns, in units of 4 ns. -/
def imgSetGuard (i : BitVec 256) (ns : Nat) : BitVec 256 :=
  (i &&& ~~~ (BitVec.ofNat 256 (0xFFF * 2 ^ 204))) ||| BitVec.ofNat 256 (ns / 4 % 2 ^ 12 * 2 ^ 204)

/-- GUARD of an accepted image: max(GUARD, SD_GUARD) plus guard_add, up to 4 ns, at most 16,380 ns; and whether it saturated (R143). -/
def guardOf (i : BitVec 256) (sdGuard add : Nat) : Nat × Bool :=
  let g := (max (imgGuardNs i) sdGuard + add + 3) / 4 * 4
  if g > 16380 then (16380, true) else (g, false)

/-- Tick of an image as the root resolves it (R140). -/
def State.rootTick (s : State) (k : NodeSel) (i : BitVec 256) : Int :=
  resolveTick (s.htNs k / 1000000000) (imgTickS i) (imgTickNs i)

/-- The lead of a tick lies outside LEAD_MIN to LEAD_MAX (R143). -/
def State.leadBad (s : State) (k : NodeSel) (tick : Int) : Bool :=
  decide (tick * nsTu < ((s.ht k + s.fld k 0x80600 19 0 * 1000 * nsTu : Nat) : Int))
    || decide (tick * nsTu > ((s.ht k + s.fld k 0x80604 14 0 * 1000000000 * nsTu : Nat) : Int))

/-- guard_add in ns: the larger of the two trees' values at a top Maryel, to which no message carries the other root's (R114, R143, log 98). -/
def State.guardAddOf (s : State) (k : NodeSel) : Nat :=
  match k with
  | .leaf => (s.root .leaf).guardAdd
  | .mary => max (s.root .mary).guardAdd (Config.farGuardAdd s.freeCtr)

/-- deadline_add in ns, likewise. -/
def State.deadlineAddOf (s : State) (k : NodeSel) : Nat :=
  match k with
  | .leaf => (s.root .leaf).deadlineAdd
  | .mary => max (s.root .mary).deadlineAdd (Config.farDeadlineAdd s.freeCtr)

/-- A LAUNCH or SEED_ROLL carries a step outside the window, the firings of ADV counted (R143). -/
def stepBad (c : SdCtx) (i : BitVec 256) : Bool :=
  (imgKind i == 0 || imgKind i == 3) &&
    (match c.win with
     | none => true
     | some w => decide ((imgStep i).toNat < w.1.toNat)
        || decide ((imgStep i).toNat + (if imgAdv i then imgRepCnt i else 0) > w.2.toNat))

/-- What is wrong with one image of a batch: reason and code (Table 18.7, R143). A withdraw image is judged by none of it. -/
def State.imageWhy (s : State) (k : NodeSel) (c : SdCtx) (i : BitVec 256) : Option (Nat × Nat) :=
  if imgOp i then none
  else
    let tick := s.rootTick k i
    let g := (guardOf i c.guardNs (s.guardAddOf k)).1
    if s.leadBad k tick then some (1, 0)
    else if tick * nsTu ≤ ((s.ht k + g * nsTu : Nat) : Int) then some (2, 2)
    else if g < 500 then some (2, 3)
    else if imgMalformed i then some (2, 5)
    else if stepBad c i then some (3, 0)
    else if imgKind i = 1 ∧ bitsOf (imgArg i) 31 0 < c.vintage.toNat then some (4, 0)
    else none

/-- The image that gives some leaf its 64th image of the batch (R143). -/
def over63 (members : List Id20) (es : List InstEnt) : Option Nat :=
  (List.range es.length).find? (fun n =>
    let l := es.take (n + 1)
    let alls := (l.filter (fun e => e.all)).length
    let cnt (d : Id20) : Nat := (l.filter (fun e => !e.all && decide (e.dest = d))).length
    (!members.isEmpty && decide (alls > 63)) ||
      l.any (fun e => !e.all && decide (cnt e.dest + (if e.dest ∈ members then alls else 0) > 63)))

/-- The first failure of an INST_GO: reason, code and image (R427). -/
def State.instWhyOf (s : State) (k : NodeSel) (src : Src) (sd : Sd) (batch : Batch) : Option (Nat × Nat × Nat) :=
  let b := s.srcBuf k src
  let es := instEnts b.inst.length b.inst
  if b.full .inst || decide (b.inst.length % 10 ≠ 0) then some (8, 0, 0)
  else if s.sdRefused k sd then some (7, 0, 0)
  else match (s.root k).ctxOf sd with
    | none => some (9, 0, 0)
    | some c =>
      if batch ≠ c.batch then some (6, 0, 0)
      else match es.zipIdx.findSome? (fun p => (s.imageWhy k c p.1.image).map (fun w => (w.1, w.2, p.2))) with
        | some w => some w
        | none => (over63 (((s.root k).members sd).map (fun e => e.leaf)) es).map (fun n => (5, 0, n))

/-- The common image of an install recipe (R147, R169). -/
def installCommon (batch : Batch) (deadline : Nat) : BitVec 288 :=
  BitVec.ofNat 288 (3 * 2 ^ 284 + 2 ^ 281 + 2 ^ 280 + 2 * 2 ^ 272 + batch.toNat * 2 ^ 246 + deadline % 2 ^ 31 * 2 ^ 215)

/-- A root keeps a recipe for its own combining and deciding, and forgets earlier hoops of its IDs (R169). -/
def State.rootRecipe (s : State) (k : NodeSel) (m : RecipeMsg) : State :=
  let r : Recipe := { sd := m.head.sd, gen := m.head.gen, hoopId := m.hoopId, common := m.common, lanes := m.lanes, ended := [],
                      seen := (true, true) }
  let s1 := s.modRoot k (fun x =>
    { x with hoops := x.hoops.filter (fun h => !r.covers h.sd h.hoopId), excSeen := x.excSeen.filter (fun e => !r.covers e.1 e.2.1) })
  if recipeCap k ≤ (s1.recipes k).length then s1.bumpDiag k (offRcpFull k) else s1.keepRecipe k r

/-- The next value of the hoop counter, 0xF000 to 0xFFFF (R168). -/
def nextHoop (h : HoopId) : HoopId := if h = 0xFFFF#16 then 0xF000#16 else h + 1

/-- An accepted batch: its record for ARM_SEND (R148). -/
def State.batchRec (s : State) (k : NodeSel) (sd : Sd) (batch : Batch) (h : HoopId) (es : List InstEnt) : BatchRec :=
  let ins := es.filter (fun e => !imgOp e.image)
  let t (e : InstEnt) : Nat := (s.rootTick k e.image).toNat
  { sd := sd, batch := batch, hoopId := h,
    expected := es.foldl (fun a e => a + (if e.all then ((s.root k).members sd).length else 1)) 0,
    earliest := minNat (ins.map (fun e => t e - imgGuardNs e.image)),
    flips := (ins.filter (fun e => decide (imgKind e.image = 1))).map (fun e => ((imgArg e.image).extractLsb' 0 32, t e)),
    opens := (ins.filter (fun e => decide (imgKind e.image = 4))).map (fun e =>
      ((imgArg e.image).extractLsb' 48 16, imgAdv e.image, t e, imgRepInt e.image, imgRepCnt e.image)),
    lastTick := ins.foldl (fun a e => max a (t e + imgRepCnt e.image * imgRepInt e.image * 4096)) 0,
    armMargin := s.fld k 0x8060C 16 0, ended := none, st := .pending }

/-- An accepted batch leaves: its images in order, then the install recipe, and the root opens the install hoop, whose deadline runs from the
recipe's departure (R138, R143, R144, R147, R188). -/
def State.sendBatch (s : State) (k : NodeSel) (c : SdCtx) (sd : Sd) (batch : Batch) (es0 : List InstEnt) : State :=
  let add := s.guardAddOf k
  let es := es0.map (fun e => if imgOp e.image then e else { e with image := imgSetGuard e.image (guardOf e.image c.guardNs add).1 })
  let sat := es0.any (fun e => !imgOp e.image && (guardOf e.image c.guardNs add).2)
  let g : Gen := BitVec.ofNat 16 ((s.root k).hwmOf sd)
  let h := c.hoopCtr
  let s1 := s.modRoot k (fun r =>
    { r.modCtx sd (fun c => { c with batch := batch + 1, hoopCtr := nextHoop h }) with
      batches := r.batches.filter (fun b => !decide (b.sd = sd ∧ (b.batch = batch ∨ b.hoopId = h))) ++ [s.batchRec k sd batch h es],
      evt := if sat then setBit r.evt 1 else r.evt })
  let s2 := s1.each es (fun s e =>
    let m : InstallMsg := { head := { sd := sd, dest := e.dest, all := e.all, gen := g }, batch := batch, image := e.image }
    let s' := s.rootC2 k m.head none (installToks m)
    match k with
    | .leaf => if e.all && decide (s'.leaf.binding.map (fun b => b.sd) ≠ some sd) then s' else s'.leafInstall m
    | .mary => s')
  let m : RecipeMsg :=
    { head := { sd := sd, dest := 0, all := true, gen := g }, hoopId := h,
      common := installCommon batch (s.fld k 0x80608 16 0 * 125), lanes := [0, 0] }
  let s3 := (s2.takeFree.2.rootC2 k m.head (some h) (recipeToks m)).rootRecipe k m
  let waits := (s3.root k).c2out.any (fun x => decide (x.sd = sd ∧ x.inst = some h))
  let s4 := match s3.recipeOf k sd h with
    | some r => s3.putRHoop k { s3.newRHoop k sd h g r with openTick := if waits then none else some (s3.htNs k), firstHead := none }
    | none => s3
  match k, s4.leaf.binding, s4.recipeOf .leaf sd h with
  | .leaf, some b, some r => if b.sd = sd ∧ b.gen = g then s4.openInstall r else s4
  | .leaf, some b, none => if b.sd = sd ∧ b.gen = g then (s4.bump .leaf 0xB500).leafMissed sd h g else s4
  | _, _, _ => s4

/-- A refused INST_GO (R138, R143). -/
def State.instRefuse (s : State) (k : NodeSel) (w : Nat × Nat × Nat) : State :=
  (s.modRoot k (fun r => { r with instWhy := w })).refuse k 0x80700

/-- INST_GO. -/
def opInstGo (k : NodeSel) (src : Src) (sd : Sd) (batch : Batch) (s : State) : State :=
  match s.instWhyOf k src sd batch with
  | some w => (s.modSrcBuf k src (fun b => b.setFull .inst false)).instRefuse k w
  | none =>
    match (s.root k).ctxOf sd with
    | some c => s.sendBatch k c sd batch (instEnts (s.srcBuf k src).inst.length (s.srcBuf k src).inst)
    | none => s

/-! ## ARM_SEND (R148, R157, R158) -/

/-- Condition 3 of R148 at the present edge: no later than earliest less FLIGHT_MAX less ARM_MARGIN. -/
def State.armInTime (s : State) (k : NodeSel) (b : BatchRec) : Bool :=
  match b.earliest with
  | none => true
  | some t => decide (s.ht k + s.flightMax k * 2 ^ 24 + b.armMargin * nsTu ≤ t * nsTu)

/-- Conditions 1 and 2 of R148: the install hoop complete with its counts, and every flip staged. -/
def State.armReady (s : State) (k : NodeSel) (b : BatchRec) : Bool :=
  (match b.ended with | some e => decide (e.1 = 0 ∧ e.2.1.toNat = b.expected ∧ e.2.2 = 0) | none => false) &&
    (match (s.root k).ctxOf b.sd with
     | some c => b.flips.all (fun f => decide (f.1.toNat ≤ c.staged.toNat))
     | none => b.flips.isEmpty)

/-- The root sends ARM for a batch on its own tree, and an island root's own leaf arms (R148, R149). -/
def State.sendArm (s : State) (k : NodeSel) (b : BatchRec) : State :=
  let g : Gen := BitVec.ofNat 16 ((s.root k).hwmOf b.sd)
  let s1 := s.modRoot k (fun r =>
    { r.modCtx b.sd (fun c => { c with flips := c.flips ++ b.flips }) with
      batches := r.batches.map (fun x => if x = b then { x with st := .armed } else x) })
  let s2 := s1.each (s.rootDoms k) (fun s d => s.sendC0All k (s.memberPorts k d b.sd) [armTok b.sd g b.batch])
  match k, s.leaf.binding with
  | .leaf, some x => if x.sd = b.sd ∧ x.gen = g then (s2.leafArm .a b.sd g b.batch).leafArm .b b.sd g b.batch else s2
  | _, _ => s2

/-- ARM_SEND: ARM leaves once the three conditions hold; where conditions 1 and 2 do not, the batch fails LATE at the edge at which
condition 3 fails (R148). -/
def opArmSend (k : NodeSel) (sd : Sd) (batch : Batch) (s : State) : State :=
  match (s.root k).batches.find? (fun b => decide (b.sd = sd ∧ b.batch = batch ∧ b.st = .pending)) with
  | none => s
  | some b =>
    if s.armReady k b && s.armInTime k b then s.sendArm k b
    else match b.earliest with
      | none => s
      | some t =>
        let s1 := s.advHt k (t * nsTu - s.flightMax k * 2 ^ 24 - b.armMargin * nsTu + 1)
        if s1.armInTime k b then s1 else s1.failBatch k b 5

/-! ## RCP_GO (R169, R173, R427) -/

/-- The first n bytes of a recipe image as bytes, from the words of the buffer (R396). -/
def rcpBytes (l : List W32) (n : Nat) : List Byte :=
  (l.flatMap (fun w => [w.extractLsb' 24 8, w.extractLsb' 16 8, w.extractLsb' 8 8, w.extractLsb' 0 8])).take n

/-- Bytes as one number, the first highest, as if followed by zeros up to n bytes. -/
def bytesNum (n : Nat) (l : List Byte) : Nat := (List.range n).foldl (fun a i => a * 256 + (l.getD i 0).toNat) 0

/-- The common image of a recipe. -/
def rcpCommon (l : List Byte) : BitVec 288 := BitVec.ofNat 288 (bytesNum 36 l)

/-- The lane descriptors of a recipe. -/
def rcpLanes (l : List Byte) : List W32 :=
  (List.range (rcNlane (rcpCommon l))).map (fun i => BitVec.ofNat 32 (bytesNum 4 ((l.drop (36 + 4 * i)).take 4)))

/-- Reserved fields of a recipe that are not zero (Tables 8.1, 8.2). -/
def rcpReserved (c : BitVec 288) (ls : List W32) : Bool :=
  c.getLsbD 277 || decide (bitsOf c 136 128 ≠ 0) || decide (rcBatch c ≠ 0) ||
    ls.any (fun d => d.getLsbD 24 || decide (bitsOf d 15 0 ≠ 0) ||
      (match laneOp d with
       | 9 => decide (bitsOf d 23 17 ≠ 0)
       | 14 => false
       | _ => decide (bitsOf d 23 16 ≠ 0)))

/-- Does a role allow an operation (Table 8.4)? -/
def roleOk (d : W32) : Bool :=
  match laneRole d with
  | 0 => true
  | 1 => laneOp d == 9
  | 2 => laneOp d == 3
  | 3 => laneOp d == 9 || laneOp d == 0
  | 4 => laneOp d == 9 || laneOp d == 0
  | 5 => laneOp d == 3
  | 6 => laneOp d == 2
  | _ => false

/-- The roles break Table 8.4, one appears twice, or a QUORUM lane stands against MODE. -/
def rolesBad (c : BitVec 288) (ls : List W32) : Bool :=
  let rs := (ls.map laneRole).filter (fun r => r != 0)
  ls.any (fun d => !roleOk d) || decide (rs.eraseDups.length ≠ rs.length) || (rcQuorum c != decide (1 ∈ rs))

/-- The first failure of an RCP_GO as HOOP_WHY (R173, R427). -/
def State.rcpWhy (s : State) (k : NodeSel) (src : Src) (sd : Sd) (h : HoopId) : Option Nat :=
  let b := s.srcBuf k src
  let nimg := s.fld k 0x80208 5 0
  let bytes := rcpBytes b.rcp (6 * nimg)
  let c := rcpCommon bytes
  let ls := rcpLanes bytes
  let lic := s.licOf k
  if b.full .rcp || decide (4 * b.rcp.length < 6 * nimg) then some 12
  else if s.sdRefused k sd || (ls.any laneExact && !lic.exact) || (rcQuorum c && !lic.quorum) then some 11
  else if ((s.root k).ctxOf sd).isNone then some 13
  else if rcFmt c ≠ 3 ∨ rcInst c ∨ rcpReserved c ls then some 1
  else if rcNlane c > 16 ∨ (ls.filter laneExact).length > 4 ∨ ls.any (fun d => laneOp d == 15) then some 2
  else if rolesBad c ls then some 3
  else if nimg ≠ nimgOf (rcNlane c) then some 4
  else if h.toNat + rcCnt c > 0xEFFF then some 5
  else if (s.recipes k).any (fun r => decide (r.sd = sd) &&
      (List.range (rcCnt c + 1)).any (fun i => r.covers sd (h + BitVec.ofNat 16 i))) then some 6
  else if rcDeadline c < 125 ∨ rcDeadline c > 1250000000 then some 7
  else if rcQuorum c ∧ rcSettle c * 64 * 2 ^ 16 < s.flightMax k + s.fld k 0x80614 9 0 * 1000 * 2 ^ 16 then some 8
  else if rcMset c ∧ rcRankLo c > rcRankHi c then some 9
  else if recipeCap k ≤ (s.recipes k).length then some 10
  else none

/-- The common image with deadline_add in ns added to DEADLINE (R114, R169). -/
def addDeadline (c : BitVec 288) (ns : Nat) : BitVec 288 :=
  (c &&& ~~~ (BitVec.ofNat 288 ((2 ^ 31 - 1) * 2 ^ 215))) ||| BitVec.ofNat 288 ((rcDeadline c + ns / 8) % 2 ^ 31 * 2 ^ 215)

/-- RCP_GO: a recipe is refused, or sent to every member and kept (R169, R173). -/
def opRcpGo (k : NodeSel) (src : Src) (sd : Sd) (h : HoopId) (s : State) : State :=
  match s.rcpWhy k src sd h with
  | some w => ((s.modSrcBuf k src (fun b => b.setFull .rcp false)).modRoot k (fun r => { r with hoopWhy := w })).refuse k 0x80718
  | none =>
    let bytes := rcpBytes (s.srcBuf k src).rcp (6 * s.fld k 0x80208 5 0)
    let m : RecipeMsg :=
      { head := { sd := sd, dest := 0, all := true, gen := BitVec.ofNat 16 ((s.root k).hwmOf sd) }, hoopId := h,
        common := addDeadline (rcpCommon bytes) (s.deadlineAddOf k), lanes := rcpLanes bytes }
    (s.takeFree.2.rootC2 k m.head none (recipeToks m)).rootRecipe k m

/-! ## BIND_GO and SD_TEARDOWN (R247 to R250, R259, R427) -/

/-- The entries of a bind buffer: leaf, rank, UNBIND (R248, R396). -/
def bindEnts : Nat → List W32 → List (Id20 × Id20 × Bool)
  | 0, _ => []
  | n + 1, l =>
    if l = [] then []
    else
      let v : W64 := l.getD 1 0 ++ l.getD 0 0
      (v.extractLsb' 20 20, v.extractLsb' 0 20, v.getLsbD 63) :: bindEnts n (l.drop 2)

/-- The bind table after the entries of an operation on an SD (R250). -/
def bindAfter (t : List BindEnt) (sd : Sd) (es : List (Id20 × Id20 × Bool)) : List BindEnt :=
  es.foldl (fun t e =>
    let t1 := t.filter (fun x => !decide (x.leaf = e.1 ∧ x.sd = sd))
    if e.2.2 then t1 else t1 ++ [{ leaf := e.1, sd := sd, rank := e.2.1 }]) t

/-- The first entry that satisfies a test, given the entries before it. -/
def firstEnt (es : List (Id20 × Id20 × Bool)) (p : List (Id20 × Id20 × Bool) → Id20 × Id20 × Bool → Bool) : Option Nat :=
  (List.range es.length).find? (fun i => match es[i]? with | some e => p (es.take i) e | none => false)

/-- Codes 1 to 6 of Table 11.1 with the first offending entry. -/
def State.bindCodes (s : State) (k : NodeSel) (sd : Sd) (es : List (Id20 × Id20 × Bool)) (gen : Gen) : Option (Nat × Nat) :=
  let r := s.root k
  let after := (bindAfter r.binds sd es).filter (fun x => decide (x.sd = sd))
  if gen.toNat ≤ r.hwmOf sd then some (1, 0)
  else if gen = 0xFFFF#16 then some (2, 0)
  else match firstEnt es (fun _ e => !e.2.2 && r.binds.any (fun x => decide (x.leaf = e.1 ∧ x.sd ≠ sd))) with
    | some i => some (3, i)
    | none =>
      match firstEnt es (fun _ e => !e.2.2 && after.any (fun x => decide (x.rank = e.2.1 ∧ x.leaf ≠ e.1))) with
      | some i => some (4, i)
      | none =>
        match firstEnt es (fun before e => before.any (fun x => decide (x.1 = e.1))) with
        | some i => some (5, i)
        | none => if r.batches.any (fun b => decide (b.sd = sd ∧ b.st = .pending)) then some (6, 0) else none

/-- The first failure of a BIND_GO on given words (R427). -/
def State.bindWhyOf (s : State) (k : NodeSel) (sd : Sd) (words : List W32) (full : Bool) (n : Nat) (gen : Gen) : Option (Nat × Nat) :=
  if n > 16384 then some (7, 0)
  else if full || decide (words.length ≠ 2 * n) then some (10, 0)
  else if s.sdRefused k sd then some (8, 0)
  else if s.jrnlLost k (.gen sd) then some (9, 0)
  else if k = .leaf ∧ ((s.root k).ctxOf sd).isNone ∧ (s.root k).sds.length ≥ 16 then some (12, 0)
  else s.bindCodes k sd (bindEnts words.length words) gen

/-- A refused bind operation or teardown (R249, R259). -/
def State.bindRefuse (s : State) (k : NodeSel) (w : Nat × Nat) : State :=
  (s.modRoot k (fun r => { r with bindWhy := w })).refuse k 0x80708

/-- A root context as it is set up (R250). -/
def SdCtx.new (sd : Sd) (rc : W64) : SdCtx :=
  { sd := sd, win := none, vintage := 0, staged := 0, batch := 0, hoopCtr := 0xF000, fpState := 0, guardNs := 2000, c2Rate := 32,
    rateEff := 32, c2Burst := 2048, burstEff := 2048, bucket := 2048, bucketAt := rc, stray := false, key := none, flips := [] }

/-- A BIND leaves a root: its own M and CUR_GEN as at any node that passes it (R255, R256), the message on its ports, and an island root's
own leaf takes it (R250). An UNBIND of all goes by M as it stood before. -/
def State.rootBind (s : State) (k : NodeSel) (m : BindMsg) : State :=
  let ports (s : State) : List Nat := ((s.rootDoms k).flatMap (fun d => s.c2Ports k d m.head)).eraseDups
  let s1 := (s.each (s.rootDoms k) (fun s d => s.bindMemb k d m)).raiseGen k m.head.sd m.head.gen
  let ps := if m.head.all && m.unbind then ports s else ports s1
  let s2 := if ps = [] then s1
    else s1.modRoot k (fun r => { r with c2out := r.c2out ++ [{ sd := m.head.sd, toks := bindToks m, ports := ps, debited := false, inst := none }] })
  match k with
  | .leaf =>
    if s2.leaf.binding.isNone && (m.head.all || decide (m.head.dest ≠ s2.nodeId .leaf)) then s2
    else if m.head.all && decide (s2.leaf.binding.map (fun b => b.sd) ≠ some m.head.sd) then s2
    else s2.leafBind m
  | .mary => s2

/-- The decider ends open hoops of an SD with an outcome sent as head and status token (R250, R259). -/
def State.endHoops (s : State) (k : NodeSel) (hs : List RHoop) (outcome : BitVec 3) : State :=
  if s.isDecider k then s.each hs (fun s r => s.finishHoop k r outcome none [] true) else s

/-- A counter of generations at a root takes a value (R247). -/
def State.setHwm (s : State) (k : NodeSel) (sd : Sd) (n : Nat) : State :=
  let s1 := s.modRoot k (fun r => { r with genHwm := sput r.genHwm sd.toNat n })
  match k with
  | .leaf => s1
  | .mary => s1.raiseAhead (.gen sd)

/-- An accepted bind operation (R250). -/
def State.doBind (s : State) (k : NodeSel) (sd : Sd) (es : List (Id20 × Id20 × Bool)) (gen : Gen) : State :=
  let hs := (s.openHoops k sd).filter (fun r => !rcInst r.common)
  let binds := es.any (fun e => !e.2.2)
  let s1 := s.setHwm k sd gen.toNat
  let s2 := if ((s.root k).ctxOf sd).isNone then s1.modRoot k (fun r => { r with sds := r.sds ++ [SdCtx.new sd (s.rc k)] }) else s1
  let s3 := if binds then s2.modRoot k (fun r => r.modCtx sd (fun c => { c with fpState := 0 })) else s2
  let s4 := s3.endHoops k hs 2
  let old := (s.root k).binds
  let s5 := s4.modRoot k (fun r => { r with binds := bindAfter r.binds sd es })
  let s6 := s5.each es (fun s e =>
    let member := old.any (fun x => decide (x.leaf = e.1 ∧ x.sd = sd))
    s.rootBind k { head := { sd := sd, dest := e.1, all := false, gen := gen }, rank := e.2.1, unbind := e.2.2,
                   cnt := if e.2.2 then member else !member })
  s6.rootBind k { head := { sd := sd, dest := 0, all := true, gen := gen }, rank := 0, unbind := false, cnt := false }

/-- A bind operation on given words: refused, held for a raise, or done (R249, R338). -/
def State.bindOp (s : State) (k : NodeSel) (src : Src) (sd : Sd) (words : List W32) (full : Bool) (n : Nat) (gen : Gen) : State :=
  match s.bindWhyOf k sd words full n gen with
  | some w => s.bindRefuse k w
  | none =>
    if s.needsRaise k (.gen sd) gen.toNat then s.holdFor (.gen sd) gen.toNat (.bind src sd words n gen)
    else s.doBind k sd (bindEnts words.length words) gen

/-- BIND_GO. -/
def opBindGo (k : NodeSel) (src : Src) (sd : Sd) (s : State) : State :=
  let b := s.srcBuf k src
  (s.modSrcBuf k src (fun b => b.setFull .bind false)).bindOp k src sd b.bind (b.full .bind) (s.fld k 0x80108 14 0)
    ((s.reg k 0x8010C).extractLsb' 0 16)

/-- An accepted teardown (R259). -/
def State.doTeardown (s : State) (k : NodeSel) (sd : Sd) : State :=
  let hs := s.openHoops k sd
  let n := (s.root k).hwmOf sd + 1
  let s1 := ((s.setHwm k sd n).endHoops k hs 4).rootBind k
    { head := { sd := sd, dest := 0, all := true, gen := BitVec.ofNat 16 n }, rank := 0, unbind := true, cnt := false }
  (s1.modRoot k (fun r =>
    { r with sds := r.sds.filter (fun c => !decide (c.sd = sd)), binds := r.binds.filter (fun e => !decide (e.sd = sd)),
             batches := r.batches.filter (fun b => !decide (b.sd = sd)), hoops := r.hoops.filter (fun h => !decide (h.sd = sd)) })).freeSd k sd

/-- SD_TEARDOWN (R259, R427). -/
def State.teardownOp (s : State) (k : NodeSel) (src : Src) (sd : Sd) : State :=
  if s.jrnlLost k (.gen sd) then s.bindRefuse k (9, 0)
  else if (s.root k).hwmOf sd ≥ 0xFFFF then s.bindRefuse k (11, 0)
  else if s.needsRaise k (.gen sd) ((s.root k).hwmOf sd + 1) then s.holdFor (.gen sd) ((s.root k).hwmOf sd + 1) (.teardown src sd)
  else s.doTeardown k sd

/-! ## Keys (R207) -/

/-- KEY_SEND: refused with a licence missing, without a fingerprint match, or with armed firings remaining under another key. -/
def opKeySend (k : NodeSel) (src : Src) (sd : Sd) (s : State) : State :=
  let key := (s.srcBuf k src).keyBuf
  let no (w : Nat) : State := (s.modRoot k (fun r => { r with keyWhy := w })).refuse k 0x8070C
  if s.sdRefused k sd then no 3
  else match (s.root k).ctxOf sd with
    | none => no 1
    | some c =>
      if c.fpState ≠ 1 then no 1
      else if c.key ≠ some key ∧
          (s.root k).batches.any (fun b => decide (b.sd = sd ∧ b.st = .armed) && decide ((b.lastTick + 1000) * nsTu > s.ht k)) then no 2
      else
        let m : KeyMsg := { head := { sd := sd, dest := 0, all := true, gen := BitVec.ofNat 16 ((s.root k).hwmOf sd) }, key := key }
        let s1 := (s.modRoot k (fun r => r.modCtx sd (fun c => { c with key := some key }))).rootC2 k m.head none (keyToks m)
        match k, s1.leaf.binding with
        | .leaf, some b => if b.sd = sd ∧ b.gen = m.head.gen then s1.takeKey key else s1
        | _, _ => s1

/-! ## Step windows, vintages, RES_FLOOR (R203, R243, R340, R341) -/

/-- A window takes effect for an SD. -/
def State.setWin (s : State) (k : NodeSel) (sd : Sd) (lo hi : W64) : State :=
  s.modRoot k (fun r => r.modCtx sd (fun c => { c with win := some (lo, hi) }))

/-- A window is granted: STEP_HWM, the grant record, then the window (R203, R342). An island root keeps its grants itself (log 62). -/
def State.grantWin (s : State) (k : NodeSel) (sd : Sd) (lo hi : W64) : State :=
  let s1 := s.modRoot k (fun r => { r with stepHwm := hi })
  match k with
  | .leaf => (s1.modRoot .leaf (fun r => { r with grants := r.grants ++ [(lo, hi)] })).setWin .leaf sd lo hi
  | .mary =>
    let s2 := (s1.raiseAhead .step).celPuts (s.grantNext sd lo hi)
    if s2.grantWaits then s2.modCellar (fun c => { c with held := c.held ++ [(.step, .grant sd lo hi)] }) else s2.setWin .mary sd lo hi

/-- STEP_WIN_SET on given bounds: refused, held for a raise, or granted (R203, R338). -/
def State.stepWinOp (s : State) (k : NodeSel) (src : Src) (sd : Sd) (lo hi : W64) : State :=
  if s.sdRefused k sd || s.jrnlLost k .step || ((s.root k).ctxOf sd).isNone || decide (lo.toNat ≤ (s.root k).stepHwm.toNat)
      || decide (lo.toNat > hi.toNat) || decide (hi = 0xFFFFFFFFFFFFFFFF#64) then s.refuse k 0x80710
  else if s.needsRaise k .step hi.toNat then s.holdFor .step hi.toNat (.stepWin src sd lo hi)
  else s.grantWin k sd lo hi

/-- STEP_WIN_SET. -/
def opStepWinSet (k : NodeSel) (src : Src) (sd : Sd) (s : State) : State :=
  s.stepWinOp k src sd (s.reg64 k 0x80400) (s.reg64 k 0x80408)

/-- STEP_WIN_ADOPT (R243). -/
def opStepWinAdopt (k : NodeSel) (sd : Sd) (s : State) : State :=
  let w := (s.reg64 k 0x80400, s.reg64 k 0x80408)
  let granted := match k with
    | .leaf => decide (w ∈ (s.root .leaf).grants)
    | .mary => s.grantRecs.any (fun r => decide (r.2 = w))
  if s.sdRefused k sd || s.jrnlLost k .step || ((s.root k).ctxOf sd).isNone || !granted
      || (s.root k).sds.any (fun c => decide (c.win = some w)) then s.refuse k 0x80710
  else s.setWin k sd w.1 w.2

/-- VINT_ISSUE of a value: refused, held for a raise, or issued (R341). -/
def State.vintOp (s : State) (k : NodeSel) (src : Src) (v : W32) : State :=
  if s.jrnlLost k .vint || decide (v.toNat ≤ (s.root k).vintHwm.toNat) || decide (v = 0xFFFFFFFF#32) then s.refuse k 0x80714
  else if s.needsRaise k .vint v.toNat then s.holdFor .vint v.toNat (.vint src v)
  else
    let s1 := s.modRoot k (fun r => { r with vintHwm := v })
    match k with
    | .leaf => s1
    | .mary => s1.raiseAhead .vint

/-- The counter of refusals of a family: WIN_REFUSED, VINT_REFUSED, BIND_REFUSED (R340). -/
def Family.refusedOff : Family → Nat
  | .step => 0x80710
  | .vint => 0x80714
  | .gen _ => 0x80708

/-- The family that RES_FAMILY and RES_SD name (R340). -/
def State.resFamily (s : State) (k : NodeSel) : Family :=
  match s.fld k 0x80430 1 0 with
  | 0 => .step
  | 1 => .vint
  | _ => .gen ((s.reg k 0x80430).extractLsb' 16 12)

/-- The counter of a family takes a value. -/
def State.setCtr (s : State) (k : NodeSel) (f : Family) (v : W64) : State :=
  s.modRoot k (fun r =>
    match f with
    | .step => { r with stepHwm := v }
    | .vint => { r with vintHwm := v.extractLsb' 0 32 }
    | .gen sd => { r with genHwm := sput r.genHwm sd.toNat v.toNat })

/-- The counter of a family at a root. -/
def State.ctrOf (s : State) (k : NodeSel) : Family → Nat
  | .step => (s.root k).stepHwm.toNat
  | .vint => (s.root k).vintHwm.toNat
  | .gen sd => (s.root k).hwmOf sd

/-- RES_FLOOR: accepted only above the present counter. An island root's counter takes the value at once; a top Maryel's counter and ceiling take
it when a raise to that value, under R338, is done (R340, R383). -/
def opResFloor (k : NodeSel) (src : Src) (v : W64) (s : State) : State :=
  let f := s.resFamily k
  if v.toNat ≤ s.ctrOf k f ∨ v.toNat > f.cap then s.refuse k f.refusedOff
  else match k with
    | .leaf => s.setCtr .leaf f v
    | .mary => s.modCellar (fun c => { c with raises := c.raises ++ [{ fam := f, ceil := v.toNat }], held := c.held ++ [(f, .floor src v)] })

/-- A RES_FLOOR whose raise is done: counter and ceiling take its value, and its family is no longer lost (R340). One that the counter has passed
meanwhile is refused. -/
def State.floorDone (s : State) (f : Family) (v : W64) : State :=
  if v.toNat ≤ s.ctrOf .mary f then s.refuse .mary f.refusedOff
  else ((s.setCtr .mary f v).setCeil f v.toNat).modCellar (fun c => { c with lost := c.lost.filter (fun x => !decide (x = f)) })

/-! ## C2 pacing (R262) -/

/-- The bucket of an SD at the present edge. -/
def SdCtx.fill (c : SdCtx) (rc : W64) : SdCtx :=
  let dt := (rc - c.bucketAt).toNat
  let n := dt * c.rateEff / cyclesUs
  if c.bucket + n ≥ c.burstEff then { c with bucket := c.burstEff, bucketAt := rc }
  else { c with bucket := c.bucket + n, bucketAt := c.bucketAt + BitVec.ofNat 64 ((n * cyclesUs + c.rateEff - 1) / c.rateEff) }

/-- The first message an SD has for a port, and whether it may start: its bucket holds it, or it has been debited already. An SD whose root
context is freed has no bucket (R259). -/
def Root.readyMsg (r : Root) (rc : W64) (port : Nat) (sd : Sd) : Option C2Out :=
  match r.c2out.find? (fun m => decide (m.sd = sd) && decide (port ∈ m.ports)) with
  | none => none
  | some m =>
    match r.ctxOf sd with
    | none => some m
    | some c => if m.debited || decide ((c.fill rc).bucket ≥ m.toks.length) then some m else none

/-- Insert a number into an ascending list. -/
def insNat (x : Nat) : List Nat → List Nat
  | [] => [x]
  | y :: l => if x ≤ y then x :: y :: l else y :: insNat x l

/-- Replace the first message equal to `m`. -/
def replaceMsg (m : C2Out) (new : List C2Out) : List C2Out → List C2Out
  | [] => []
  | x :: l => if x = m then new ++ l else x :: replaceMsg m new l

/-- C2_MESSAGE_SEND: a root's DOWN port starts the next whole message, SDs in round robin by ascending ID (R262); the deadline of an install hoop
runs from the departure of its recipe (R188). -/
def opC2Send (c : CellRef) (s : State) : State :=
  let k := c.node
  let p := c.idx
  let r := s.root k
  let sds := ((r.c2out.filter (fun m => decide (p ∈ m.ports))).map (fun m => m.sd.toNat)).eraseDups.foldr insNat []
  let last := match sget r.c2rr p with | some x => x.toNat | none => 4096
  let turn := sds.filter (fun x => decide (x > last)) ++ sds.filter (fun x => decide (x ≤ last))
  match turn.findSome? (fun sd => r.readyMsg (s.rc k) p (BitVec.ofNat 12 sd)) with
  | none => s
  | some m =>
    let left := m.ports.filter (fun x => x != p)
    let s1 := s.modRoot k (fun r =>
      { (if m.debited then r else r.modCtx m.sd (fun c => { c.fill (s.rc k) with bucket := (c.fill (s.rc k)).bucket - m.toks.length })) with
        c2out := replaceMsg m (if left = [] then [] else [{ m with ports := left, debited := true }]) r.c2out,
        c2rr := sput r.c2rr p m.sd })
    let s2 := match m.inst, m.debited with
      | some h, false => s1.modRoot k (fun r =>
          { r with hoops := r.hoops.map (fun x : RHoop => if x.sd = m.sd ∧ x.hoopId = h ∧ x.decided.isNone then { x with openTick := some (s.htNs k) } else x) })
      | _, _ => s1
    s2.sendC2 k p m.toks

/-! ## The commands -/

/-- INST_DATA. -/
def execInstData (n : NodeSel) (src : Src) (v : W32) (s : State) : Host.Outcome State Fault Refusal :=
  .next (s.access n src 0x80004 (opAppend n src .inst v))
/-- INST_CLR. -/
def execInstClr (n : NodeSel) (src : Src) (s : State) : Host.Outcome State Fault Refusal := .next (s.access n src 0x80000 (opBufClr n src .inst))
/-- INST_GO. -/
def execInstGo (n : NodeSel) (src : Src) (sd : Sd) (batch : Batch) (s : State) : Host.Outcome State Fault Refusal :=
  .next (s.access n src 0x80008 (opInstGo n src sd batch))
/-- ARM_SEND. -/
def execArmSend (n : NodeSel) (sd : Sd) (batch : Batch) (s : State) : Host.Outcome State Fault Refusal := .next (s.live n (opArmSend n sd batch))
/-- RCP_DATA. -/
def execRcpData (n : NodeSel) (src : Src) (v : W32) (s : State) : Host.Outcome State Fault Refusal :=
  .next (s.access n src 0x80204 (opAppend n src .rcp v))
/-- RCP_CLR. -/
def execRcpClr (n : NodeSel) (src : Src) (s : State) : Host.Outcome State Fault Refusal := .next (s.access n src 0x80200 (opBufClr n src .rcp))
/-- RCP_GO. -/
def execRcpGo (n : NodeSel) (src : Src) (sd : Sd) (hoop : HoopId) (s : State) : Host.Outcome State Fault Refusal :=
  .next (s.access n src 0x8020C (opRcpGo n src sd hoop))
/-- BIND_DATA. -/
def execBindData (n : NodeSel) (src : Src) (v : W32) (s : State) : Host.Outcome State Fault Refusal :=
  .next (s.access n src 0x80104 (opAppend n src .bind v))
/-- BIND_CLR. -/
def execBindClr (n : NodeSel) (src : Src) (s : State) : Host.Outcome State Fault Refusal := .next (s.access n src 0x80100 (opBufClr n src .bind))
/-- BIND_GO. -/
def execBindGo (n : NodeSel) (src : Src) (sd : Sd) (s : State) : Host.Outcome State Fault Refusal :=
  .next (s.access n src 0x80110 (opBindGo n src sd))
/-- SD_TEARDOWN. -/
def execSdTeardown (n : NodeSel) (src : Src) (sd : Sd) (s : State) : Host.Outcome State Fault Refusal :=
  .next (s.access n src 0x80118 (fun s => s.teardownOp n src sd))
/-- KEY_SEND. -/
def execKeySend (n : NodeSel) (src : Src) (sd : Sd) (s : State) : Host.Outcome State Fault Refusal :=
  .next (s.access n src 0x80310 (opKeySend n src sd))
/-- STEP_WIN_SET. -/
def execStepWinSet (n : NodeSel) (src : Src) (sd : Sd) (s : State) : Host.Outcome State Fault Refusal :=
  .next (s.access n src 0x80410 (opStepWinSet n src sd))
/-- STEP_WIN_ADOPT. -/
def execStepWinAdopt (n : NodeSel) (src : Src) (sd : Sd) (s : State) : Host.Outcome State Fault Refusal :=
  .next (s.access n src 0x80414 (opStepWinAdopt n sd))
/-- VINT_ISSUE. -/
def execVintIssue (n : NodeSel) (src : Src) (v : W32) (s : State) : Host.Outcome State Fault Refusal :=
  .next (s.access n src 0x80420 (fun s => s.vintOp n src v))
/-- RES_FLOOR. -/
def execResFloor (n : NodeSel) (src : Src) (v : W64) (s : State) : Host.Outcome State Fault Refusal :=
  .next (s.access n src 0x8043C (opResFloor n src v))
/-- C2_MESSAGE_SEND. -/
def execC2MessageSend (c : CellRef) (s : State) : Host.Outcome State Fault Refusal := .next (s.live c.node (opC2Send c))

end Sys2Proof.Machine
end

