-- ==== Sys2Proof/Machine/Link.lean ====
section
/-! DEFINITION. The sync link (chapter 03): training, loss of frame alignment, the judgement of received frames and tokens, retry, and
the filling of a frame's slots. -/

namespace Sys2Proof.Machine

/-! ## Leaving a training state (Table 3.11, R76, R268) -/

/-- Frame alignment holds: HELLO or a later state (R75). -/
def Cell.aligned (c : Cell) : Bool := decide (c.ts = .hello ∨ c.ts = .delay ∨ c.ts = .active)

/-- One more probe is known to be void or valid; more than 16 void of the last 256 raise ADV_VOID_RATE (R115). -/
def Delay.noteVoid (d : Delay) (v : Bool) : Delay :=
  let vs := (v :: d.voids).take 256
  let hi := decide ((vs.filter id).length > 16)
  { d with voids := vs, advVoid := d.advVoid || hi, trendDue := d.trendDue || (hi && !d.advVoid),
           absent := if hi then (d.absent.1, d.absent.2.1, 0) else d.absent }

/-- A probe is void, counted in DLY_VOID_n (R102). -/
def State.voidProbe (s : State) (k : NodeSel) (i : Nat) : State := (s.modDly k i (fun d => d.noteVoid true)).bump k (cOff k i 0x148)

/-- Every outstanding probe of a cell is void (R102). -/
def State.voidAll (s : State) (k : NodeSel) (i : Nat) : State :=
  let n := (s.cell k i).dly.outst
  (s.modDly k i (fun d => { d with outst := [], probeDue := none, afterLoss := true })).each n (fun s _ => s.voidProbe k i)

/-- A cell at a training state, with what it drops on the way: partial messages and what waited for its own frames' slots. -/
def Cell.fallTo (c : Cell) (st : TState) : Cell :=
  { c with ts := st, part0 := [], part2 := [], part3 := [], skip := (false, false, false), badRun := 0, commaRun := 0, goodRun := 0,
           fseqRx := none, c0q := [], ackq := [], ctlq := [], echoq := [], annHt := none, annCount := 0, stampReq := [], stamps := [], cutPorts := [],
           helloOk := false, helloAck := false, gotHello := false }

/-- A cell leaves ACTIVE: the instant is kept for DOWN_NS, and the retry state's 10 ms begin (Table 12.3, R73). -/
def Cell.leave (c : Cell) (rc : W64) (ns : Nat) : Cell :=
  { c with downNs := BitVec.ofNat 32 ns,
           retry := { c.retry with lossAt := some (c.retry.lossAt.getD rc), resendQ := [], resendDue := false } }

/-- A dark DOWN cell: it stops transmitting and counts as silenced until R269 returns it (R268). -/
def State.darkCell (s : State) (k : NodeSel) (i : Nat) : State :=
  let x := s.cell k i
  let s1 := if x.aligned then s.voidAll k i else s
  s1.modCell k i (fun c => { (if x.ts = .active then (c.fallTo .off).leave (s.rc k) (s.htNs k) else c.fallTo .off) with dark := true })

/-- A node other than a root is orphaned in a domain: its combine contexts of the domain close without sending, and its DOWN cells of the
domain stop (R268). -/
def State.orphan (s : State) (k : NodeSel) (d : Dom) : State :=
  let xs := (s.ctxs k).filter (fun x => decide (x.dom = d))
  let s1 := ((s.bump k (offDark k d)).bumpBy k (offCtxOrphan k) xs.length).each xs (fun s x => s.closeCtx k x.sd x.hoopId d)
  s1.each (s1.downCells k d) (fun s i => s.darkCell k i)

/-- The consequences of a cell having left ACTIVE, by its role (R186, R190, R268). -/
def State.leftActive (s : State) (k : NodeSel) (i : Nat) : State :=
  let x := s.cell k i
  if x.cfg.role = 2 then s.portLost k i
  else if x.cfg.role = 3 ∧ k = .mary then s.crossLeft
  else if x.cfg.role = 1 ∧ !s.isRoot k ∧ !s.upActive k x.cfg.dom then s.orphan k x.cfg.dom
  else s

/-- A cell goes back to a training state, with all that its leaving the state it was in means: outstanding probes void (R102), alignment of
its domain lost (Table 2.2), CROSS lost (R314), and what leaving ACTIVE means. -/
def State.cellTo (s : State) (k : NodeSel) (i : Nat) (st : TState) (f : Cell → Cell) : State :=
  let x := s.cell k i
  let s1 := if x.aligned then s.voidAll k i else s
  let s2 := s1.modCell k i (fun c => f (if x.ts = .active then (c.fallTo st).leave (s.rc k) (s.htNs k) else c.fallTo st))
  let s3 := if x.aligned && decide (x.cfg.role = 1) then s2.domLostAlign k x.cfg.dom else s2
  let s3 := if x.aligned && decide (x.cfg.role = 3 ∧ k = .mary) && s3.isRoot .mary then s3.loseSrc 8 else s3
  let s4 := if decide (k = .leaf) && x.aligned && decide (x.cfg.role = 1) && !s3.domAligned .leaf .a && !s3.domAligned .leaf .b
    then s3.modLeaf (fun l => { l with upLostAt := s.rc .leaf }) else s3
  if x.ts = .active then s4.leftActive k i else s4

/-- Loss of frame alignment is declared and counted in LOF_CNT (R76); the cell retrains from WORD, or from CDR without a signal. -/
def State.declareLoss (s : State) (k : NodeSel) (i : Nat) (signal : Bool) : State :=
  let rc := s.rc k
  (s.bump k (cOff k i 0x11C)).cellTo k i (if signal then .word else .cdr) (fun c => { c with cdrSince := rc })

/-- Does a cell transmit frames (R48, R267, R268)? -/
def Cell.sends (c : Cell) : Bool := !c.dark && decide (c.mute = 0 ∧ c.ts ≠ .off ∧ c.ts ≠ .test)

/-- Training starts where PORT_EN is set, the role is not OFF and nothing silences the cell (Table 3.11). -/
def Cell.start (c : Cell) (rc : W64) : Cell :=
  if c.ts = .off ∧ c.portEn ∧ c.cfg.role ≠ 0 ∧ c.mute = 0 ∧ !c.dark then { c with ts := .cdr, cdrSince := rc } else c

/-- Cell reset (Table 16.3): the word queue and the retry state go, its discarded sets counted in RETRY_DISCARD; barred slots and
fault silence return to their reset values; role, filter and asymmetry stay. -/
def State.cellReset (s : State) (k : NodeSel) (i : Nat) : State :=
  let s1 := s.cellTo k i .off id
  let n := (s1.cell k i).retry.unacked.length
  (s1.modCell k i (fun c =>
    { c with mute := clrBit c.mute 0, everActive := false, c2q := [], c3q := [], c3in := [], retry := .reset, barRx := 6, barCand := (6, 0),
             barTx := 6, barPend := none, err := 0, dly := { c.dly with echoes := [] } })).bumpBy k (cOff k i 0x130) n

/-! ## Ports and training commands -/

/-- PORT_EN: set, training starts; cleared, the cell stops and returns to OFF (Table 3.11). In a leaf a write of 0 then 1 is the cell
reset, which also ends a cell fault's silence unless the leaf is in LEAF_FATAL (R271, Table 16.3). -/
def opPortEn (k : NodeSel) (i : Nat) (v : Bool) (s : State) : State :=
  if v then
    let s1 := if k = .leaf ∧ !(s.cell k i).portEn ∧ !s.leaf.fatal ∧ (s.cell k i).ts = .off then
        (s.cellReset k i).modLeaf (fun l => { l with err := clrBit l.err i }) else s
    s1.modCell k i (fun c => Cell.start { c with portEn := true } (s.rc k))
  else s.cellTo k i .off (fun c => { c with portEn := false, dly := { c.dly with echoes := [] } })

/-- TEST: 1 acts in OFF only and clears PRBS_ERR and PRBS_BITS; 0 returns to OFF (R77, R374). Pattern tests are possible in the role OFF
too (R285). -/
def opTest (k : NodeSel) (i : Nat) (v : Bool) (s : State) : State :=
  let x := s.cell k i
  if v then
    if x.ts = .off ∧ x.mute = 0 ∧ !x.dark then
      (s.modCell k i (fun c => { c with ts := .test, testAt := s.rc k, prbsBits := 0 })).modNode k (fun N => { N with ctr := sdel N.ctr (cOff k i 0x70) })
    else s
  else if x.ts = .test then s.modCell k i (fun c => Cell.start { c with ts := .off } (s.rc k)) else s

/-- The pattern bits that a cell in TEST sends in the present cycle: 20 on the lane of an X-form port, 5 on each data lane of a W-form port
(R77). -/
def State.testBits (s : State) (k : NodeSel) (i : Nat) : List Bool :=
  let x := s.cell k i
  let n := match k with | .leaf => if Config.xform.getLsbD i then 20 else 5 | .mary => 20
  let sel := s.fld k (cOff k i 0) 3 2
  if x.ts ≠ .test then [] else patternBits sel n (prbsAfter sel (n * (s.rc k - x.testAt).toNat) (Config.prbsSeed k i))

/-- CDR_LOCK: CDR becomes WORD (Table 3.11). -/
def opCdrLock (k : NodeSel) (i : Nat) (s : State) : State :=
  s.modCell k i (fun c => if c.ts = .cdr then { c with ts := .word, commaRun := 0 } else c)

/-- CDR_TIMEOUT: 10 ms in CDR count TRAIN_FAIL, and the cell stays in CDR (Table 3.11). -/
def opCdrTimeout (k : NodeSel) (i : Nat) (s : State) : State :=
  if (s.cell k i).ts ≠ .cdr then s
  else
    let s1 := s.advAfter k (s.cell k i).cdrSince (10 * cyclesMs)
    (s1.modCell k i (fun c => { c with cdrSince := s1.rc k })).bump k (cOff k i 0x120)

/-- LOSS_OF_SIGNAL: WORD goes to CDR; with frames running, the frames whose signal is lost are bad, and at the end of the third the loss is
declared (R76, Table 3.11). -/
def opLossOfSignal (k : NodeSel) (i : Nat) (s : State) : State :=
  let x := s.cell k i
  match x.ts with
  | .word => s.cellTo k i .cdr (fun c => { c with cdrSince := s.rc k })
  | .frame | .hello | .delay | .active =>
    (s.advAfter k (s.rc k) (32 * (3 - min 3 x.badRun))).declareLoss k i false
  | _ => s

/-- The node's HELLO or BAR token for a cell (Table 3.6). -/
def State.linkCtlOf (s : State) (k : NodeSel) (i sub : Nat) : W64 :=
  let c := s.cell k i
  linkCtlTok sub { role := BitVec.ofNat 2 (c.cfg.role.toNat - 1), dom := c.cfg.dom, kind := k, nodeId := s.nodeId k, bar := c.barRx,
                   rseqExp := c.retry.exp, fixlat := (s.cfg k).fixlat, ack := decide (sub = 0) && c.gotHello }

/-- HELLO_SEND: every microsecond in HELLO or later a HELLO is queued (R74). -/
def opHelloSend (k : NodeSel) (i : Nat) (s : State) : State :=
  if !(s.cell k i).aligned then s
  else
    let s1 := s.advAfter k (s.cell k i).helloAt cyclesUs
    s1.modCell k i (fun c => { c with ctlq := c.ctlq ++ [s1.linkCtlOf k i 0], helloAt := s1.rc k })

/-- Are the roles of the two ends of a link compatible (R75)? The far role is coded 0 UP, 1 DOWN, 2 CROSS. -/
def rolesMatch (c : CellCfg) (h : LinkCtl) : Bool :=
  (decide (c.role = 1) && decide (h.role = 1) && decide (h.dom = c.dom)) ||
  (decide (c.role = 2) && decide (h.role = 0) && decide (h.dom = c.dom)) || (decide (c.role = 3) && decide (h.role = 2))

/-- The retry state after an acknowledgement up to `rseq`: sets before it are released, and progress restarts the counts (R71, R72). A
sequence outside the unacknowledged range releases nothing. -/
def Retry.ack (r : Retry) (rseq : Byte) (rc : W64) : Retry :=
  match r.unacked with
  | [] => r
  | (o, _) :: _ =>
    let n := (rseq - o).toNat
    if n = 0 ∨ n > r.unacked.length then r
    else { r with unacked := r.unacked.drop n, resends := 0, ackAt := rc,
                  resendQ := r.resendQ.filter (fun p => decide (p ∈ r.unacked.drop n)) }

/-- The retry state as the far end's RSEQ_EXP resumes it: acknowledged sets go and the rest is sent again, in order (R73). -/
def Retry.resume (r : Retry) (rseq : Byte) (rc : W64) : Retry :=
  let r1 := r.ack rseq rc
  if r1.unacked = [] then { r1 with next := rseq, ackAt := rc } else { r1 with resendQ := r1.unacked, ackAt := rc }

/-- May the held sets resume at the far end's RSEQ_EXP: it names one of them, or the next? -/
def Retry.fits (r : Retry) (rseq : Byte) : Bool :=
  match r.unacked with
  | [] => true
  | (o, _) :: _ => decide ((rseq - o).toNat ≤ r.unacked.length)

/-- HELLO becomes DELAY once a valid HELLO with a compatible role and one with ACK = 1 have come: the far BAR and RSEQ_EXP apply, and
probing starts (Table 3.11, R73). Sets that the far end's RSEQ_EXP does not reach are discarded and counted (log 63). -/
def State.enterDelay (s : State) (k : NodeSel) (i : Nat) (h : LinkCtl) : State :=
  let x := s.cell k i
  let lost := if x.retry.fits h.rseqExp then 0 else x.retry.unacked.length
  (s.modCell k i (fun c =>
    let r := if c.retry.fits h.rseqExp then c.retry else { c.retry with unacked := [] }
    { c with ts := .delay, barTx := if h.bar.toNat ≤ 6 then h.bar else c.barTx, retry := r.resume h.rseqExp (s.rc k),
             barPend := none })).bumpBy k (cOff k i 0x130) lost

/-- HELLO_RX (R75). -/
def opHelloRx (k : NodeSel) (i : Nat) (h : LinkCtl) (s : State) : State :=
  let x := s.cell k i
  if x.ts ≠ .hello then (if x.aligned then s.modCell k i (fun c => { c with gotHello := true }) else s)
  else if !rolesMatch x.cfg h then s.bump k (cOff k i 0x124)
  else
    let s1 := s.modCell k i (fun c => { c with gotHello := true, helloOk := true, helloAck := c.helloAck || h.ack })
    if x.helloAck || h.ack then s1.enterDelay k i h else s1

/-- BAR_RX: an announcement waits its microsecond (R62); the codes are 0 to 6 (Table 3.6). -/
def opBarRx (k : NodeSel) (i : Nat) (bar : BitVec 3) (s : State) : State :=
  if !(s.cell k i).aligned || decide (bar.toNat > 6) then s else s.modCell k i (fun c => { c with barPend := some (bar, s.rc k) })

/-- BAR_APPLY: from the first frame that starts at least 1 microsecond after receipt (R62). -/
def opBarApply (k : NodeSel) (i : Nat) (s : State) : State :=
  match (s.cell k i).barPend with
  | none => s
  | some (b, t) => (s.advAfter k t cyclesUs).modCell k i (fun c => { c with barTx := b, barPend := none })

/-! ## Retry (R69 to R73) -/

/-- LINK_ACK_RX: acknowledged sets are released; a NAK makes a resend due (R72). -/
def opLinkAckRx (k : NodeSel) (i : Nat) (nak : Bool) (rseq : Byte) (s : State) : State :=
  if !(s.cell k i).aligned then s
  else s.modRetry k i (fun r =>
    let r1 := r.ack rseq (s.rc k)
    if nak && r1.unacked != [] then { r1 with resendDue := true } else r1)

/-- LINK_ACK_TIMER: 1 microsecond after the first acceptance that no LINK-ACK has covered (R71). -/
def opLinkAckTimer (k : NodeSel) (i : Nat) (s : State) : State :=
  match (s.cell k i).retry.firstAcc with
  | none => s
  | some t =>
    if !(s.cell k i).aligned then s
    else (s.advAfter k t cyclesUs).modCell k i (fun c =>
      { c with ackq := c.ackq ++ [linkAckTok false c.retry.exp], retry := { c.retry with accepted := 0, firstAcc := none } })

/-- RETRY_TIMEOUT of a cell in cycles. -/
def State.retryTimeout (s : State) (k : NodeSel) (i : Nat) : Nat := s.fld k (cOff k i 0x30) 6 0 * cyclesUs

/-- RETRY_TIMEOUT_EXPIRY: no acknowledgement has advanced for RETRY_TIMEOUT (R72). -/
def opRetryTimeout (k : NodeSel) (i : Nat) (s : State) : State :=
  let x := s.cell k i
  if x.ts ≠ .active ∨ x.retry.unacked = [] then s
  else
    let s1 := s.advAfter k x.retry.ackAt (s.retryTimeout k i)
    s1.modRetry k i (fun r => { r with resendDue := true, ackAt := s1.rc k })

/-- RETRY_RESEND: every unacknowledged set is due again in order; after 16 resends without progress the cell counts RETRY_FAIL and declares
loss of frame alignment (R72). -/
def opRetryResend (k : NodeSel) (i : Nat) (s : State) : State :=
  let x := s.cell k i
  if x.ts ≠ .active ∨ !x.retry.resendDue ∨ x.retry.unacked = [] then s
  else if x.retry.resends ≥ 16 then
    ((s.modRetry k i (fun r => { r with resends := 0 })).bump k (cOff k i 0x12C)).declareLoss k i true
  else s.modRetry k i (fun r => { r with resendDue := false, resends := r.resends + 1, resendQ := r.unacked })

/-- How many of some messages are excision records (KIND 3, R277). -/
def excCount (l : List Tokens) : Nat :=
  (l.filter (fun m => match m with | [] => false | t :: _ => decide (tokType t = 0x31 ∧ bitsOf (tokBody t) 47 42 = 3))).length

/-- Messages that wait for a port are discarded with its retry state; discarded excision records count in TOK_DROP_ROUTE (R73, R277). -/
def State.dropHeld (s : State) (k : NodeSel) (i : Nat) : State :=
  let d := (s.cell k i).cfg.dom
  let up := decide ((s.cell k i).cfg.role = 1)
  let own := if up then (s.onNode k (fun N => N.ownC3)).filter (fun p => decide (p.1 = d)) else []
  let dn := if up then s.downCells k d else []
  let n := excCount (own.map Prod.snd) + excCount (s.cell k i).c3q + (dn.map (fun j => excCount (s.cell k j).c3in)).sum
  let s1 := if up then s.modNode k (fun N => { N with ownC3 := N.ownC3.filter (fun p => !decide (p.1 = d)) }) else s
  let s2 := s1.each dn (fun s j => s.modCell k j (fun c => { c with c3in := [] }))
  (s2.modCell k i (fun c => { c with c2q := [], c3q := [] })).each (List.range n) (fun s _ => s.dropRoute k i)

/-- RETRY_STATE_DISCARD: 10 ms after the declaration without a return to ACTIVE (R73). -/
def opRetryDiscard (k : NodeSel) (i : Nat) (s : State) : State :=
  let x := s.cell k i
  match x.retry.lossAt with
  | none => s
  | some t =>
    if x.ts = .active then s
    else
      let s1 := (s.advAfter k t (10 * cyclesMs)).dropHeld k i
      (s1.modRetry k i (fun _ => { Retry.reset with discarded := true })).bumpBy k (cOff k i 0x130) x.retry.unacked.length

/-! ## Received frames (R48 to R55, R63 to R77) -/

end Sys2Proof.Machine
namespace Sys2Proof
open Machine

/-- Token `j` of a frame (R52). -/
def Frame.slot (f : Frame) (j : Nat) : W64 :=
  tokOfWords (vget f.words (2 + 4 * j) 0) (vget f.words (3 + 4 * j) 0) (vget f.words (4 + 4 * j) 0) (vget f.words (5 + 4 * j) 0)

/-- A symbol of slot `j` is a symbol error (R54). -/
def Frame.slotErr (f : Frame) (j : Nat) : Bool := bitsOf f.symErr (5 + 4 * j) (2 + 4 * j) != 0

/-- Does a frame carry a DELAY-PROBE (false) or a DELAY-ECHO (true) (R83, Table 3.6)? -/
def Frame.delayTok (f : Frame) : Option Bool :=
  let tys := (List.range 7).map (fun j => tokType (f.slot j))
  if 0x09 ∈ tys then some true else if 0x08 ∈ tys then some false else none

/-- The header word (Table 3.3). -/
def Frame.header (f : Frame) : W16 := vget f.words 1 0
/-- FSEQ. -/
def Frame.fseq (f : Frame) : BitVec 4 := f.header.extractLsb' 12 4
/-- TIMED. -/
def Frame.timed (f : Frame) : Bool := f.header.getLsbD 11
/-- RCARRY. -/
def Frame.rcarry (f : Frame) : Bool := f.header.getLsbD 8
/-- RSEQ. -/
def Frame.rseq (f : Frame) : Byte := f.header.extractLsb' 0 8
/-- The frame CRC passes (R51). -/
def Frame.crcOk (f : Frame) : Bool :=
  (f.words.toList.drop 30) == frameCrc ((f.words.toList.drop 1).take 29)

/-- A frame is good: comma in place, no symbol error, CRC, FSEQ one above the previous (R76). -/
def Frame.good (f : Frame) (prev : Option (BitVec 4)) : Bool :=
  f.comma && decide (f.symErr = 0) && f.crcOk && (match prev with | none => true | some q => decide (f.fseq = q + 1))

end Sys2Proof
namespace Sys2Proof.Machine

/-- Reserved token types (Table 3.5). -/
def typeReserved (t : Nat) : Bool :=
  !([0x00, 0x01, 0x02, 0x08, 0x09, 0x0A, 0x10, 0x11, 0x12, 0x13, 0x14, 0x20, 0x21, 0x22, 0x23, 0x30, 0x31].contains t)

/-- The class of a type: 0, 2 or 3 for C0, C2, C3, else 1 (Table 3.5). -/
def typeClass (t : Nat) : Nat := if t / 16 = 1 then 0 else if t / 16 = 2 then 2 else if t / 16 = 3 then 3 else 1

end Sys2Proof.Machine
namespace Sys2Proof
open Machine

/-- A frame carries a token of class C2 or C3. -/
def Frame.hasCx (f : Frame) : Bool := (List.range 7).any (fun j => decide (typeClass (tokType (f.slot j)) ≥ 2))

end Sys2Proof
namespace Sys2Proof.Machine

/-- The partial message of a class. -/
def Cell.part (c : Cell) : Nat → Tokens
  | 0 => c.part0
  | 2 => c.part2
  | _ => c.part3
/-- Set the partial message of a class. -/
def Cell.setPart (c : Cell) (cl : Nat) (l : Tokens) : Cell :=
  match cl with
  | 0 => { c with part0 := l }
  | 2 => { c with part2 := l }
  | _ => { c with part3 := l }
/-- The tokens of a dropped message of a class are passed over. -/
def Cell.skips (c : Cell) : Nat → Bool
  | 0 => c.skip.1
  | 2 => c.skip.2.1
  | _ => c.skip.2.2
/-- Set whether a class passes tokens over. -/
def Cell.setSkip (c : Cell) (cl : Nat) (b : Bool) : Cell :=
  match cl with
  | 0 => { c with skip := (b, c.skip.2) }
  | 2 => { c with skip := (c.skip.1, b, c.skip.2.2) }
  | _ => { c with skip := (c.skip.1, c.skip.2.1, b) }

/-- A token dropped under R54 takes its message with it, counted once in TOK_DROP_SEG (R55). -/
def Cell.loseTok (c : Cell) (cl seg : Nat) : Cell × Nat :=
  if seg = 0 then (if c.part cl = [] then (c, 0) else (c.setPart cl [], 1))
  else if seg = 3 then (if c.part cl = [] ∧ c.skips cl then (c.setSkip cl false, 0) else ((c.setPart cl []).setSkip cl false, 1))
  else if seg = 2 ∧ c.part cl = [] ∧ c.skips cl then (c, 0)
  else ((c.setPart cl []).setSkip cl true, if seg = 1 ∧ c.part cl ≠ [] then 2 else 1)

/-- A good token joins its message (R55): the cell, the messages counted in TOK_DROP_SEG, and the message it completes. -/
def Cell.joinTok (c : Cell) (cl seg : Nat) (t : W64) : Cell × Nat × Option Tokens :=
  let cut := if c.part cl = [] then 0 else 1
  if seg = 0 then ((c.setPart cl []).setSkip cl false, cut, some [t])
  else if seg = 1 then ((c.setPart cl [t]).setSkip cl false, cut, none)
  else if c.part cl = [] then
    if c.skips cl then (c.setSkip cl (decide (seg = 2)), 0, none) else (c.setSkip cl (decide (seg = 2)), 1, none)
  else if seg = 2 then (c.setPart cl (c.part cl ++ [t]), 0, none)
  else (c.setPart cl [], 0, some (c.part cl ++ [t]))

/-- A token lost in a slot that a C0 message in progress holds: the message is dropped, counted once, and its further tokens are passed over (R55).
What the lost token reads as tells nothing. -/
def Cell.loseC0 (c : Cell) : Cell × Nat := ((c.setPart 0 []).setSkip 0 true, if c.part0 = [] then 0 else 1)

/-- The outputs to which a node was forwarding a C0 token cut-through when its TCRC failed: those of the message in progress, or of the token's
own head (R57, R59, R65). -/
def State.stompPorts (s : State) (k : NodeSel) (i : Nat) (held : Bool) (t : W64) : List Nat :=
  let x := s.cell k i
  let d := x.cfg.dom
  if held && x.part0 == [] then x.cutPorts
  else
    let head := if held then x.part0.headD t else t
    if tokType head = 0x11 then s.downCells k d
    else if tokType head = 0x10 then s.memberPorts k d ((tokBody head).extractLsb' 36 12)
    else if tokType head = 0x13 then
      match (if held then x.part0[1]? else none) with
      | some st =>
        if (tokBody st).getLsbD 24 then s.memberPorts k d ((tokBody head).extractLsb' 36 12)
        else (s.routePorts k false ((tokBody st).extractLsb' 25 20)).filter (fun p => decide (p ∈ s.downCells k d))
      | none => s.memberPorts k d ((tokBody head).extractLsb' 36 12)
    else []

/-- A C0 token whose TCRC or symbols fail on an UP cell leaves its outputs stomped, behind what has left of its message, and counts in
TOK_STOMP; the rest of the message follows on the same outputs (R65). -/
def State.stomp (s : State) (k : NodeSel) (i : Nat) (held : Bool) (t : W64) : State :=
  let x := s.cell k i
  let ps := if x.ts = .active ∧ x.cfg.role = 1 ∧ (held ∨ typeClass (tokType t) = 0) then s.stompPorts k i held t else []
  if ps = [] then s
  else ((s.sendC0All k ps ((if held then x.part0 else []) ++ [stompTok t])).modCell k i (fun c => { c with cutPorts := ps })).bump k (cOff k i 0x114)

/-- A good C0 token of a message that has lost a token here leaves cut-through all the same (R65). -/
def State.cutThrough (s : State) (k : NodeSel) (i : Nat) (t : W64) : State :=
  let x := s.cell k i
  if tokSeg t < 2 then s.modCell k i (fun c => { c with cutPorts := [] })
  else if x.skip.1 then
    (s.sendC0All k x.cutPorts [t]).modCell k i (fun c => if tokSeg t = 3 then { c with cutPorts := [] } else c)
  else s

/-- Token `j` of a frame, judged on its own (R54); a good C0, C2 or C3 token joins its message where the class is taken. A lost token belongs to
the C0 message in progress where there is one and the slot is open to C0, else to the class it reads as. -/
def State.takeTok (s : State) (k : NodeSel) (i : Nat) (f : Frame) (c0 cx : Bool) (j : Nat) : State :=
  let t := f.slot j
  let x := s.cell k i
  let cl := typeClass (tokType t)
  let held := c0 && decide (j ≠ x.barRx.toNat) && (x.part0 != [] || x.skip.1)
  let taken := (cl = 0 && c0) || (cl ≥ 2 && cx)
  let lose (s : State) : State :=
    if held then
      let r := (s.cell k i).loseC0
      (s.modCell k i (fun _ => r.1)).bumpBy k (cOff k i 0x10C) r.2
    else if !taken then s
    else
      let r := (s.cell k i).loseTok cl (tokSeg t)
      (s.modCell k i (fun _ => r.1)).bumpBy k (cOff k i 0x10C) r.2
  if f.slotErr j || !tokGood t then
    lose ((s.bump k (cOff k i (if !f.slotErr j && tokStomped t then 0x104 else 0x100))).stomp k i held t)
  else if typeReserved (tokType t) then lose (s.bump k (cOff k i 0x108))
  else if !taken then s
  else
    let s1 := if cl = 0 then s.cutThrough k i t else s
    let r := (s1.cell k i).joinTok cl (tokSeg t) t
    (s1.modCell k i (fun _ => { r.1 with rxMsgs := r.1.rxMsgs ++ r.2.2.toList })).bumpBy k (cOff k i 0x10C) r.2.1

/-- The receiver's retry state after a frame (R70, R71): acceptance, or the NAK of the first discard; and the LINK-ACK it sends. -/
def Cell.retryRx (c : Cell) (f : Frame) (good hasCx : Bool) (rc : W64) : Cell × Bool :=
  if good && f.rcarry && decide (f.rseq = c.retry.exp) && decide (c.ts = .active) then
    let r := { c.retry with exp := c.retry.exp + 1, nakSent := false, accepted := c.retry.accepted + 1,
                            firstAcc := some (c.retry.firstAcc.getD rc) }
    if r.accepted ≥ 8 then
      ({ c with retry := { r with accepted := 0, firstAcc := none }, ackq := c.ackq ++ [linkAckTok false r.exp] }, true)
    else ({ c with retry := r }, true)
  else if (f.rcarry || hasCx) && !c.retry.nakSent then
    ({ c with retry := { c.retry with nakSent := true }, ackq := c.ackq ++ [linkAckTok true c.retry.exp] }, false)
  else (c, false)

/-- Theta of R61: cycles from the start of the node's own frame to the edge that registers word 0, modulo 32. -/
def Cell.thetaAt (c : Cell) (rc : W64) : BitVec 5 := (rc - c.frameRc).extractLsb' 0 5

/-- A frame with frame alignment held (R29, R50, R54, R70, R83): the count since TIME-ANNOUNCE, the request to channel 0 for the stamp of a picot
frame, a probe or an echo, and its tokens. A bad frame is not stamped (R76, log 111). -/
def State.takeFrame (s : State) (k : NodeSel) (i : Nat) (f : Frame) (good : Bool) : State :=
  let rc := s.rc k
  let s1 := s.modCell k i (fun c =>
    let n := c.annCount + 1
    let picot := good && f.timed && decide (f.fseq = 0) && decide (c.cfg.role = 1 ∨ c.cfg.role = 3)
    let tok := if good then f.delayTok else none
    let req := if picot || tok.isSome then
        c.stampReq ++ [{ rc := rc, pos := f.pos, p := if picot then c.annHt.map (fun h => h + 64 * n) else none, d := c.dly.d, tok := tok }]
      else c.stampReq
    { c with annCount := n, stampReq := req, rxMsgs := [], theta := c.thetaAt rc })
  let r := (s1.cell k i).retryRx f good f.hasCx rc
  let s2 := s1.modCell k i (fun _ => r.1)
  s2.each (List.range 7) (fun s j => s.takeTok k i f (decide ((s.cell k i).ts = .active)) r.2 j)

/-- Frame alignment is declared (Table 3.11); the domain machine sees it on an UP port (Table 2.2). -/
def State.gainAlign (s : State) (k : NodeSel) (i : Nat) : State :=
  let s1 := s.modCell k i (fun c => { c with ts := .hello, helloAt := s.rc k, annHt := none, annCount := 0, badRun := 0 })
  if (s.cell k i).cfg.role = 1 then s1.domGained k (s.cell k i).cfg.dom else s1

/-- FRAME_RX (R76): a frame moves training on in WORD and FRAME; from HELLO on its tokens are judged; the third bad frame in a row declares
loss of frame alignment. -/
def opFrameRx (k : NodeSel) (i : Nat) (f : Frame) (s : State) : State :=
  let x := s.cell k i
  let run (s : State) : State :=
    let good := f.good x.fseqRx
    let s1 := (s.bumpIf (!f.crcOk) k (cOff k i 0x118)).modCell k i (fun c =>
      { c with fseqRx := some f.fseq, badRun := if good then 0 else c.badRun + 1, goodRun := if good then c.goodRun + 1 else 0 })
    let s2 := if x.aligned then s1.takeFrame k i f good else s1
    if !good && decide (x.badRun + 1 ≥ 3) then s2.declareLoss k i true
    else if decide (x.ts = .frame) && good && decide (x.goodRun + 1 ≥ 4) then s2.gainAlign k i
    else s2
  match x.ts with
  | .word =>
    if f.comma then s.modCell k i (fun c =>
      if c.commaRun + 1 ≥ 8 then { c with ts := .frame, commaRun := 0, goodRun := 0, badRun := 0, fseqRx := none }
      else { c with commaRun := c.commaRun + 1 })
    else s.modCell k i (fun c => { c with commaRun := 0 })
  | .frame | .hello | .delay | .active => run s
  | _ => s

/-- FRAME_RX as the code groups of a frame come in: they are decoded at the running disparity behind the frame before (R45), and the frame is
judged. -/
def opLineRx (k : NodeSel) (i : Nat) (l : LineFrame) (pos : Nat) (s : State) : State :=
  let r := l.decode (s.cell k i).rxRd pos
  opFrameRx k i r.1 (s.modCell k i (fun c => { c with rxRd := r.2 }))

/-! ## Deficit round robin of upward C3 (R263) -/

/-- The deficit of a child of a level. -/
def Arb.defOf (a : Arb) (key c : Nat) : Nat := (sget a.defi (1000 * key + c)).getD 0
/-- Set the deficit of a child. -/
def Arb.setDef (a : Arb) (key c n : Nat) : Arb := { a with defi := sput a.defi (1000 * key + c) n }

/-- What a level would grant next: a message's length, the cell it comes from, and the arbiter after the grant. -/
abbrev Grant := Nat × Nat × (Arb → Arb)

/-- A level's state after a grant to child `c`: the deficits its visits left, and where the next visit begins. -/
def Arb.granted (b : Arb) (key c left pos : Nat) (df : Sparse Nat) : Arb :=
  let kept := df.foldl (fun t p => if p.1 / 1000 = key then sput t p.1 p.2 else t) b.defi
  { defi := sput kept (1000 * key + c) left, ptr := sput b.ptr key pos }

/-- One visit after another, from child `pos` on, until a child may send (R263). -/
def drrGo (key : Nat) (ch : List (Nat × Nat × Option Grant)) : Nat → Nat → Arb → Option Grant
  | 0, _, _ => none
  | fuel + 1, pos, a =>
    match ch[pos % ch.length]? with
    | none => none
    | some (c, _, g) =>
      let nxt := (pos + 1) % ch.length
      let arrive (a : Arb) : Arb :=
        match ch[nxt]? with
        | some (d, w, some _) => a.setDef key d (a.defOf key d + w)
        | some (d, _, none) => a.setDef key d 0
        | none => a
      match g with
      | none => drrGo key ch fuel nxt (arrive a)
      | some (m, cell, f) =>
        if m ≤ a.defOf key c then
          some (m, cell, fun b => (f b).granted key c (a.defOf key c - m) (pos % ch.length) a.defi)
        else drrGo key ch fuel nxt (arrive a)

/-- The grant of one level over its children: child, weight, and what the child's own level picks. -/
def drrLevel (a : Arb) (key : Nat) (ch : List (Nat × Nat × Option Grant)) : Option Grant :=
  if ch.all (fun c => c.2.2.isNone) then none
  else drrGo key ch (12 * ch.length + 12) ((sget a.ptr key).getD 0) a

/-- What a cell passes to its group: its first waiting message (R263). -/
def State.cellGrant (s : State) (k : NodeSel) (d : Dom) (i : Nat) : Option Grant :=
  let c := s.cell k i
  if c.cfg.dom ≠ d then none
  else match c.c3in with
    | [] => none
    | m :: _ => some (m.length, i, id)

/-- ARB_MODE in effect is EQUAL: every child has weight 1 at every level (R266). -/
def State.arbEqual (s : State) (k : NodeSel) : Bool := decide (s.effFld k (match k with | .leaf => 0xE04C | .mary => 0x90300) 0 0 = 1)

/-- The weight of a cell (R263). -/
def State.cellWeight (s : State) (k : NodeSel) (i : Nat) : Nat := if s.arbEqual k then 1 else max 1 (s.liveCount k i)

/-- The arbiter of a group: level key 1 to 20. -/
def State.groupGrant (s : State) (a : Arb) (d : Dom) (g : Nat) : Option Grant :=
  drrLevel a (1 + g) ((List.range 5).map (fun j => (j, s.cellWeight .mary (5 * g + j), s.cellGrant .mary d (5 * g + j))))

/-- The weight of a group. -/
def State.groupWeight (s : State) (g : Nat) : Nat :=
  if s.arbEqual .mary then 1 else ((List.range 5).map (fun j => s.cellWeight .mary (5 * g + j))).sum

/-- The arbiter of a quadrant: level key 21 to 24. -/
def State.quadGrant (s : State) (a : Arb) (d : Dom) (q : Nat) : Option Grant :=
  drrLevel a (21 + q) ((List.range 5).map (fun j => (j, s.groupWeight (5 * q + j), s.groupGrant a d (5 * q + j))))

/-- The weight of a quadrant. -/
def State.quadWeight (s : State) (q : Nat) : Nat :=
  if s.arbEqual .mary then 1 else ((List.range 5).map (fun j => s.groupWeight (5 * q + j))).sum

/-- The first of a node's own C3 messages for a domain's UP port. -/
def State.ownFirst (s : State) (k : NodeSel) (d : Dom) : Option Tokens :=
  ((s.onNode k (fun N => N.ownC3)).find? (fun p => decide (p.1 = d))).map Prod.snd

/-- The upward C3 grant of a node for a domain (R263); 1000 stands for a relaying leaf's own C3, its sixth child. -/
def State.c3Grant (s : State) (k : NodeSel) (d : Dom) : Option Grant :=
  let a := s.onNode k (fun N => N.arb)
  match k with
  | .mary => drrLevel a 25 ((List.range 4).map (fun q => (q, s.quadWeight q, s.quadGrant a d q)))
  | .leaf =>
    let own : Option Grant := match s.ownFirst .leaf d with | some m => if s.leaf.binding.isSome then some (m.length, 1000, id) else none | none => none
    drrLevel a (26 + domIdx d) ((List.range 6).map (fun i => (i, s.cellWeight .leaf i, s.cellGrant .leaf d i)) ++ [(6, 1, own)])

/-- Remove the first own C3 message of a domain. -/
def dropOwn (d : Dom) : List (Dom × Tokens) → List (Dom × Tokens)
  | [] => []
  | p :: l => if p.1 = d then l else p :: dropOwn d l

/-- Take a node's own C3 message to its UP cell's output. -/
def State.takeOwn (s : State) (k : NodeSel) (i : Nat) (d : Dom) : State :=
  match s.ownFirst k d with
  | none => s
  | some m => (s.modNode k (fun N => { N with ownC3 := dropOwn d N.ownC3 })).modCell k i (fun c => { c with c3q := c.c3q ++ [m] })

/-- GRP_C3_TOK and QUAD_C3_TOK count the tokens that the arbiters of a Maryel grant (Table 18.3). -/
def State.countC3 (s : State) (k : NodeSel) (cell n : Nat) : State :=
  match k with
  | .leaf => s
  | .mary => (s.bumpBy .mary (0x64000 + cell / 5 * 0x1000 + 0x20) n).bumpBy .mary (0x78000 + cell / 25 * 0x1000 + 0x18) n

/-- The next upward C3 message comes to the UP cell's output once the one before it has gone whole (R55, R263). `own8` is the slot of
FSEQ = 8, where a Maryel's own C3 comes first. -/
def State.refillC3 (s : State) (k : NodeSel) (i : Nat) (own8 : Bool) : State :=
  let x := s.cell k i
  if x.cfg.role ≠ 1 ∨ x.c3q ≠ [] then s
  else
    let d := x.cfg.dom
    if decide (k = .mary) && own8 && (s.ownFirst k d).isSome then s.takeOwn k i d
    else match s.c3Grant k d with
      | none => s.takeOwn k i d
      | some (_, cell, f) =>
        let s1 := s.modNode k (fun N => { N with arb := f N.arb })
        if cell = 1000 then s1.takeOwn k i d
        else match (s.cell k cell).c3in with
          | [] => s1
          | m :: l => ((s1.countC3 k cell m.length).modCell k cell (fun c => { c with c3in := l })).modCell k i (fun c => { c with c3q := c.c3q ++ [m] })

/-! ## Frames sent (R48, R49, R60 to R64, R69, R72) -/

/-- The correction set to which a cell's frames align: the domain's while it has HT, or on an UP or CROSS cell its seed (R28, R49, R353,
R355). -/
def State.portSet (s : State) (k : NodeSel) (i : Nat) : Option CorrSet :=
  let x := s.cell k i
  let t := s.time k
  if t.hasHt x.cfg.dom then some (t.dom x.cfg.dom).set
  else if x.cfg.role = 1 ∨ x.cfg.role = 3 then (t.dom x.cfg.dom).seed else none

/-- The next frame boundary of a cell: the present edge where a multiple of 64 ns falls on it and the cell has not started a frame there, else the
first after it; its edge and, where timed, its HT in ns (R28, R48, Table 3.3). -/
def State.nextFrame (s : State) (k : NodeSel) (i : Nat) : W64 × Option Nat :=
  let now := s.rc k
  let x := s.cell k i
  match s.portSet k i with
  | some c =>
    let b := tuNs (c.at_ now) / 64 * 64
    if c.at_ now % (64 * nsTu) < c.rate.toNat ∧ ¬ (x.frames ≠ 0 ∧ x.frameRc = now) then (now, some b)
    else (c.edgeOf now ((b + 64) * nsTu), some (b + 64))
  | none =>
    let e := x.frameRc + 32
    (if x.frames = 0 ∨ e.toNat < now.toNat then now else e, none)

/-- The interval of R100 from stamp `a` to stamp `b`, with k16 of the port's domain. -/
def State.interval (s : State) (k : NodeSel) (d : Dom) (a b : Stamp) : Int :=
  let t := s.time k
  let kk := if t.hasHt d then (t.dom d).set.rate.toNat else nominalK.toNat
  signedOf 64 (b.rc - a.rc).toNat * ((kk / 2 ^ 24 : Nat) : Int) + ((b.pos : Int) - (a.pos : Int))

/-- The transmit stamp of a frame that starts at an edge (R100). -/
def txStamp (k : NodeSel) (i : Nat) (edge : W64) : Stamp := { rc := edge, pos := Config.txLat k i }

/-- TURN of a queued echo in a frame that starts at an edge, or none beyond 2,000 ns (R64, R101). -/
def State.turnOf (s : State) (k : NodeSel) (i : Nat) (e : Echo) (edge : W64) : Option Nat :=
  let t := s.interval k (s.cell k i).cfg.dom e.t2 (txStamp k i edge)
  if t > 2000 * 65536 ∨ t < 0 then none else some t.toNat

/-- The TIME-ANNOUNCE that a frame must carry: on a DOWN or CROSS cell, at a multiple of 2^20 ns below the bound (R29, R56, R309). -/
def Cell.announce (c : Cell) (ht : Option Nat) : Option W64 :=
  match ht with
  | some n => if c.ts = .active ∨ c.ts = .delay ∨ c.ts = .hello then
      (if n % 2 ^ 20 = 0 ∧ n < htBound ∧ (c.cfg.role = 2 ∨ c.cfg.role = 3) then some (announceTok (n / 2 ^ 20)) else none) else none
  | none => none

/-- What an acknowledgement says when it leaves: RSEQ is the value expected then (R71). -/
def ackNow (exp : Byte) (t : W64) : W64 := linkAckTok ((tokBody t).getLsbD 47) exp

/-- The first token of the first waiting message, and the queue without it (R55). -/
def popTok : List Tokens → Option (W64 × List Tokens)
  | [] => none
  | [] :: q => popTok q
  | (t :: m) :: q => some (t, if m = [] then q else m :: q)

/-- C0 for a slot: only on an ACTIVE port (R75). -/
def State.slotC0 (s : State) (k : NodeSel) (i : Nat) : Option (State × W64) :=
  if (s.cell k i).ts ≠ .active then none
  else (popTok (s.cell k i).c0q).map (fun p => (s.modCell k i (fun c => { c with c0q := p.2 }), p.1))

/-- LINK-ACK for a slot; with NAK or without, it covers every acceptance so far (R71 and its worked example). -/
def State.slotAck (s : State) (k : NodeSel) (i : Nat) : Option (State × W64) :=
  match (s.cell k i).ackq with
  | [] => none
  | t :: l =>
    some (s.modCell k i (fun c => { c with ackq := l, retry := { c.retry with accepted := 0, firstAcc := none } }), ackNow (s.cell k i).retry.exp t)

/-- LINK-CTL for a slot. -/
def State.slotCtl (s : State) (k : NodeSel) (i : Nat) : Option (State × W64) :=
  match (s.cell k i).ctlq with
  | [] => none
  | t :: l => if (s.cell k i).aligned then some (s.modCell k i (fun c => { c with ctlq := l }), t) else none

/-- C3 for a slot. -/
def State.slotC3 (s : State) (k : NodeSel) (i : Nat) (own8 : Bool) : Option (State × W64) :=
  let s1 := s.refillC3 k i own8
  (popTok (s1.cell k i).c3q).map (fun p => (s1.modCell k i (fun c => { c with c3q := p.2 }), p.1))

/-- C2, then C3, for a slot. -/
def State.slotCx (s : State) (k : NodeSel) (i : Nat) : Option (State × W64) :=
  match popTok (s.cell k i).c2q with
  | some p => some (s.modCell k i (fun c => { c with c2q := p.2 }), p.1)
  | none => s.slotC3 k i false

/-- DELAY-ECHO for the barred slot of a timed frame: its TURN is that of this frame; an echo that has become too late is counted and
not sent (R64, R101). -/
def State.slotEcho (s : State) (k : NodeSel) (i : Nat) (edge : W64) : Option (State × W64) :=
  match (s.cell k i).echoq, (s.cell k i).dly.echoes with
  | _ :: _, e :: es =>
    (s.turnOf k i e edge).map (fun n => (s.modCell k i (fun c => { c with echoq := [], dly := { c.dly with echoes := es } }), echoTok e.id n))
  | _, _ => none

/-- DELAY-PROBE for the barred slot of a timed frame: the probe is then outstanding (R99). -/
def State.slotProbe (s : State) (k : NodeSel) (i : Nat) (edge : W64) : Option (State × W64) :=
  if (s.cell k i).ts ≠ .delay ∧ (s.cell k i).ts ≠ .active then none
  else (s.cell k i).dly.probeDue.map (fun id =>
    (s.modDly k i (fun d => { d with probeDue := none, outst := d.outst ++ [{ id := id, t1 := txStamp k i edge }] }), probeTok id))

/-- What a frame may carry of C2 and C3: nothing, the tokens of a resent set, or new tokens (R69, R72). -/
inductive CxMode | no | resend (l : List W64) | fresh
  deriving DecidableEq, Repr

/-- A frame as it is filled. -/
structure FillCtx where
  edge  : W64
  timed : Bool
  fseq  : BitVec 4
  bar   : Nat
  ann   : Option W64
  deriving DecidableEq, Repr

/-- The first of several sources that has a token. -/
def firstOf (l : List (Option (State × W64))) : Option (State × W64) := l.findSome? id

/-- The C2 and C3 token of a slot. -/
def State.slotMode (s : State) (k : NodeSel) (i : Nat) : CxMode → Option ((State × W64) × CxMode)
  | .no => none
  | .resend [] => none
  | .resend (t :: l) => some ((s, t), .resend l)
  | .fresh => (s.slotCx k i).map (fun p => (p, .fresh))

/-- Fill slot `j` by Table 3.9. -/
def State.fillSlot (s : State) (k : NodeSel) (i : Nat) (f : FillCtx) (m : CxMode) (j : Nat) : State × W64 × CxMode :=
  let link := [s.slotAck k i, s.slotCtl k i]
  let early :=
    if j = f.bar then
      (f.ann.map (fun t => (s, t))) :: (if f.fseq = 8 ∧ m = .fresh then s.slotC3 k i true else none) ::
        (if f.timed then [s.slotEcho k i f.edge, s.slotProbe k i f.edge] else []) ++ link
    else s.slotC0 k i :: link
  match firstOf early with
  | some p => (p.1, p.2, m)
  | none => match s.slotMode k i m with
    | some p => (p.1.1, p.1.2, p.2)
    | none => (s, nullTok, m)

/-- Fill the seven slots in order. -/
def State.fillFrame (s : State) (k : NodeSel) (i : Nat) (f : FillCtx) (m : CxMode) : State × List W64 × CxMode :=
  (List.range 7).foldl (fun st j =>
    let r := st.1.fillSlot k i f st.2.2 j
    (r.1, st.2.1 ++ [r.2.1], r.2.2)) (s, [], m)

/-- A frame filled with what its C2 and C3 may be: a resent set only where it fits whole into the slots left free; new tokens while fewer
than 64 sets are unacknowledged; RETX, RCARRY and RSEQ with it (R69, R72). -/
def State.frameOf (s : State) (k : NodeSel) (i : Nat) (f : FillCtx) : State × List W64 × Nat :=
  let x := s.cell k i
  let plain := s.fillFrame k i f .no
  if x.ts ≠ .active then (plain.1, plain.2.1, 0)
  else match x.retry.resendQ with
    | (q, set) :: rest =>
      if set.length ≤ (plain.2.1.filter (fun t => decide (t = nullTok))).length then
        let r := s.fillFrame k i f (.resend set)
        (r.1.modRetry k i (fun r => { r with resendQ := rest }), r.2.1, 2 ^ 9 + 2 ^ 8 + q.toNat)
      else (plain.1, plain.2.1, 0)
    | [] =>
      if x.retry.unacked.length ≥ 64 then (plain.1, plain.2.1, 0)
      else
        let r := s.fillFrame k i f .fresh
        let sent := r.2.1.filter (fun t => decide (typeClass (tokType t) ≥ 2))
        if sent = [] then (r.1, r.2.1, 0)
        else
          (r.1.modRetry k i (fun r =>
            { r with unacked := r.unacked ++ [(r.next, sent)], next := r.next + 1, ackAt := if r.unacked = [] then f.edge else r.ackAt }),
           r.2.1, 2 ^ 8 + x.retry.next.toNat)

/-- An echo that the next frame would carry too late is dropped and counted in ECHO_LATE (R64, R101). -/
def State.dropLate (s : State) (k : NodeSel) (i : Nat) (edge : W64) : State :=
  match (s.cell k i).echoq, (s.cell k i).dly.echoes with
  | _ :: _, e :: es =>
    if (s.turnOf k i e edge).isSome then s
    else (s.modCell k i (fun c => { c with echoq := [], dly := { c.dly with echoes := es } })).bump k (cOff k i 0x138)
  | _, _ => s

/-- The 32 words of a frame (Table 3.2). -/
def frameWords (hdr : W16) (slots : List W64) : List W16 :=
  let body := hdr :: slots.flatMap tokWords
  commaWord :: body ++ frameCrc body

/-- The frame goes out: its words with their CRC, and its code groups, on the lanes where the port is W-form (R45, R46, R48, R51). -/
def Cell.putFrame (c : Cell) (hdr : W16) (slots : List W64) : Cell :=
  let ws := frameWords hdr slots
  let r := encFrame c.txRd ws
  { c with lastFrame := some (hdr, slots), lastWords := ws, lastSyms := r.1, txRd := r.2 }

/-- The code groups of the last frame on data lane `i` of a W-form port (R46). -/
def Cell.laneOut (c : Cell) (i : Nat) : List (BitVec 10) := laneSyms c.lastSyms i

/-- FRAME_START: at the next frame boundary a transmitting cell fills its seven slots by Table 3.9 and sends the frame (R48, R63). -/
def opFrameStart (k : NodeSel) (i : Nat) (s : State) : State :=
  if !(s.cell k i).sends then s
  else
    let nf := s.nextFrame k i
    let s0 := (s.advTo k nf.1).dropLate k i nf.1
    let x := s0.cell k i
    let fseq : BitVec 4 := match nf.2 with | some b => BitVec.ofNat 4 (b / 64) | none => x.fseqTx
    let r := s0.frameOf k i { edge := nf.1, timed := nf.2.isSome, fseq := fseq, bar := x.barTx.toNat, ann := x.announce nf.2 }
    let hdr : W16 := BitVec.ofNat 16 (fseq.toNat * 2 ^ 12 + b01 nf.2.isSome * 2 ^ 11 + domIdx x.cfg.dom * 2 ^ 10 + r.2.2)
    r.1.modCell k i (fun c =>
      { c.putFrame hdr r.2.1 with frameRc := nf.1, frames := c.frames + 1, fseqTx := fseq + 1, echoq := [] })

/-! ## Executions -/

/-- FRAME_RX. -/
def execFrameRx (c : CellRef) (f : LineFrame) (s : State) (pos : Nat := 0) : Host.Outcome State Fault Refusal :=
  .next (s.liveC c.node (opLineRx c.node c.idx f pos))
/-- LOSS_OF_SIGNAL. -/
def execLossOfSignal (c : CellRef) (s : State) : Host.Outcome State Fault Refusal := .next (s.liveC c.node (opLossOfSignal c.node c.idx))
/-- CDR_LOCK. -/
def execCdrLock (c : CellRef) (s : State) : Host.Outcome State Fault Refusal := .next (s.live c.node (opCdrLock c.node c.idx))
/-- CDR_TIMEOUT. -/
def execCdrTimeout (c : CellRef) (s : State) : Host.Outcome State Fault Refusal := .next (s.live c.node (opCdrTimeout c.node c.idx))
/-- PORT_EN. -/
def execPortEn (c : CellRef) (src : Src) (v : Bool) (s : State) : Host.Outcome State Fault Refusal :=
  .next (s.accessC c.node src (cOff c.node c.idx 0) (opPortEn c.node c.idx v))
/-- TEST. -/
def execTest (c : CellRef) (src : Src) (v : Bool) (s : State) : Host.Outcome State Fault Refusal :=
  .next (s.access c.node src (cOff c.node c.idx 0) (opTest c.node c.idx v))
/-- HELLO_SEND. -/
def execHelloSend (c : CellRef) (s : State) : Host.Outcome State Fault Refusal := .next (s.live c.node (opHelloSend c.node c.idx))
/-- HELLO_RX. -/
def execHelloRx (c : CellRef) (h : LinkCtl) (s : State) : Host.Outcome State Fault Refusal := .next (s.live c.node (opHelloRx c.node c.idx h))
/-- BAR_RX. -/
def execBarRx (c : CellRef) (bar : BitVec 3) (s : State) : Host.Outcome State Fault Refusal := .next (s.live c.node (opBarRx c.node c.idx bar))
/-- BAR_APPLY. -/
def execBarApply (c : CellRef) (s : State) : Host.Outcome State Fault Refusal := .next (s.live c.node (opBarApply c.node c.idx))
/-- LINK_ACK_RX. -/
def execLinkAckRx (c : CellRef) (nak : Bool) (rseq : Byte) (s : State) : Host.Outcome State Fault Refusal :=
  .next (s.live c.node (opLinkAckRx c.node c.idx nak rseq))
/-- LINK_ACK_TIMER. -/
def execLinkAckTimer (c : CellRef) (s : State) : Host.Outcome State Fault Refusal := .next (s.live c.node (opLinkAckTimer c.node c.idx))
/-- RETRY_TIMEOUT_EXPIRY. -/
def execRetryTimeoutExpiry (c : CellRef) (s : State) : Host.Outcome State Fault Refusal := .next (s.live c.node (opRetryTimeout c.node c.idx))
/-- RETRY_RESEND. -/
def execRetryResend (c : CellRef) (s : State) : Host.Outcome State Fault Refusal := .next (s.liveC c.node (opRetryResend c.node c.idx))
/-- RETRY_STATE_DISCARD. -/
def execRetryStateDiscard (c : CellRef) (s : State) : Host.Outcome State Fault Refusal := .next (s.live c.node (opRetryDiscard c.node c.idx))
/-- FRAME_START. -/
def execFrameStart (c : CellRef) (s : State) : Host.Outcome State Fault Refusal := .next (s.live c.node (opFrameStart c.node c.idx))

end Sys2Proof.Machine
end

