-- ==== Sys2Proof/Machine/Fail.lean ====
section
/-! DEFINITION. Faults and the silence that contains them (R267 to R272), and the return of dark cells (R269). -/

namespace Sys2Proof.Machine

/-- A cell falls silent for a reason (R267): it stops transmitting, which ends its training state. -/
def State.muteCell (s : State) (k : NodeSel) (why i : Nat) : State := s.cellTo k i .off (fun c => { c with mute := setBit c.mute why })

/-- Several cells fall silent. -/
def State.muteCells (s : State) (k : NodeSel) (why : Nat) (l : List Nat) : State := s.each l (fun s i => s.muteCell k why i)

/-- A reason for silence ends; a cell left with none trains again where PORT_EN is set (Table 3.11). -/
def State.unmuteCells (s : State) (k : NodeSel) (why : Nat) (l : List Nat) : State :=
  s.each l (fun s i => s.modCell k i (fun c => Cell.start { c with mute := clrBit c.mute why } (s.rc k)))

/-- Change a group. -/
def State.modGroup (s : State) (g : Nat) (f : Group → Group) : State := s.modMary (fun m => { m with groups := vmod m.groups g f })
/-- Change a quadrant. -/
def State.modQuad (s : State) (q : Nat) (f : Quad → Quad) : State := s.modMary (fun m => { m with quads := vmod m.quads q f })

/-- The cells of a group. -/
def groupCells (g : Nat) : List Nat := (List.range 5).map (fun j => 5 * g + j)
/-- The cells of a quadrant. -/
def quadCells (q : Nat) : List Nat := (List.range 25).map (fun j => 25 * q + j)

end Sys2Proof.Machine
namespace Sys2Proof
/-- The bit of a cell fault in CELL_ERR_n (Table 18.2). -/
def CellFaultKind.bit : CellFaultKind → Nat
  | .txPll => 0
  | .queuePar => 1
  | .routePar => 2
/-- The bit of a group fault in GRP_ERR_g (Table 18.3). -/
def GroupFaultKind.bit : GroupFaultKind → Nat
  | .arbPar => 0
  | .ch0Check => 1
/-- The bit of a quadrant fault in QUAD_ERR_q (Table 18.3). -/
def QuadFaultKind.bit : QuadFaultKind → Nat
  | .xbarPar => 0
  | .qarbPar => 1
/-- The bit of a chip fault in CHIP_ERR (Table 18.4). -/
def ChipFaultKind.bit : ChipFaultKind → Nat
  | .ctxTagPar => 0
  | .tableUe => 1
  | .timePar => 2
  | .corePll => 3
  | .overtemp => 4
  | .vddLow => 5
end Sys2Proof
namespace Sys2Proof.Machine

/-- CELL_FAULT at a Maryel cell: the cell falls silent (Table 12.1). -/
def opCellFault (c : Nat) (kd : CellFaultKind) (s : State) : State :=
  (((s.modCell .mary c (fun x => { x with err := setBit x.err kd.bit })).bump .mary 0x7C03C).muteCell .mary 0 c)

/-- GROUP_FAULT: the five cells of the group fall silent until each has been reset (Table 12.1). -/
def opGroupFault (g : Nat) (kd : GroupFaultKind) (s : State) : State :=
  (s.modGroup g (fun x => { x with err := setBit x.err kd.bit, left := 31 })).muteCells .mary 1 (groupCells g)

/-- QUADRANT_FAULT: the 25 cells of the quadrant fall silent (Table 12.1). -/
def opQuadFault (q : Nat) (kd : QuadFaultKind) (s : State) : State :=
  (s.modQuad q (fun x => { x with err := setBit x.err kd.bit })).muteCells .mary 2 (quadCells q)

/-- CHIP_FAULT: the Maryel is SILENT (Table 12.1, R279). -/
def opChipFault (kd : ChipFaultKind) (s : State) : State :=
  (s.modMary (fun m => { m with chipErr := setBit m.chipErr kd.bit, silent := true })).muteCells .mary 3 (List.range 100)

/-- LEAF_CELL_FAULT: the cell falls silent until PORT_EN is written 0, then 1 (Table 12.2). -/
def opLeafCellFault (c : Nat) (s : State) : State :=
  (s.modLeaf (fun l => { l with err := setBit l.err c })).muteCell .leaf 0 c

/-- LEAF_FATAL: all six cells fall silent, every pricking entry goes with one miss of cause FATAL, and the region outputs are held at 0
until leaf reset (Table 12.2). -/
def opLeafFatal (s : State) : State :=
  let s1 := (s.modLeaf (fun l =>
    { l with err := setBit l.err 8, fatal := true,
             regions := l.regions.map (fun r =>
               { r with launch := false, picot := false, corrVld := false, hoVld := false, beats := [], tbEff := false, tbHt := 0,
                        corrOpen := none, picotDue := none }) })).muteCells .leaf 3 (List.range 6)
  s1.fatalMiss.sendMarks

/-- DARK_CELL_RETURN: dark DOWN cells of a domain go back to CDR at the first edge at which an UP port of it is ACTIVE and the domain is
in TRACK (R269). -/
def opDarkReturn (k : NodeSel) (d : Dom) (s : State) : State :=
  if !s.upActive k d || decide (((s.time k).dom d).st ≠ .track) then s
  else s.each (s.downCells k d) (fun s i =>
    s.modCell k i (fun c => if c.dark then Cell.start { c with dark := false } (s.rc k) else c))

/-- CELL_FAULT. -/
def execCellFault (c : Fin 100) (k : CellFaultKind) (s : State) : Host.Outcome State Fault Refusal := .next (s.liveC .mary (opCellFault c.val k))
/-- GROUP_FAULT. -/
def execGroupFault (g : Fin 20) (k : GroupFaultKind) (s : State) : Host.Outcome State Fault Refusal :=
  .next (s.liveC .mary (opGroupFault g.val k))
/-- QUADRANT_FAULT. -/
def execQuadrantFault (q : Fin 4) (k : QuadFaultKind) (s : State) : Host.Outcome State Fault Refusal :=
  .next (s.liveC .mary (opQuadFault q.val k))
/-- CHIP_FAULT. -/
def execChipFault (k : ChipFaultKind) (s : State) : Host.Outcome State Fault Refusal := .next (s.liveC .mary (opChipFault k))
/-- LEAF_CELL_FAULT. -/
def execLeafCellFault (c : Fin 6) (s : State) : Host.Outcome State Fault Refusal := .next (s.liveC .leaf (opLeafCellFault c.val))
/-- LEAF_FATAL. -/
def execLeafFatal (s : State) : Host.Outcome State Fault Refusal := .next (s.liveC .leaf opLeafFatal)
/-- DARK_CELL_RETURN. -/
def execDarkCellReturn (n : NodeSel) (d : Dom) (s : State) : Host.Outcome State Fault Refusal := .next (s.live n (opDarkReturn n d))

end Sys2Proof.Machine
end

