-- ==== Sys2Proof/Machine/Hist.lean ====
section
/-! DEFINITION. The ageing history that the management engine files (R300, R348): records of the ring, and what the engine takes from the
DELAY_TREND and HOLD_TREND records that pass its Maryel. -/

namespace Sys2Proof.Machine

/-- The clock of the history in seconds: HT, or keep-alive time while the domain has no HT (R348). -/
def State.histSec (s : State) : Option Nat :=
  if s.rootHasHt then some (s.htDom .mary s.rootDom / (1000000000 * nsTu)) else s.kaNow.map (fun t => t / 1000000000)

/-- A record of two words goes into the ring, the oldest overwritten when it is full (R348). -/
def State.histPut (s : State) (hkind idx : Nat) (v : W64) : State :=
  if s.celClosed then s
  else
    let p := s.cellar.histPos
    let w0 : W64 := BitVec.ofNat 64 (hkind * 2 ^ 58 + idx * 2 ^ 48 + s.histSec.getD 0 % 2 ^ 48)
    ((s.celNow (celHist + 2 * p) w0).celNow (celHist + 2 * p + 1) v).modCellar (fun c => { c with histPos := (p + 1) % histRecs })

/-- Change the engine. -/
def State.modMe (s : State) (f : Me → Me) : State := s.modMary (fun m => { m with me := f m.me })

/-- SIGMA and RESID of a DELAY_TREND record as word 1 of a history record (Table 5.5, R348). -/
def trendVal (r : TeleRec) : W64 := (r.data.getD 1 0) ++ (r.data.getD 2 0).extractLsb' 0 16

/-- The advisory bits of a DELAY_TREND record (Table 5.5). -/
def trendAdv (r : TeleRec) : Nat := bitsOf (r.data.getD 0 0) 35 32

/-- A running engine takes a DELAY_TREND record of a cell: its own cell's, or the first with HOPS = 0 on a DOWN cell; a change of an
advisory is filed at once (R348). -/
def State.engineTrend (s : State) (i : Nat) (own : Bool) (r : TeleRec) : State :=
  if s.mary.me.state ≠ 1 then s
  else
    let old := (sget s.mary.me.adv i).getD 0
    let s1 := s.modMe (fun m =>
      { m with adv := sput m.adv i (trendAdv r), far := if own || (sget m.far i).isSome then m.far else sput m.far i (trendVal r) })
    if trendAdv r ≠ old then s1.histPut 1 i (trendVal r) else s1

/-- What a running engine takes from a TELEMETRY record received on a DOWN cell (R348). -/
def State.engineTakes (s : State) (i : Nat) (r : TeleRec) : State :=
  if s.mary.me.state ≠ 1 then s
  else if r.kind = 2 then
    if bitsOf (r.data.getD 3 0) 7 0 ≠ 0 then s
    else (s.modMe (fun m => { m with nbr := if r.maryel then sdel m.nbr i else sput m.nbr i r.src })).engineTrend i false r
  else if r.kind = 1 ∧ sget s.mary.me.nbr i = some r.src ∧ !r.maryel then
    let v : W64 × W64 :=
      (BitVec.ofNat 64 (bitsOf (r.data.getD 0 0) 47 8), (r.data.getD 1 0).extractLsb' 16 32 ++ (r.data.getD 2 0).extractLsb' 16 32)
    s.modMe (fun m => { m with leafs := sput m.leafs i v })
  else s

end Sys2Proof.Machine
end

