-- ==== Sys2Proof/Machine/Delay.lean ====
section
/-! DEFINITION. Path delay and its live calibration (chapter 05): probes and echoes, the delay filter, asymmetry, advisories, trend
records, and the root's flight plan. -/

namespace Sys2Proof.Machine

/-! ## The filter (R104, R113) -/

/-- sf of R104. -/
def Delay.sf (d : Delay) : Int := d.sf32 / 2 ^ 16

/-- A reseed, which raises ADV_DLY_JUMP (R104, R115). -/
def Delay.reseed (d : Delay) (x : Int) : Delay :=
  { d with sf32 := x * 2 ^ 16, n := 1, rej := 0, sinceSeed := 0, advJump := true, trendDue := d.trendDue || !d.advJump,
           absent := (d.absent.1, 0, d.absent.2.2) }

/-- What the filter does with a sample (R104): the filter, whether the sample is a valid measurement, whether it counts in DLY_OUTLIER_n,
whether it reseeds. `outl` is OUTLIER in ps, `shift` DLY_SHIFT. -/
def Delay.sample (d0 : Delay) (shift outl : Nat) (x : Int) : Delay × Bool × Bool × Bool :=
  let d := { d0 with afterLoss := false, sinceSeed := min (2 ^ 25) (d0.sinceSeed + 1) }
  if d.n = 0 then ({ d with sf32 := x * 2 ^ 16, n := 1, rej := 0, sinceSeed := 2 ^ 25 }, true, false, false)
  else if (x - d.sf).natAbs * 1000 > outl * 65536 then
    if d0.afterLoss then (d.reseed x, true, false, true)
    else if d.rej + 1 ≥ 16 then (d.reseed x, true, true, true)
    else ({ d with rej := d.rej + 1 }, false, true, false)
  else
    let sh := min shift (Nat.log2 (d.n + 1))
    ({ d with rej := 0, sf32 := d.sf32 + (x * 2 ^ 16 - d.sf32) / 2 ^ sh, n := min (d.n + 1) (2 ^ 24) }, true, false, false)

/-- The filter first sets full: a DELAY_TREND is due (R112). -/
def Delay.noteFull (d : Delay) (shift : Nat) : Delay :=
  if 2 ^ shift ≤ d.n ∧ !d.wasFull then { d with wasFull := true, trendDue := true } else d

/-- The row of Table 2.4 that a link class selects, in ps (R113, Table 13.4). -/
def classPs (c : BitVec 2) : Nat := if c = 0 then 150 else if c = 1 then 40 else if c = 2 then 30 else 15

/-- RESID before saturation (R113). -/
def Delay.resid (d : Delay) : Nat := (d.sf - d.sigmaCal).natAbs / 32

/-- RESID judged against the link class: an excess raises ADV_LINK_RESID (R113, R115). -/
def Delay.judge (d : Delay) (lclass : BitVec 2) : Delay :=
  if d.n > 0 ∧ d.resid * 1000 > classPs lclass * 65536 then
    { d with advResid := true, trendDue := d.trendDue || !d.advResid, absent := (0, d.absent.2) }
  else d

/-- d of R103 from the filtered value, with the forms in effect (R105, R108). -/
def State.delayOf (s : State) (k : NodeSel) (i : Nat) : Int :=
  let x := s.cell k i
  let c := x.cfg.form.toNat
  let fix := signedOf 32 (s.effRegD k x.cfg.dom (tOff k (0x1140 + 8 * c))).toNat
  let coef := signedOf 32 (s.effRegD k x.cfg.dom (tOff k (0x1144 + 8 * c))).toNat
  (x.dly.sf + (fix + coef * x.dly.sf / 2 ^ 24 + x.dly.swapEff)) / 2

/-- The cell takes the d of its present filter. -/
def State.takeDelay (s : State) (k : NodeSel) (i : Nat) : State := s.modDly k i (fun x => { x with d := s.delayOf k i })

/-! ## Probes (R99, R102) -/

/-- Frames between probes: 16 in DELAY and while the filter is not full, else PROBE_DIV (R99). -/
def State.probeEvery (s : State) (k : NodeSel) (i : Nat) : Nat :=
  let x := s.cell k i
  if x.ts = .delay ∨ x.dly.n < 2 ^ s.dlyShift k x.cfg.dom then 16 else 2 ^ s.effFldD k x.cfg.dom (tOff k 0x1120) 3 0

/-- PROBE_SEND: at the start of a frame with FSEQ = 4, every 16 or PROBE_DIV frames of hall time, a probe is queued, or skipped when 8 are
outstanding (R99). RC stands before that frame's start, so that the frame itself may carry the probe. -/
def opProbeSend (k : NodeSel) (i : Nat) (s : State) : State :=
  let x := s.cell k i
  match s.portSet k i, (s.nextFrame k i).2 with
  | some c, some h =>
    if (x.ts ≠ .delay ∧ x.ts ≠ .active) ∨ !x.sends then s
    else
      let n := s.probeEvery k i
      let b := h / 64
      let w := (n + 4 - b % n) % n
      let s1 := if w = 0 then s else s.advTo k (c.edgeOf (s.rc k) ((b + w) * 64 * nsTu) - 1)
      if x.dly.outst.length + b01 x.dly.probeDue.isSome ≥ 8 then s1.bump k (cOff k i 0x134)
      else s1.modDly k i (fun d => { d with probeDue := some d.probeId, probeId := d.probeId + 1 })
  | _, _ => s

/-- PROBE_TMO_EXPIRY: no echo within PROBE_TMO of t1 (R102). -/
def opProbeTmo (k : NodeSel) (i : Nat) (id : Byte) (s : State) : State :=
  match (s.cell k i).dly.outst.find? (fun p => decide (p.id = id)) with
  | none => s
  | some p =>
    ((s.advAfter k p.t1.rc (s.effFldD k (s.cell k i).cfg.dom (tOff k 0x1124) 9 0 * cyclesUs)).modDly k i
      (fun d => { d with outst := d.outst.filter (fun q => !decide (q.id = id)) })).voidProbe k i

/-- The oldest stamp kept for a probe (false) or an echo (true) whose message has not been handled: not yet there, void, or the stamp. -/
def Cell.stampFor (c : Cell) (b : Bool) : Option (Option Stamp) := (c.stamps.find? (fun p => p.1 == b)).map Prod.snd

/-- That stamp is used up. -/
def State.dropStamp (s : State) (k : NodeSel) (i : Nat) (b : Bool) : State :=
  s.modCell k i (fun c => { c with stamps := c.stamps.eraseP (fun p => p.1 == b) })

/-- DELAY_PROBE_RX: once channel 0 has stamped the frame or let its request become void, the echo is queued, four at most; a probe with a void
stamp is not echoed (R84, R101). -/
def opDelayProbeRx (k : NodeSel) (i : Nat) (id : Byte) (s : State) : State :=
  if !(s.cell k i).aligned then s
  else match (s.cell k i).stampFor false with
    | none => s
    | some none => (s.dropStamp k i false).bump k (cOff k i 0x140)
    | some (some t) =>
      let s1 := s.dropStamp k i false
      if (s1.cell k i).dly.echoes.length ≥ 4 then s1.bump k (cOff k i 0x13C)
      else s1.modDly k i (fun d => { d with echoes := d.echoes ++ [{ id := id, t2 := t }] })

/-- The barred slot of a frame goes to C3: FSEQ is 8, the port is ACTIVE and may send a new retry set, and a C3 token waits (Table 3.9, R69,
R72). -/
def State.barC3 (s : State) (k : NodeSel) (i : Nat) (b : Nat) : Bool :=
  let x := s.cell k i
  decide (b / 64 % 16 = 8 ∧ x.ts = .active ∧ x.retry.resendQ = [] ∧ x.retry.unacked.length < 64) && (s.slotC3 k i true).isSome

/-- ECHO_TX: the oldest echo is to leave in the barred slot of the next frame, where that slot is open to it; beyond 2,000 ns of TURN it
is not sent and counts in ECHO_LATE (R64, R101). -/
def opEchoTx (k : NodeSel) (i : Nat) (s : State) : State :=
  let x := s.cell k i
  let nf := s.nextFrame k i
  match x.dly.echoes, nf.2 with
  | e :: es, some b =>
    if !x.aligned || !x.sends || (x.announce nf.2).isSome || s.barC3 k i b then s
    else match s.turnOf k i e nf.1 with
      | some n => s.modCell k i (fun c => { c with echoq := [echoTok e.id n] })
      | none => (s.modDly k i (fun d => { d with echoes := es })).bump k (cOff k i 0x138)
  | _, _ => s

/-- A cell in DELAY with its first valid measurement becomes ACTIVE (Table 3.11); its retry state has survived (R73). -/
def State.enterActive (s : State) (k : NodeSel) (i : Nat) : State :=
  s.modCell k i (fun c =>
    if c.ts = .delay then { c with ts := .active, everActive := true, retry := { c.retry with lossAt := none, discarded := false } } else c)

/-- A sample that is not void (R103, R104). -/
def State.takeSample (s : State) (k : NodeSel) (i : Nat) (sigma : Int) : State :=
  let x := s.cell k i
  let r := x.dly.sample (s.dlyShift k x.cfg.dom) (s.effFldD k x.cfg.dom (tOff k 0x112C) 16 0) sigma
  let d := ((r.1.noteFull (s.dlyShift k x.cfg.dom)).judge x.cfg.lclass).noteVoid false
  let s1 := (((s.modDly k i (fun _ => d)).bumpIf r.2.2.1 k (cOff k i 0x14C)).bumpIf r.2.2.2 k (cOff k i 0x150))
  let s2 := if (s.time k).hasHt x.cfg.dom then s1 else s1.takeDelay k i
  if r.2.1 then s2.enterActive k i else s2

/-- DELAY_ECHO_RX (R102, R103): no outstanding match counts in ECHO_UNMATCHED; once channel 0 has done with the frame's request, a void stamp or a
sigma out of range voids the probe, and any other gives a sample. -/
def opDelayEchoRx (k : NodeSel) (i : Nat) (id : Byte) (turn : W32) (s : State) : State :=
  let x := s.cell k i
  if !x.aligned then s
  else match x.dly.outst.find? (fun p => decide (p.id = id)), x.stampFor true with
    | none, _ => (s.dropStamp k i true).bump k (cOff k i 0x144)
    | some _, none => s
    | some p, some t4 =>
      let s1 := (s.dropStamp k i true).modDly k i (fun d => { d with outst := d.outst.filter (fun q => !decide (q.id = id)) })
      match t4 with
      | none => s1.voidProbe k i
      | some t =>
        let sigma := s1.interval k x.cfg.dom p.t1 t - (turn.toNat : Int)
        if sigma ≤ 0 ∨ sigma > ((s.effFldD k x.cfg.dom (tOff k 0x1128) 9 0 * 1000 * 65536 : Nat) : Int) then s1.voidProbe k i
        else s1.takeSample k i sigma

/-- ASYM_SWAP: the value waits for the picot; at a Maryel it is mirrored in the cellar (R109, R337). -/
def opAsymSwap (k : NodeSel) (i : Nat) (v : W32) (s : State) : State :=
  let s1 := match k with | .leaf => s.setReg .leaf (cOff .leaf i 0x40) v | .mary => s.setRwp (cOff .mary i 0x40) v
  s1.modDly k i (fun d => { d with swapPend := true })

/-- The delay side of a picot at a cell of the domain (R105, R109, R113): an ASYM_SWAP takes effect and refreshes the reference, d is
recomputed, RESID is judged, and a filter that a lowered DLY_SHIFT has made full is noted (R112). -/
def State.picotDelay (s : State) (k : NodeSel) (i : Nat) : State :=
  let s1 := if (s.cell k i).dly.swapPend then
      s.modDly k i (fun d => { d with swapPend := false, swapEff := signedOf 32 (s.reg k (cOff k i 0x40)).toNat,
                                      sigmaCal := intBits 48 d.sf })
    else s
  let s2 := if (s1.cell k i).dly.n > 0 then s1.takeDelay k i else s1
  s2.modDly k i (fun d => (d.judge (s.cell k i).cfg.lclass).noteFull (s.dlyShift k (s.cell k i).cfg.dom))

/-- Advisories of a cell at a picot: each clears once its condition has been absent for 64 picots in a row (R115). -/
def Delay.clearAdv (d : Delay) (lclass : BitVec 2) : Delay :=
  let a := if d.n > 0 ∧ d.resid * 1000 > classPs lclass * 65536 then 0 else min 64 (d.absent.1 + 1)
  let b := min 64 (d.absent.2.1 + 1)
  let c := if (d.voids.filter id).length > 16 then 0 else min 64 (d.absent.2.2 + 1)
  let gone := (d.advResid && a == 64) || (d.advJump && b == 64) || (d.advVoid && c == 64)
  { d with absent := (a, b, c), advResid := d.advResid && a != 64, advJump := d.advJump && b != 64, advVoid := d.advVoid && c != 64,
           trendDue := d.trendDue || gone }

/-! ## Trends, telemetry and the flight plan (R112 to R114) -/

/-- ADV_SPAN_LOW of channel 0 at a cell. -/
def State.spanLow (s : State) (k : NodeSel) (i : Nat) : Bool :=
  match k with
  | .leaf => s.leaf.ch0.advLow
  | .mary => (vget s.mary.groups (i / 5) { ch0 := .reset, err := 0, left := 0 }).ch0.advLow

/-- d of a node's UP cell of a domain, 0 where it has none (R112). -/
def State.upDelay (s : State) (k : NodeSel) (d : Dom) : Int := match s.upCell k d with | some u => (s.cell k u).dly.d | none => 0

/-- A cell's DELAY_TREND record (Table 5.5). -/
def State.trendRec (s : State) (k : NodeSel) (i : Nat) : TeleRec :=
  let x := s.cell k i
  { kind := 2, src := s.nodeId k, maryel := decide (k = .mary), data :=
    [packBody [(7, i), (1, domIdx x.cfg.dom), (1, b01 (s.time k).conv), (3, x.cfg.form.toNat), (1, b01 x.dly.advResid),
       (1, b01 x.dly.advJump), (1, b01 x.dly.advVoid), (1, b01 (s.spanLow k i)), (32, 0)],
     BitVec.ofInt 48 x.dly.sf,
     packBody [(32, intBits 32 x.dly.d), (16, min 0xFFFF x.dly.resid)],
     packBody [(40, intBits 40 (s.upDelay k x.cfg.dom)), (8, 0)]] }

/-- DELAY_TREND_SEND: at RC a multiple of 2^34, when the filter first sets full, or when an advisory of the cell changes (R112). -/
def opTrendSend (k : NodeSel) (i : Nat) (s : State) : State :=
  let x := s.cell k i
  if x.cfg.role ≠ 1 ∧ x.cfg.role ≠ 3 then s
  else
    let s1 := if x.dly.trendDue then s
      else s.advTo k (BitVec.ofNat 64 ((max (x.dly.trendAt.toNat + 1) (s.rc k).toNat + 2 ^ 34 - 1) / 2 ^ 34 * 2 ^ 34))
    let r := s1.trendRec k i
    let s2 := (s1.originTel k x.cfg.dom r).modDly k i (fun d => { d with trendDue := false, trendAt := s1.rc k })
    match k with
    | .leaf => s2
    | .mary => s2.engineTrend i true r

/-- A DELAY_TREND record as a node forwards it: PATH grows by the node's latency and its UP cell's d, HOPS by 1 (R112). -/
def State.addPath (s : State) (k : NodeSel) (i : Nat) (r : TeleRec) : TeleRec :=
  let d := (s.cell k i).cfg.dom
  let t := r.data.getD 3 0
  let lat := match s.upCell k d with | some u => s.latOf k u i * 256 | none => 0
  let path := (bitsOf t 47 8 : Int) + lat + s.upDelay k d
  { r with data := r.data.set 3 (packBody [(40, intBits 40 path), (8, bitsOf t 7 0 + 1)]) }

/-- PLAN_SLACK in effect, in 2^-16 ns. -/
def State.planSlack (s : State) (k : NodeSel) : Nat := s.effFld k 0x7F024 13 0 * 65536

/-- FLIGHT_WIDEN: when G exceeds PLAN_SLACK a root raises ADV_FLIGHT and widens guard_add and deadline_add, which never fall here;
`resid` tells of a cell of the tree with ADV_LINK_RESID, whose excess rounds up to 64 ns (R114; log 64). -/
def State.widen (s : State) (k : NodeSel) (resid : Bool) : State :=
  let r := s.root k
  let g := match r.flightPlan with | some p => s.flightMax k - p | none => 0
  let wide := decide (g > s.planSlack k)
  let u := 64 * 65536
  let gg := (if wide then 64 * ((g + u - 1) / u) else 0) + (if resid then 64 else 0)
  let dd := if wide then 64 * ((2 * g + u - 1) / u) else 0
  s.modRoot k (fun r => { r with advFlight := r.advFlight || wide, guardAdd := max r.guardAdd gg, deadlineAdd := max r.deadlineAdd dd })

/-- TELEMETRY_RX: a Maryel files the record; a root takes excision records and the leaves' PATHs, another node forwards it towards the
root (R112, R277, R278, R372, R401). -/
def opTelemetryRx (k : NodeSel) (i : Nat) (r : TeleRec) (s : State) : State :=
  let x := s.cell k i
  if x.ts ≠ .active then s
  else if r.kind.toNat = 0 ∨ r.kind.toNat > 4 then s.bump k (cOff k i 0x108)
  else if x.cfg.role ≠ 2 then s.dropRoute k i
  else
    let s1 := if k = .mary then (s.fileTel r).engineTakes i r else s
    if s.isRoot k then
      if r.kind = 3 then s1.fileExc k { mary := r.maryel, src := r.src, t2 := r.data.getD 0 0, t3 := r.data.getD 1 0, t4 := r.data.getD 2 0 }
      else if r.kind = 2 then
        let t := r.data.getD 3 0
        let s2 := if r.maryel then s1 else s1.modRoot k (fun q =>
          { q with paths := q.paths.filter (fun p => decide ((s.rc k - p.2.2).toNat ≤ 2 ^ 35)) ++ [(r.src, bitsOf t 47 8, s.rc k)] })
        s2.widen k ((r.data.getD 0 0).getLsbD 35)
      else s1
    else s1.passUpC3 k i (teleToks (if r.kind = 2 then s.addPath k i r else r))

/-- PLAN_CMD: FLIGHT_PLAN := FLIGHT_MAX; the widening and ADV_FLIGHT clear (R114). It has a meaning at a root only. -/
def opPlanCmd (k : NodeSel) (s : State) : State :=
  if !s.isRoot k then s
  else s.modRoot k (fun r => { r with flightPlan := some (s.flightMax k), guardAdd := 0, deadlineAdd := 0, advFlight := false })

/-- PROBE_SEND. -/
def execProbeSend (c : CellRef) (s : State) : Host.Outcome State Fault Refusal := .next (s.live c.node (opProbeSend c.node c.idx))
/-- DELAY_PROBE_RX. -/
def execDelayProbeRx (c : CellRef) (id : Byte) (_rsv : BitVec 40) (s : State) : Host.Outcome State Fault Refusal :=
  .next (s.live c.node (opDelayProbeRx c.node c.idx id))
/-- ECHO_TX. -/
def execEchoTx (c : CellRef) (s : State) : Host.Outcome State Fault Refusal := .next (s.live c.node (opEchoTx c.node c.idx))
/-- DELAY_ECHO_RX. -/
def execDelayEchoRx (c : CellRef) (id : Byte) (turn : W32) (_rsv : Byte) (s : State) : Host.Outcome State Fault Refusal :=
  .next (s.liveC c.node (opDelayEchoRx c.node c.idx id turn))
/-- PROBE_TMO_EXPIRY. -/
def execProbeTmoExpiry (c : CellRef) (id : Byte) (s : State) : Host.Outcome State Fault Refusal :=
  .next (s.live c.node (opProbeTmo c.node c.idx id))
/-- ASYM_SWAP. -/
def execAsymSwap (c : CellRef) (src : Src) (v : W32) (s : State) : Host.Outcome State Fault Refusal :=
  .next (s.access c.node src (cOff c.node c.idx 0x40) (opAsymSwap c.node c.idx v))
/-- DELAY_TREND_SEND. -/
def execDelayTrendSend (c : CellRef) (s : State) : Host.Outcome State Fault Refusal := .next (s.live c.node (opTrendSend c.node c.idx))
/-- TELEMETRY_RX. -/
def execTelemetryRx (c : CellRef) (r : TeleRec) (s : State) : Host.Outcome State Fault Refusal :=
  .next (s.live c.node (opTelemetryRx c.node c.idx r))
/-- PLAN_CMD. -/
def execPlanCmd (n : NodeSel) (src : Src) (s : State) : Host.Outcome State Fault Refusal := .next (s.access n src 0x7F020 (opPlanCmd n))

end Sys2Proof.Machine
end

