-- ==== Sys2Proof/Machine/Interp.lean ====
section
/-! DEFINITION. The interpolators (chapter 04): density tables, calibration pairs, the conversion of codes, channel 0 shots and the
picot measurements they complete, event stamps and intervals on channel 1, the statistics engine and the frequency counter. -/

namespace Sys2Proof.Machine

/-! ## Channels -/

/-- The channel 0 that serves a cell: channel 0 of the leaf, or that of the cell's group (R78). -/
def chanOf (k : NodeSel) (i : Nat) : Nat :=
  match k with
  | .leaf => 0
  | .mary => i / 5

/-- Channel `j` of the leaf; at a Maryel channel 0 of group `j`, and from 20 on the reference channels (R78, R308). -/
def State.chan (s : State) (k : NodeSel) (j : Nat) : Chan :=
  match k with
  | .leaf => if j = 0 then s.leaf.ch0 else s.leaf.ch1
  | .mary => if j < 20 then (vget s.mary.groups j { ch0 := .reset, err := 0, left := 0 }).ch0 else vget s.mary.refCh (j - 20) .reset

/-- Change a channel. -/
def State.modChan (s : State) (k : NodeSel) (j : Nat) (f : Chan → Chan) : State :=
  match k with
  | .leaf => s.modLeaf (fun l => if j = 0 then { l with ch0 := f l.ch0 } else { l with ch1 := f l.ch1 })
  | .mary => if j < 20 then s.modGroup j (fun g => { g with ch0 := f g.ch0 })
             else s.modMary (fun m => { m with refCh := vmod m.refCh (j - 20) f })

/-- The register of DENSITY_N and PAIR_DEPTH of a channel (Tables 17.6, 18.3); a reference channel has none. -/
def chanReg (k : NodeSel) (j : Nat) : Nat :=
  match k with
  | .leaf => 0x8300
  | .mary => 0x64100 + 0x1000 * j

/-- The register of CAL_SKEW_OVR of a channel. -/
def skewReg (k : NodeSel) (j : Nat) : Nat :=
  match k with
  | .leaf => 0x8304 + 4 * j
  | .mary => 0x64104 + 0x1000 * j

/-- Is channel `j` a reference channel? No register of Chapter 18 sets one up, so the defaults of Table 4.4 stand (log 55). -/
def isRefCh (k : NodeSel) (j : Nat) : Bool := decide (k = .mary ∧ 20 ≤ j)

/-- PAIR_DEPTH of a channel, as a number of pairs (Table 4.4). -/
def State.pairDepth (s : State) (k : NodeSel) (j : Nat) : Nat := if isRefCh k j then 16 else 2 ^ s.effFld k (chanReg k j) 18 16

/-- DENSITY_N of a channel, as a number of hits (Table 4.4). -/
def State.densityN (s : State) (k : NodeSel) (j : Nat) : Nat := if isRefCh k j then 2 ^ 20 else 2 ^ s.effFld k (chanReg k j) 12 8

/-- CAL_SKEW of a channel: fused, or the override in effect (R82, Table 4.4). -/
def State.calSkew (s : State) (k : NodeSel) (j : Nat) : Int :=
  if isRefCh k j then Config.calSkew k j
  else
  let r := s.effReg k (skewReg k j)
  if r.getLsbD 31 then signedOf 18 r.toNat else Config.calSkew k j

/-- P[c] of the table in use (R81). -/
def State.tapPos (s : State) (k : NodeSel) (j c : Nat) : Nat :=
  match (s.chan k j).table with
  | some t => t.getD c 0
  | none => Config.fusedTap k j c

/-- k16: K of the read path in units of 2^-16 ns per cycle (R81). -/
def State.k16 (s : State) (k : NodeSel) : Nat := (s.time k).read.rate.toNat / 2 ^ 24

/-- The channel is on the fused table: its results carry UNCAL (R81). -/
def State.uncal (s : State) (k : NodeSel) (j : Nat) : Bool := (s.chan k j).table.isNone

/-- INTP_GAIN: the mean of P[c2] - P[c1] over the 16 latest pairs, rounded down (R82, log 111). -/
def Chan.gain (c : Chan) : Int :=
  let ps := c.pairs.take 16
  if ps = [] then 0 else (ps.foldl (fun (a : Int) p => a + (p.2.2 : Int) - (p.2.1 : Int)) 0) / (ps.length : Int)

/-- The measured span of Table 5.4, 256 x INTP_GAIN / 16, lies below a figure in units of 10 ps (log 65). -/
def Chan.spanBelow (c : Chan) (ps10 : Nat) : Bool := c.pairs != [] && decide (256 * c.gain / 16 * 100 < ((ps10 * 65536 : Nat) : Int))

/-- The advisories of a channel after a pair (R115). -/
def Chan.judge (c : Chan) : Chan :=
  let lo := c.spanBelow 210
  let fl := c.spanBelow 202
  { c with advLow := c.advLow || lo, advFail := c.advFail || fl,
           absent := (if lo then 0 else c.absent.1, if fl then 0 else c.absent.2) }

/-- The advisories of a channel at a picot: each clears once its condition has been absent for 64 of them (R115). -/
def Chan.clearAdv (c : Chan) : Chan :=
  let a := if c.spanBelow 210 then 0 else min 64 (c.absent.1 + 1)
  let b := if c.spanBelow 202 then 0 else min 64 (c.absent.2 + 1)
  { c with absent := (a, b), advLow := c.advLow && a != 64, advFail := c.advFail && b != 64 }

/-- The cells that a channel 0 serves; channel 1 and a reference channel serve none. -/
def chanCells (k : NodeSel) (j : Nat) : List Nat :=
  match k with
  | .leaf => if j = 0 then List.range 6 else []
  | .mary => if j < 20 then groupCells j else []

/-- Change a channel where that may change ADV_SPAN_LOW or ADV_SPAN_FAIL: a DELAY_TREND is due at the UP and CROSS cells it serves (R112). -/
def State.modChanAdv (s : State) (k : NodeSel) (j : Nat) (f : Chan → Chan) : State :=
  let s1 := s.modChan k j f
  if (s.chan k j).advLow == (s1.chan k j).advLow && (s.chan k j).advFail == (s1.chan k j).advFail then s1
  else s1.each (chanCells k j) (fun s i => s.modDly k i (fun d => { d with trendDue := true }))

/-- A calibration pair launched at edge `e` is taken (R80). -/
def State.takePair (s : State) (k : NodeSel) (j : Nat) (e : W64) (c1 c2 : Byte) : State :=
  let p := (e, s.tapPos k j c1.toNat, s.tapPos k j c2.toNat)
  s.modChanAdv k j (fun c => Chan.judge { c with pairs := (p :: c.pairs).take 17 })

/-- The pairs that count for a capture at edge `e`: the latest whose edge k + 2 lies before it, PAIR_DEPTH of them (R82). -/
def State.pairsAt (s : State) (k : NodeSel) (j : Nat) (e : W64) : List (W64 × Nat × Nat) :=
  ((s.chan k j).pairs.filter (fun p => decide ((e - p.1).toInt > 2))).take (s.pairDepth k j)

/-- f of R82 for a code captured at edge `e`, where the spec states it: PAIR_DEPTH pairs, and their sums differ. -/
def State.convertKnown (s : State) (k : NodeSel) (j : Nat) (e : W64) (c : Byte) : Option Int :=
  let d := s.pairDepth k j
  let ps := s.pairsAt k j e
  let a1 : Int := ((ps.map (fun p => p.2.1)).sum : Nat)
  let a2 : Int := ((ps.map (fun p => p.2.2)).sum : Nat)
  if ps.length < d ∨ a2 = a1 then none
  else
    let n : Int := (s.k16 k : Int) * ((d * s.tapPos k j c.toNat : Nat) - a1)
    some ((s.k16 k : Int) + (if a2 > a1 then n / (a2 - a1) else (-n) / (a1 - a2)) + s.calSkew k j)

/-- f of R82; a free value where fewer pairs than PAIR_DEPTH have been taken, or their sums agree (log 66). -/
def State.convert (s : State) (k : NodeSel) (j : Nat) (e : W64) (c : Byte) : Int × State :=
  match s.convertKnown k j e c with
  | some f => (f, s)
  | none => (((Config.freeBits 18 s.takeFree.1).toNat : Int), s.takeFree.2)

/-! ## Density tables (R81) -/

/-- The table built from a histogram. -/
def buildTable (k16 : Nat) (h : Sparse Nat) (all : Nat) : List Nat :=
  ((List.range 256).foldl (fun (r : Nat × List Nat) c =>
    let n := (sget h c).getD 0
    (r.1 + n, (k16 * (2 * r.1 + n) / all) :: r.2)) (0, [])).2.reverse

/-- A density hit; after DENSITY_N of them the channel computes its table, which waits for the picot (R81). -/
def State.densityHit (s : State) (k : NodeSel) (j : Nat) (d : DensityCode) : State :=
  let s1 := s.modChan k j (fun c =>
    match d with
    | .tap t => { c with hist := sput c.hist t.toNat ((sget c.hist t.toNat).getD 0 + 1) }
    | .empty => { c with hEmpty := c.hEmpty + 1 }
    | .full => { c with hFull := c.hFull + 1 })
  let c := s1.chan k j
  let all := (c.hist.map Prod.snd).sum + c.hEmpty + c.hFull
  if c.built.isNone && decide (all ≥ s.densityN k j) then
    s1.modChan k j (fun c => { c with built := some (buildTable (s.k16 k) c.hist all) })
  else s1

/-- DENSITY_TABLE_INSTALL at a picot: the table built takes effect, and the histogram starts again (R81). -/
def Chan.install (c : Chan) : Chan :=
  match c.built with
  | some t => { c with table := some t, built := none, hist := [], hEmpty := 0, hFull := 0 }
  | none => c

/-! ## The statistics engine (R91, R92) -/

/-- n / d rounded to the nearest integer, halves to even. -/
def roundHalfEven (n : Int) (d : Nat) : Int :=
  let q := n / (d : Int)
  let r := 2 * (n % (d : Int))
  if r < d then q else if r > d then q + 1 else if q % 2 = 0 then q else q + 1

/-- The end of a run: mean and deviation over the valid results taken (R92). -/
def StatSt.finish (t : StatSt) : StatSt :=
  if t.n = 0 then { t with run := false, done := true, mean := 0, sdev := 0, min := 0, max := 0 }
  else
    let v : Nat := if t.n = 1 then 0 else (((t.n * t.sq : Nat) : Int) - t.sum * t.sum).toNat / (t.n * (t.n - 1))
    { t with run := false, done := true, mean := t.x1 + roundHalfEven t.sum t.n, sdev := isqrt 64 v }

/-- A valid result (R92). -/
def StatSt.take (t : StatSt) (lim : Nat) (x : Int) : StatSt :=
  let x1 := if t.n = 0 then x else t.x1
  let d := x - x1
  let u := { t with x1 := x1, n := t.n + 1, sum := t.sum + d, sq := t.sq + d.natAbs * d.natAbs,
                    min := if t.n = 0 ∨ x < t.min then x else t.min, max := if t.n = 0 ∨ x > t.max then x else t.max }
  if u.n ≥ lim then u.finish else u

/-- STAT_N. -/
def State.statN (s : State) : Nat := s.fld .leaf 0x8104 24 0

/-- A result of a source of the statistics engine: invalid ones only count (R91). -/
def State.statResult (s : State) (src : Nat) (x : Int) (tmo coarse uncal : Bool) : State :=
  if !s.leaf.stat.run || decide (s.fld .leaf 0x8100 2 0 ≠ src) then s
  else if tmo || coarse || uncal then ((s.bumpIf tmo .leaf 0x8134).bumpIf coarse .leaf 0x8138).bumpIf uncal .leaf 0x813C
  else s.modLeaf (fun l => { l with stat := l.stat.take s.statN x })

/-- STAT_GO: a run starts, or starts again with all sums cleared (R91). -/
def opStatGo (s : State) : State := s.modLeaf (fun l => { l with stat := { StatSt.reset with run := true, done := l.stat.done } })

/-- STAT_STOP: a run in progress ends over the results it has taken (R91). -/
def opStatStop (s : State) : State := s.modLeaf (fun l => if l.stat.run then { l with stat := l.stat.finish } else l)

/-! ## Channel 0 shots (R83, R84) -/

/-- Requests that channel 0 has left for 64 cycles are void (R84). -/
def phVoidOff (k : NodeSel) (i : Nat) : Nat :=
  match k with
  | .leaf => 0x8210
  | .mary => 0x6401C + 0x1000 * (i / 5)

/-- Is a request older than 64 cycles? -/
def StampReq.late (r : StampReq) (rc : W64) : Bool := decide ((rc - r.rc).toNat > 64)

/-- PH: the marker edge after the TCLK edge at or before it, from f (R83). -/
def phaseOf (k16 : Nat) (f : Int) : Int := ((-f) % (k16 : Int))

/-- An accepted picot measurement (R29, R324, R325): e = HT at the stamp, by the set in effect at its edge, less the picot's HT and the
link's delay `d` as it stood at the picot. -/
def State.picotMeasured (s : State) (k : NodeSel) (i : Nat) (rc : W64) (pos : Nat) (p : Nat) (d : Int) : State :=
  let x := s.cell k i
  let e : Int := ((s.time k).dom x.cfg.dom).htAt rc + (pos * 2 ^ 24 : Nat) - ((p * nsTu : Nat) : Int) - d * 2 ^ 24
  if x.cfg.role = 1 then s.measured k x.cfg.dom e
  else if x.cfg.role = 3 ∧ k = .mary ∧ s.isRoot .mary ∧ s.rootHasHt then s.crossMeasured e
  else s

/-- The stamp of a request: PH and the in-word position counted on from the RC of the registering edge, carried into whole cycles (R83,
log 111). -/
def State.stampOf (s : State) (k : NodeSel) (ph : Int) (r : StampReq) : Stamp :=
  let n := ph.toNat + r.pos
  { rc := r.rc + BitVec.ofNat 64 (n / s.k16 k), pos := n % s.k16 k }

/-- A probe or echo keeps its stamp, or the fact that it is void, until its message is handled (R83, R84). -/
def State.keepStamp (s : State) (k : NodeSel) (i : Nat) (tok : Option Bool) (t : Option Stamp) : State :=
  match tok with
  | none => s
  | some b => s.modCell k i (fun c => { c with stamps := c.stamps ++ [(b, t)] })

/-- A request is served: its stamp goes to the probe or echo, and to the picot measurement (R83). -/
def State.serveReq (s : State) (k : NodeSel) (i : Nat) (ph : Int) (r : StampReq) : State :=
  let t := s.stampOf k ph r
  let s1 := s.keepStamp k i r.tok (some t)
  match r.p with
  | none => s1
  | some p => s1.picotMeasured k i t.rc t.pos p r.d

/-- Requests of a port that 64 cycles have left unserved are void: no stamp, and counted in PH_VOID (R84). -/
def State.voidLate (s : State) (k : NodeSel) (i : Nat) : State :=
  let late := (s.cell k i).stampReq.filter (fun r => r.late (s.rc k))
  let s1 := (s.modCell k i (fun c => { c with stampReq := c.stampReq.filter (fun r => !r.late (s.rc k)) })).bumpBy k (phVoidOff k i) late.length
  s1.each late (fun s r => s.keepStamp k i r.tok none)

/-- Does the channel serve another cell's request before those of cell `i`: one registered at an earlier edge, or at the same edge in a lower cell
(R83)? -/
def State.otherFirst (s : State) (k : NodeSel) (i : Nat) : Bool :=
  let age (r : StampReq) : Nat := (s.rc k - r.rc).toNat
  match (s.cell k i).stampReq with
  | [] => false
  | r :: _ => (chanCells k (chanOf k i)).any (fun m =>
      m != i && (s.cell k m).stampReq.any (fun q => !q.late (s.rc k) && (decide (age r < age q) || (decide (age q = age r) && decide (m < i)))))

/-- The self-check of a group's channel 0: P[c2] - P[c1] outside 1.8 ns to 2.2 ns on 4 shots in a row (Table 12.1). -/
def State.ch0Check (s : State) (g : Nat) (c1 c2 : Byte) : State :=
  let d : Int := (s.tapPos .mary g c2.toNat : Int) - s.tapPos .mary g c1.toNat
  let bad := decide (10 * d < 18 * 65536 ∨ 10 * d > 22 * 65536)
  let n := if bad then (s.chan .mary g).badShots + 1 else 0
  let s1 := s.modChan .mary g (fun c => { c with badShots := if n ≥ 4 then 0 else n })
  if n ≥ 4 then opGroupFault g .ch0Check s1 else s1

/-- CHANNEL0_SHOT: a pair launched at the first edge that is free, then the port phase, captured at edge k + 4; one shot serves every
pending request of the port, and the next may launch at k + 5 (R80, R83). A port whose requests are not the channel's next has no shot. The
interpolator clock gated off stops the channel (R133). -/
def opShot (k : NodeSel) (i : Nat) (c1 c2 code : Byte) (s : State) : State :=
  if !(s.cell k i).aligned || (decide (k = .leaf) && s.leaf.gate.off.getLsbD 21) || s.otherFirst k i then s
  else
    let j := chanOf k i
    let s0 := s.advTo k (s.chan k j).busyTo
    let e := s0.rc k
    let s1 := ((s0.takePair k j e c1 c2).modChan k j (fun c => { c with busyTo := e + 5 })).voidLate k i
    let r := s1.convert k j (e + 4) code
    let ph := phaseOf (s1.k16 k) r.1
    let s2 := (r.2.modCell k i (fun c => { c with phase := some ph, stampReq := [] })).each (s1.cell k i).stampReq (fun s q => s.serveReq k i ph q)
    match k with
    | .leaf => s2.statResult (1 + i) ph false false (s1.uncal .leaf 0)
    | .mary => s2.ch0Check j c1 c2

/-- PH_VOID: the requests of a port that 64 cycles have left unserved are void and counted (R84). -/
def opPhVoid (k : NodeSel) (i : Nat) (s : State) : State :=
  match (s.cell k i).stampReq with
  | [] => s
  | r :: _ => (s.advAfter k r.rc 65).voidLate k i

/-! ## Channel 1: slots, event stamps and intervals (R43, R85 to R89) -/

/-- CAL1_PERIOD in effect (Table 4.4). -/
def State.cal1Period (s : State) : Nat := 128 * 2 ^ s.effFld .leaf 0x8300 1 0
/-- DENSITY1_EN in effect. -/
def State.density1En (s : State) : Bool := (s.effReg .leaf 0x8300).getLsbD 4
/-- Channel 1 or the interpolator clock is gated off (R133). -/
def State.ch1Off (s : State) : Bool := s.leaf.gate.off.getLsbD 21 || s.leaf.gate.off.getLsbD 22

/-- The first edge at or after `rc` with RC = r mod n. -/
def nextSlot (rc : W64) (n r : Nat) : W64 := rc + BitVec.ofNat 64 ((r + n - rc.toNat % n) % n)

/-- The node and number of a channel with fixed slots. -/
def slotAt : SlotChan → NodeSel × Nat
  | .leaf => (.leaf, 1)
  | .ref i => (.mary, 20 + i.val)

/-- The slot period of a channel: CAL1_PERIOD, whose default a reference channel keeps (R85, log 55). -/
def State.slotPeriod (s : State) (ch : SlotChan) : Nat := match ch with | .leaf => s.cal1Period | .ref _ => 512

/-- Is the channel stopped: channel 1 gated off, or a reference channel of a Maryel that is no root (R133, R306)? -/
def State.slotOff (s : State) (ch : SlotChan) : Bool := match ch with | .leaf => s.ch1Off | .ref _ => !s.isRoot .mary

/-- Does the channel keep density slots? -/
def State.slotDensity (s : State) (ch : SlotChan) : Bool := match ch with | .leaf => s.density1En | .ref _ => true

/-- The edge of the next slot that has not been used: the first at or after the present edge, or the one after it (R85). -/
def slotEdge (rc : W64) (used : Option W64) (p r : Nat) : W64 :=
  let e := nextSlot rc p r
  if used = some e then nextSlot (e + 1) p r else e

/-- CAL1_PAIR_SLOT: a pair at RC = 0 mod CAL1_PERIOD, one in each slot (R85, R308). -/
def opCal1Pair (ch : SlotChan) (c1 c2 : Byte) (s : State) : State :=
  let x := slotAt ch
  if s.slotOff ch then s
  else
    let e := slotEdge (s.rc x.1) (s.chan x.1 x.2).pairAt (s.slotPeriod ch) 0
    ((s.advTo x.1 e).takePair x.1 x.2 e c1 c2).modChan x.1 x.2 (fun c => { c with pairAt := some e })

/-- CAL1_DENSITY_SLOT: a hit at RC = CAL1_PERIOD / 2 mod CAL1_PERIOD while DENSITY1_EN is 1, one in each slot (R85, R308). -/
def opCal1Density (ch : SlotChan) (d : DensityCode) (s : State) : State :=
  let x := slotAt ch
  if s.slotOff ch || !s.slotDensity ch then s
  else
    let e := slotEdge (s.rc x.1) (s.chan x.1 x.2).hitAt (s.slotPeriod ch) (s.slotPeriod ch / 2)
    ((s.advTo x.1 e).modChan x.1 x.2 (fun c => { c with hitAt := some e })).densityHit x.1 x.2 d

/-- Is an edge a blocked capture edge? R85 blocks the opening edge + 1 to + 4 of a slot, where R80 makes the edges k to k + 3
unavailable; the model follows R85 (log 111). -/
def slotBlocked (rc : W64) (p : Nat) (density : Bool) : Bool :=
  let r := rc.toNat % p
  decide (1 ≤ r ∧ r ≤ 4) || (density && decide (p / 2 + 1 ≤ r ∧ r ≤ p / 2 + 4))

/-- Is the leaf's present edge a blocked capture edge of channel 1 (R85)? -/
def State.blocked1 (s : State) : Bool := slotBlocked (s.rc .leaf) s.cal1Period s.density1En

/-- An HT in 2^-16 ns as a register value; seconds wrap (R23). -/
def htOf16 (u : Int) : Ht96 := htOf ((u % ((2 ^ 48 * 1000000000 * 65536 : Nat) : Int)).toNat * 2 ^ 24)

/-- A record enters a FIFO of 16, or counts as lost; EVT is raised by one that enters an empty FIFO (R43, Table 17.2). -/
def State.pushEvt (s : State) (i : Nat) (r : EvtRec) : State :=
  let q := if i = 0 then s.leaf.evt.fifo0 else s.leaf.evt.fifo1
  if q.length ≥ 16 then s.bump .leaf (0x8214 + 4 * i)
  else
    let s1 := s.modLeaf (fun l => { l with evt := if i = 0 then { l.evt with fifo0 := q ++ [r] } else { l.evt with fifo1 := q ++ [r] } })
    if q = [] then s1.raiseIrq .leaf 2 else s1

/-- An interval result: its FIFO, and the statistics engine, which takes one that the FIFO has lost too (R87, R89, R91, log 111). -/
def State.pushIntv (s : State) (r : IntvRec) : State :=
  let q := s.leaf.evt.intv
  let s1 := if q.length ≥ 16 then s.bump .leaf 0x8208
    else
      let s1 := s.modLeaf (fun l => { l with evt := { l.evt with intv := q ++ [r] } })
      if q = [] then s1.raiseIrq .leaf 2 else s1
  s1.statResult 0 r.val.toNat r.timeout r.coarse r.uncal

/-- The open interval ends with TIMEOUT (R87, R89). -/
def State.intvTimeout (s : State) : State :=
  match s.leaf.evt.open_ with
  | none => s
  | some (_, co, un, _) =>
    let t := s.time .leaf
    (s.modLeaf (fun l => { l with evt := { l.evt with open_ := none } })).pushIntv
      { val := 0xFFFFFFFFFFFFFF#56, coarse := co, uncal := un, folding := t.fold.isSome, timeout := true, active := t.active }

/-- TMO_LIMIT in effect. -/
def State.tmoLimit (s : State) : Nat := s.effFld .leaf 0x8008 31 0

/-- INTV_TIMEOUT: no stop within TMO_LIMIT cycles of the start's capture edge (R87). -/
def opIntvTimeout (s : State) : State :=
  match s.leaf.evt.open_ with
  | none => s
  | some (_, _, _, rc) => (s.advAfter .leaf rc s.tmoLimit).intvTimeout

/-- Open an interval at the present edge. -/
def State.openIntv (s : State) (st : Int) (co un : Bool) : State :=
  s.modLeaf (fun l => { l with evt := { l.evt with open_ := some (st, co, un, s.rc .leaf) } })

/-- Close the open interval at the present edge; FOLDING tells of a fold at that edge (R89, log 111). -/
def State.closeIntv (s : State) (st : Int) (co un : Bool) : State :=
  match s.leaf.evt.open_ with
  | none => s
  | some (st0, co0, un0, _) =>
    let t := s.time .leaf
    (s.modLeaf (fun l => { l with evt := { l.evt with open_ := none } })).pushIntv
      { val := BitVec.ofInt 56 (st - st0), coarse := co || co0, uncal := un || un0, folding := t.fold.isSome, timeout := false,
        active := t.active }

/-- What an accepted edge does to intervals (R87): `sel` is its source code. -/
def State.intvEdge (s : State) (sel : Nat) (st : Int) (co un : Bool) : State :=
  let start := decide (s.effFld .leaf 0x8004 9 8 = sel)
  let stop := decide (s.effFld .leaf 0x8004 13 12 = sel)
  let md := s.effFld .leaf 0x8000 1 0
  match md, s.leaf.evt.open_ with
  | 1, none => if start then s.openIntv st co un else s
  | 1, some (_, _, _, rc) =>
    if stop && decide (rc ≠ s.rc .leaf) then s.closeIntv st co un else if start then s.bump .leaf 0x8204 else s
  | 2, _ => if start then (s.closeIntv st co un).openIntv st co un else s
  | _, _ => s

/-- EVENT_EDGE at the present capture edge: an accepted edge is interpolated, or stamped COARSE at TCLK resolution, and enters its FIFO
(R43, R82, R86); T of the COARSE stamp is k16 and its half is rounded down (log 111). -/
def opEventEdge (i : Nat) (rise : Bool) (code : Byte) (s : State) : State :=
  let e := s.fld .leaf 0x8004 (4 * i + 1) (4 * i)
  if s.ch1Off || !(if rise then decide (e = 1 ∨ e = 3) else decide (e = 2 ∨ e = 3)) then s
  else
    let rc := s.rc .leaf
    let s0 := match s.leaf.evt.open_ with
      | some (_, _, _, r0) => if (rc - r0).toNat > s.tmoLimit then s.intvTimeout else s
      | none => s
    let close := match s.leaf.evt.last with | some r => decide (rc - r = 1 ∨ rc - r = 2) | none => false
    let coarse := s.blocked1 || close || decide (s.leaf.evt.lastAny = some rc)
    let r := if coarse then (((s.k16 .leaf / 2 : Nat) : Int), s0) else s0.convert .leaf 1 rc code
    let u : Int := (tu16 (s.ht .leaf) : Int) - r.1
    let t := s.time .leaf
    let un := s.uncal .leaf 1
    let fd := match t.fold with | some f => f.dom | none => Dom.a
    let er : EvtRec :=
      { ht := htOf16 u, coarse := coarse, uncal := un, folding := t.fold.isSome, foldDom := fd, active := t.active, noht := t.noht,
        rise := rise }
    let s1 := (r.2.bumpIf coarse .leaf 0x8200).modLeaf (fun l =>
      { l with evt := { l.evt with last := if coarse then l.evt.last else some rc, lastAny := some rc } })
    (s1.pushEvt i er).intvEdge (2 * i + b01 (!rise)) u coarse un

/-- The picot's part of R88: a write that waited takes effect, and an open interval is discarded and counted in INTV_ABORT. -/
def State.intvPicot (s : State) : State :=
  if !s.leaf.evt.modeWr then s
  else (s.bumpIf s.leaf.evt.open_.isSome .leaf 0x820C).modLeaf (fun l => { l with evt := { l.evt with modeWr := false, open_ := none } })

/-! ## The frequency counter (R93 to R96) -/

/-- The next gate boundary: the next edge with RC = 0 mod 2^10 (R93). -/
def gateBoundary (rc : W64) : W64 := BitVec.ofNat 64 ((rc.toNat / 1024 + 1) * 1024)

/-- Selection, mode and G as written take effect (R96). -/
def State.fcSettings (s : State) (f : FreqSt) : FreqSt :=
  { f with sel := s.fld .leaf 0x9000 4 0, mode := s.fld .leaf 0x9000 9 8, g := s.fld .leaf 0x9000 20 16, change := false }

/-- After a write accepted in one of FC_SEL, FC_MODE or FC_G: it takes effect at the next gate boundary, and a gate in progress is discarded; one that
FC_GO has asked for and that has not begun still runs (R96, R376). -/
def State.fcWritten (s : State) : State :=
  s.modLeaf (fun l =>
    let f := l.freq
    if f.busy ∧ f.start.toNat ≤ (s.rc .leaf).toNat then { l with freq := { f with change := true } }
    else
      let f1 := s.fcSettings f
      { l with freq := { f1 with busy := (f.busy && decide (f.mode = 0)) || decide (f1.mode ≠ 0), sweep := if f1.mode = f.mode then f.sweep else 0,
                                 start := if f.busy then f.start else gateBoundary (s.rc .leaf) } })

/-- FC_GO in mode SINGLE: one gate at the next gate boundary (R376). -/
def opFcGo (s : State) : State :=
  s.modLeaf (fun l =>
    let f := l.freq
    if f.mode ≠ 0 then l
    else if f.busy then { l with freq := { f with go := true } }
    else { l with freq := { f with busy := true, start := gateBoundary (s.rc .leaf) } })

/-- FC_MIN_RST: the minima named become all ones (R376). -/
def opFcMinRst (m : W16) (s : State) : State :=
  s.modLeaf (fun l =>
    { l with freq := { l.freq with
        regMin := (bitsSet m).foldl (fun v i => vmod v i (fun _ => 0xFFFFFFFFFF#40)) l.freq.regMin } })

/-- The result of a gate of the user slot (R94, R96). -/
def FreqSt.result (f : FreqSt) (count0 : BitVec 40) : FreqSt × Nat :=
  let count := if f.mode ≠ 2 ∧ f.sel = 0 then BitVec.ofNat 40 (2 ^ f.g) else count0
  let ratio := count.toNat * 2 ^ (32 - f.g) % 2 ^ 40
  let f1 := { f with noclk := decide (count = 0) }
  if f.mode = 2 then
    ({ f1 with regRatio := vmod f.regRatio f.sweep (fun _ => BitVec.ofNat 40 ratio),
               regMin := vmod f.regMin f.sweep (fun m => if ratio < m.toNat then BitVec.ofNat 40 ratio else m),
               sweep := (f.sweep + 1) % 16 }, ratio)
  else ({ f1 with count := count, ratio := BitVec.ofNat 40 ratio, done := f.done || decide (f.mode = 0) }, ratio)

/-- FC_GATE_END: the gate of the user slot ends at its boundary; a changed selection discards it (R93, R96). -/
def opFcGateEnd (count : BitVec 40) (s : State) : State :=
  let f := s.leaf.freq
  if !f.busy || s.leaf.gate.off.getLsbD 23 then s
  else
    let stop := f.start + BitVec.ofNat 64 (2 ^ f.g)
    let s1 := s.advTo .leaf stop
    if f.change then
      s1.modLeaf (fun l =>
        let f1 := s1.fcSettings l.freq
        { l with freq := { f1 with busy := f.go || decide (f1.mode ≠ 0), go := false, start := stop, sweep := 0 } })
    else
      let r := f.result count
      (s1.modLeaf (fun l => { l with freq := { r.1 with busy := f.go || decide (f.mode ≠ 0), go := false, start := stop } })).statResult 7 r.2
        false false false

/-- HOLD_SUM (R95). -/
def FreqSt.holdSum (f : FreqSt) : Nat := (f.gates.map BitVec.toNat).sum

/-- The end of the holdover slot's gate in progress: the gates of 2^24 cycles follow each other from the first boundary of R93 after the slot began to
run (R95). -/
def TimeCore.holdStop (t : TimeCore) : W64 :=
  let first := (t.onSince.toNat + 1023) / 1024 * 1024
  BitVec.ofNat 64 (first + ((t.rc.toNat - first) / 2 ^ 24 + 1) * 2 ^ 24)

/-- A gate that ends now is valid: TCLK came from one UP port for the whole of it (R95). -/
def TimeCore.holdValid (t : TimeCore) : Bool :=
  (match t.pll with | .up _ => true | .refclk => false) && !t.frozen && decide (t.pllAt.toNat ≤ t.rc.toNat - 2 ^ 24)

/-- hold_ratio once 8 gates are valid (R95). -/
def holdRatioOf (gates : List (BitVec 40)) (old : Option (BitVec 40)) : Option (BitVec 40) :=
  let n := (gates.map BitVec.toNat).sum
  if gates.length = 8 ∧ n ≠ 0 then some (BitVec.ofNat 40 (2 ^ 59 / n)) else old

/-- A valid gate of the leaf's holdover slot: HOLD_SUM and the ratio; every 1,024th sends HOLD_TREND (R95). -/
def State.leafHoldGate (s : State) (count : BitVec 40) : State :=
  let s3 := s.modLeaf (fun l =>
    let g := (count :: l.freq.gates).take 8
    { l with freq := { l.freq with gates := g, valid := l.freq.valid + 1, ratioHold := holdRatioOf g l.freq.ratioHold } })
  if s3.leaf.freq.valid % 1024 = 0 then
    s3.originTel .leaf (s.time .leaf).active { kind := 1, src := s.nodeId .leaf, maryel := false, data :=
      [packBody [(40, s3.leaf.freq.holdSum), (8, 0)], packBody [(32, intBits 32 s3.leaf.ch0.gain), (16, 0)],
       packBody [(32, intBits 32 s3.leaf.ch1.gain), (16, 0)]] }
  else s3

/-- A valid gate of a Maryel below a root, whose slot counts OCXO_IN (R95, R306). -/
def State.maryHoldGate (s : State) (count : BitVec 40) : State :=
  s.modMary (fun m =>
    let g := (count :: m.hold.gates).take 8
    { m with hold := { gates := g, ratio := holdRatioOf g m.hold.ratio } })

/-- HOLD_GATE_END: a gate of the holdover slot ends; a valid one enters the sum and installs the ratio (R95, R306). The slot runs while either
domain is not OFF, in a leaf with the counter's clock on and in a Maryel that is no root. -/
def opHoldGateEnd (k : NodeSel) (count : BitVec 40) (s : State) : State :=
  let t0 := s.time k
  let stopped : Bool := match k with | .leaf => s.leaf.gate.off.getLsbD 23 | .mary => s.isRoot .mary
  if (t0.domA.st = .off ∧ t0.domB.st = .off) ∨ stopped = true then s
  else
    let s1 := s.advTo k t0.holdStop
    match k with
    | .leaf =>
      let s2 := s1.modLeaf (fun l => { l with freq := { l.freq with holdNoclk := decide (count = 0) } })
      if (s2.time .leaf).holdValid then s2.leafHoldGate count else s2
    | .mary => if (s1.time .mary).holdValid then s1.maryHoldGate count else s1

/-- The ratio of R38 at a Maryel below a root: measured, or the nominal 500 MHz / 10 MHz (R95, R306). -/
def State.maryHoldRatio (s : State) : Nat :=
  match s.mary.hold.ratio with
  | some r => r.toNat
  | none => 50 * 2 ^ 32

/-- A density hit of a channel 0, opened at the first edge that is free; it takes 4 idle cycles (R81). -/
def State.hit0 (s : State) (k : NodeSel) (j : Nat) (d : DensityCode) : State :=
  let s0 := s.advTo k (s.chan k j).busyTo
  (s0.modChan k j (fun c => { c with busyTo := s0.rc k + 4 })).densityHit k j d

/-- The density hits of a channel 0 (R81). -/
def opDensityHit0 (ch : Ch0Ref) (d : DensityCode) (s : State) : State :=
  match ch with
  | .leaf => if s.leaf.gate.off.getLsbD 21 then s else s.hit0 .leaf 0 d
  | .group g => s.hit0 .mary g.val d

/-- The node of a channel 0. -/
def ch0Node : Ch0Ref → NodeSel
  | .leaf => .leaf
  | .group _ => .mary

/-- EVENT_EDGE. -/
def execEventEdge (i : Fin 2) (rise : Bool) (code : Byte) (s : State) : Host.Outcome State Fault Refusal :=
  .next (s.live .leaf (opEventEdge i.val rise code))
/-- INTV_TIMEOUT. -/
def execIntvTimeout (s : State) : Host.Outcome State Fault Refusal := .next (s.live .leaf opIntvTimeout)
/-- CHANNEL0_SHOT. -/
def execChannel0Shot (c : CellRef) (c1 c2 code : Byte) (s : State) : Host.Outcome State Fault Refusal :=
  .next (s.liveC c.node (opShot c.node c.idx c1 c2 code))
/-- PH_VOID. -/
def execPhVoid (c : CellRef) (s : State) : Host.Outcome State Fault Refusal := .next (s.live c.node (opPhVoid c.node c.idx))
/-- CAL1_PAIR_SLOT. -/
def execCal1PairSlot (c1 c2 : Byte) (s : State) (ch : SlotChan := .leaf) : Host.Outcome State Fault Refusal :=
  .next (s.liveC (slotAt ch).1 (opCal1Pair ch c1 c2))
/-- CAL1_DENSITY_SLOT. -/
def execCal1DensitySlot (d : DensityCode) (s : State) (ch : SlotChan := .leaf) : Host.Outcome State Fault Refusal :=
  .next (s.live (slotAt ch).1 (opCal1Density ch d))
/-- DENSITY_HIT_CH0. -/
def execDensityHitCh0 (ch : Ch0Ref) (d : DensityCode) (s : State) : Host.Outcome State Fault Refusal :=
  .next (s.live (ch0Node ch) (opDensityHit0 ch d))
/-- STAT_GO. -/
def execStatGo (src : Src) (s : State) : Host.Outcome State Fault Refusal := .next (s.access .leaf src 0x8108 opStatGo)
/-- STAT_STOP. -/
def execStatStop (src : Src) (s : State) : Host.Outcome State Fault Refusal := .next (s.access .leaf src 0x8108 opStatStop)
/-- FC_GO. -/
def execFcGo (src : Src) (s : State) : Host.Outcome State Fault Refusal := .next (s.access .leaf src 0x9004 opFcGo)
/-- FC_MIN_RST. -/
def execFcMinRst (src : Src) (m : W16) (s : State) : Host.Outcome State Fault Refusal := .next (s.access .leaf src 0x9020 (opFcMinRst m))
/-- FC_GATE_END. -/
def execFcGateEnd (count : BitVec 40) (s : State) : Host.Outcome State Fault Refusal := .next (s.live .leaf (opFcGateEnd count))
/-- HOLD_GATE_END. -/
def execHoldGateEnd (count : BitVec 40) (s : State) (k : NodeSel := .leaf) : Host.Outcome State Fault Refusal := .next (s.live k (opHoldGateEnd k count))

end Sys2Proof.Machine
end

