-- ==== Sys2Proof/Machine/RegionOps.lean ====
section
/-! DEFINITION. The region ports (chapter 06): landings of strobes and picots, the tally service, throttle, outcomes, clock gating,
compute reset of the die, and REFCLK. -/

namespace Sys2Proof.Machine

/-- The port presents nothing new: rp_cr_n low (R134), its clock gated off (R133), or the leaf in LEAF_FATAL (R271). -/
def State.portQuiet (s : State) (p : Nat) : Bool := !(s.region p).crN || s.gated p || s.leaf.fatal

/-- A landing stamp: the read-path HT rounded down to 125 ps, in 2^-16 ns (R120). -/
def landStamp (u : Tu) : Nat := tu16 u / 2 ^ 13 * 2 ^ 13

/-! ## Strobes (R118 to R122) -/

/-- Has a strobe been in the crossing for 128 ns (R122)? -/
def Strobe.expired (x : Strobe) (rc : W64) : Bool := decide ((rc - x.entered).toNat > 64)

/-- The head of the crossing is discarded: its region edge was missed, and the picot before it gives no anchor (R122, R124). -/
def State.dropHead (s : State) (p : Nat) : State :=
  match (s.region p).queue with
  | [] => s
  | x :: q => (s.modRegion p (fun r => Region.takeIn { r with queue := q, anchor := none } (s.rc .leaf))).discardStrobe p x

/-- The landing record of a strobe: the stamp of its edge (R120). -/
def State.landRec (s : State) (pos : Fin 16) (kind : BitVec 4) (tally : BitVec 48) : LandRec :=
  { stamp := htOf (landStamp (s.edgeHt pos) * 2 ^ 24), kind := kind, tally := tally, folding := (s.time .leaf).fold.isSome }

/-- The head of the crossing lands (R119 to R121); a HOOP_OPEN's slot is open to the port from then on (Table 6.3). -/
def State.landHead (s : State) (p : Nat) (pos : Fin 16) : State :=
  match (s.region p).queue with
  | [] => s
  | x :: q =>
    let full := decide (8 ≤ (s.region p).land.length)
    let s1 := s.modRegion p (fun r =>
      Region.takeIn (Region.takeStrobe
        { r with queue := q, launch := true, kind := x.kind, arg := x.arg, landTally := some r.tally,
                 land := (if full then r.land.drop 1 else r.land) ++ [s.landRec pos x.kind r.tally] } x) (s.rc .leaf))
    let s2 := s1.bumpIf full .leaf (rOff p 0x14)
    let i := bitsOf x.arg 4 0
    if x.kind = 4 ∧ (s2.slot i).st ≠ .free ∧ (s2.slot i).hoopId = x.arg.extractLsb' 48 16 then
      s2.modSlot i (fun y => { y with landed := setBit y.landed p })
    else s2

/-- The edge on which a strobe lands: at most one does on an edge, so the next one after that of the last (R119). -/
def Region.landEdge (r : Region) (e : RpEdge) : RpEdge :=
  if r.landTally = some (r.tally + e.edges) then { e with edges := e.edges + 1 } else e

/-- STROBE_LANDING: on the region edge told of, the strobe at the head of the crossing lands; one that has been there for more than 128 ns has
been discarded instead (R118 to R122). -/
def opStrobeLanding (p : Nat) (e : RpEdge) (s : State) : State :=
  match (s.region p).queue with
  | [] => s
  | x :: _ =>
    if s.portQuiet p then s
    else if x.expired (s.rc .leaf) then s.dropHead p
    else ((s.landFrom x.entered e.pos).regionEdge p ((s.region p).landEdge e)).landHead p e.pos

/-- RP_LAND_TMO: 128 ns after it entered the crossing a strobe that has not landed is discarded (R122). -/
def opRpLandTmo (p : Nat) (s : State) : State :=
  match (s.region p).queue with
  | [] => s
  | x :: _ => (s.advAfter .leaf x.entered 64).dropHead p

/-! ## Picots, the tally service and the time bus (R124, R126) -/

/-- Does the anchor belong to the picot before the one that lands at stamp `h` (R124)? -/
def followsAnchor (h h0 : Nat) : Bool := h / (1024 * 65536) == h0 / (1024 * 65536) + 1

/-- A picot at its landing edge, with stamp `h`: rp_picot, the anchor, and an open correction where the picot before it gave one. While rp_cr_n is
low it gives no anchor (R124, R134). -/
def Region.landPicot (r : Region) (h : Nat) : Region :=
  let go := match r.anchor with | some (_, h0) => followsAnchor h h0 | none => false
  if !r.crN then { r with picotDue := none, anchor := none, corrOpen := none }
  else
    { r with picotDue := none, picot := true, anchor := some (r.tally, h), corrOk := r.corrOk && go,
             corrOpen := if go then r.anchor.map (fun q => (r.tally, h, q.1, q.2)) else none }

/-- PICOT_LANDING: the picot that is due lands on the region edge told of; RP_TB_EN takes effect there (R118, R124, R126). -/
def opPicotLanding (p : Nat) (e : RpEdge) (s : State) : State :=
  if s.gated p || s.leaf.fatal then s
  else match (s.region p).picotDue with
    | none => s
    | some g =>
      let s1 := s.landFrom g e.pos
      let s2 := s1.modRegion p (fun r => { r with tbEff := (s.reg .leaf 0xD010).getLsbD p })
      (s2.regionEdge p e).modRegion p (fun r => r.landPicot (landStamp (s1.edgeHt e.pos)))

/-- Q of R124 where the region has had an edge since the previous anchor. -/
def corrQ (h h0 : Nat) (a a0 : BitVec 48) : Option (BitVec 36) :=
  if a = a0 then none else some (BitVec.ofNat 36 ((h - h0) * 2 ^ 16 / (a - a0).toNat))

/-- TALLY_CORRECTION: the open correction is presented with rp_corr_vld (R124). With no region edge between the anchors the spec states
no Q: a free value (log 68). -/
def opTallyCorrection (p : Nat) (e : RpEdge) (s : State) : State :=
  match (s.region p).corrOpen with
  | none => s
  | some (a, h, a0, h0) =>
    if s.portQuiet p then s
    else
      let q := corrQ h h0 a a0
      let s1 := if q.isNone then s.takeFree.2 else s
      (s1.regionEdge p e).modRegion p (fun r =>
        { r with corrOpen := none, corrVld := true, corrOk := true,
                 corr := { a := a, h := htOf (h * 2 ^ 24), q := q.getD (Config.freeBits 36 s.freeCtr) } })

/-! ## Throttle (R123, R159) -/

/-- The level of a port: the largest of JOB, PLAN and HALL (R159). -/
def State.thrMax (s : State) (p : Nat) : BitVec 3 :=
  let r := s.region p
  BitVec.ofNat 3 (max (max r.thrJob.toNat r.thrPlan.toNat) s.leaf.thrHall.toNat)

/-- A level lands on rp_throttle on the region edge told of. -/
def State.putThrottle (s : State) (p : Nat) (e : RpEdge) : State :=
  (s.regionEdge p e).modRegion p (fun r => { r with thrOut := s.thrMax p })

/-- THROTTLE_EFFECT: a level whose effective HT has passed lands on rp_throttle; with none waiting, that of the next THROTTLE token at its
instant (R118, R123, R160). A port gated off presents nothing (R133). -/
def opThrottleEffect (p : Nat) (e : RpEdge) (s : State) : State :=
  if s.gated p then s
  else
    let s1 := s.hallNow
    if s1.thrMax p ≠ (s1.region p).thrOut then (s1.landFrom (s1.region p).thrAt e.pos).putThrottle p e
    else match minNat (s1.leaf.thrToks.map Prod.fst) with
      | some t =>
        let s2 := (s1.advHt .leaf (t * nsTu)).hallNow
        (s2.landFrom (s2.rc .leaf) e.pos).putThrottle p e
      | none => s1

/-! ## Outcomes (R128, R134) -/

/-- An outcome begins on the region edge told of, or on the edge after the last beat of the one in progress (R128). -/
def Region.beginEdge (r : Region) (e : RpEdge) : RpEdge :=
  if r.hoVld ∧ e.edges.toNat ≤ r.beats.length then { e with edges := BitVec.ofNat 48 (r.beats.length + 1) } else e

/-- The first beat of an outcome is presented; the others follow at the next region edges (R128). -/
def Region.putOutcome (r : Region) (o : PortOut) : Region :=
  match o.beats with
  | [] => r
  | b :: l => { r with hoVld := true, ho := b, beats := l }

/-- OUTCOME_DELIVERY: the next outcome begins; with none waiting, the one in progress goes on for the edges told of. An outcome whose first
beat falls due while rp_cr_n is low is discarded whole, each beat counted in RP_HO_LOST_n (R128, R134). -/
def opOutcomeDelivery (p : Nat) (e : RpEdge) (s : State) : State :=
  if s.gated p || s.leaf.fatal then s
  else match (s.region p).hoq with
    | [] => s.regionEdge p e
    | o :: q =>
      let s1 := s.landFrom o.at_ e.pos
      if !(s.region p).crN then ((s1.regionEdge p e).modRegion p (fun r => { r with hoq := q })).bumpBy .leaf (rOff p 0x20) o.beats.length
      else (s1.regionEdge p ((s.region p).beginEdge e)).modRegion p (fun r => { r with hoq := q }.putOutcome o)

/-! ## Clock gating (R97, R133) -/

/-- The region ports at or below a gate. -/
def gatePorts (b : Nat) : List Nat :=
  if b < 16 then [b] else if b < 20 then (List.range 4).map (fun j => 4 * (b - 16) + j) else if b = 20 then List.range 16 else []

/-- Conditions 1 to 3 of R133 at a port. -/
def State.gateBusy (s : State) (p : Nat) : Nat :=
  let r := s.region p
  if s.leaf.prick.entries.any (fun e => e.armed && (imgPorts e.image).getLsbD p) || r.queue != [] || r.wait != [] then 1
  else if r.hoq != [] || r.beats != [] || s.leaf.slots.toList.any (fun x => decide (x.st = .open_) && x.ports.getLsbD p) then 2
  else if r.corrOpen.isSome then 3
  else 0

/-- The reason that refuses a gate-off, or 0 (R97, R133). -/
def State.gateWhy (s : State) (b : Nat) : Nat :=
  if b < 21 then
    let w := ((gatePorts b).map s.gateBusy).filter (fun n => n != 0)
    w.foldl min (w.headD 0)
  else if b = 21 then
    if (s.cellsWith .leaf (fun c => decide (c.ts = .hello ∨ c.ts = .delay ∨ c.ts = .active))) != [] then 4 else 0
  else if b = 22 then if s.fld .leaf 0x8004 1 0 ≠ 0 ∨ s.fld .leaf 0x8004 5 4 ≠ 0 then 5 else 0
  else if (s.time .leaf).domA.st ≠ .off ∨ (s.time .leaf).domB.st ≠ .off then 6 else 0

/-- Change the gating. -/
def State.modGate (s : State) (f : GateSt → GateSt) : State := s.modLeaf (fun l => { l with gate := f l.gate })

/-- A gate-off is refused: the bit of GATE_CTL clears, GATE_REFUSED, GATE_WHY and GATE_REF_CNT tell (R133). -/
def State.gateRefuse (s : State) (b why : Nat) : State :=
  (s.modGate (fun g => { g with pend := clrBit g.pend b, refused := setBit g.refused b, why := BitVec.ofNat 3 why })).bump .leaf 0xD014

/-- One bit of a GATE_CTL write (R133). -/
def State.gateBit (s : State) (on : Bool) (b : Nat) : State :=
  let g := s.leaf.gate
  if !on then s.modGate (fun g => { g with off := clrBit g.off b, pend := clrBit g.pend b })
  else if g.off.getLsbD b then s
  else if s.gateWhy b ≠ 0 then s.gateRefuse b (s.gateWhy b)
  else s.modGate (fun g => { g with pend := setBit g.pend b })

/-- GATE_CTL: a 0 gates on at once; a 1 is checked now and again at the next picot (R133). -/
def opGateCtl (v : BitVec 24) (s : State) : State := s.each (List.range 24) (fun s b => s.gateBit (v.getLsbD b) b)

/-- A gate goes off: its ports give no anchors any more (R124, R133). -/
def State.gateOff (s : State) (b : Nat) : State :=
  (s.modGate (fun g => { g with off := setBit g.off b, pend := clrBit g.pend b })).each (gatePorts b)
    (fun s p => s.modRegion p (fun r => { r with anchor := none, picotDue := none, corrOk := false }))

/-- GATE_CHECK at the picot: each waiting gate-off is applied or refused (R133). -/
def State.gatePicot (s : State) : State :=
  s.each (bitsSet s.leaf.gate.pend) (fun s b => if s.gateWhy b ≠ 0 then s.gateRefuse b (s.gateWhy b) else s.gateOff b)

/-! ## Compute reset (R134) and REFCLK (R132) -/

/-- A port at the fall of rp_cr_n: its pulses are 0 and its held values stay; queued lanes, beats of an outcome in progress and strobes that are
in line are discarded (R134). -/
def Region.fallCr (r : Region) : Region :=
  { r with crN := false, launch := false, picot := false, corrVld := false, hcErr := false, hoVld := false, beats := [], hcq := [], hcGap := false,
           queue := [], wait := r.wait.dropWhile (fun x => x.ready), anchor := none, corrOpen := none, corrOk := false }

/-- COMPUTE_RESET_ASSERT: the port's outputs fall to 0; strobes that fall due are discarded, and the beats left of an outcome in progress are
counted in RP_HO_LOST_n (R134). -/
def opComputeAssert (p : Nat) (s : State) : State :=
  if !(s.region p).crN then s
  else
    let r := s.region p
    let s1 := (s.modRegion p Region.fallCr).bumpBy .leaf (rOff p 0x20) r.beats.length
    s1.each (r.queue ++ r.wait.takeWhile (fun x => x.ready)) (fun s x => s.discardStrobe p x)

/-- COMPUTE_RESET_RELEASE: the port presents its current values; corrections resume after the second picot (R134). -/
def opComputeRelease (p : Nat) (s : State) : State := s.modRegion p (fun r => { r with crN := true })

/-- REFCLK_LOST: REFCLK stops; a leaf whose TCLK comes from it has none, and its ports' anchors are void (R124, R132, Table 12.2). -/
def opRefclkLost (s : State) : State :=
  let stops := decide ((s.time .leaf).pll = .refclk)
  ((s.modTime .leaf (fun t => { t with refclk := false, tclk := t.tclk && decide (t.pll ≠ .refclk) })).modLeaf (fun l =>
    { l with freq := { l.freq with holdNoclk := true },
             regions := if stops then l.regions.map (fun r => { r with anchor := none }) else l.regions })).raiseTime .leaf 7

/-- REFCLK_RETURN: REFCLK runs again, and TCLK with it (R132, Table 12.2). -/
def opRefclkReturn (s : State) : State := s.modTime .leaf (fun t => { t with refclk := true, tclk := true })

/-- STROBE_LANDING. -/
def execStrobeLanding (p : Fin 16) (e : RpEdge) (s : State) : Host.Outcome State Fault Refusal :=
  .next (s.liveT .leaf (opStrobeLanding p.val e))
/-- RP_LAND_TMO. -/
def execRpLandTmo (p : Fin 16) (s : State) : Host.Outcome State Fault Refusal := .next (s.live .leaf (opRpLandTmo p.val))
/-- PICOT_LANDING. -/
def execPicotLanding (p : Fin 16) (e : RpEdge) (s : State) : Host.Outcome State Fault Refusal :=
  .next (s.liveT .leaf (opPicotLanding p.val e))
/-- TALLY_CORRECTION. -/
def execTallyCorrection (p : Fin 16) (s : State) (e : RpEdge := .same) : Host.Outcome State Fault Refusal :=
  .next (s.liveT .leaf (opTallyCorrection p.val e))
/-- THROTTLE_EFFECT. -/
def execThrottleEffect (p : Fin 16) (s : State) (e : RpEdge := .same) : Host.Outcome State Fault Refusal :=
  .next (s.live .leaf (opThrottleEffect p.val e))
/-- OUTCOME_DELIVERY. -/
def execOutcomeDelivery (p : Fin 16) (s : State) (e : RpEdge := .same) : Host.Outcome State Fault Refusal :=
  .next (s.live .leaf (opOutcomeDelivery p.val e))
/-- GATE_CTL. -/
def execGateCtl (src : Src) (v : BitVec 24) (s : State) : Host.Outcome State Fault Refusal := .next (s.access .leaf src 0xD000 (opGateCtl v))
/-- COMPUTE_RESET_ASSERT. -/
def execComputeResetAssert (p : Fin 16) (s : State) : Host.Outcome State Fault Refusal := .next (s.live .leaf (opComputeAssert p.val))
/-- COMPUTE_RESET_RELEASE. -/
def execComputeResetRelease (p : Fin 16) (s : State) : Host.Outcome State Fault Refusal := .next (s.live .leaf (opComputeRelease p.val))
/-- REFCLK_LOST. -/
def execRefclkLost (s : State) : Host.Outcome State Fault Refusal := 
  .next (if s.held .leaf then s.modTime .leaf (fun t => { t with refclk := false, tclk := false }) else opRefclkLost s)
/-- REFCLK_RETURN. -/
def execRefclkReturn (s : State) : Host.Outcome State Fault Refusal := .next (opRefclkReturn s)

end Sys2Proof.Machine
end

