-- ==== Sys2Proof/Machine/RefOps.lean ====
section
/-! DEFINITION. TIME-ANNOUNCE as received (R29, R353), and what a root gives the site: PPS, ToD, IEEE 1588 and ESMC (R328 to R331). -/

namespace Sys2Proof.Machine

/-! ## TIME-ANNOUNCE (R29, R353, Table 2.2) -/

/-- HT at a stamp that an announced HT and a delay give, less the position inside the cycle, in 2^-40 ns. -/
def annOff (ns : Nat) (d : Int) (pos : Nat) : Tu := (((ns * nsTu : Nat) : Int) + d * 2 ^ 24 - ((pos * 2 ^ 24 : Nat) : Int)).toNat

/-- The domain machine on a TIME-ANNOUNCE at an UP cell: the ACQUIRE step once the link has its first valid delay measurement, until then
a seed (Table 2.2, R353). -/
def State.upAnnounce (s : State) (k : NodeSel) (i ns : Nat) (t : Stamp) : State :=
  let x := s.cell k i
  if ((s.time k).dom x.cfg.dom).st ≠ .acquire then s
  else if x.ts = .active then s.acquireStep k x.cfg.dom t.rc (annOff ns x.dly.d t.pos)
  else s.seedDomain k x.cfg.dom t.rc (annOff ns 0 t.pos)

/-- A root on a TIME-ANNOUNCE at its CROSS cell: a seed while it is in FREERUN without HT; in ACQUIRE on CROSS the ACQUIRE step (R324,
R353). -/
def State.crossAnnounce (s : State) (i ns : Nat) (t : Stamp) : State :=
  let x := s.cell .mary i
  let d := s.rootDom
  if s.mary.sel.st = .freerun ∧ !s.rootHasHt then s.seedDomain .mary d t.rc (annOff ns 0 t.pos)
  else if s.mary.sel.st = .acquire ∧ s.crossSelected ∧ x.ts = .active then
    (s.acquireStep .mary d t.rc (annOff ns x.dly.d t.pos)).crossAcquired
  else s

/-- TIME_ANNOUNCE_RX: the announced HT is kept and the count restarts; requests of the same frame's picot are identified (R29). -/
def opTimeAnnounceRx (k : NodeSel) (i : Nat) (acount : BitVec 48) (t : Stamp) (s : State) : State :=
  let x := s.cell k i
  if !x.aligned || decide (x.cfg.role ≠ 1 ∧ x.cfg.role ≠ 3) then s
  else
    let ns := acount.toNat * 2 ^ 20
    let s1 := s.modCell k i (fun c =>
      { c with annHt := some ns, annCount := 0, stampReq := c.stampReq.map (fun r => if r.rc = t.rc then { r with p := some ns } else r) })
    if x.cfg.role = 1 then s1.upAnnounce k i ns t
    else if k = .mary ∧ s.isRoot .mary then s1.crossAnnounce i ns t
    else s1

/-! ## Outputs (R328, R329) -/

/-- The letter of the selector state (Table 14.8). -/
def SelState.letter : SelState → Nat
  | .freerun => 70
  | .acquire => 65
  | .locked => 76
  | .holdover => 72
  | .softloop => 83

/-- HO_SPEC_TIME has passed in HOLDOVER (R320). -/
def State.pastSpec (s : State) : Bool := decide (s.mary.sel.holdSec > s.effFld .mary 0x98314 19 0)

/-- clockClass by the selector's state (R330). -/
def State.clockClass (s : State) : Nat :=
  let x := s.mary.sel
  match x.st with
  | .locked =>
    (match x.selected with
     | some i => if refIsPhase (s.ent i.val).word then 6 else 7
     | none => 7)
  | .softloop => 7
  | .holdover => if s.pastSpec then 52 else 7
  | .freerun => 248
  | .acquire => 248

/-- The outputs of second `sec` are live: a root with GRANDMASTER from before that second, and no squelch (R328, R332). -/
def State.siteLive (s : State) (sec : Nat) : Bool :=
  s.isRoot .mary && s.mary.lic.gm && (match s.mary.gmSec with | some g => decide (g < sec) | none => true) &&
    decide (s.mary.sel.st ≠ .freerun ∧ s.mary.sel.st ≠ .acquire) && !s.mary.sel.stepped &&
    !(decide (s.mary.sel.st = .holdover) && s.pastSpec && (s.reg .mary 0x98200).getLsbD 8)

/-- An output of second `sec` is live and enabled (R328). -/
def State.outLive (s : State) (bit sec : Nat) : Bool := s.siteLive sec && (s.reg .mary 0x98200).getLsbD bit

/-- PPS_OFS_n in effect, 2^-16 ns. -/
def State.ppsOfs (s : State) (n : Nat) : Int :=
  signedOf 40 ((s.effReg .mary (0x98208 + 8 * n)).toNat + (s.effFld .mary (0x9820C + 8 * n) 7 0) * 2 ^ 32)

/-- PPS_WIDTH in effect, 2^-16 ns. -/
def State.ppsWidth (s : State) : Nat := s.effFld .mary 0x98218 26 0 * 4 * 65536

/-- A second in 2^-16 ns. -/
def sec16 : Nat := 1000000000 * 65536

/-- The first instant s + ofs, for a whole second s, after `now`, all in 2^-16 ns. -/
def nextPulse (now : Nat) (ofs : Int) : Nat := ((((now : Int) - ofs) / (sec16 : Int) + 1) * (sec16 : Int) + ofs).toNat

/-- A pulse of PPS_OUT_n that rises at `t`, held low where it is squelched; its falling edge follows after PPS_WIDTH (R328). -/
def State.ppsAt (s : State) (n t : Nat) : State :=
  if !s.outLive n (nearSec (t - s.ppsOfs n)) then s
  else (s.advHt .mary (t * 2 ^ 24)).modMary (fun m => { m with pps := vmod m.pps n (fun _ => some (t, t + s.ppsWidth)) })

/-- PPS_OUT: the next pulse at a whole second plus PPS_OFS_n. A second that begins before it brings the written PPS_OFS_n and PPS_WIDTH into effect
first (R328, R332). -/
def opPpsOut (n : Nat) (s : State) : State :=
  if !s.isRoot .mary || !s.rootHasHt then s
  else
    let s0 := s.secondPicot
    let now := tu16 (s0.ht .mary)
    let sec := now / sec16 + 1
    let t := nextPulse now (s0.ppsOfs n)
    if t < sec * sec16 then s0.ppsAt n t
    else
      let s1 := (s0.advHt .mary (sec * sec16 * 2 ^ 24)).secondPicot
      let o := s1.ppsOfs n
      s1.ppsAt n ((((if o < 0 then sec + 1 else sec) * sec16 : Nat) : Int) + o).toNat

/-- The level of PPS_OUT_n: high from a pulse's rising edge to its falling edge (R328). -/
def State.ppsLevel (s : State) (n : Nat) : Bool :=
  match vget s.mary.pps n none with
  | some (a, b) => s.siteLive (tu16 (s.ht .mary) / sec16) && decide (a ≤ tu16 (s.ht .mary) ∧ tu16 (s.ht .mary) < b)
  | none => false

/-- The level of F10M_OUT_n: 10 MHz, rising where HT is PPS_OFS_n modulo 100 ns, high for half its period (R328). -/
def State.f10mLevel (s : State) (n : Nat) : Bool :=
  s.outLive (2 + n) (tu16 (s.ht .mary) / sec16) &&
    decide (((tu16 (s.ht .mary) : Int) - s.ppsOfs n) % ((100 * 65536 : Nat) : Int) < ((50 * 65536 : Nat) : Int))

/-- Decimal digits of a number, as ASCII. -/
def decDigits (n : Nat) : List Nat := (Nat.toDigits 10 n).map Char.toNat

/-- A signed decimal. -/
def decSigned (x : Int) : List Nat := if x < 0 then 45 :: decDigits x.natAbs else decDigits x.natAbs

/-- An upper-case hex digit. -/
def hexDigit (n : Nat) : Nat := if n < 10 then 48 + n else 55 + n

/-- The ToD sentence of Table 14.8. -/
def todBytes (sec : Nat) (utc : Int) (leap letter cls hold : Nat) : List Byte :=
  let body := [65, 86, 84, 79, 68, 44] ++ decDigits sec ++ [44] ++ decSigned utc ++ [44, leap, 44, letter, 44] ++ decDigits cls ++ [44]
    ++ decDigits hold
  let x := body.foldl Nat.xor 0
  ([36] ++ body ++ [42, hexDigit (x / 16), hexDigit (x % 16), 13, 10]).map (BitVec.ofNat 8)

/-- LEAP's letter (Table 14.8). -/
def leapLetter (lp : Nat) : Nat := if lp = 1 then 80 else if lp = 2 then 77 else 78

/-- UTC_OFFSET in s. -/
def State.utcOffset (s : State) : Int := signedOf 16 (s.reg .mary 0x9821C).toNat

/-- TOD_SENTENCE: at s + 10 ms, naming second s + 1; squelched as PPS_OUT_0 is (R329). -/
def opTodSentence (s : State) : State :=
  let t := nextPulse (tu16 (s.ht .mary)) (10000000 * 65536)
  if !s.outLive 4 (t / sec16) then s
  else
    let s1 := s.advHt .mary (t * 2 ^ 24)
    let hold := if s.mary.sel.st = .holdover then s.mary.sel.holdSec else 0
    let txt := todBytes (t / sec16 + 1) s.utcOffset (leapLetter (s.fld .mary 0x9821C 17 16)) s.mary.sel.st.letter s.clockClass hold
    s1.modMary (fun m => { m with tod := txt })

/-! ## Measurements of the reference channels (R308, R309, R313) -/

/-- The reference channel of a source: REFIN_0 to REFIN_3, SYNCE_0, SYNCE_1 (Table 14.1). -/
def refChan (src : Nat) : Option Nat := if src < 4 then some (20 + src) else if src = 6 ∨ src = 7 then some (18 + src) else none

/-- The stamp of an edge that a reference channel captures now: HT of the root's domain less what the channel interpolates; none at an edge that R85
blocks (R82, R308; log 55). -/
def State.refStamp (s : State) (j : Nat) (code : Byte) : Option Int × State :=
  if slotBlocked (s.rc .mary) 512 true then (none, s)
  else
    let r := s.convert .mary j (s.rc .mary) code
    (some ((s.rootHt16 : Int) - r.1), r.2)

/-- A pulse that gives no measurement still counts for the label of those that follow (R308, R309). -/
def State.skipPulse (s : State) (i : Nat) : State := s.modEnt i (fun e => { e with label := e.label.map (· + 1) })

/-- A 1PPS pulse of a REFIN PHASE entry: without a 10 MHz edge within 25 ns it gives no measurement; else e is the stamp less DELAY and the label.
With HT and no label, HT itself tells the second (R308, R309; log 55). -/
def State.pulseRef (s : State) (i j : Nat) (code : Byte) (apart : Int) : State :=
  let r := s.refStamp j code
  match r.1 with
  | none => s.skipPulse i
  | some st =>
    if apart.natAbs > 25 * 65536 then s.skipPulse i
    else
      let t := st - signedOf 32 (s.ent i).word.toNat
      let l := r.2.takeLabel i t
      match l.2 with
      | some n => l.1.refSample i (t - ((n * sec16 : Nat) : Int)) true
      | none => if s.rootHasHt then l.1.refSample i (t - ((nearSec t * sec16 : Nat) : Int)) true else l.1

/-- The period of a FREQ source in 2^-16 ns: 100 ns of 10 MHz, or that of the 1588 port's receive clock. -/
def refPeriod (src : Nat) : Nat := if src < 4 then 100 * 65536 else max 1 (Config.syncePeriod (src - 6))

/-- A difference of phase to the nearest, modulo a period. -/
def wrapPhase (d : Int) (p : Nat) : Int := (d + (p / 2 : Nat)) % (p : Int) - (p / 2 : Nat)

/-- An edge of a FREQ entry: its phase moves on by the change of the stamp modulo the reference period (R308). -/
def State.edgeRef (s : State) (i j src : Nat) (code : Byte) : State :=
  let r := s.refStamp j code
  match r.1 with
  | none => r.2
  | some st =>
    let x := r.2.ent i
    let e := match x.last with | some l => x.e + wrapPhase (st - l) (refPeriod src) | none => x.e
    (r.2.modEnt i (fun e => { e with last := some st })).refSample i e false

/-- REF_MEASUREMENT: a 1PPS pulse of a REFIN PHASE entry, an edge of a FREQ entry, or a 1 s gate (R308, R313). -/
def opRefMeasurement (i : Nat) (m : RefMeas) (s : State) : State :=
  let x := s.ent i
  if !s.isRoot .mary || decide (x.stat = .disabled ∨ x.stat = .lost) then s
  else match m with
    | .gate n => s.gateRef i n
    | .pulse code apart =>
      match refChan (refSrc x.word) with
      | some j => if refPhase x.word then s.pulseRef i j code apart else s
      | none => s
    | .edge code =>
      match refChan (refSrc x.word) with
      | some j => if refPhase x.word then s else s.edgeRef i j (refSrc x.word) code
      | none => s

/-! ## IEEE 1588 (R330; log 69) -/

/-- Port `k`. -/
def State.ptpPort (s : State) (k : Nat) : PtpPort := vget s.mary.ptp k .reset
/-- Change port `k`. -/
def State.modPtp (s : State) (k : Nat) (f : PtpPort → PtpPort) : State := s.modMary (fun m => { m with ptp := vmod m.ptp k f })
/-- A register of port `k` (Table 18.10). -/
def tReg (k off : Nat) : Nat := 0x99000 + k * 0x800 + off
/-- slaveOnly: as written, and always without GRANDMASTER (R330, R400). -/
def State.slaveOnly (s : State) (k : Nat) : Bool := !s.mary.lic.gm || (s.reg .mary (tReg k 0)).getLsbD 2
/-- masterOnly, with GRANDMASTER (R330). -/
def State.masterOnly (s : State) (k : Nat) : Bool := s.mary.lic.gm && (s.reg .mary (tReg k 0)).getLsbD 1
/-- The port runs: at a root, with PTP_EN (R306). -/
def State.ptpOn (s : State) (k : Nat) : Bool := s.isRoot .mary && (s.reg .mary (tReg k 0)).getLsbD 0

/-- A data set as the comparison orders it: priority1, class, accuracy, variance, priority2, identity, steps, sender. -/
abbrev PtpSet := List Nat

/-- The data set of a received Announce. -/
def ptpDataSet (m : PtpMsg) : PtpSet :=
  [m.priority1.toNat, m.clockClass.toNat, m.accuracy.toNat, m.variance.toNat, m.priority2.toNat, m.gmIdentity.toNat, m.steps.toNat,
   m.source.toNat]

/-- The Maryel's own data set on a port; its variance is a value no register gives (log 69). -/
def State.ownSet (s : State) (k : Nat) : PtpSet :=
  [s.effFld .mary (tReg k 4) 15 8, s.clockClass, if s.clockClass = 6 then 0x21 else 0xFE, Config.ptpVariance.toNat,
   s.effFld .mary (tReg k 4) 23 16, Config.chipUid.toNat, 0, Config.chipUid.toNat]

/-- Is a data set better: smaller at the first place where they differ? -/
def setBetter : PtpSet → PtpSet → Bool
  | a :: as', b :: bs => if a = b then setBetter as' bs else decide (a < b)
  | _, _ => false

/-- The better of the best data sets of both ports, if any. -/
def State.ptpBest (s : State) : Option PtpSet :=
  match (s.ptpPort 0).master, (s.ptpPort 1).master with
  | some a, some b => some (if setBetter (ptpDataSet b) (ptpDataSet a) then (ptpDataSet b) else (ptpDataSet a))
  | some a, none => some (ptpDataSet a)
  | none, some b => some (ptpDataSet b)
  | none, none => none

/-- portState by the state decision: 4 LISTENING, 6 MASTER, 7 PASSIVE, 8 UNCALIBRATED, 9 SLAVE. -/
def State.ptpDecide (s : State) (k : Nat) : BitVec 4 :=
  let p := s.ptpPort k
  let slave : BitVec 4 := if p.state = 9 then 9 else 8
  if s.masterOnly k then 6
  else match p.master with
    | none => if s.slaveOnly k then 4 else 6
    | some m =>
      if s.slaveOnly k then slave
      else if s.clockClass ≤ 127 then (if setBetter (s.ownSet k) (ptpDataSet m) then 6 else 7)
      else match s.ptpBest with
        | some b => if setBetter (s.ownSet k) b then 6 else if b = (ptpDataSet m) then slave else 6
        | none => 6

/-- A port's state is decided anew. -/
def State.ptpUpdate (s : State) (k : Nat) : State := s.modPtp k (fun p => { p with state := s.ptpDecide k })

/-- A new offsetFromMaster: the port's registers, and the measurement of its reference entry, e := offset less DELAY (R308, R400). -/
def State.ptpOffset (s : State) (k : Nat) (off : Int) : State :=
  let s1 := s.modPtp k (fun p => { p with offset := off, state := if p.state = 8 then 9 else p.state })
  s1.each ((List.range 8).filter (fun i => refEn (s.ent i).word && refSrc (s.ent i).word == 4 + k))
    (fun s i => s.refSample i (off - signedOf 32 (s.ent i).word.toNat) false)

/-- A Sync whose origin time is known: offset from the mean delay held. -/
def State.ptpSynced (s : State) (k : Nat) (t1 : Nat) (t2 : Int) (corr : Int) : State :=
  s.ptpOffset k (t2 - t1 - corr - (s.ptpPort k).delay)

/-- A message from the port's present master while the port is a slave. -/
def State.ptpFrom (s : State) (k : Nat) (m : PtpMsg) : Bool :=
  let p := s.ptpPort k
  decide (p.state = 8 ∨ p.state = 9) && (match p.master with | some x => decide (x.source = m.source) | none => false)

/-- A log interval of a port, signed (Table 18.10). -/
def State.ptpLog (s : State) (k lo : Nat) : Int := signedOf 4 (s.fld .mary (tReg k 8) (lo + 3) lo)

/-- What an Announce of port `k` carries: the Maryel is the grandmaster of what it sends, with its clock's class and UTC_OFFSET and LEAP as
written (R330, Table 14.9; log 69). -/
def State.ptpAnnounce (s : State) (k : Nat) : PtpAnn :=
  let lp := s.fld .mary 0x9821C 17 16
  { priority1 := s.effFld .mary (tReg k 4) 15 8, clockClass := s.clockClass, accuracy := if s.clockClass = 6 then 0x21 else 0xFE,
    variance := Config.ptpVariance, priority2 := s.effFld .mary (tReg k 4) 23 16, gmIdentity := Config.chipUid, steps := 0,
    utcOffset := s.utcOffset, utcValid := s.mary.utcValid, leap59 := decide (lp = 2), leap61 := decide (lp = 1),
    traceable := decide (s.clockClass = 6) }

/-- A message of port `k` leaving now, timestamped in HT of the domain and corrected by the egress latency (R330). -/
def State.ptpMsg (s : State) (k : Nat) (q : PtpKind) (seq : W16) (logInt : Int) : PtpSent :=
  { kind := q, udp := (s.reg .mary (tReg k 0)).getLsbD 4, domainNum := s.effFld .mary (tReg k 4) 6 0, seqId := seq, twoStep := false,
    logInt := logInt, at_ := (s.rootHt16 : Int) + Config.ptpEgress k, stamp := 0, requester := 0, ann := none }

/-- The messages of a master's Sync: two-step a Sync and a Follow_Up with its egress timestamp, or one Sync that carries it (R330). -/
def State.ptpSyncMsgs (s : State) (k : Nat) : List PtpSent :=
  let m := s.ptpMsg k .sync (s.ptpPort k).seq (s.ptpLog k 0)
  if (s.reg .mary (tReg k 0)).getLsbD 3 then [{ m with stamp := m.at_ }]
  else [{ m with twoStep := true }, { m with kind := .followUp, stamp := m.at_ }]

/-- PTP_MESSAGE_RX under the supported profile; its receive timestamp is corrected by the ingress latency (R330). -/
def opPtpRx (k : Nat) (m : PtpMsg) (s : State) : State :=
  let p := s.ptpPort k
  let rx : Int := (m.rx : Int) - Config.ptpIngress k
  if !s.ptpOn k then s
  else if m.kind = .malformed then s.bump .mary (tReg k 0x100)
  else if m.domainNum.toNat ≠ s.effFld .mary (tReg k 4) 6 0 then s
  else match m.kind with
    | .announce =>
      let take := match p.master with | some x => decide (x.source = m.source) || setBetter (ptpDataSet m) (ptpDataSet x) | none => true
      if !take then s
      else
        let s1 := s.modPtp k (fun p => { p with master := some m })
        (s1.ptpUpdate 0).ptpUpdate 1
    | .sync =>
      if !s.ptpFrom k m then s
      else if m.twoStep then s.modPtp k (fun p => { p with sync := some (m.seqId, none, rx, m.correction) })
      else (s.modPtp k (fun p => { p with sync := some (m.seqId, some m.origin, rx, m.correction) })).ptpSynced k m.origin rx m.correction
    | .followUp =>
      match p.sync with
      | some (q, none, t2, c) =>
        if s.ptpFrom k m && decide (q = m.seqId) then
          (s.modPtp k (fun p => { p with sync := some (q, some m.origin, t2, c + m.correction) })).ptpSynced k m.origin t2 (c + m.correction)
        else s
      | _ => s
    | .delayResp =>
      match p.sync, p.dreq with
      | some (_, some t1, t2, c), some (q, t3) =>
        if s.ptpFrom k m && decide (q = m.seqId ∧ m.requester = Config.chipUid) then
          let d : Int := ((t2 - t1 - c) + ((m.origin : Int) - t3 - m.correction)) / 2
          (s.modPtp k (fun p => { p with delay := d, dreq := none })).ptpSynced k t1 t2 c
        else s
      | _, _ => s
    | .delayReq =>
      if p.state = 6 then
        let r := { s.ptpMsg k .delayResp m.seqId (s.ptpLog k 24) with stamp := rx, requester := m.source }
        s.modPtp k (fun p => { p with sent := [r] })
      else s
    | .management => s
    | .malformed => s

/-- Messages leave on port `k` under its next sequence number. -/
def State.ptpEmit (s : State) (k : Nat) (ms : List PtpSent) : State := s.modPtp k (fun p => { p with sent := ms, seq := p.seq + 1 })

/-- PTP_MESSAGE_SEND: a master sends Sync and Announce, a slave Delay_Req, timestamped in HT of the domain (R330). -/
def opPtpSend (k : Nat) (kd : PtpSendKind) (s : State) : State :=
  if !s.ptpOn k then s
  else
    let s1 := (if kd = .announce then s.commitAnnounce k else s).ptpUpdate k
    let p := s1.ptpPort k
    match kd with
    | .sync => if p.state = 6 then s1.ptpEmit k (s1.ptpSyncMsgs k) else s1
    | .announce =>
      if p.state = 6 then s1.ptpEmit k [{ s1.ptpMsg k .announce p.seq (s1.ptpLog k 8) with ann := some (s1.ptpAnnounce k) }] else s1
    | .delayReq =>
      if p.state = 8 ∨ p.state = 9 then
        let m := s1.ptpMsg k .delayReq p.seq 127
        (s1.ptpEmit k [m]).modPtp k (fun p => { p with dreq := some (m.seqId, m.at_) })
      else s1

/-- announceReceiptTimeout at a port: counted, its master is gone (Table 18.10). -/
def State.announceTmo (s : State) (k : Nat) : State :=
  (((s.bump .mary (tReg k 0x104)).modPtp k (fun p => { p with master := none, sync := none, dreq := none })).ptpUpdate 0).ptpUpdate 1

/-- REF_LOSS: a loss of Table 14.4; a PTP entry's announceReceiptTimeout is its port's as well (R314). -/
def opRefLoss (i : Nat) (annTmo : Bool) (s : State) : State :=
  let x := s.ent i
  if !s.isRoot .mary || !refEn x.word then s
  else
    let s1 := if annTmo && (refSrc x.word == 4 || refSrc x.word == 5) then s.announceTmo (refSrc x.word - 4) else s
    s1.loseRef i

/-! ## SyncE (R331) -/

/-- ESMC_RX: the code, judged by QL_ACCEPT; a cleared one disqualifies the SYNCE entry (R331). -/
def opEsmcRx (k : Nat) (ssm : BitVec 4) (s : State) : State :=
  if !s.isRoot .mary then s
  else
    let bad := !(s.reg .mary (tReg k 0x20)).getLsbD (16 + ssm.toNat)
    let s1 := s.modPtp k (fun p => { p with qlRx := ssm, qlBad := bad, esmcAt := s.rc .mary })
    if !bad then s1
    else (s1.each ((List.range 8).filter (fun i => let e := s.ent i
        refEn e.word && refSrc e.word == 6 + k && decide (e.stat = .qualified ∨ e.stat = .wtr ∨ e.stat = .qualifying)))
      (fun s i => s.breakEnt i false)).selAct

/-- ESMC_TIMEOUT: no ESMC for 5 s (R331). -/
def opEsmcTimeout (k : Nat) (s : State) : State :=
  if !s.isRoot .mary then s else (s.advAfter .mary (s.ptpPort k).esmcAt (5 * cyclesS)).loseSrc (6 + k)

/-- ESMC_SEND: QL_OUT in LOCKED, else QL_HO (R331). -/
def opEsmcSend (k : Nat) (s : State) : State :=
  if !s.isRoot .mary then s
  else
    let r := s.reg .mary (tReg k 0x20)
    s.modPtp k (fun p => { p with esmcSent := some (if s.mary.sel.st = .locked then r.extractLsb' 0 4 else r.extractLsb' 4 4) })

/-- TIME_ANNOUNCE_RX. -/
def execTimeAnnounceRx (c : CellRef) (acount : BitVec 48) (stamp : Stamp) (s : State) : Host.Outcome State Fault Refusal :=
  .next (s.liveC c.node (fun s => (opTimeAnnounceRx c.node c.idx acount stamp s).sendMarks))
/-- REF_MEASUREMENT. -/
def execRefMeasurement (i : Fin 8) (m : RefMeas) (s : State) : Host.Outcome State Fault Refusal :=
  .next (s.liveC .mary (opRefMeasurement i.val m))
/-- PPS_OUT. -/
def execPpsOut (n : Fin 2) (s : State) : Host.Outcome State Fault Refusal := .next (s.live .mary (opPpsOut n.val))
/-- TOD_SENTENCE. -/
def execTodSentence (s : State) : Host.Outcome State Fault Refusal := .next (s.live .mary opTodSentence)
/-- PTP_MESSAGE_RX. -/
def execPtpMessageRx (k : Fin 2) (m : PtpMsg) (s : State) : Host.Outcome State Fault Refusal := .next (s.liveC .mary (opPtpRx k.val m))
/-- PTP_MESSAGE_SEND. -/
def execPtpMessageSend (k : Fin 2) (kd : PtpSendKind) (s : State) : Host.Outcome State Fault Refusal :=
  .next (s.live .mary (opPtpSend k.val kd))
/-- REF_LOSS. -/
def execRefLoss (i : Fin 8) (annTmo : Bool) (s : State) : Host.Outcome State Fault Refusal := .next (s.liveC .mary (opRefLoss i.val annTmo))
/-- ESMC_RX. -/
def execEsmcRx (k : Fin 2) (ssm : BitVec 4) (s : State) : Host.Outcome State Fault Refusal := .next (s.liveC .mary (opEsmcRx k.val ssm))
/-- ESMC_TIMEOUT. -/
def execEsmcTimeout (k : Fin 2) (s : State) : Host.Outcome State Fault Refusal := .next (s.liveC .mary (opEsmcTimeout k.val))
/-- ESMC_SEND. -/
def execEsmcSend (k : Fin 2) (s : State) : Host.Outcome State Fault Refusal := .next (s.live .mary (opEsmcSend k.val))

end Sys2Proof.Machine
end

