-- ==== Sys2Proof/Machine/CellarOps.lean ====
section
/-! DEFINITION. The commands of the cellar (chapter 15): the write queue, ceiling raises, the keep-alive domain, scrubbing and the handling of
uncorrectable words, the ageing history and the erase. -/

namespace Sys2Proof.Machine

/-! ## Licence slots (R301, R302, Tables 13.8, 13.9, 15.1) -/

/-- The first word of copy `c` of licence slot `k` (log 70). -/
def licWord (c k : Nat) : Nat := celLic + 4096 * c + 16 * k

/-- The bytes of `n` words of the cellar. -/
def State.celBytes (s : State) (w n : Nat) : List Byte := (List.range (8 * n)).map (fun i => mget s.cellar.mem (8 * w + i))

/-- What a word will hold once the write queue has drained: its last waiting value, else its content (R336). -/
def State.celWordNow (s : State) (w : Nat) : W64 :=
  match (s.cellar.queue.filter (fun q => q.word == w)).getLast? with
  | some q => q.val
  | none => s.celWord w

/-- The bytes of `n` words, waiting values counted. -/
def State.celBytesNow (s : State) (w n : Nat) : List Byte := (List.range n).flatMap (fun i => wordLe (s.celWordNow (w + i)))

/-- Are `n` words readable? -/
def State.celAllOk (s : State) (w n : Nat) : Bool := s.cellar.bad.all (fun x => !decide (w ≤ x ∧ x < w + n))

/-- The number of consecutive bytes, the first highest. -/
def beNat (l : List Byte) : Nat := l.foldl (fun a b => a * 256 + b.toNat) 0

/-- A field of a byte string: `n` bytes from byte `o`, big-endian. -/
def beField (l : List Byte) (o n : Nat) : Nat := beNat ((l.drop o).take n)

/-- The content of a licence slot: the first readable copy; none while it is empty or both copies are bad (Table 15.5). -/
def State.licSlot (s : State) (k : Nat) : Option (List Byte) :=
  match [0, 1].find? (fun c => s.celAllOk (licWord c k) 16) with
  | none => none
  | some c =>
    let l := s.celBytesNow (licWord c k) 16
    if beField l 0 2 = 0x4C49 then some l else none

/-- A licence record breaks Table 13.8. -/
def licMalformed (l : List Byte) : Bool :=
  let f := beField l 3 1
  let v := beField l 4 2
  decide (beField l 0 2 ≠ 0x4C49 ∨ beField l 2 1 ≠ 1 ∨ f = 0 ∨ f > 5 ∨ beField l 6 2 ≠ 0 ∨ beField l 20 12 ≠ 0) ||
    (if f = 1 then decide (v ≠ 64 ∧ v ≠ 100) else if f = 2 then decide (v ≠ 4096) else decide (v ≠ 1))

/-- Does the signature of a licence verify under the licence key, key 0 of Config.signatureOk (R301)? -/
def licSigned (l : List Byte) : Bool := Config.signatureOk (l.take 32) (l.drop 32) 0

/-- A licence that this Maryel takes: verified, for this chip, well formed (R302). -/
def licGood (l : List Byte) : Bool := licSigned l && decide (beField l 8 8 = Config.chipUid.toNat) && !licMalformed l

/-- One licence adds its feature (Table 13.9). -/
def Lic.add (x : Lic) (l : List Byte) : Lic :=
  match beField l 3 1 with
  | 1 => { x with portTier := max x.portTier (beField l 4 2) }
  | 2 => { x with sdTier := true }
  | 3 => { x with exact := true }
  | 4 => { x with quorum := true }
  | 5 => { x with gm := true }
  | _ => x

/-- The features that the slots give (R302). -/
def State.licEffective (s : State) : Lic :=
  (((List.range 16).filterMap s.licSlot).filter licGood).foldl Lic.add .reset

/-- The features both of two sets give. -/
def Lic.meet (x y : Lic) : Lic :=
  { portTier := min x.portTier y.portTier, sdTier := x.sdTier && y.sdTier, exact := x.exact && y.exact, quorum := x.quorum && y.quorum,
    gm := x.gm && y.gm }

/-! ## Power and the write queue (R335 to R337) -/

/-- SUPPLY_MONITOR_TRIP: no further word write begins (R335). -/
def opSupplyTrip (s : State) : State := s.modCellar (fun c => { c with supply := false })

/-- RWP_PEND: a mirror word waits (R337). -/
def State.rwpPend (s : State) : Bool := s.cellar.queue.any (fun q => q.rwp.isSome)

/-- A grant whose record is now written takes effect (R342). -/
def State.grantDone (s : State) : State :=
  match s.cellar.held.find? (fun h => match h.2 with | .grant _ _ _ => true | _ => false) with
  | some (_, .grant sd lo hi) =>
    (s.modCellar (fun c => { c with held := c.held.erase (.step, .grant sd lo hi) })).setWin .mary sd lo hi
  | _ => s

/-- The hosts that waited for RWP_PEND go on once it is clear (R337). -/
def State.syncDone (s : State) : State :=
  if s.rwpPend then s else s.modMary (fun m => { m with ports := m.ports.map (fun p => { p with sync := false }) })

/-- RC moves on to the next second of the block rate where a word's block is at its cap (R336). -/
def State.celWaitCap (s : State) (w : Nat) : State :=
  if s.celCapped w then s.advAfter .mary s.cellar.rate.2 cyclesS else s

/-- CELLAR_WRITE: the first word of the queue is written (R336, R337). -/
def opCellarWrite (s : State) : State :=
  match s.cellar.queue with
  | [] => s
  | q :: rest =>
    if !s.cellar.supply || s.celClosed then s
    else
      let s1 := ((s.celWaitCap q.word).modCellar (fun c => { c with queue := rest })).celNow q.word q.val
      let s2 := if celGrant ≤ q.word ∧ q.word < celRwp ∧ q.word % 4 = 3 then s1.grantDone else s1
      s2.syncDone

/-- RWP_SYNC: the host's later writes wait until RWP_PEND is clear (R337). -/
def opRwpSync (src : Src) (s : State) : State :=
  match src with
  | .host h => if s.rwpPend then s.modMary (fun m => { m with ports := vmod m.ports h.val (fun p => { p with sync := true }) }) else s
  | _ => s

/-! ## Ceilings (R338) -/

/-- Do words of a ceiling table wait in the queue? -/
def State.ceilWaits (s : State) : Bool := s.cellar.queue.any (fun q => decide (celCeilA ≤ q.word ∧ q.word < celGrant))

/-- A held operation is judged again (R338, R427). -/
def State.rejudge (s : State) (f : Family) (op : HeldOp) : State :=
  let s0 := s.clearRefused .mary
  match op with
  | .stepWin src sd lo hi => (s0.stepWinOp .mary src sd lo hi).noteRefused .mary src
  | .vint src v => (s0.vintOp .mary src v).noteRefused .mary src
  | .bind src sd words n gen => (s0.bindOp .mary src sd words false n gen).noteRefused .mary src
  | .teardown src sd => (s0.teardownOp .mary src sd).noteRefused .mary src
  | .floor src v => (s0.floorDone f v).noteRefused .mary src
  | .grant _ _ _ => s

/-- Is an entry held for a raise that is done: an operation of the family, or the RES_FLOOR that asked for this very ceiling? -/
def heldFor (r : Raise) (h : Family × HeldOp) : Bool :=
  decide (h.1 = r.fam) && (match h.2 with | .grant _ _ _ => false | .floor _ v => decide (v.toNat = r.ceil) | _ => true)

/-- The operations that a raise has held are judged again in their order (R338). -/
def State.releaseHeld (s : State) (r : Raise) : State :=
  (s.modCellar (fun c => { c with held := c.held.filter (fun h => !heldFor r h) })).each (s.cellar.held.filter (heldFor r))
    (fun s h => s.rejudge r.fam h.2)

/-- CEILING_RAISE: the first raise begins, at least 10 ms after the last and once its blocks are below their cap: CEIL_A is written, then
CEIL_B. A raise whose ceiling the counter has passed by then is not made. -/
def opCeilingRaise (s : State) : State :=
  match s.cellar.raises, s.cellar.raising with
  | r :: rest, none =>
    if !s.cellar.supply || s.celClosed || s.ceilWaits then s
    else if r.ceil < s.famCtr r.fam then (s.modCellar (fun c => { c with raises := rest })).releaseHeld r
    else
      let s1 := match s.cellar.raiseAt with | some t => s.advAfter .mary t (10 * cyclesMs) | none => s
      let s2 := (s1.celWaitCap (celCeilA + r.fam.word)).celWaitCap (celCeilB + r.fam.word)
      ((s2.celNow (celCeilA + r.fam.word) (BitVec.ofNat 64 r.ceil)).celNow (celCeilB + r.fam.word) (BitVec.ofNat 64 r.ceil)).modCellar
        (fun c => { c with raises := rest, raising := some r, raiseAt := some (s2.rc .mary) })
  | _, _ => s

/-- CEILING_RAISE_DONE: both copies read back as written; the counter may pass its old ceiling, and the operations held for the family are
judged again in their order. -/
def opCeilingDone (s : State) : State :=
  match s.cellar.raising with
  | none => s
  | some r =>
    if s.ceilCopies r.fam ≠ [r.ceil, r.ceil] then s
    else ((s.setCeil r.fam (max (s.famCeil r.fam) r.ceil)).modCellar (fun c => { c with raising := none })).releaseHeld r

/-! ## The keep-alive domain (R343 to R345) -/

/-- Is the selector LOCKED on a PHASE entry or on CROSS? -/
def State.lockedPhase (s : State) : Bool :=
  decide (s.mary.sel.st = .locked) &&
    (match s.mary.sel.selected with | some i => refIsPhase (s.ent i.val).word | none => false)

/-- KA_ANCHOR: once per HT second, a root in that state stores the count, the second and the crystal's rate, whole, and KA_VALID is set. -/
def opKaAnchor (cnt rate : BitVec 48) (s : State) : State :=
  if !s.isRoot .mary || !s.lockedPhase then s
  else
    let sec (s : State) : Nat := s.htDom .mary s.rootDom / (1000000000 * nsTu)
    let s1 := if s.cellar.ka.valid && decide (s.cellar.ka.ancSec.toNat = sec s)
      then s.advTo .mary (((s.time .mary).dom s.rootDom).set.edgeOf (s.rc .mary) ((sec s + 1) * 1000000000 * nsTu)) else s
    s1.modCellar (fun c =>
      { c with ka := { c.ka with cnt := cnt, ancCnt := cnt, ancSec := BitVec.ofNat 48 (sec s1), rate := rate, valid := true } })

/-- KA_INVALIDATE: both supplies below 1.5 V, or no crystal edge for 1 ms. -/
def opKaInvalidate (s : State) : State := s.modCellar (fun c => { c with ka := { c.ka with valid := false } })

/-! ## Scrubbing (R347, Table 15.5) -/

/-- Both copies of a family's ceiling are unreadable: JRNL_LOST, CEL_IRQ and JRNL_EVT at a root (R340). -/
def State.loseFamily (s : State) (f : Family) : State :=
  if !s.isRoot .mary || decide (f ∈ s.cellar.lost) then s
  else ((s.modCellar (fun c => { c with lost := c.lost ++ [f] })).modRoot .mary (fun r => { r with evt := setBit r.evt 2 })).raiseIrq .mary 12

/-- The family of a word of the ceiling table (Table 15.2). -/
def famOfWord (w : Nat) : Option Family :=
  if w = 0 then some .step else if w = 1 then some .vint else if w < 4098 then some (.gen (BitVec.ofNat 12 (w - 2))) else none

/-- Every family. -/
def allFams : List Family := [.step, .vint] ++ (List.range 4096).map (fun i => .gen (BitVec.ofNat 12 i))

/-- A bad copy is rewritten from the other, or the families it held are lost where both are bad. -/
def State.mendCopy (s : State) (w other : Nat) (fams : List Family) : State :=
  if s.celOk other then s.celPut w (s.celWord other) else s.each fams State.loseFamily

/-- The largest block write count and its block, the lowest of equals (R346). -/
def State.wearMax (s : State) : Nat × Nat := s.cellar.wear.foldl (fun a p => if p.2 > a.1 then (p.2, p.1) else a) (0, 0)

/-- An uncorrectable word of LIC: with both copies bad the slot is empty, and its feature falls back (Table 15.5). -/
def State.licUe (s : State) (k : Nat) : State :=
  if (List.range 2).any (fun c => s.celAllOk (licWord c k) 16) then s
  else s.modMary (fun m => { m with licLost := setBit m.licLost k, lic := m.lic.meet s.licEffective })

/-- The handling of an uncorrectable word by its region (Table 15.5). RWP and PROF are judged when they are next read; a GRANT, HIST or CAL
word makes its record invalid. -/
def State.celUe (s : State) (w : Nat) : State :=
  if w < celCeilA then s.mendCopy w ((w + 0x1000) % 0x2000) allFams
  else if w < celCeilB then
    s.mendCopy w (w + 0x2000) (famOfWord (w - celCeilA)).toList
  else if w < celGrant then
    s.mendCopy w (w - 0x2000) (famOfWord (w - celCeilB)).toList
  else if celWear ≤ w ∧ w < celWear + 2048 then
    let n := s.wearMax.1
    (s.modCellar (fun c => { c with wear := sput c.wear (w - celWear) n })).celPut w (BitVec.ofNat 64 n)
  else if celLic ≤ w ∧ w < celCal then s.licUe ((w - celLic) % 4096 / 16)
  else if celCal ≤ w ∧ w < celCal + 0x6000 then s.bump .mary 0xF010C
  else s

/-- CELLAR_SCRUB: a corrected word is rewritten and counted, unless a newer value waits for it; an uncorrectable one is counted, raises
CEL_IRQ and is never data (R347, R352). -/
def opCellarScrub (w : Nat) (r : CellarScrubResult) (s : State) : State :=
  match r with
  | .clean => s
  | .corrected =>
    let s1 := s.bump .mary 0xF0100
    if s.cellar.queue.any (fun q => q.word == w) then s1 else s1.celPut w (s.celWord w)
  | .uncorrectable =>
    let s1 := ((s.bump .mary 0xF0104).raiseIrq .mary 12).modCellar (fun c => { c with bad := if w ∈ c.bad then c.bad else c.bad ++ [w] })
    s1.celUe w

/-! ## The ageing history (R348) -/

/-- RC moves on to the edge at which the history's clock reaches a second. -/
def State.advHist (s : State) (sec : Nat) : State :=
  if s.rootHasHt then s.advTo .mary (((s.time .mary).dom s.rootDom).set.edgeOf (s.rc .mary) (sec * 1000000000 * nsTu))
  else match s.kaNow with
    | some t => if sec * 1000000000 ≤ t then s else s.advTo .mary (s.rc .mary + BitVec.ofNat 64 ((sec * 1000000000 - t + 1) / 2))
    | none => s

/-- The records of one filing, as HKIND, cell index and word 1: own UP and CROSS cells, the far UP cells, the groups, the leaves directly
below, and at a root the day of OCXO_TREND. -/
def State.histRecsNow (s : State) : List (Nat × Nat × W64) :=
  let me := s.mary.me
  (s.cellsWith .mary (fun c => decide (c.cfg.role = 1 ∨ c.cfg.role = 3))).map (fun i => (1, i, trendVal (s.trendRec .mary i))) ++
    me.far.map (fun p => (1, p.1, p.2)) ++
    (List.range 20).map (fun g => (3, 0x3FF, BitVec.ofNat 64 (intBits 32 (s.chan .mary g).gain * 2 ^ 32))) ++
    me.leafs.flatMap (fun p => [(2, p.1, p.2.1), (3, p.1, p.2.2)]) ++
    (if s.isRoot .mary && decide (s.mary.sel.days > 0) then [(4, 0x3FF, s.mary.sel.kDay.zeroExtend 64)] else [])

/-- HIST_FILE: once per HIST_PERIOD a running engine files one record per source. -/
def opHistFile (s : State) : State :=
  if s.mary.me.state ≠ 1 ∨ s.histSec = none then s
  else
    let s1 := match s.cellar.histAt with | some t => s.advHist (t + s.fld .mary 0xF001C 7 0 * 3600) | none => s
    let s2 := s1.each s1.histRecsNow (fun s r => s.histPut r.1 r.2.1 r.2.2)
    (s2.modMe (fun m => { m with far := [], leafs := [] })).modCellar (fun c => { c with histAt := s1.histSec })

/-! ## The erase (R351) -/

/-- A reservation is queued: a raise waits or runs, or an operation is held. -/
def State.reservationQueued (s : State) : Bool :=
  s.cellar.raises != [] || s.cellar.raising.isSome || s.cellar.held != []

/-- CEL_ERASE after the key of the same source: refused while a cell is not OFF, the bind table holds a member or a reservation is queued; else
the erase begins, and KA_VALID clears (R345). -/
def opCelErase (src : Src) (v : Bool) (s : State) : State :=
  if !v || s.celClosed || !decide (src ∈ s.cellar.eraseKey) then s
  else
    let s0 := s.modCellar (fun c => { c with eraseKey := c.eraseKey.filter (fun x => !decide (x = src)) })
    if (s.cellsWith .mary (fun c => decide (c.ts ≠ .off))) != [] || (s.root .mary).binds != [] || s.reservationQueued then
      s0.refuse .mary 0xF0108
    else s0.modCellar (fun c => { c with busy := true, queue := [], ka := { c.ka with valid := false } })

/-- The block counts after an erase has written every word outside WEAR. -/
def wearErased (w : Sparse Nat) : Sparse Nat :=
  (List.range 2048).filterMap (fun b =>
    let n := (sget w b).getD 0
    if celBlock celWear ≤ b ∧ b < celBlock celLic then (if n = 0 then none else some (b, n)) else some (b, n + 512))

/-- Words of the directory: two copies of format, chip unique ID and erase count (Table 15.1, log 70). -/
def dirWords (n : Nat) : List (Nat × W64) :=
  [0, 0x1000].flatMap (fun b => [(b, 3), (b + 1, Config.chipUid), (b + 2, BitVec.ofNat 64 n)])

/-- The erase count in DIR, read from the copy that is readable. -/
def State.eraseCount (s : State) : Nat := if s.celOk 2 then (s.celWord 2).toNat else if s.celOk 0x1002 then (s.celWord 0x1002).toNat else 0

/-- CEL_ERASE_DONE: every region but WEAR is zero, DIR holds one more erase, and the cellar waits for a chip reset. -/
def opCelEraseDone (s : State) : State :=
  if !s.cellar.busy || !s.cellar.supply then s
  else
    let w := wearErased s.cellar.wear
    let due := w.filter (fun p => decide (p.2 / 4096 ≠ (sget s.cellar.wear p.1).getD 0 / 4096))
    let s1 := s.modCellar (fun c =>
      { c with mem := c.mem.filter (fun x => decide (8 * celWear ≤ x.1 ∧ x.1 < 8 * celLic)), busy := false, wear := w,
               bad := c.bad.filter (fun x => decide (celWear ≤ x ∧ x < celLic)), histPos := 0, histAt := none })
    let s2 := s1.modCellar (fun c => { c with
      mem := (dirWords (s.eraseCount + 1) ++ due.map (fun p => (celWear + p.1, BitVec.ofNat 64 p.2))).foldl
        (fun m p => mputs m (8 * p.1) (wordLe p.2)) c.mem })
    s2.modCellar (fun c => { c with waitRst := true })

/-! ## The commands -/

/-- SUPPLY_MONITOR_TRIP: it acts whether or not PORST_N is low. -/
def execSupplyMonitorTrip (s : State) : Host.Outcome State Fault Refusal := .next (opSupplyTrip s)
/-- CELLAR_WRITE. -/
def execCellarWrite (s : State) : Host.Outcome State Fault Refusal := .next (s.live .mary opCellarWrite)
/-- RWP_SYNC. -/
def execRwpSync (src : Src) (s : State) : Host.Outcome State Fault Refusal := .next (s.access .mary src 0xF0010 (opRwpSync src))
/-- CEILING_RAISE. -/
def execCeilingRaise (s : State) : Host.Outcome State Fault Refusal := .next (s.live .mary opCeilingRaise)
/-- CEILING_RAISE_DONE. -/
def execCeilingRaiseDone (s : State) : Host.Outcome State Fault Refusal := .next (s.live .mary opCeilingDone)
/-- KA_ANCHOR. -/
def execKaAnchor (cnt rate : BitVec 48) (s : State) : Host.Outcome State Fault Refusal := .next (s.live .mary (opKaAnchor cnt rate))
/-- KA_INVALIDATE: the keep-alive domain is outside every reset (Table 16.3). -/
def execKaInvalidate (_why : KaLoss) (s : State) : Host.Outcome State Fault Refusal := .next (opKaInvalidate s)
/-- CELLAR_SCRUB. -/
def execCellarScrub (word : BitVec 20) (r : CellarScrubResult) (s : State) : Host.Outcome State Fault Refusal :=
  .next (s.live .mary (opCellarScrub word.toNat r))
/-- HIST_FILE. -/
def execHistFile (s : State) : Host.Outcome State Fault Refusal := .next (s.live .mary opHistFile)
/-- CEL_ERASE. -/
def execCelErase (src : Src) (v : Bool) (s : State) : Host.Outcome State Fault Refusal :=
  .next (s.access .mary src 0xF0008 (opCelErase src v))
/-- CEL_ERASE_DONE. -/
def execCelEraseDone (s : State) : Host.Outcome State Fault Refusal := .next (s.live .mary opCelEraseDone)

end Sys2Proof.Machine
end

