-- ==== Sys2Proof/Machine/Flags.lean ====
section
/-! DEFINITION. The flags that the registers derive from other state: advisories (R115, R325, R327, R346), fault sums (R272), and the bits of
IRQ_STAT with the interrupt lines they drive (R370, R394). -/

namespace Sys2Proof.Machine

/-- A word from its set bits. -/
def flagsOf (l : List (Nat × Bool)) : Nat := l.foldl (fun a p => if p.2 then a + 2 ^ p.1 else a) 0

/-! ## Advisories -/

/-- ADV of a leaf (Table 17.4). -/
def State.advLeaf (s : State) : Nat :=
  let d (i : Nat) : Delay := (s.cell .leaf i).dly
  flagsOf ((List.range 6).flatMap (fun i => [(i, (d i).advResid), (8 + i, (d i).advJump), (16 + i, (d i).advVoid)]) ++
    [(24, s.leaf.ch0.advLow), (25, s.leaf.ch1.advLow), (26, s.leaf.ch0.advFail), (27, s.leaf.ch1.advFail)])

/-- ADV_AB_UNTIED at a root: the follower is not LOCKED on CROSS with CONV set (R325). No message tells a leader of that state: with its CROSS cell
ACTIVE it is a free value, and without one the follower can follow nothing (log 98). -/
def State.abUntied (s : State) : Bool :=
  s.isRoot .mary &&
    !(if s.mary.sel.ctl.getLsbD 30 then s.crossSelected && decide (s.mary.sel.st = .locked) && (s.time .mary).conv
      else s.crossActive.isSome && Config.farTied s.freeCtr)

/-- ADV of a Maryel (Table 18.6). -/
def State.advMary (s : State) : Nat :=
  let x := s.mary.sel
  let any (p : Delay → Bool) : Bool := (s.cellsWith .mary (fun c => p c.dly)) != []
  flagsOf [(0, any (fun d => d.advResid)), (1, any (fun d => d.advVoid)), (2, s.mary.groups.toList.any (fun g => g.ch0.advLow)),
    (3, s.mary.groups.toList.any (fun g => g.ch0.advFail)), (4, (s.root .mary).advFlight), (5, s.abUntied), (6, x.advWide),
    (7, s.isRoot .mary && decide (x.ageEst.natAbs > s.effFld .mary 0x98328 15 0)),
    (8, s.isRoot .mary && decide (x.days > 0) && decide (((x.kDay.toNat : Int) - nominalK.toNat).natAbs * 2000000 > 2 ^ 41)),
    (9, decide (s.wearMax.1 > 80000000000))]

/-- ADV of a node. -/
def State.advOf (s : State) : NodeSel → Nat
  | .leaf => s.advLeaf
  | .mary => s.advMary

/-! ## Fault sums (R272) -/

/-- GRP_SUM_g. -/
def State.grpSum (s : State) (g : Nat) : Nat := flagsOf ((List.range 5).map (fun i => (i, decide ((s.cell .mary (5 * g + i)).err ≠ 0))))

/-- Group `g`. -/
def State.group (s : State) (g : Nat) : Group := vget s.mary.groups g { ch0 := .reset, err := 0, left := 0 }
/-- Quadrant `q`. -/
def State.quad (s : State) (q : Nat) : Quad := vget s.mary.quads q { err := 0, held := false }

/-- QUAD_SUM_q: bit g for a group of the quadrant (R392). -/
def State.quadSum (s : State) (q : Nat) : Nat :=
  flagsOf ((List.range 5).map (fun j => (5 * q + j, decide (s.grpSum (5 * q + j) ≠ 0 ∨ (s.group (5 * q + j)).err ≠ 0))))

/-- CHIP_SUM. -/
def State.chipSum (s : State) : Nat := flagsOf ((List.range 4).map (fun q => (q, decide (s.quadSum q ≠ 0 ∨ (s.quad q).err ≠ 0))))

/-! ## IRQ_STAT -/

/-- IRQ_STAT of the leaf (Table 17.2). -/
def State.irqLeaf (s : State) : W32 :=
  let l := s.leaf
  let en (v off : Nat) : Bool := decide (v &&& (s.reg .leaf off).toNat ≠ 0)
  s.leafN.irq ||| BitVec.ofNat 32 (flagsOf
    [(0, decide (s.leafN.time.evt ≠ 0)), (1, en s.advLeaf 0x10A4), (3, l.stat.done), (4, l.freq.done), (8, l.prick.fatal),
     (12, l.seed.done || l.seed.err), (17, decide (l.landStat ≠ 0)), (18, decide (l.gate.refused ≠ 0)),
     (22, s.leafN.bs.done || s.leafN.bs.refd), (23, en l.err.toNat 0x34), (24, en l.alarm.toNat 0x3C),
     (26, decide (s.leafN.root.evt ≠ 0))])

/-- IRQ_STAT of the Maryel (Table 18.5). -/
def State.irqMary (s : State) : W32 :=
  let m := s.mary
  s.maryN.irq ||| BitVec.ofNat 32 (flagsOf
    [(0, decide (s.chipSum ≠ 0 ∨ m.chipErr ≠ 0)), (1, decide (m.alarm.toNat &&& s.fld .mary 0x7C02C 2 0 ≠ 0)),
     (4, decide (s.advMary &&& (s.reg .mary 0x7E0A4).toNat ≠ 0)), (5, decide (s.maryN.time.evt ≠ 0)), (6, decide (m.sel.evt ≠ 0)),
     (7, decide (s.maryN.root.evt ≠ 0)), (10, decide (m.profErr ≠ 0) || s.maryN.bs.done || s.maryN.bs.refd),
     (11, decide (m.licLost ≠ 0))])

/-- qhp_irq (R370). -/
def State.qhpIrq (s : State) : Bool := decide (s.irqLeaf &&& s.reg .leaf 0x24 ≠ 0)

/-- The permission class of a bit of IRQ_STAT (Table 18.5). -/
def irqClass (b : Nat) : Nat :=
  if b < 4 then 1 else if b < 7 then 3 else if b = 7 then 4 else if b = 8 then 5 else if b = 9 then 6 else if b = 10 then 7
  else if b = 11 then 8 else if b = 12 then 9 else 0

/-- The bits of IRQ_STAT whose class a host may read (R394). -/
def State.irqMask (s : State) (h : Fin 4) : W32 :=
  BitVec.ofNat 32 (flagsOf ((List.range 14).map (fun b => (b, (s.permOf (.host h)).getLsbD (2 * irqClass b)))))

/-- IRQ_N_n is low (R394). -/
def State.irqN (s : State) (h : Fin 4) : Bool :=
  decide (s.irqMary &&& s.reg .mary (0x7D040 + 4 * h.val) &&& s.irqMask h ≠ 0)

/-- ALARM_N is low (R279). -/
def State.alarmN (s : State) : Bool := s.mary.silent || decide (s.mary.alarm.toNat &&& s.fld .mary 0x7C02C 2 0 ≠ 0)

end Sys2Proof.Machine
end

