-- ==== Sys2Proof/Machine/Bits.lean ====
section
/-! DEFINITION. Trellis bitstreams: their format and the checks of Table 13.5 (R286 to R288), full loads (R289), patches (R290, R362), and the
bitstream port of a node (R384, R402). A failed check is a code of Table 13.5 with the byte offset where it fails. -/

namespace Sys2Proof.Machine

/-! ## The format (R286, R287) -/

/-- A failed check: its code and byte offset. -/
abbrev BsFail := Nat × Nat

/-- A section: the offset of its head, TYPE, and body. -/
structure BsSec where
  at_  : Nat
  type : Nat
  body : List Byte
  deriving DecidableEq, Repr

/-- What a check is made against: the node, whether only a full load will do, and the profile's SIGN_REQ and SIGNKEY_HASH where a profile
governs. -/
structure BsJudge where
  node : NodeSel
  full : Bool
  sign : Option (Bool × BitVec 384)
  deriving DecidableEq, Repr

/-- FLAGS bit `i` of a header (Table 13.2). -/
def bsFlag (l : List Byte) (i : Nat) : Bool := (beField l 7 1).testBit i

/-- Does the CRC after bytes `a` to `a + n - 1` match, its bytes placed least significant first (R51, R286)? -/
def crcHolds (l : List Byte) (a n : Nat) : Bool :=
  decide (a + n + 4 ≤ l.length) && decide ((crc32 ((l.drop a).take n)).toNat = beNat ((l.drop (a + n)).take 4).reverse)

/-- The sections from offset `o` on, or the first break of check 2: a section beyond the end, a CRC that fails, or bytes left over. -/
def bsSections (l : List Byte) : Nat → Nat → List BsSec → Except BsFail (List BsSec)
  | 0, o, acc => if o = l.length then .ok acc.reverse else .error (2, o)
  | n + 1, o, acc =>
    let len := beField l (o + 4) 4
    if o + 12 + len > l.length then .error (2, o + 4)
    else if !crcHolds l o (8 + len) then .error (2, o + 8 + len)
    else bsSections l n (o + 12 + len) ({ at_ := o, type := beField l o 2, body := (l.drop (o + 8)).take len } :: acc)

/-- The first of several checks that fails. -/
def firstFail (l : List (Bool × BsFail)) : Option BsFail := (l.find? (fun p => p.1)).map Prod.snd

/-- Checks 1 and 2 over the header. -/
def bsHead (l : List Byte) (tooMany : Bool) : Option BsFail :=
  firstFail [(decide (beField l 0 4 ≠ 0x51545253), (1, 0)), (decide (beField l 4 2 ≠ 3), (1, 4)), (tooMany, (2, 24)),
    (!crcHolds l 0 60, (2, 60)), (decide (beField l 24 4 ≠ l.length), (2, 24))]

/-- The chip unique ID of a node; a leaf has none, so BIND_UID fails there (log 71). -/
def uidOf : NodeSel → Option Nat
  | .leaf => none
  | .mary => some Config.chipUid.toNat

/-- Check 3. -/
def bsTarget (l : List Byte) (k : NodeSel) : Option BsFail :=
  firstFail [(decide (beField l 6 1 ≠ (match k with | .leaf => 0 | .mary => 1)), (3, 6)),
    (bsFlag l 2 && !decide (uidOf k = some (beField l 8 8)), (3, 8))]

/-- The section types of a kind and target (Table 13.3): those allowed, and those required. -/
def bsTypes (k : NodeSel) (patch : Bool) : List Nat × List Nat :=
  if patch then ([0x13, 0x15, 0xFF], [])
  else match k with
    | .leaf => ([2, 3, 4, 5, 0xFF], [2, 3])
    | .mary => ([1, 3, 4, 5, 0xFF], [1, 3])

/-- Is LEN one that a section's body has (Table 13.3)? -/
def bsLenOk (k : NodeSel) (x : BsSec) : Bool :=
  let n := x.body.length
  match x.type with
  | 1 => n == 4
  | 2 => n == 4
  | 3 => n == 4 * cellCount k
  | 4 => n == 64
  | 0xFF => n == 196
  | _ => n % 8 == 0

/-- Zero fields and reserved values of a cell record (Table 13.4). -/
def cellRecBad (w : Nat) : Bool := decide (w % 2 ^ 22 ≠ 0 ∨ w / 2 ^ 29 > 3)

/-- Zero bits of a route record (R287). -/
def routeRecBad (r : List Byte) (patch : Bool) : Bool :=
  let lim := if (beField r 7 1).testBit 0 then 2 ^ 16 else 2 ^ 20
  decide (beField r 0 3 ≥ lim ∨ beField r 3 3 ≥ lim ∨ beField r 7 1 ≥ (if patch then 4 else 2))

/-- The records of `n` bytes of a body, with their offsets. -/
def records (n : Nat) (x : BsSec) : List (Nat × List Byte) :=
  (List.range (x.body.length / n)).map (fun i => (x.at_ + 8 + n * i, (x.body.drop (n * i)).take n))

/-- Where a section's body breaks check 4, if it does. -/
def secBodyBad (k : NodeSel) (x : BsSec) : Option Nat :=
  match x.type with
  | 1 => if beField x.body 0 4 % 2 ^ 28 ≠ 0 then some (x.at_ + 8) else none
  | 2 => if beField x.body 0 4 % 2 ^ 29 ≠ 0 then some (x.at_ + 8) else none
  | 3 => ((records 4 x).find? (fun r => cellRecBad (beNat r.2))).map Prod.fst
  | 5 => ((records 8 x).find? (fun r => routeRecBad r.2 false)).map Prod.fst
  | 0x13 => ((records 8 x).find? (fun r => decide (beField r.2 0 1 ≥ cellCount k ∨ beField r.2 1 3 ≠ 0) || cellRecBad (beField r.2 4 4))).map Prod.fst
  | 0x15 => ((records 8 x).find? (fun r => routeRecBad r.2 true)).map Prod.fst
  | 0xFF => if beField x.body 97 3 ≠ 0 then some (x.at_ + 8 + 97) else none
  | _ => none

/-- Check 4 of one section, with the sections before it. -/
def secBad (l : List Byte) (k : NodeSel) (patch : Bool) (before : List BsSec) (x : BsSec) : Option BsFail :=
  let hd := [(!(bsTypes k patch).1.contains x.type || before.any (fun y => y.type == x.type) || before.any (fun y => y.type == 0xFF), (4, x.at_)),
    (decide (beField l (x.at_ + 2) 2 ≠ 0), (4, x.at_ + 2)), (!bsLenOk k x, (4, x.at_ + 4))]
  match firstFail hd with
  | some e => some e
  | none => (secBodyBad k x).map (fun o => (4, o))

/-- Check 4 of the sections in order. -/
def secsBad (l : List Byte) (k : NodeSel) (patch : Bool) : List BsSec → List BsSec → Option BsFail
  | _, [] => none
  | before, x :: xs =>
    match secBad l k patch before x with
    | some e => some e
    | none => secsBad l k patch (before ++ [x]) xs

/-- Check 4: zero fields of the header, the sections, and the required ones. -/
def bsForm (l : List Byte) (j : BsJudge) (secs : List BsSec) : Option BsFail :=
  let patch := bsFlag l 1
  let nid := beField l 16 4
  let lim := match j.node with | .leaf => 2 ^ 20 | .mary => 2 ^ 16
  match firstFail [(decide (beField l 7 1 ≥ 8) || (j.full && patch), (4, 7)), (!bsFlag l 2 && decide (beField l 8 8 ≠ 0), (4, 8)),
      (decide (nid ≥ lim), (4, 16)), (decide (beNat ((l.drop 30).take 30) ≠ 0), (4, 30))] with
  | some e => some e
  | none => match secsBad l j.node patch [] secs with
    | some e => some e
    | none => if (bsTypes j.node patch).2.all (fun t => secs.any (fun x => x.type == t)) then none else some (4, 28)

/-! ## The configuration and its checks (R285, Tables 13.3 to 13.5) -/

/-- A section by its type. -/
def secOf (secs : List BsSec) (t : Nat) : Option BsSec := secs.find? (fun x => x.type == t)

/-- A cell record (Table 13.4). -/
def cellRec (w : Nat) : CellCfg :=
  { role := BitVec.ofNat 3 (w / 2 ^ 29), dom := if w.testBit 28 then .b else .a, short := w.testBit 27,
    form := BitVec.ofNat 3 (w / 2 ^ 24), lclass := BitVec.ofNat 2 (w / 2 ^ 22) }

/-- A route record (R287). -/
def routeRec (r : List Byte) : Route :=
  { lo := BitVec.ofNat 20 (beField r 0 3), hi := BitVec.ofNat 20 (beField r 3 3), cell := beField r 6 1, mary := (beField r 7 1).testBit 0 }

/-- A configuration: what Table 13.5 judges beyond a bitstream's form. -/
structure BsConf where
  dom    : Dom
  root   : Bool
  island : Bool
  cells  : List CellCfg
  routes : List Route
  deriving DecidableEq, Repr

/-- The configuration that a full bitstream gives. -/
def confOf (k : NodeSel) (secs : List BsSec) : BsConf :=
  let w := match secOf secs (match k with | .leaf => 2 | .mary => 1) with | some x => beField x.body 0 4 | none => 0
  { dom := if k = .mary ∧ w.testBit 31 then .b else .a, root := decide (k = .mary) && w.testBit 30, island := decide (k = .leaf) && w.testBit 31,
    cells := match secOf secs 3 with | some x => (records 4 x).map (fun r => cellRec (beNat r.2)) | none => [],
    routes := match secOf secs 5 with | some x => (records 8 x).map (fun r => routeRec r.2) | none => [] }

/-- Where a configuration breaks a check: nowhere in particular, at a cell record, or at a route record. -/
inductive BsSpot | whole | cell (i : Nat) | route (i : Nat)
  deriving DecidableEq, Repr

/-- How many cells have a property. -/
def countCells (c : BsConf) (p : CellCfg → Bool) : Nat := (c.cells.filter p).length

/-- Check 5: the UP, CROSS and ROOT rules of a Maryel; of a leaf, all OFF or one UP of each domain, unless it is an island. -/
def rolesBroken (k : NodeSel) (c : BsConf) : Bool :=
  let n (r : BitVec 3) : Nat := countCells c (fun x => decide (x.role = r))
  match k with
  | .mary => (if c.root then decide (n 1 ≠ 0 ∨ n 3 ≠ 1) else decide (n 1 ≠ 1 ∨ n 3 ≠ 0)) ||
      c.cells.any (fun x => decide (x.role ≠ 0 ∧ x.dom ≠ c.dom))
  | .leaf => decide (n 3 ≠ 0) ||
      !(c.island || decide (n 0 = c.cells.length) ||
        decide (countCells c (fun x => decide (x.role = 1 ∧ x.dom = .a)) = 1 ∧ countCells c (fun x => decide (x.role = 1 ∧ x.dom = .b)) = 1))

/-- Is cell `i` built in X-form: every cell of a Maryel, and those of XFORM in a leaf (Table 17.2)? -/
def isXform (k : NodeSel) (i : Nat) : Bool :=
  match k with
  | .leaf => Config.xform.getLsbD i
  | .mary => true

/-- Check 9 of one cell. -/
def formBroken (k : NodeSel) (i : Nat) (x : CellCfg) : Bool :=
  if isXform k i then decide (x.lclass = 3) else decide (x.form ≠ 0 ∨ x.lclass ≠ 3) || x.short

/-- Do two route records of one KIND overlap? -/
def routesMeet (x y : Route) : Bool := decide (x.mary = y.mary ∧ x.lo.toNat ≤ y.hi.toNat ∧ y.lo.toNat ≤ x.hi.toNat)

/-- Check 10 of route record `i`. -/
def routeBroken (c : BsConf) (i : Nat) (r : Route) : Bool :=
  !(match c.cells[r.cell]? with | some x => decide (x.role = 2) | none => false) || decide (r.lo.toNat > r.hi.toNat) ||
    (c.routes.take i).any (routesMeet r)

/-- Route records that a node holds (Table 13.3). -/
def routeCap : NodeSel → Nat
  | .leaf => 64
  | .mary => 4096

/-- Leaf IDs that a route table gives. -/
def leafIds (l : List Route) : Nat := (l.filter (fun r => !r.mary)).foldl (fun a r => a + (r.hi.toNat + 1 - r.lo.toNat)) 0

/-- Cells with DRIVE = FULL that a grade allows (Table 13.10). -/
def fullCap : Nat := if Config.gradeE then 64 else 100

/-- Checks 5 to 11 of a configuration. -/
def State.confBad (s : State) (k : NodeSel) (c : BsConf) : Option (Nat × BsSpot) :=
  let on := countCells c (fun x => decide (x.role ≠ 0))
  if rolesBroken k c then some (5, .whole)
  else if c.island ∧ countCells c (fun x => decide (x.role = 1)) ≠ 0 then some (6, .whole)
  else if k = .mary ∧ on > s.mary.lic.portTier then some (7, .whole)
  else if k = .mary ∧ countCells c (fun x => decide (x.role ≠ 0) && !x.short) > fullCap then some (8, .whole)
  else match c.cells.zipIdx.find? (fun p => formBroken k p.2 p.1) with
    | some p => some (9, .cell p.2)
    | none => match c.routes.zipIdx.find? (fun p => routeBroken c p.2 p.1) with
      | some p => some (10, .route p.2)
      | none => if c.routes.length > routeCap k then some (10, .route (routeCap k))
        else if leafIds c.routes > 2 ^ 20 then some (11, .whole) else none

/-- The byte offset of a spot of a full bitstream. -/
def spotAt (secs : List BsSec) : BsSpot → Nat
  | .whole => match secOf secs 3 with | some x => x.at_ + 8 | none => 0
  | .cell i => match secOf secs 3 with | some x => x.at_ + 8 + 4 * i | none => 0
  | .route i => match secOf secs 5 with | some x => x.at_ + 8 + 8 * i | none => 0

/-- Check 12: the signature, and what the governing profile demands. -/
def bsSign (l : List Byte) (j : BsJudge) (secs : List BsSec) : Option BsFail :=
  match secOf secs 0xFF with
  | none => if bsFlag l 0 || (match j.sign with | some p => p.1 | none => false) then some (12, 7) else none
  | some x =>
    let key := x.body.take 97
    firstFail [(!bsFlag l 0, (12, x.at_)),
      (match j.sign with | some p => decide (Config.sha384 key ≠ p.2) | none => false, (12, x.at_ + 8)),
      (!Config.signatureOk (l.take x.at_) (x.body.drop 100) (beNat key), (12, x.at_ + 8 + 100))]

/-! ## Patches (R290, R305, R362) -/

/-- The patch that a bitstream gives, accepted at an RC. -/
def patchOf (l : List Byte) (secs : List BsSec) (rc : W64) : Patch :=
  { serial := BitVec.ofNat 32 (beField l 20 4), accepted := rc,
    cells := match secOf secs 0x13 with | some x => (records 8 x).map (fun r => (beField r.2 0 1, cellRec (beField r.2 4 4))) | none => [],
    routes := match secOf secs 0x15 with | some x => (records 8 x).map (fun r => ((beField r.2 7 1).testBit 1, routeRec r.2)) | none => [] }

/-- The configuration in effect. -/
def State.confNow (s : State) (k : NodeSel) : BsConf :=
  let c := s.cfg k
  { dom := c.dom, root := c.root, island := c.island, cells := (List.range (cellCount k)).map (fun i => (s.cell k i).cfg), routes := c.routes }

/-- One route change of a patch: a record removed, or added. -/
def routeChange (l : List Route) (p : Bool × Route) : List Route := if p.1 then l.filter (fun r => !decide (r = p.2)) else l ++ [p.2]

/-- A configuration after a patch. -/
def BsConf.patched (c : BsConf) (p : Patch) : BsConf :=
  { c with cells := p.cells.foldl (fun l x => l.set x.1 x.2) c.cells, routes := p.routes.foldl routeChange c.routes }

/-- The configuration and SERIAL against which a further patch is judged: after the patches that wait (R305). -/
def State.confAhead (s : State) (k : NodeSel) : BsConf × W32 :=
  (s.bs k).patches.foldl (fun a p => (a.1.patched p, p.serial)) (s.confNow k, (s.cfg k).serial)

/-- Check 13. -/
def State.patchBad (s : State) (k : NodeSel) (l : List Byte) (secs : List BsSec) : Option BsFail :=
  let p := patchOf l secs 0
  let a := s.confAhead k
  if p.serial.toNat ≤ a.2.toNat then some (13, 20)
  else if beField l 16 4 ≠ (s.cfg k).nodeId.toNat then some (13, 16)
  else match s.confBad k (a.1.patched p) with
    | some _ => some (13, 64)
    | none => none

/-! ## The whole check (R288) -/

/-- Checks 3 to 13 of a bitstream whose form stands. -/
def State.bsRest (s : State) (l : List Byte) (j : BsJudge) (secs : List BsSec) : Option BsFail :=
  match bsTarget l j.node with
  | some e => some e
  | none => match bsForm l j secs with
    | some e => some e
    | none =>
      match (if bsFlag l 1 then none else s.confBad j.node (confOf j.node secs)) with
      | some e => some (e.1, spotAt secs e.2)
      | none => match bsSign l j secs with
        | some e => some e
        | none => if bsFlag l 1 then s.patchBad j.node l secs else none

/-- The checks of Table 13.5 in order: the sections of a bitstream that passes, or the first failure. -/
def State.bsCheck (s : State) (l : List Byte) (tooMany : Bool) (j : BsJudge) : Except BsFail (List BsSec) :=
  match bsHead l tooMany with
  | some e => .error e
  | none => match bsSections l (beField l 28 2) 64 [] with
    | .error e => .error e
    | .ok secs => match s.bsRest l j secs with
      | some e => .error e
      | none => .ok secs

/-! ## Application (R289, R362) -/

/-- A register takes a value at once, in effect too. -/
def State.putReg (s : State) (k : NodeSel) (off : Nat) (v : W32) : State :=
  s.modNode k (fun N => { N with regs := sput N.regs off v, eff := sput N.eff off v, effB := sput N.effB off v })

/-- The asymmetry table: the section's forms, else those of Table 5.2 (R108, R289). -/
def State.putAsym (s : State) (k : NodeSel) (x : Option BsSec) : State :=
  s.each (List.range 16) (fun s i =>
    let off := tOff k (0x1140 + 4 * i)
    s.putReg k off (match x with | some x => BitVec.ofNat 32 (beField x.body (4 * i) 4) | none => regReset k off))

/-- ARB_MODE of a node (Tables 17.12, 18.8). -/
def offArbMode : NodeSel → Nat
  | .leaf => 0xE04C
  | .mary => 0x90300

/-- A node that becomes, or ceases to be, an island root (R39, R354): both domains of an island are in TRACK with O = 0 at RC = 0. -/
def State.setIsland (s : State) (was now : Bool) : State :=
  if now && !was then
    s.modTime .leaf (fun t =>
      let f (x : DomCore) : DomCore := { x.clear .track with set := .reset, prev := .reset }
      { t with domA := f t.domA, domB := f t.domB, read := .reset, active := .a, fold := none, noht := false, pll := .refclk, frozen := false,
               conv := true })
  else if was && !now then (s.modTime .leaf (fun t => { t with domA := t.domA.clear .off, domB := t.domB.clear .off })).dropConv .leaf
  else s

/-- Every cell of the node is OFF. -/
def State.allOff (s : State) (k : NodeSel) : Bool := (s.cellsWith k (fun c => decide (c.ts ≠ .off))) == []

/-- Cells take their records; PORT_EN follows the roles in a Maryel, and a cell that may trains (R289, R357). -/
def State.putCells (s : State) (k : NodeSel) (l : List CellCfg) : State :=
  s.each l.zipIdx (fun s p => s.modCell k p.2 (fun c =>
    Cell.start { c with cfg := p.1, portEn := if k = .mary then decide (p.1.role ≠ 0) else c.portEn } (s.rc k)))

/-- A leaf without a DOWN cell has its membership whole (R382). -/
def State.putMembValid (s : State) (k : NodeSel) : State :=
  if k = .leaf ∧ (s.cellsWith .leaf (fun c => decide (c.cfg.role = 2))) = [] then s.modNode .leaf (fun N => { N with membValid := true }) else s

/-- DOM_EN of a Maryel's domain is set; at a leaf a domain already enabled starts where its UP role now exists (R289, Table 2.2). -/
def State.putDoms (s : State) (k : NodeSel) : State :=
  match k with
  | .mary => opDomEn1 .mary (s.cfg .mary).dom true s
  | .leaf => s.each [Dom.a, Dom.b] (fun s d => if s.domEnabled .leaf d then s.domStart .leaf d else s)

/-- A root whose domain has no HT runs at nominal K (Table 14.5). -/
def State.putRootK0 (s : State) (k : NodeSel) : State :=
  if k = .mary ∧ (s.cfg .mary).root then
    s.modDom .mary s.rootDom (fun x => if x.set.rate = 0 then x.stepTo (s.rc .mary) { CorrSet.reset with anchor := s.rc .mary } else x)
  else s

/-- A full load (R289). -/
def State.applyFull (s : State) (k : NodeSel) (l : List Byte) (secs : List BsSec) : State :=
  let c := confOf k secs
  let w := match secOf secs (match k with | .leaf => 2 | .mary => 1) with | some x => beField x.body 0 4 | none => 0
  let fix := match k with | .leaf => w.testBit 30 | .mary => w.testBit 29
  let arb := match k with | .leaf => w.testBit 29 | .mary => w.testBit 28
  let was := (s.cfg k).island
  let s1 := s.modNode k (fun N => { N with cfg :=
    { loaded := true, nodeId := BitVec.ofNat 20 (beField l 16 4), dom := c.dom, root := c.root, island := c.island, fixlat := fix,
      serial := BitVec.ofNat 32 (beField l 20 4), routes := c.routes } })
  let s2 := ((s1.putAsym k (secOf secs 4)).putReg k (offArbMode k) (BitVec.ofNat 32 (b01 arb))).putCells k c.cells
  let s3 := if k = .leaf then s2.setIsland was c.island else s2.putRootK0 k
  (s3.putDoms k).putMembValid k

/-- One cell under a patch: a changed role, domain or drive takes it to OFF, and a changed form or class alone keeps its training state
(R362). -/
def State.patchCell (s : State) (k : NodeSel) (i : Nat) (c : CellCfg) : State :=
  let old := (s.cell k i).cfg
  if old.role = c.role ∧ old.dom = c.dom ∧ old.short = c.short then
    let s1 := s.modCell k i (fun x => { x with cfg := c })
    let s2 := if (s1.cell k i).dly.n > 0 ∧ c.dom = (match k with | .leaf => (s.time .leaf).active | .mary => (s.cfg .mary).dom) then s1.takeDelay k i
      else s1
    s2.modDly k i (fun d => d.judge c.lclass)
  else
    let s1 := if (s.cell k i).ts = .off then s else s.cellTo k i .off id
    s1.modCell k i (fun x =>
      let en := if k = .mary ∧ old.role = 0 then decide (c.role ≠ 0) || x.portEn else if k = .mary ∧ c.role = 0 then false else x.portEn
      Cell.start { x with cfg := c, portEn := en } (s.rc k))

/-- The node a directed message is for, by its first token: no answer for a message that has started, or that goes to all (R58). -/
def destOf (m : Tokens) : Option (Bool × Id20) :=
  match m with
  | [] => none
  | t :: _ =>
    let b := tokBody t
    if tokSeg t > 1 then none
    else if tokType t = 0x30 then (if b.getLsbD 47 then none else some (b.getLsbD 46, b.extractLsb' 21 20))
    else if 0x20 ≤ tokType t ∧ tokType t < 0x24 ∧ !b.getLsbD 15 then some (false, b.extractLsb' 16 20)
    else none

/-- Where a message that waits at DOWN cell `i` belongs under the route table now: there, elsewhere, or nowhere (R59, R362). -/
def State.newPorts (s : State) (k : NodeSel) (i : Nat) (m : Tokens) : List Nat :=
  match destOf m with
  | none => [i]
  | some d => (s.routePorts k d.1 d.2).filter (fun p => decide (p ∈ s.downCells k (s.cell k i).cfg.dom))

/-- The waiting messages of a DOWN cell are routed by the new table; one without a route is dropped (R362). -/
def State.reroute (s : State) (k : NodeSel) (i : Nat) : State :=
  let c := s.cell k i
  let s1 := s.modCell k i (fun x => { x with c2q := c.c2q.filter (fun m => decide (i ∈ s.newPorts k i m)),
                                             c3q := c.c3q.filter (fun m => decide (i ∈ s.newPorts k i m)) })
  let go (f : State → Nat → Tokens → State) (s : State) (m : Tokens) : State :=
    let ps := s.newPorts k i m
    if i ∈ ps then s else if ps = [] then s.dropRoute k i else s.each ps (fun s p => f s p m)
  (s1.each c.c2q (go (fun s p m => s.sendC2 k p m))).each c.c3q (go (fun s p m => s.sendC3 k p m))

/-- The messages that a root has queued for its DOWN ports are routed by the new table. -/
def State.rerouteRoot (s : State) (k : NodeSel) : State :=
  s.modRoot k (fun r => { r with c2out := r.c2out.map (fun m =>
    match destOf m.toks with
    | none => m
    | some d => if m.ports = [] then m else { m with ports := s.routePorts k d.1 d.2 }) })

/-- A patch takes effect (R290, R362). -/
def State.applyPatch (s : State) (k : NodeSel) (p : Patch) : State :=
  let downs := s.cellsWith k (fun c => decide (c.cfg.role = 2))
  let s1 := s.modNode k (fun N => { N with cfg := { N.cfg with serial := p.serial, routes := p.routes.foldl routeChange N.cfg.routes } })
  let s2 := s1.each p.cells (fun s x => s.patchCell k x.1 x.2)
  let s3 := (s2.each downs (fun s i => s.reroute k i)).rerouteRoot k
  let s4 := if k = .leaf then s3.putDoms .leaf else s3
  s4.modBs k (fun b => { b with done := true })

/-- The correction set whose multiples of 1,024 ns are the picots of a domain: the domain's while it has HT, and at a root always (R28,
Table 14.5). -/
def State.picotSet (s : State) (k : NodeSel) (d : Dom) : Option CorrSet :=
  if (s.time k).hasHt d || (decide (k = .mary) && (s.cfg .mary).root && decide (d = s.rootDom)) then some ((s.time k).dom d).set else none

/-- The domain whose picots apply a node's patches (R362): a Maryel's own, the active one of a leaf. -/
def State.patchDom (s : State) (k : NodeSel) : Dom :=
  match k with
  | .leaf => (s.time .leaf).active
  | .mary => s.rootDom

/-- The edge at which a patch accepted at an RC is applied: the first picot at least 2 microseconds later, or in a leaf without HT the first
edge with RC = 0 mod 512; none while the domain has no picots. -/
def State.patchEdge (s : State) (k : NodeSel) (accepted : W64) : Option W64 :=
  let e := accepted + 1000
  let now := s.rc k
  if k = .leaf ∧ (s.time .leaf).noht then some (nextSlot (if e.toNat < now.toNat then now else e) 512 0)
  else match s.picotSet k (s.patchDom k) with
    | none => none
    | some c =>
      match ((s.time k).dom (s.patchDom k)).picotAt with
      | some r => if e.toNat ≤ r.toNat ∧ e.toNat ≤ now.toNat then some now
                  else if now.toNat < e.toNat then some (c.edgeOf e (c.nextPicot (e - 1))) else some (c.edgeOf now (c.nextPicot now))
      | none => if now.toNat < e.toNat then some (c.edgeOf e (c.nextPicot (e - 1))) else some (c.edgeOf now (c.nextPicot now))

/-- PATCH_APPLY: the first waiting patch, at its picot (R362). -/
def opPatchApply (k : NodeSel) (s : State) : State :=
  match (s.bs k).patches with
  | [] => s
  | p :: rest =>
    match s.patchEdge k p.accepted with
    | none => s
    | some e => ((s.advTo k e).modBs k (fun b => { b with patches := rest })).applyPatch k p

/-! ## Profiles as the cellar holds them (R291, Table 15.1; log 70) -/

/-- The first word of copy `c` of profile `n`. -/
def profWord (n c : Nat) : Nat := celProf + 32768 * n + 16384 * c

/-- A profile's contents (R291). -/
structure Prof where
  serial : W32
  refCtl : W32
  ents   : List W64
  perms  : List W32
  sign   : Bool
  hash   : BitVec 384
  bits   : List Byte
  deriving DecidableEq, Repr

/-- Bytes of a number, most significant first. -/
def beBytes (n x : Nat) : List Byte := (List.range n).map (fun i => BitVec.ofNat 8 (x / 256 ^ (n - 1 - i)))

/-- The bytes of a profile before its CRC: length of the bitstream, serial, reference table, permissions, signing rule, 16 zero bytes, bitstream. -/
def Prof.bytes (p : Prof) : List Byte :=
  beBytes 4 p.bits.length ++ beBytes 4 p.serial.toNat ++ beBytes 4 p.refCtl.toNat ++ p.ents.flatMap (fun w => beBytes 8 w.toNat) ++
    p.perms.flatMap (fun w => beBytes 4 w.toNat) ++ beBytes 4 (b01 p.sign) ++ beBytes 48 p.hash.toNat ++ List.replicate 16 0 ++ p.bits

/-- Bytes of a profile with its CRC, placed as R51 places the frame check sequence. -/
def Prof.stored (p : Prof) : List Byte := p.bytes ++ (beBytes 4 (crc32 p.bytes).toNat).reverse

/-- Copy `c` of profile `n` as the cellar holds it, when every word of it is readable and its CRC passes. -/
def State.profCopy (s : State) (n c : Nat) : Option Prof :=
  let h := s.celBytes (profWord n c) 20
  let len := beField h 0 4
  if len > 65536 then none
  else
    let words := (160 + len + 4 + 7) / 8
    let l := s.celBytes (profWord n c) words
    if s.celAllOk (profWord n c) words && crcHolds l 0 (160 + len) then
      some { serial := BitVec.ofNat 32 (beField l 4 4), refCtl := BitVec.ofNat 32 (beField l 8 4),
             ents := (List.range 8).map (fun i => BitVec.ofNat 64 (beField l (12 + 8 * i) 8)),
             perms := (List.range 4).map (fun i => BitVec.ofNat 32 (beField l (76 + 4 * i) 4)), sign := decide (beField l 92 4 ≠ 0),
             hash := BitVec.ofNat 384 (beField l 96 48), bits := (l.drop 160).take len }
    else none

/-- Profile `n`: of its two copies the readable one, the later where they differ (R293, Table 15.5). -/
def State.profAt (s : State) (n : Nat) : Option Prof :=
  match s.profCopy n 0, s.profCopy n 1 with
  | some a, some b => some (if b.serial.toNat > a.serial.toNat then b else a)
  | some a, none => some a
  | none, b => b

/-- The signing rule of the profile in use: none while no profile is in use. -/
def State.signRule (s : State) : Option (Bool × BitVec 384) := (s.profAt s.mary.profAct.val).map (fun p => (p.sign, p.hash))

/-! ## The bitstream port (R384, R402) -/

/-- The bytes of a bitstream buffer (R384, R402). -/
def bsCap : NodeSel → Nat
  | .leaf => 2048
  | .mary => 65536

/-- A register of the bitstream port at a node, by its leaf offset. -/
def bsOff (k : NodeSel) (off : Nat) : Nat :=
  match k with
  | .leaf => 0xF000 + off
  | .mary => 0xC0100 + off

/-- BS_START: the buffer is emptied and given to the source; while another holds it the write is ignored and counted (R386). -/
def opBsStart (k : NodeSel) (src : Src) (s : State) : State :=
  match (s.bs k).owner with
  | some x => if x = src then s.modBs k (fun b => { b with buf := [], tooMany := false }) else s.refuse k (offAccErr k)
  | none => s.modBs k (fun b => { b with buf := [], tooMany := false, owner := some src })

/-- BS_DATA: four bytes more; beyond the buffer they are discarded, and a later BS_APPLY is refused. -/
def opBsData (k : NodeSel) (src : Src) (v : W32) (s : State) : State :=
  if (s.bs k).owner ≠ some src then s.refuse k (offAccErr k)
  else if (s.bs k).buf.length + 4 > bsCap k then s.modBs k (fun b => { b with tooMany := true })
  else s.modBs k (fun b => { b with buf := b.buf ++ beBytes 4 v.toNat })

/-- A failed check of a bitstream: its code, its place and BS_REFUSED (R288). -/
def State.bsNote (s : State) (k : NodeSel) (e : BsFail) : State :=
  (s.bump k (bsOff k 0x18)).modBs k (fun b => { b with why := BitVec.ofNat 4 e.1, where_ := e.2 })

/-- A bitstream is refused: its code, its place, BS_REFD and BS_REFUSED (R288). -/
def State.bsRefuse (s : State) (k : NodeSel) (e : BsFail) : State :=
  (s.refuse k (bsOff k 0x18)).modBs k (fun b => { b with refd := true, why := BitVec.ofNat 4 e.1, where_ := e.2 })

/-- BS_APPLY: the check, then a full load while every cell is OFF, or a patch accepted for its picot; the buffer is released. -/
def opBsApply (k : NodeSel) (src : Src) (s : State) : State :=
  if (s.bs k).owner ≠ some src then s.refuse k (offAccErr k)
  else
    let l := (s.bs k).buf
    let s1 := s.modBs k (fun b => { b with owner := none })
    match s.bsCheck l (s.bs k).tooMany { node := k, full := false, sign := match k with | .leaf => none | .mary => s.signRule } with
    | .error e => s1.bsRefuse k e
    | .ok secs =>
      if bsFlag l 1 then s1.modBs k (fun b => { b with patches := b.patches ++ [patchOf l secs (s.rc k)] })
      else if !s.allOff k then s1.bsRefuse k (4, 7)
      else (s1.applyFull k l secs).modBs k (fun b => { b with done := true })

/-- BS_START. -/
def execBsStart (n : NodeSel) (src : Src) (s : State) : Host.Outcome State Fault Refusal :=
  .next (s.access n src (bsOff n 0) (opBsStart n src))
/-- BS_DATA. -/
def execBsData (n : NodeSel) (src : Src) (v : W32) (s : State) : Host.Outcome State Fault Refusal :=
  .next (s.access n src (bsOff n 4) (opBsData n src v))
/-- BS_APPLY. -/
def execBsApply (n : NodeSel) (src : Src) (s : State) : Host.Outcome State Fault Refusal :=
  .next (s.accessC n src (bsOff n 0) (opBsApply n src))
/-- PATCH_APPLY. -/
def execPatchApply (n : NodeSel) (s : State) : Host.Outcome State Fault Refusal := .next (s.liveC n (opPatchApply n))

end Sys2Proof.Machine
end

