-- ==== Sys2Proof/Machine/Mgmt.lean ====
section
/-! DEFINITION. What the hosts manage at a Maryel: profiles (R291 to R293), permissions (R298), the management engine (R299, R300) and licences
(R301, R302). -/

namespace Sys2Proof.Machine

/-! ## Loading a profile (R292, R298) -/

/-- A profile judged: its contents and the sections of its bitstream, or what fails: the check of Table 13.5, or none where the CRC of the profile
fails (R292). -/
def State.profJudge (s : State) (n : Nat) : Except (Option BsFail) (Prof × List BsSec) :=
  match s.profAt n with
  | none => .error none
  | some p =>
    match s.bsCheck p.bits false { node := .mary, full := true, sign := some (p.sign, p.hash) } with
    | .error e => .error (some e)
    | .ok secs => .ok (p, secs)

/-- Is profile `n` valid (R291)? -/
def State.profValid (s : State) (n : Nat) : Bool := match s.profJudge n with | .ok _ => true | .error _ => false

/-- The table as staged for the next REF_APPLY reads as the table in effect (R399). -/
def State.stageTable (s : State) (c : W32) (ws : List W64) : State :=
  (s.setReg .mary 0x98000 c).each (List.range 8) (fun s i => s.setReg64 .mary (0x98008 + 8 * i) (ws.getD i 0))

/-- The reference table of a profile: a root refuses a bad one, records why, and keeps every entry DISABLED (R312). -/
def State.loadTable (s : State) (c : W32) (ws : List W64) : State :=
  let w := refCheck c ws
  if s.isRoot .mary ∧ w ≠ 0 then
    let s1 := ((s.bump .mary 0x98404).modSel (fun x => { x with why := w })).putTable s.mary.sel.ctl (List.replicate 8 0)
    s1.stageTable s.mary.sel.ctl (List.replicate 8 0)
  else (s.putTable c ws).stageTable c ws

/-- HOST_PERM_0 to 3 take values (R298). -/
def State.putPerms (s : State) (l : List W32) : State :=
  s.each l.zipIdx (fun s p => s.setReg .mary (0x7D000 + 4 * p.2) p.1)

/-- PORT_EN of every cell is clear. -/
def State.clearPortEn (s : State) : State := s.each (List.range 100) (fun s i => s.modCell .mary i (fun c => { c with portEn := false }))

/-- A profile is loaded: permissions, bitstream and reference table; one that is not valid leaves every cell OFF, sets PROF_ERR, 2 where its
CRC fails, records a failed check of its bitstream as R288 does, and gives the permissions of Table 13.7 (R288, R292, R298). -/
def State.loadProfile (s : State) (n : Fin 4) : State :=
  let s0 := s.modMary (fun m => { m with profAct := n })
  match s0.profJudge n.val with
  | .error e =>
    let s1 := match e with | some x => s0.bsNote .mary x | none => s0
    (s1.clearPortEn.putPerms ((List.range 4).map (fun i => regReset .mary (0x7D000 + 4 * i)))).modMary
      (fun m => { m with profErr := BitVec.ofNat 4 (match e with | some x => x.1 | none => 2) })
  | .ok (p, secs) =>
    let s1 := ((s0.putPerms p.perms).applyFull .mary p.bits secs).loadTable p.refCtl p.ents
    if s1.isRoot .mary then s1.selAct else s1

/-! ## Profile commands (R293, R389, R402) -/

/-- A staged register of the source (R389). -/
def SrcBuf.staged (b : SrcBuf) (off : Nat) : W32 := (sget b.sel off).getD 0

/-- The profile that a source has staged. -/
def SrcBuf.profOf (b : SrcBuf) (serial : W32) : Prof :=
  { serial := serial, refCtl := b.staged 0xC0010, ents := (List.range 8).map (fun i => b.staged (0xC001C + 8 * i) ++ b.staged (0xC0018 + 8 * i)),
    perms := (List.range 4).map (fun i => b.staged (0xC0060 + 4 * i)), sign := (b.staged 0xC0070).getLsbD 0,
    hash := BitVec.ofNat 384 ((List.range 12).foldl (fun a i => a + (b.staged (0xC0080 + 4 * i)).toNat * 2 ^ (32 * i)) 0),
    bits := b.prof.flatMap (fun w => beBytes 4 w.toNat) }

/-- PROF_CLR: the staging buffer, its words and its fields, is emptied (R389, R402). -/
def opProfClr (src : Src) (s : State) : State :=
  (opBufClr .mary src .prof s).modSrcBuf .mary src (fun b => { b with sel := b.sel.filter (fun p => !decide (0xC0000 ≤ p.1 ∧ p.1 < 0xC0100)) })

/-- PROF_CHECK: Table 13.5 on the staged bitstream, reported in BS_WHY and BS_WHERE, 0 where it passes; a failure counts in BS_REFUSED (R288,
R293). -/
def opProfCheck (src : Src) (s : State) : State :=
  let b := s.srcBuf .mary src
  let p := b.profOf 0
  match s.bsCheck p.bits (b.full .prof) { node := .mary, full := true, sign := some (p.sign, p.hash) } with
  | .error e => s.bsNote .mary e
  | .ok _ => s.modBs .mary (fun x => { x with why := 0, where_ := 0 })

/-- PROF_COMMIT: the commit of the writer's staging buffer begins; a buffer written beyond its capacity is refused with code 2, and a
second commit while one is in progress is refused (R293, R389; log 72). -/
def opProfCommit (src : Src) (n : Fin 4) (s : State) : State :=
  let b := s.srcBuf .mary src
  if b.full .prof then (s.refuse .mary 0xC0200).modBs .mary (fun x => { x with why := 2 })
  else if s.mary.profPend.isSome then s.refuse .mary 0xC0200
  else
    let serial := match s.profAt n.val with | some p => p.serial + 1 | none => 1
    s.modMary (fun m => { m with profPend := some { slot := n, bytes := (b.profOf serial).stored } })

/-- Words of bytes, the last padded with zeros. -/
def wordsOfBytes : Nat → List Byte → List W64
  | 0, _ => []
  | n + 1, l => leWord (l.take 8) :: wordsOfBytes n (l.drop 8)

/-- A copy of a profile is written word by word, each when its block is below its cap (R336). -/
def State.writeCopy (s : State) (w : Nat) (l : List W64) : State :=
  s.each l.zipIdx (fun s p => (s.celWaitCap (w + p.2)).celNow (w + p.2) p.1)

/-- PROF_COMMIT_DONE: both copies hold the new contents; the copy that was in use is written last, so the old contents stay valid until the
new are complete (R293). -/
def opProfCommitDone (s : State) : State :=
  match s.mary.profPend with
  | none => s
  | some p =>
    if !s.cellar.supply || s.celClosed then s
    else
      let n := p.slot.val
      let l := wordsOfBytes ((p.bytes.length + 7) / 8) p.bytes
      let order := if (s.profCopy n 0).isSome then [1, 0] else [0, 1]
      (s.each order (fun s c => s.writeCopy (profWord n c) l)).modMary (fun m => { m with profPend := none })

/-- PROF_APPLY: the profile is loaded at once while every cell is OFF, else refused and counted (R293). -/
def opProfApply (n : Fin 4) (s : State) : State := if s.allOff .mary then s.loadProfile n else s.refuse .mary 0xC0200

/-! ## Permissions (R298) -/

/-- HOST_PERM_n: refused where no host would keep HOST write permission. -/
def opHostPerm (src : Src) (i : Fin 4) (v : BitVec 20) (s : State) : State :=
  let keeps := (List.range 4).any (fun j => if j = i.val then v.getLsbD 5 else (s.reg .mary (0x7D000 + 4 * j)).getLsbD 5)
  if keeps then s.setReg .mary (0x7D000 + 4 * i.val) (v.zeroExtend 32) else s.refuse .mary (offDeny src)

/-! ## The management engine (R299, R300, R348) -/

/-- The engine's memories, cleared as it halts or starts. -/
def Me.forget (m : Me) : Me := { m with far := [], leafs := [], adv := [], nbr := [] }

/-- ME_CLR. -/
def opMeClr (s : State) : State := s.modMe (fun m => { m with buf := [] })

/-- ME_LOAD: refused while the engine runs. -/
def opMeLoad (v : W32) (s : State) : State :=
  if s.mary.me.state = 1 then s.refuse .mary 0xB0014 else s.modMe (fun m => { m with buf := m.buf ++ [v] })

/-- The OUTAGE record of this power-up (R348). -/
def State.fileOutage (s : State) : State :=
  if s.mary.me.outage then s
  else (s.histPut 5 0x3FF (s.cellar.ka.ancSec.zeroExtend 64)).modMe (fun m => { m with outage := true })

/-- ME_START: an image whose signature, its last 96 bytes, verifies under Avanaran's key (key 1 of Config.signatureOk) starts; the engine drains
TEL_FIFO and files an OUTAGE record (R299, R348, R401; log 73). -/
def opMeStart (s : State) : State :=
  if s.mary.me.state = 1 then s
  else
    let l := s.mary.me.buf.flatMap (fun w => beBytes 4 w.toNat)
    let n := l.length - 96
    if decide (l.length ≤ 96) || !Config.signatureOk (l.take n) (l.drop n) 1 then s.refuse .mary 0xB0014
    else ((s.modMe (fun m => { m.forget with state := 1 })).modMary (fun m => { m with tel := [] })).fileOutage

/-- ME_WDOG: the watchdog halts a running engine (R300). -/
def opMeWdog (s : State) : State := if s.mary.me.state = 1 then s.modMe (fun m => { m.forget with state := 2 }) else s

/-! ## Licences (R302) -/

/-- The record in LIC_BUF of a source. -/
def SrcBuf.licOf (b : SrcBuf) : List Byte := (List.range 32).flatMap (fun i => beBytes 4 (b.staged (0xD0000 + 4 * i)).toNat)

/-- The first empty licence slot. -/
def State.licFree (s : State) : Option Nat := (List.range 16).find? (fun k => (s.licSlot k).isNone)

/-- The reason of R302 that refuses a record, or 0. -/
def State.licWhyOf (s : State) (l : List Byte) : Nat :=
  if !licSigned l then 1 else if beField l 8 8 ≠ Config.chipUid.toNat then 2 else if licMalformed l then 3
  else if s.licFree.isNone then 4 else 0

/-- LIC_INSTALL: an accepted record is stored in both copies of a slot and takes effect at the next picot. -/
def opLicInstall (src : Src) (s : State) : State :=
  let l := (s.srcBuf .mary src).licOf
  let w := s.licWhyOf l
  if w ≠ 0 then (s.refuse .mary 0xD0200).modMary (fun m => { m with licWhy := w })
  else
    let k := s.licFree.getD 0
    let ws := (wordsOfBytes 16 l).zipIdx
    (s.celPuts ([0, 1].flatMap (fun c => ws.map (fun p => (licWord c k + p.2, p.1))))).modMary (fun m => { m with licPend := true })

/-- LIC_REMOVE: REMOVE_PENDING of a slot in use, until the next chip reset (R302, R404). -/
def opLicRemove (k : Nat) (s : State) : State :=
  if (s.licSlot k).isSome then s.modMary (fun m => { m with licRm := setBit m.licRm k }) else s

/-- Slots with REMOVE_PENDING are deleted, at a chip reset. -/
def State.licDelete (s : State) : State :=
  (s.celPuts ((bitsSet s.mary.licRm).flatMap (fun k => [0, 1].flatMap (fun c => (List.range 16).map (fun i => (licWord c k + i, 0)))))).modMary
    (fun m => { m with licRm := 0 })

/-! ## The commands -/

/-- PROF_BS_DATA. -/
def execProfBsData (src : Src) (v : W32) (s : State) : Host.Outcome State Fault Refusal :=
  .next (s.access .mary src 0xC0004 (opAppend .mary src .prof v))
/-- PROF_CLR. -/
def execProfClr (src : Src) (s : State) : Host.Outcome State Fault Refusal := .next (s.access .mary src 0xC0000 (opProfClr src))
/-- PROF_CHECK. -/
def execProfCheck (src : Src) (s : State) : Host.Outcome State Fault Refusal := .next (s.access .mary src 0xC00C0 (opProfCheck src))
/-- PROF_COMMIT. -/
def execProfCommit (src : Src) (slot : Fin 4) (s : State) : Host.Outcome State Fault Refusal :=
  .next (s.access .mary src 0xC00C4 (opProfCommit src slot))
/-- PROF_COMMIT_DONE. -/
def execProfCommitDone (s : State) : Host.Outcome State Fault Refusal := .next (s.live .mary opProfCommitDone)
/-- PROF_APPLY. -/
def execProfApply (src : Src) (slot : Fin 4) (s : State) : Host.Outcome State Fault Refusal :=
  .next (s.accessC .mary src 0xC00C8 (opProfApply slot))
/-- HOST_PERM. -/
def execHostPerm (src : Src) (i : Fin 4) (v : BitVec 20) (s : State) : Host.Outcome State Fault Refusal :=
  .next (s.access .mary src (0x7D000 + 4 * i.val) (opHostPerm src i v))
/-- ME_CLR. -/
def execMeClr (src : Src) (s : State) : Host.Outcome State Fault Refusal := .next (s.access .mary src 0xB0000 opMeClr)
/-- ME_LOAD. -/
def execMeLoad (src : Src) (v : W32) (s : State) : Host.Outcome State Fault Refusal := .next (s.access .mary src 0xB0004 (opMeLoad v))
/-- ME_START. -/
def execMeStart (src : Src) (s : State) : Host.Outcome State Fault Refusal := .next (s.access .mary src 0xB0008 opMeStart)
/-- ME_WDOG. -/
def execMeWdog (s : State) : Host.Outcome State Fault Refusal := .next (s.live .mary opMeWdog)
/-- LIC_INSTALL. -/
def execLicInstall (src : Src) (s : State) : Host.Outcome State Fault Refusal := .next (s.access .mary src 0xD0080 (opLicInstall src))
/-- LIC_REMOVE. -/
def execLicRemove (src : Src) (slot : Fin 16) (s : State) : Host.Outcome State Fault Refusal :=
  .next (s.access .mary src 0xD0084 (opLicRemove slot.val))

end Sys2Proof.Machine
end

