-- ==== Sys2Proof/Machine/Resets.lean ====
section
/-! DEFINITION. Resets (R359, R360, R367, R388, Table 16.3), and what a Maryel restores from its cellar when it comes out of one (R337, R339,
R340, R344, R346). A scope that a written reset clears leaves it in the same step, which is the next edge of R359. -/

namespace Sys2Proof.Machine

/-! ## Cell, group and quadrant reset -/

/-- The cell counts among those of its group that have been reset since a group fault; after the fifth the fault is cleared (Table 12.1). -/
def State.groupOne (s : State) (c : Nat) : State :=
  let g := c / 5
  let left := clrBit (s.group g).left (c % 5)
  let s1 := s.modGroup g (fun x => { x with left := left, err := if left = 0 then 0 else x.err })
  if left = 0 then s1.unmuteCells .mary 1 (groupCells g) else s1

/-- CELL_RST: the cell, its faults among what is cleared, retrains from OFF (R388, Table 16.3). -/
def opCellRst (c : Nat) (s : State) : State :=
  let s1 := (s.cellReset .mary c).groupOne c
  s1.modCell .mary c (fun x => Cell.start x (s1.rc .mary))

/-- The arbiter of a level forgets (R263). -/
def Arb.clear (a : Arb) (key : Nat) : Arb := { defi := a.defi.filter (fun p => p.1 / 1000 != key), ptr := sdel a.ptr key }

/-- The five cells of a group are reset, its arbiter and its channel 0 (Table 16.3). -/
def State.groupReset (s : State) (g : Nat) : State :=
  let s1 := s.each (groupCells g) (fun s i => s.cellReset .mary i)
  let s2 := (s1.modGroup g (fun _ => { ch0 := .reset, err := 0, left := 0 })).modNode .mary (fun N => { N with arb := N.arb.clear (1 + g) })
  s2.unmuteCells .mary 1 (groupCells g)

/-- GRP_RST. -/
def opGrpRst (g : Nat) (s : State) : State := (s.groupReset g).unmuteCells .mary 0 (groupCells g)

/-- C0 tokens that wait in a quadrant's slice (Table 16.3). -/
def State.sliceToks (s : State) (q : Nat) : Nat := (quadCells q).foldl (fun a i => a + ((s.cell .mary i).c0q.map List.length).sum) 0

/-- A quadrant is reset: its groups, slice and arbiter; the C0 tokens in the slice are counted in QUAD_DROP. -/
def State.quadReset (s : State) (q : Nat) : State :=
  let s1 := s.bumpBy .mary (0x78014 + 0x1000 * q) (s.sliceToks q)
  let s2 := s1.each ((List.range 5).map (fun j => 5 * q + j)) (fun s g => s.groupReset g)
  (s2.modQuad q (fun x => { x with err := 0 })).modNode .mary (fun N => { N with arb := N.arb.clear (21 + q) })

/-- QUAD_RST: written, the quadrant returns to service at once; through its pin, it stays in reset while the pin is held. -/
def opQuadRst (pin : Bool) (q : Nat) (s : State) : State :=
  let s1 := s.quadReset q
  if pin then (s1.modQuad q (fun x => { x with held := true })).each (quadCells q) (fun s i =>
      s.modCell .mary i (fun c => { c with mute := setBit (clrBit c.mute 2) 4, ts := .off }))
  else (s1.unmuteCells .mary 2 (quadCells q)).unmuteCells .mary 0 (quadCells q)

/-- The pin falls while the whole Maryel is in reset. -/
def opQuadHeld (q : Nat) (s : State) : State :=
  (s.modQuad q (fun x => { x with held := true })).each (quadCells q) (fun s i => s.modCell .mary i (fun c => { c with mute := setBit c.mute 4 }))

/-- QUADRANT_RESET_RELEASE: the pin rises and the quadrant returns to service. -/
def opQuadRelease (q : Nat) (s : State) : State :=
  if !(s.quad q).held then s else (s.modQuad q (fun x => { x with held := false })).unmuteCells .mary 4 (quadCells q)

/-! ## Leaf reset (R12, R22, R367) -/

/-- LEAF_RESET_ASSERT: all leaf state goes but TIME_CTL; the levels of the pins rp_cr_n and REFCLK are not state of the leaf. -/
def opLeafAssert (s : State) : State :=
  let t := s.leafN.time
  { s with
    leafN := { Node.reset 6 with
      inReset := true, regs := s.leafN.regs.filter (fun p => p.1 == 0x1000),
      time := { TimeCore.reset with refclk := t.refclk, tclk := t.refclk } },
    leaf := { LeafOnly.reset with regions := s.leaf.regions.map (fun r => { Region.reset with crN := r.crN }) } }

/-- LEAF_RESET_RELEASE: RC starts from 0. -/
def opLeafRelease (s : State) : State := s.modNode .leaf (fun N => { N with inReset := false, time := { N.time with rc := 0 } })

/-! ## What the cellar gives back -/

/-- The ceiling of a family: the larger of its readable copies (R339). -/
def State.ceilRead (s : State) (f : Family) : Option Nat :=
  match [celCeilA + f.word, celCeilB + f.word].filterMap (fun w => if s.celOk w then some (s.celWordNow w).toNat else none) with
  | [] => none
  | l => some (l.foldl max 0)

/-- The SDs of which the ceiling tables say anything. -/
def State.ceilSds (s : State) : List Sd :=
  let all : List Nat := s.cellar.mem.map (fun (c : Host.Cell) => c.1 / 8) ++ s.cellar.queue.map CelWord.word
  let ws := all.filter (fun w => decide (celCeilA ≤ w ∧ w < celGrant))
  ((ws.map (fun w => (w - celCeilA) % 0x2000)).filterMap (fun i => match famOfWord i with | some (.gen sd) => some sd | _ => none)).eraseDups

/-- Each counter is set to its ceiling; raises and held operations are gone (R339). -/
def State.restoreCeilings (s : State) : State :=
  let st := (s.ceilRead .step).getD 0
  let vi := (s.ceilRead .vint).getD 0
  let ge : Sparse Nat := s.ceilSds.foldl (fun m sd => let n := (s.ceilRead (.gen sd)).getD 0; if n = 0 then m else sput m sd.toNat n) []
  (s.modCellar (fun c =>
    { c with stepCeil := st, vintCeil := vi, genCeil := ge, raises := [], raising := none, raiseAt := none, held := [], lost := [] })).modRoot
    .mary (fun r => { r with stepHwm := BitVec.ofNat 64 st, vintHwm := BitVec.ofNat 32 vi, genHwm := ge })

/-- Both copies of the directory hold a word that is not readable (Table 15.5). -/
def State.dirLost (s : State) : Bool := [0, 0x1000].all (fun b => (List.range 3).any (fun i => !s.celOk (b + i)))

/-- The families whose ceiling neither copy gives: JRNL_LOST at a root (R340). -/
def State.loseUnread (s : State) : State :=
  let bad := s.cellar.bad.filterMap (fun w => if celCeilA ≤ w ∧ w < celGrant then famOfWord ((w - celCeilA) % 0x2000) else none)
  if s.dirLost then s.each allFams State.loseFamily
  else s.each (bad.filter (fun f => (s.ceilRead f).isNone)) State.loseFamily

/-- An RWP field takes its mirrored value: the last that its word holds or will hold; a word never written, or not readable, gives the listed
reset value, and RWP_LOST names the field in the second case (R11, R337, Table 15.5; log 60). -/
def State.restoreRwp (s : State) (i off : Nat) : State :=
  let w := celRwp + i
  let v := s.celWordNow w
  let waits := s.cellar.queue.any (fun q => q.word == w)
  if !waits && !s.celOk w then s.modCellar (fun c => { c with rwpLost := (off, true) })
  else if v.getLsbD 63 then
    let s1 := s.setReg .mary off (v.extractLsb' 0 32)
    if off % 0x1000 = 0x40 ∧ off < 0x64000 then
      s1.modDly .mary (off / 0x1000) (fun d => { d with swapEff := signedOf 32 (v.extractLsb' 0 32).toNat })
    else s1
  else s

/-- Every RWP field takes its mirrored value. -/
def State.restoreRwps (s : State) : State := s.each rwpOffs.zipIdx (fun s p => s.restoreRwp p.2 p.1)

/-- At power-up each block count is read back and increased by 4,096; a count that is not readable is the largest of the others (R346, Table
15.5). -/
def State.restoreWear (s : State) : State :=
  let read (b : Nat) : Nat := if s.celOk (celWear + b) then (s.celWord (celWear + b)).toNat else 0
  let top := (List.range 2048).foldl (fun a b => max a (read b)) 0
  s.modCellar (fun c => { c with wear := (List.range 2048).map (fun b => (b, (if s.celOk (celWear + b) then read b else top) + 4096)) })

/-- KA_TIME and KA_UNC, computed by a root at power-up from the anchor set while KA_VALID is 1; the count of the crystal's cycles is a free
value (R344, log 3). -/
def State.computeKa (s : State) : State :=
  let a := s.cellar.ka
  if !s.isRoot .mary || !a.valid || decide (a.rate = 0) then s
  else
    let p := s.takeFree
    let cnt : BitVec 48 := Config.freeBits 48 p.1
    let n := (cnt - a.ancCnt).toNat * 2 ^ 32
    let r := a.rate.toNat
    let ppm := s.fld .mary 0xF0020 19 0
    let t := a.ancSec.toNat * 1000000000 + n * 1000000 / r * 1000
    p.2.modCellar (fun c => { c with ka := { c.ka with cnt := cnt, time := some t, unc := 32000 + (n * ppm + r - 1) / r } })

/-! ## Chip reset (R359, R388, Table 16.3) -/

/-- What a chip reset leaves of the Maryel's own parts: the levels of its pins, and, where power stays, CHIP_ERR, the alarms but SILENT, the
OUTAGE record already filed, and the licence slots that wait for deletion. R307 counts from the release of PORST_N, so a chip reset at RC = `rc`,
from which RC starts again, keeps what has passed of OCXO_WAIT, and whether OCXO_WARM has been high. -/
def MaryOnly.chipReset (m : MaryOnly) (power : Bool) (rc : W64) : MaryOnly :=
  { MaryOnly.reset with
    capPin := m.capPin, utcValid := !power && m.utcValid, licRm := m.licRm, profsel := m.profsel,
    chipErr := if power then 0 else m.chipErr, alarm := if power then 0 else m.alarm,
    me := { Me.reset with outage := !power && m.me.outage },
    quads := m.quads.map (fun q => { err := 0, held := q.held }),
    porstAt := if power then 0 else m.porstAt - rc,
    sel := { Selector.reset with warm := m.sel.warm, warmOk := m.sel.warm || (!power && m.sel.warmOk) } }

/-- The shared parts of a Maryel after a chip reset; the cells of a quadrant whose pin is held stay silent. -/
def State.nodeReset (s : State) (held : Bool) : Node 100 :=
  let t := s.maryN.time
  { Node.reset 100 with
    inReset := held, time := { TimeCore.reset with refclk := t.refclk, tclk := t.refclk },
    cells := Vector.ofFn (fun i : Fin 100 => if (s.quad (i.val / 25)).held then { Cell.reset with mute := 16 } else Cell.reset) }

/-- The volatile side of the cellar after a chip reset: its own fields, and after an erase the queue that could not be written (R351). -/
def Cellar.chipReset (c : Cellar) (power : Bool) : Cellar :=
  { c with
    rate := ([], 0), eraseKey := [], rwpLost := (0, false), histAt := none, waitRst := false,
    queue := if c.waitRst then [] else c.queue, ka := { c.ka with time := none, unc := 0 },
    wear := if power then [] else c.wear }

/-- Which words of a torn erase keep their old value: each of them is a free bit (R335, R351). -/
def tornWords : List Nat → Nat → List Nat
  | [], _ => []
  | w :: l, n => if (Config.freeBits 1 n : BitVec 1) = 1 then w :: tornWords l (n + 1) else tornWords l (n + 1)

/-- Power is lost: what waits is not written, and each word of an erase in progress is old or zero (R335, R337). -/
def State.powerCut (s : State) : State :=
  let s1 := s.modCellar (fun c => { c with queue := [] })
  if !s.cellar.busy then s1
  else
    let out (a : Nat) : Bool := !decide (8 * celWear ≤ a ∧ a < 8 * celLic)
    let ws := ((s.cellar.mem.filter (fun c => out c.1)).map (fun c => c.1 / 8)).eraseDups
    let kept := tornWords ws s.freeCtr
    { s1.modCellar (fun c => { c with busy := false, mem := c.mem.filter (fun x => !out x.1 || decide (x.1 / 8 ∈ kept)) }) with
      freeCtr := s.freeCtr + ws.length }

/-- POWER_ON_RESET_ASSERT: PORST_N falls. -/
def opPorstAssert (s : State) : State :=
  if s.held .mary then s
  else
    let s1 := if s.cellar.supply then s else s.powerCut
    { s1 with maryN := s1.nodeReset true, mary := s1.mary.chipReset true 0, cellar := s1.cellar.chipReset true }

/-- Coming out of a chip reset: licences deleted and verified again, RWP fields and ceilings restored, the profile that PROFSEL names loaded. -/
def State.chipStart (s : State) (sel : Fin 4) : State :=
  let s1 := s.licDelete
  let s2 := (s1.modMary (fun m => { m with lic := s1.licEffective })).restoreRwps.restoreCeilings
  (s2.loadProfile sel).loseUnread

/-- POWER_ON_RESET_RELEASE: PORST_N rises (R292). -/
def opPorstRelease (sel : Fin 4) (s : State) : State :=
  if !s.held .mary then s
  else
    let s1 := (s.modNode .mary (fun N => { N with inReset := false })).modCellar (fun c => { c with supply := true })
    ((s1.modMary (fun m => { m with profsel := sel })).restoreWear.chipStart sel).computeKa

/-- CHIP_RST_KEY: the low half of the chip unique ID arms the source's next access; any other value leaves the key cancelled. -/
def opChipRstKey (src : Src) (v : W32) (s : State) : State :=
  if v = Config.chipUid.extractLsb' 0 32 then s.modMary (fun m => { m with rstKeys := m.rstKeys ++ [src] }) else s

/-- CHIP_RST: refused without the key. -/
def opChipRst (armed : Bool) (src : Src) (sel : Fin 4) (s : State) : State :=
  if !armed then s.refuse .mary (offDeny src)
  else
    let s1 := { s with maryN := s.nodeReset false, mary := s.mary.chipReset false (s.rc .mary), cellar := s.cellar.chipReset false }
    (s1.modMary (fun m => { m with profsel := sel })).chipStart sel

/-! ## The commands -/

/-- POWER_ON_RESET_ASSERT. -/
def execPowerOnResetAssert (s : State) : Host.Outcome State Fault Refusal := .next (opPorstAssert s)
/-- POWER_ON_RESET_RELEASE. -/
def execPowerOnResetRelease (profsel : BitVec 2) (s : State) : Host.Outcome State Fault Refusal := .next (opPorstRelease profsel.toFin s)
/-- LEAF_RESET_ASSERT. -/
def execLeafResetAssert (s : State) : Host.Outcome State Fault Refusal := .next (opLeafAssert s)
/-- LEAF_RESET_RELEASE. -/
def execLeafResetRelease (s : State) : Host.Outcome State Fault Refusal := .next (if s.held .leaf then opLeafRelease s else s)
/-- CHIP_RST_KEY. -/
def execChipRstKey (src : Src) (v : W32) (s : State) : Host.Outcome State Fault Refusal :=
  .next (s.access .mary src 0x7C030 (opChipRstKey src v))
/-- CHIP_RST: it must be the source's very next access after the key. -/
def execChipRst (src : Src) (profsel : BitVec 2) (s : State) : Host.Outcome State Fault Refusal :=
  .next (s.accessC .mary src 0x7C034 (opChipRst (decide (src ∈ s.mary.rstKeys)) src profsel.toFin))
/-- CELL_RST. -/
def execCellRst (src : Src) (c : Fin 100) (s : State) : Host.Outcome State Fault Refusal :=
  .next (s.accessC .mary src (cOff .mary c.val 0xC) (opCellRst c.val))
/-- GRP_RST. -/
def execGrpRst (src : Src) (g : Fin 20) (s : State) : Host.Outcome State Fault Refusal :=
  .next (s.accessC .mary src (0x64000 + 0x1000 * g.val) (opGrpRst g.val))
/-- QUAD_RST: a register write, or the pin held low. -/
def execQuadRst (by' : QuadBy) (q : Fin 4) (s : State) : Host.Outcome State Fault Refusal :=
  match by' with
  | .write src => .next (s.accessC .mary src (0x78000 + 0x1000 * q.val) (opQuadRst false q.val))
  | .pin => .next (if s.held .mary then opQuadHeld q.val s else s.liveC .mary (opQuadRst true q.val))
/-- QUADRANT_RESET_RELEASE: a pin, whose level a Maryel held in reset keeps too. -/
def execQuadrantResetRelease (q : Fin 4) (s : State) : Host.Outcome State Fault Refusal := .next (opQuadRelease q.val s)

end Sys2Proof.Machine
end

