-- ==== Sys2Proof/Machine/Picot.lean ====
section
/-! DEFINITION. PICOT (R28): the edge at which a domain's HT reaches a multiple of 1,024 ns, and everything that the spec defers to it. The start
of the picot frame on each cell is the command FRAME_START; a fold, a landing at a region and a patch have commands of their own. -/

namespace Sys2Proof.Machine

/-- The edge of a domain's next picot: the present edge where a multiple of 1,024 ns falls on it and its picot has not acted (R28). -/
def State.picotEdge (s : State) (k : NodeSel) (d : Dom) (c : CorrSet) : W64 :=
  let now := s.rc k
  if c.at_ now % (1024 * nsTu) < c.rate.toNat ∧ ((s.time k).dom d).picotAt ≠ some now then now else c.edgeOf now (c.nextPicot now)

/-- K_UPDATE at a picot: a K that waits takes effect, or DOM_K_OVR holds K while the domain is in TRACK (R30, Table 2.5). -/
def State.picotK (s : State) (k : NodeSel) (d : Dom) : State :=
  let x := (s.time k).dom d
  let want := match s.kOvr k d with
    | some v => if x.st = .track then some v else x.kPend
    | none => x.kPend
  match want with
  | none => s
  | some v => s.modTime k (fun t => (t.putK d v).modDom d (fun x => { x with kPend := none }))

/-- The barred slot that R61 gives for a phase and a forwarding depth; 6 where no slot meets its condition. -/
def barOf (theta p : Nat) : BitVec 3 :=
  match (List.range 7).find? (fun i => decide (27 ≤ (theta + 2 + 4 * i + p) % 32 ∧ (theta + 2 + 4 * i + p) % 32 ≤ 30)) with
  | some i => BitVec.ofNat 3 i
  | none => 6

/-- BAR_RECOMPUTE: a new barred slot is announced, and counted, once it has held for 16 picots in a row (R62). -/
def State.picotBar (s : State) (k : NodeSel) (i : Nat) : State :=
  let c := s.cell k i
  if !c.aligned then s
  else
    let b := barOf c.theta.toNat (barDepth k)
    if b = c.barRx then s.modCell k i (fun c => { c with barCand := (b, 0) })
    else
      let n := if c.barCand.1 = b then c.barCand.2 + 1 else 1
      if n < 16 then s.modCell k i (fun c => { c with barCand := (b, n) })
      else
        let s1 := (s.modCell k i (fun c => { c with barRx := b, barCand := (b, 0) })).bump k (cOff k i 0x128)
        s1.modCell k i (fun c => { c with ctlq := c.ctlq ++ [s1.linkCtlOf k i 1] })

/-- The picot's actions at one cell of the domain: barred slot, theta for PORT_LAT, d, RESID and advisories. -/
def State.picotCell (s : State) (k : NodeSel) (i : Nat) : State :=
  (((s.picotBar k i).modCell k i (fun c => { c with thetaLat := c.theta })).picotDelay k i).modDly k i (fun d => d.clearAdv (s.cell k i).cfg.lclass)

/-- The interpolator channels of a node: two in a leaf; in a Maryel one for each group, and the six reference channels (R78, R308). -/
def chanCount : NodeSel → Nat
  | .leaf => 2
  | .mary => 26

/-- A picot at the channels: a built table is installed, advisories clear (R81, R115). -/
def State.picotChans (s : State) (k : NodeSel) : State :=
  s.each (List.range (chanCount k)) (fun s j => s.modChanAdv k j (fun c => c.install.clearAdv))

/-- A picot at the leaf's other parts: a planned racking, then the snapshot of the read path; gate-offs, and the interval settings that waited
(R37, R41, R88, R133). -/
def State.picotLeaf (s : State) (d : Dom) : State :=
  let s1 := if s.leafN.time.active = d then s.rackDueNow.readPicot .leaf else s
  s1.gatePicot.intvPicot

/-- Licences accepted since the last picot take effect; the outputs of a new GRANDMASTER start at the next second (R302, R332). -/
def State.licPicot (s : State) : State :=
  s.modMary (fun m =>
    { m with licPend := false, lic := s.licEffective,
             gmSec := if m.lic.gm || !s.rootHasHt then m.gmSec else some (s.htDom .mary s.rootDom / (1000000000 * nsTu)) })

/-- A picot at the Maryel's other parts: the snapshot, accepted licences, and at a root what waits for the picot or for the second that it
begins (R302, R321, R333, Table 14.5). -/
def State.picotMary (s : State) (d : Dom) : State :=
  let s1 := if s.rootDom = d then s.readPicot .mary else s
  let s2 := if s1.mary.licPend then s1.licPicot else s1
  if s2.isRoot .mary then s2.rootHtPicot.softStep.secondPicot else s2

/-- At a picot of a root, a written C2_RATE or C2_BURST takes effect; the bucket is filled at the old rate up to then (R262, R266). -/
def State.picotPace (s : State) (k : NodeSel) : State :=
  let f (c : SdCtx) : SdCtx :=
    if c.rateEff = c.c2Rate ∧ c.burstEff = c.c2Burst then c
    else
      let y := c.fill (s.rc k)
      { y with rateEff := c.c2Rate, burstEff := c.c2Burst, bucket := min y.bucket c.c2Burst }
  s.modRoot k (fun r => { r with sds := r.sds.map f })

/-- At a picot of a root a PLAN_SLACK written below G raises ADV_FLIGHT and widens (R114, R116). -/
def State.picotPlan (s : State) (k : NodeSel) : State := if s.isRoot k then s.widen k false else s

/-- PICOT: RC moves to the domain's picot, the written values that wait take effect, and the deferred actions follow, the K update first
(R28, R37, R44). Without HT the domain has no picot. -/
def opPicot (k : NodeSel) (d : Dom) (s : State) : State :=
  match s.picotSet k d with
  | none => s
  | some c =>
    let s1 := (s.advTo k (s.picotEdge k d c)).commitPicot k d
    let s2 := (s1.picotK k d).modDom k d (fun x => { x with picotAt := some (s1.rc k) })
    let s3 := s2.each (s2.cellsWith k (fun x => decide (x.cfg.role ≠ 0 ∧ x.cfg.dom = d))) (fun s i => s.picotCell k i)
    let s4 := (s3.picotChans k).picotPace k |>.picotPlan k
    match k with
    | .leaf => s4.picotLeaf d
    | .mary => s4.picotMary d

/-- PLANNED_RACK: at the first edge at which the read path reaches the next multiple of 1,024 ns after acceptance. That edge is a picot of the
active domain, whose actions come with it, but during a fold, when the read path's multiple is its own (R34, R36, R37). -/
def opPlannedRack (s : State) : State :=
  match (s.time .leaf).rackReq with
  | none => s
  | some _ =>
    let t := s.time .leaf
    let s1 := s.advTo .leaf (t.read.edgeOf t.rc t.rackHt)
    let t1 := s1.time .leaf
    let s2 := if t1.fold.isNone && !t1.noht && decide ((t1.dom t1.active).picotAt ≠ some t1.rc) then opPicot .leaf t1.active s1 else s1
    s2.rackDueNow.readPicot .leaf

/-- PLANNED_RACK. -/
def execPlannedRack (s : State) : Host.Outcome State Fault Refusal :=
  .next (s.liveC .leaf (fun s => s.timed .leaf opPlannedRack))
/-- PICOT. -/
def execPicot (n : NodeSel) (d : Dom) (s : State) : Host.Outcome State Fault Refusal :=
  .next (s.liveC n (fun s => s.timed n (opPicot n d)))

end Sys2Proof.Machine
end

