-- ==== Sys2Proof/Machine/Regs.lean ====
section
/-! DEFINITION. What a register reads as (chapters 17 and 18): for every page the registers that show other state, the wide registers, the
FIFO records, the counters and the write-only registers; and the reading access with its snapshots (R9, R368, R385). -/

namespace Sys2Proof.Machine

/-! ## Words of a wide number -/

/-- The words of a wide number, the least significant first (R9). -/
def wideWords (n x : Nat) : List W32 := (List.range n).map (fun i => BitVec.ofNat 32 (x / 2 ^ (32 * i)))

/-- The number that words name, the least significant first (R9). -/
def wideNum (l : List W32) : Nat := (l.zipIdx).foldl (fun a p => a + p.1.toNat * 2 ^ (32 * p.2)) 0

/-- A register of a page that shows other state: its offset and what it reads as. -/
abbrev RegView := Nat × (State → Nat)
/-- A wide register of a page: the offset of its lowest word, its words, and what it reads as. -/
abbrev WideView := Nat × Nat × (State → Nat)

/-- A wide register that holds what was written. -/
def storedWide (k : NodeSel) (off n : Nat) : WideView :=
  (off, n, fun (s : State) => wideNum ((List.range n).map (fun i => s.reg k (off + 4 * i))))

/-- A field at its lowest bit. -/
def at_ (lo x : Nat) : Nat := x * 2 ^ lo

/-! ## FIFO records (R368, R375, R377, R381, R401) -/

/-- An event stamp record (R375). -/
def EvtRec.num (r : EvtRec) : Nat :=
  r.ht.toNat + 2 ^ 96 * (at_ 31 1 + at_ 30 (b01 r.coarse) + at_ 29 (b01 r.uncal) + at_ 28 (b01 r.folding) + at_ 27 (domIdx r.foldDom)
    + at_ 26 (domIdx r.active) + at_ 25 (b01 r.noht) + at_ 24 (b01 r.rise))

/-- An interval record (R375). -/
def IntvRec.num (r : IntvRec) : Nat :=
  r.val.toNat + 2 ^ 64 * (at_ 31 1 + at_ 30 (b01 r.coarse) + at_ 29 (b01 r.uncal) + at_ 28 (b01 r.folding) + at_ 27 (b01 r.timeout)
    + at_ 26 (domIdx r.active))

/-- A MISS_FIFO record (R377); the tick is in HT format. -/
def MissRec.num (r : MissRec) : Nat :=
  (htOf (r.tick * nsTu)).toNat + 2 ^ 96 * r.step.toNat + 2 ^ 160 * (at_ 16 r.gen.toNat + r.batch.toNat)
    + 2 ^ 192 * (at_ 31 1 + at_ 29 r.cause.toNat + at_ 26 r.kind.toNat + at_ 20 r.eidx.toNat + r.sd.toNat)

/-- KEY_CHK of a source's KEY_BUF; 0 until it has been written (R208, Table 18.7). -/
def SrcBuf.chk (b : SrcBuf) : Nat := if b.keySet then (keyChk b.keyBuf).toNat else 0

/-- A landing record as its words (R381). -/
def LandRec.num (r : LandRec) : Nat :=
  r.stamp.toNat + 2 ^ 96 * bitsOf r.tally 31 0
    + 2 ^ 128 * (at_ 31 1 + at_ 30 (b01 r.folding) + at_ 16 r.kind.toNat + bitsOf r.tally 47 32)

/-- Data tokens as two words each, the low 32 bits first (R401). -/
def tokensNum (l : List Body) : Nat := (l.zipIdx).foldl (fun a p => a + p.1.toNat * 2 ^ (64 * p.2)) 0

/-- An EXC_FIFO record (R401). -/
def ExcRec.num (r : ExcRec) : Nat := at_ 31 1 + at_ 30 (b01 r.mary) + r.src.toNat + 2 ^ 32 * tokensNum [r.t2, r.t3, r.t4]

/-- An ALARM_FIFO record (Table 18.11). -/
def AlarmRec.num (r : AlarmRec) : Nat :=
  at_ 31 1 + r.cls.toNat + 2 ^ 32 * (at_ 16 r.sd.toNat + r.hoopId.toNat) + 2 ^ 64 * r.ns.toNat

/-- A TEL_FIFO record (R401). -/
def telNum (r : TeleRec) : Nat :=
  at_ 31 1 + at_ 24 r.kind.toNat + at_ 20 (b01 r.maryel) + r.src.toNat + 2 ^ 32 * tokensNum (r.data.take 8)

/-- The records of a FIFO as numbers, the head first. -/
def State.fifo (s : State) (k : NodeSel) : FifoId → List Nat
  | .evt i => (if i = 0 then s.leaf.evt.fifo0 else s.leaf.evt.fifo1).map EvtRec.num
  | .intv => s.leaf.evt.intv.map IntvRec.num
  | .miss => s.leaf.prick.miss.map MissRec.num
  | .land p => (s.region p.val).land.map LandRec.num
  | .exc => (s.root k).exc.map ExcRec.num
  | .alarm => (s.root k).alarms.map AlarmRec.num
  | .tel => s.mary.tel.map telNum

/-- The head record of a FIFO goes (R368). -/
def State.fifoDrop (s : State) (k : NodeSel) : FifoId → State
  | .evt i =>
    s.modLeaf (fun l => { l with evt := if i = 0 then { l.evt with fifo0 := l.evt.fifo0.drop 1 } else { l.evt with fifo1 := l.evt.fifo1.drop 1 } })
  | .intv => s.modLeaf (fun l => { l with evt := { l.evt with intv := l.evt.intv.drop 1 } })
  | .miss => s.modPrick (fun p => { p with miss := p.miss.drop 1 })
  | .land p => s.modRegion p.val (fun r => { r with land := r.land.drop 1 })
  | .exc => s.modRoot k (fun r => { r with exc := r.exc.drop 1 })
  | .alarm => s.modRoot k (fun r => { r with alarms := r.alarms.drop 1 })
  | .tel => s.modMary (fun m => { m with tel := m.tel.drop 1 })

/-- Where a FIFO lies: the offset of its lowest word, and its words. -/
def fifoAt : FifoId → Nat × Nat
  | .evt i => (0x8020 + 0x10 * i.val, 4)
  | .intv => (0x8040, 3)
  | .miss => (0xA020, 7)
  | .land p => (rOff p.val 0x24, 5)
  | .exc => (0xA0000, 7)
  | .alarm => (0xA0100, 3)
  | .tel => (0xA0200, 17)

/-- The FIFOs of a node; EXC_FIFO and ALARM_FIFO of a leaf lie in the island root image (R383). -/
def fifosOf : NodeSel → List FifoId
  | .leaf => [.evt 0, .evt 1, .intv, .miss] ++ (List.finRange 16).map FifoId.land ++ [.exc, .alarm]
  | .mary => [.exc, .alarm, .tel]

/-- A FIFO as a wide register: the head record, or zero when it is empty (R368). -/
def fifoView (k : NodeSel) (f : FifoId) : WideView := ((fifoAt f).1, (fifoAt f).2, fun (s : State) => (s.fifo k f).headD 0)

/-! ## The time page (Table 17.4, R395) -/

/-- At a Maryel, what a field of the domain that CHIP DOM does not name shows: 0 (R395). -/
def State.ofDom (s : State) (k : NodeSel) (d : Dom) (x : Nat) : Nat := if k = .mary ∧ d ≠ (s.cfg .mary).dom then 0 else x

/-- TIME_HOLD_NS: the holdovers that ended and the one that lasts (R38). -/
def State.holdNsNow (s : State) (k : NodeSel) : W64 :=
  let t := s.time k
  if t.holdover then t.holdNs + (t.rc - t.holdStart) * 2 else t.holdNs

/-- Registers of the time page. -/
def viewTime (k : NodeSel) : List RegView :=
  let o := tOff k
  [(o 0x1004, fun (s : State) => s.ofDom k .a ((s.reg k (o 0x1004)).toNat % 2) + s.ofDom k .b ((s.reg k (o 0x1004)).toNat / 2 % 2 * 2)),
   (o 0x1010, fun (s : State) => at_ 25 (s.timeFlags k) + at_ 4 (s.domCode k .b) + s.domCode k .a),
   (o 0x1014, fun (s : State) => (s.time k).evt.toNat),
   (o 0x105C, fun (s : State) => (s.time k).snap.stat.toNat),
   (o 0x1090, fun (s : State) => s.ofDom k .a (s.time k).domA.err.toNat),
   (o 0x1094, fun (s : State) => s.ofDom k .b (s.time k).domB.err.toNat),
   (o 0x10A0, fun (s : State) => s.advOf k)]

/-- Wide registers of the time page. -/
def wideTime (k : NodeSel) : List WideView :=
  let o := tOff k
  [(o 0x1020, 3, fun (s : State) => (htOf (s.ht k)).toNat),
   (o 0x1030, 2, fun (s : State) => (s.time k).snap.rc.toNat),
   (o 0x1038, 3, fun (s : State) => (s.time k).snap.ht.toNat),
   (o 0x1044, 3, fun (s : State) => s.ofDom k .a (s.time k).snap.htA.toNat),
   (o 0x1050, 3, fun (s : State) => s.ofDom k .b (s.time k).snap.htB.toNat),
   (o 0x1080, 2, fun (s : State) => s.ofDom k .a (s.time k).domA.set.rate.toNat),
   (o 0x1088, 2, fun (s : State) => s.ofDom k .b (s.time k).domB.set.rate.toNat),
   (o 0x1098, 2, fun (s : State) => (s.holdNsNow k).toNat),
   (o 0x1110, 2, fun (s : State) => s.ofDom k .a ((storedWide k (o 0x1110) 2).2.2 s)),
   (o 0x1118, 2, fun (s : State) => s.ofDom k .b ((storedWide k (o 0x1118) 2).2.2 s))]
  ++ (match k with
      | .leaf => [(0x1060, 3, fun _ => 0), (0x1070, 2, fun _ => 0), storedWide .leaf 0x1078 2]
      | .mary => [])

/-! ## Cell pages (Tables 17.5 and 18.2) -/

/-- The cell toward which a Maryel's PORT_LAT is given: UP, or CROSS at a root. -/
def State.latCell (s : State) : Option Nat :=
  if (s.cfg .mary).root then s.crossCell else s.upCell .mary (s.cfg .mary).dom

/-- Is there a path from cell `i`'s input to cell `m`'s output: UP to DOWN of one domain or back, or CROSS and DOWN (R68)? -/
def State.hasPath (s : State) (k : NodeSel) (i m : Nat) : Bool :=
  let a := (s.cell k i).cfg
  let b := (s.cell k m).cfg
  decide (a.dom = b.dom) && decide ((a.role = 2 ∧ (b.role = 1 ∨ b.role = 3)) ∨ (b.role = 2 ∧ (a.role = 1 ∨ a.role = 3)))

/-- PORT_LAT from cell `i` to cell `m`; 0 where no path exists (R374). -/
def State.portLat (s : State) (k : NodeSel) (i m : Nat) : Nat := if s.hasPath k i m then s.latOf k i m else 0

/-- PORT_CFG_n (Table 17.5). -/
def State.portCfg (s : State) (k : NodeSel) (i : Nat) : Nat :=
  let c := (s.cell k i).cfg
  at_ 29 c.role.toNat + at_ 28 (domIdx c.dom) + at_ 27 (b01 c.short) + at_ 24 c.form.toNat + at_ 22 c.lclass.toNat
    + at_ 21 (b01 (s.cfg k).fixlat)

/-- Registers of the page of cell `i`. -/
def viewCell (k : NodeSel) (i : Nat) : List RegView :=
  let o := cOff k i
  [(o 0x000, fun (s : State) => at_ 2 (s.fld k (o 0) 3 2) + at_ 1 (b01 (decide ((s.cell k i).ts = .test))) + b01 (s.cell k i).portEn),
   (o 0x004, fun (s : State) => s.portCfg k i),
   (o 0x008, fun (s : State) =>
     let c := s.cell k i
     at_ 28 c.pstate + at_ 24 c.barRx.toNat + at_ 21 c.barTx.toNat + at_ 16 c.theta.toNat + at_ 8 c.retry.exp.toNat + c.retry.next.toNat),
   (o 0x040, fun (s : State) => (s.reg k (o 0x040)).toNat),
   (o 0x060, fun (s : State) => min 0xFFFF (s.cell k i).dly.resid),
   (o 0x064, fun (s : State) => at_ 31 (b01 (decide (2 ^ s.dlyShift k (s.cell k i).cfg.dom ≤ (s.cell k i).dly.n))) + min (2 ^ 25 - 1) (s.cell k i).dly.n)]
  ++ (match k with
      | .leaf => (List.range 6).map (fun m => (o (0x010 + 4 * m), fun (s : State) => s.portLat .leaf i m))
      | .mary =>
        [(o 0x010, fun (s : State) => match s.latCell with | some u => s.portLat .mary i u | none => 0),
         (o 0x014, fun (s : State) => match s.latCell with | some u => s.portLat .mary u i | none => 0),
         (o 0x068, fun (s : State) =>
           let d := (s.cell .mary i).dly
           flagsOf [(2, d.advResid), (1, d.advJump), (0, d.advVoid)]),
         (o 0x080, fun (s : State) => (s.cell .mary i).err.toNat)])

/-- Wide registers of the page of cell `i`. -/
def wideCell (k : NodeSel) (i : Nat) : List WideView :=
  let o := cOff k i
  [(o 0x044, 2, fun (s : State) => (s.cell k i).dly.sigmaCal % 2 ^ 48), (o 0x050, 2, fun (s : State) => intBits 48 (s.cell k i).dly.sf),
   (o 0x058, 2, fun (s : State) => intBits 48 (s.cell k i).dly.d), (o 0x074, 2, fun (s : State) => (s.cell k i).prbsBits.toNat)]

/-- The counters of a cell page, PRBS_ERR with them. -/
def ctrsCell : List Nat := 0x070 :: (List.range 21).map (fun j => 0x100 + 4 * j)

/-! ## The leaf's own pages -/

/-- The host outcome that HO_SEL shows: the slot of an SRC = 1 hoop whose outcome has taken effect, until it is FREE (R378). -/
def State.hostOut (s : State) : Option (Slot × HoopDown) :=
  let x := s.slot (s.fld .leaf 0xB00C 4 0)
  if x.st = .closed ∧ rcHost x.common then x.eff.map (fun m => (x, m)) else none

/-- Registers of the identity page (Table 17.2). -/
def viewIdent : List RegView :=
  [(0x0000, fun _ => 0x00030302), (0x0004, fun _ => at_ 16 (Config.rclass .leaf).toNat + Config.leafStepping.toNat),
   (0x0008, fun _ => Config.xform.toNat), (0x000C, fun (s : State) => (s.cfg .leaf).nodeId.toNat),
   (0x0014, fun (s : State) => at_ 1 (b01 (s.isExpert .leaf .tunnel)) + b01 (s.isExpert .leaf .qhp)),
   (0x0020, fun (s : State) => s.irqLeaf.toNat), (0x0030, fun (s : State) => s.leaf.err.toNat), (0x0038, fun (s : State) => s.leaf.alarm.toNat)]

/-- INTP1_DEAD_PPM: the share of capture edges that calibration slots block (R85). -/
def State.deadPpm (s : State) : Nat := (if s.density1En then 8 else 4) * 1000000 / s.cal1Period

/-- Registers of the interpolator page (Table 17.6). -/
def viewIntp : List RegView :=
  [(0x800C, fun (s : State) => at_ 2 (b01 s.leaf.evt.open_.isSome) + at_ 1 (b01 (s.uncal .leaf 1)) + b01 (s.uncal .leaf 0)),
   (0x8010, fun (s : State) => intBits 32 s.leaf.ch0.gain), (0x8014, fun (s : State) => intBits 32 s.leaf.ch1.gain), (0x8018, fun (s : State) => s.deadPpm),
   (0x810C, fun (s : State) => at_ 1 (b01 s.leaf.stat.run) + b01 s.leaf.stat.done), (0x8110, fun (s : State) => s.leaf.stat.n)]

/-- Wide registers of the interpolator page. -/
def wideIntp : List WideView :=
  [(0x8114, 2, fun (s : State) => intBits 64 s.leaf.stat.mean), (0x811C, 2, fun (s : State) => s.leaf.stat.sdev),
   (0x8124, 2, fun (s : State) => intBits 64 s.leaf.stat.min), (0x812C, 2, fun (s : State) => intBits 64 s.leaf.stat.max)]

/-- HOLD_RATIO: that of the last 8 valid gates, or the nominal 500 MHz / f_REFCLK (R95). -/
def State.holdRatio (s : State) : Nat :=
  match s.leaf.freq.ratioHold with
  | some r => r.toNat
  | none => 500000 * 2 ^ 32 / s.fld .leaf 0x1000 18 0

/-- Registers of the frequency page (Table 17.7). -/
def viewFreq : List RegView := [(0x9008, fun (s : State) => at_ 1 (b01 s.leaf.freq.noclk) + b01 s.leaf.freq.done)]

/-- Wide registers of the frequency page (Table 17.7). -/
def wideFreq : List WideView :=
  [(0x9010, 2, fun (s : State) => s.leaf.freq.count.toNat), (0x9018, 2, fun (s : State) => s.leaf.freq.ratio.toNat),
   (0x9300, 2, fun (s : State) => s.leaf.freq.holdSum), (0x9308, 2, fun (s : State) => s.holdRatio)]
  ++ (List.range 16).map (fun n => (0x9100 + 8 * n, 2, fun (s : State) => (vget s.leaf.freq.regRatio n 0).toNat))
  ++ (List.range 16).map (fun n => (0x9200 + 8 * n, 2, fun (s : State) => (vget s.leaf.freq.regMin n 0).toNat))

/-- Registers of the pricking page (Table 17.8). -/
def viewPrick : List RegView :=
  [(0xA000, fun (s : State) => at_ 17 (b01 s.leaf.prick.fatal) + at_ 16 (b01 s.leaf.prick.pending) + s.leaf.prick.entries.length),
   (0xA004, fun (s : State) => s.leaf.prick.why.toNat), (0xA00C, fun (s : State) => s.leaf.prick.vintage.toNat)]

/-- Registers of the hoop page (Table 17.9). -/
def viewHoop : List RegView :=
  [(0xB008, fun (s : State) => s.leaf.hcErr.toNat),
   (0xB010, fun (s : State) =>
     match s.hostOut with
     | some (x, m) =>
       at_ 31 1 + at_ 28 (if (x.hostDone && (x.winOf 16).isNone) || x.uncounted m 16 then 3 else m.outcome.toNat) + at_ 25 m.verdict.toNat + m.lflag.toNat
     | none => 0),
   (0xB014, fun (s : State) => match s.hostOut with | some (x, _) => at_ 16 x.sd.toNat + x.hoopId.toNat | none => 0),
   (0xB018, fun (s : State) => (s.recipes .leaf).length)]
  ++ (List.range 4).map (fun k => (0xB400 + 4 * k, fun (s : State) => at_ 31 (b01 (s.instCtx k).busy) + (s.instCtx k).batch.toNat))

/-- HOOP_STAT_n (R379). -/
def State.hoopStat (s : State) (n : Nat) : Nat :=
  let x := s.slot n
  let (o, v) := match x.eff with | some m => (m.outcome.toNat, m.verdict.toNat) | none => (0, 0)
  at_ 16 x.hoopId.toNat + at_ 4 x.sd.toNat + at_ 2 (match x.st with | .free => 0 | .open_ => 1 | .closed => 2) + at_ 1 (b01 (rcHost x.common))
    + 2 ^ 32 * (at_ 16 (x.ports &&& ~~~ x.contributed).toNat + at_ 13 o + at_ 10 v + at_ 9 (b01 x.sentA) + at_ 8 (b01 x.sentB))

/-- Wide registers of the hoop page. -/
def wideHoop : List WideView :=
  (List.range 16).map (fun i => storedWide .leaf (0xB100 + 8 * i) 2)
  ++ (List.range 16).map (fun i => (0xB200 + 8 * i, 2, fun (s : State) =>
      match s.hostOut with | some (x, m) => ((x.results m).getD i 0).toNat | none => 0))
  ++ (List.range 32).map (fun n => (0xB300 + 8 * n, 2, fun (s : State) => s.hoopStat n))

/-- Registers of the seed page (Table 17.10). -/
def viewSeed : List RegView :=
  [(0xC000, fun (s : State) => b01 s.leaf.seed.key.isSome), (0xC004, fun (s : State) => s.leaf.seed.keyChk.toNat),
   (0xC028, fun (s : State) => at_ 2 (b01 s.leaf.seed.busy.isSome) + at_ 1 (b01 s.leaf.seed.err) + b01 s.leaf.seed.done),
   (0xC060, fun (s : State) => b01 s.leaf.seed.fpValid)]

/-- Wide registers of the seed page. -/
def wideSeed : List WideView :=
  [storedWide .leaf 0xC010 2, (0xC030, 4, fun _ => 0), (0xC040, 4, fun (s : State) => s.leaf.seed.out.toNat),
   (0xC050, 2, fun (s : State) => s.leaf.seed.fpHash.toNat), (0xC058, 2, fun (s : State) => s.leaf.seed.fpValue.toNat),
   (0xC068, 2, fun (s : State) => (s.root .leaf).stepHwm.toNat)]

/-- Registers of the region page (Table 17.11). -/
def viewRegion : List RegView :=
  [(0xD000, fun (s : State) => (s.leaf.gate.off ||| s.leaf.gate.pend).toNat), (0xD004, fun (s : State) => s.leaf.gate.refused.toNat),
   (0xD008, fun (s : State) => s.leaf.gate.why.toNat), (0xD00C, fun (s : State) => s.leaf.landStat.toNat)]
  ++ (List.range 16).flatMap (fun n =>
    [(rOff n 0x00, fun (s : State) =>
        let r := s.region n
        at_ 12 r.thrOut.toNat + at_ 8 s.leaf.thrHall.toNat + at_ 4 r.thrPlan.toNat + r.thrJob.toNat),
     (rOff n 0x04, fun (s : State) => at_ 31 (b01 (!(s.region n).crN)) + at_ 30 (b01 (s.region n).corrOk)),
     (rOff n 0x10, fun (s : State) => (s.region n).vintage.toNat)])

/-- Wide registers of the region page. -/
def wideRegion : List WideView := (List.range 16).map (fun n => (rOff n 0x08, 2, fun (s : State) => (s.region n).step.toNat))

/-- Registers of the bitstream port (Table 17.13, R402). -/
def viewBs (k : NodeSel) : List RegView :=
  [(bsOff k 8, fun (s : State) =>
     let b := s.bs k
     at_ 31 (b01 b.done) + at_ 30 (b01 b.refd) + at_ 4 (b.buf.length / 4) + b01 b.owner.isSome
       + at_ 1 (match b.owner with | some .tunnel => (match k with | .leaf => 1 | .mary => 4) | some (.host h) => h.val | _ => 0)),
   (bsOff k 0xC, fun (s : State) => (s.bs k).why.toNat), (bsOff k 0x10, fun (s : State) => (s.bs k).where_ % 2 ^ 16), (bsOff k 0x14, fun (s : State) => (s.cfg k).serial.toNat)]

/-- Registers of the binding page (Table 17.12). -/
def viewBind : List RegView :=
  [(0xE000, fun (s : State) => match s.leaf.binding with | some b => at_ 31 1 + at_ 16 b.sd.toNat + b.gen.toNat | none => 0),
   (0xE004, fun (s : State) => match s.leaf.binding with | some b => b.rank.toNat | none => 0),
   (0xE00C, fun (s : State) => b01 s.leafN.membValid),
   (0xE028, fun (s : State) => ((s.curGenOf .leaf (BitVec.ofNat 12 (s.fld .leaf 0xE024 11 0))).getD 0).toNat)]
  ++ (List.range 6).map (fun n => (0xE030 + 4 * n, fun (s : State) => s.membOf .leaf (BitVec.ofNat 12 (s.fld .leaf 0xE024 11 0)) n))

/-- The counters of the leaf's own pages. -/
def ctrsLeaf : List Nat :=
  [0x0018, 0x1200, 0x1204, 0x1208, 0x120C, 0x1210, 0x1214, 0x1218, 0x8134, 0x8138, 0x813C] ++ (List.range 8).map (fun j => 0x8200 + 4 * j)
  ++ [0x9310] ++ (List.range 12).map (fun j => 0xA100 + 4 * j) ++ (List.range 11).map (fun j => 0xB500 + 4 * j)
  ++ (List.range 7).map (fun j => 0xC100 + 4 * j) ++ [0xD014]
  ++ (List.range 16).flatMap (fun n => [rOff n 0x14, rOff n 0x18, rOff n 0x1C, rOff n 0x20])
  ++ (List.range 13).map (fun j => 0xE100 + 4 * j) ++ [0xF018]

/-- The write-only registers of the leaf's own pages. -/
def woLeaf : List Nat :=
  [0x0010, 0x001C, 0x1008, 0x100C, 0x8108, 0x9004, 0x9020, 0xA008, 0xB004, 0xC024, 0xE008, 0xE020, 0xF000, 0xF004]

/-! ## The root and SD page, and what an island root's image shares (Table 18.7, R383) -/

/-- A selector of a source, as it reads. -/
def State.selOf (s : State) (k : NodeSel) (src : Src) (off : Nat) : Nat := ((s.srcBuf k src).staged off).toNat

/-- The SD that a source's SD_SEL names. -/
def State.sdSel (s : State) (k : NodeSel) (src : Src) : Sd := BitVec.ofNat 12 (s.selOf k src 0x80500)

/-- What a field of the context of SD_SEL shows; the listed reset value when the SD has none (R11, R397). -/
def State.sdView (s : State) (k : NodeSel) (src : Src) (none_ : Nat) (f : SdCtx → Nat) : Nat :=
  match (s.root k).ctxOf (s.sdSel k src) with
  | some c => f c
  | none => none_

/-- JRNL_LOST, one bit a family; 0 at an island root (R340, R383). -/
def State.jrnlBits (s : State) (k : NodeSel) : Nat :=
  if k = .leaf then 0
  else flagsOf [(0, decide (Family.step ∈ s.cellar.lost)), (1, decide (Family.vint ∈ s.cellar.lost)),
    (2, s.cellar.lost.any (fun f => match f with | .gen _ => true | _ => false))]

/-- Registers of the root and SD page as a source reads them. -/
def viewRoot (k : NodeSel) (src : Src) : List RegView :=
  [(0x8000C, fun (s : State) => (s.srcBuf k src).inst.length),
   (0x80010, fun (s : State) => let w := (s.root k).instWhy; at_ 24 (w.1 % 256) + at_ 16 (w.2.1 % 256) + w.2.2 % 1024),
   (0x80014, fun (s : State) => let w := (s.root k).instFail; at_ 29 (w.1 % 8) + at_ 16 w.2.1.toNat + w.2.2.toNat),
   (0x80114, fun (s : State) => at_ 16 ((s.root k).bindWhy.2 % 2 ^ 15) + (s.root k).bindWhy.1 % 16),
   (0x80210, fun (s : State) => (s.root k).hoopWhy % 16), (0x80218, fun (s : State) => (s.recipes k).length % 2 ^ 11),
   (0x80314, fun (s : State) => (s.root k).keyWhy % 4), (0x80318, fun (s : State) => (s.srcBuf k src).chk),
   (0x80424, fun (s : State) => (s.root k).vintHwm.toNat), (0x80440, fun (s : State) => s.jrnlBits k),
   (0x80500, fun (s : State) => (s.sdSel k src).toNat),
   (0x80504, fun (s : State) => at_ 31 (s.sdView k src 0 (fun _ => 1)) + at_ 16 (s.sdView k src 0 (fun c => c.fpState.toNat))
      + (s.root k).hwmOf (s.sdSel k src) % 2 ^ 16),
   (0x80508, fun (s : State) => s.sdView k src 0 (fun c => c.vintage.toNat)), (0x8050C, fun (s : State) => s.sdView k src 0 (fun c => c.staged.toNat)),
   (0x80510, fun (s : State) => s.sdView k src 0xF0000000 (fun c => at_ 16 c.hoopCtr.toNat + c.batch.toNat)),
   (0x80528, fun (s : State) => ((s.root k).members (s.sdSel k src)).length),
   (0x8052C, fun (s : State) => s.sdView k src 0 (fun c => b01 c.stray)),
   (0x80530, fun (s : State) => s.sdView k src 2000 (fun c => c.guardNs)), (0x80534, fun (s : State) => s.sdView k src 32 (fun c => c.c2Rate)),
   (0x80538, fun (s : State) => s.sdView k src 2048 (fun c => c.c2Burst)), (0x80800, fun (s : State) => (s.root k).evt.toNat),
   (0x7F028, fun (s : State) => (s.root k).guardAdd % 2 ^ 14), (0x7F02C, fun (s : State) => (s.root k).deadlineAdd % 2 ^ 32)]

/-- Wide registers of the root and SD page, and of the planning fields. -/
def wideRoot (k : NodeSel) (src : Src) : List WideView :=
  [(0x80300, 4, fun _ => 0), storedWide k 0x80400 2, storedWide k 0x80408 2, (0x80418, 2, fun (s : State) => (s.root k).stepHwm.toNat),
   (0x80438, 2, fun _ => 0),
   (0x80518, 2, fun (s : State) => s.sdView k src 0 (fun c => match c.win with | some w => w.1.toNat | none => 0)),
   (0x80520, 2, fun (s : State) => s.sdView k src 0 (fun c => match c.win with | some w => w.2.toNat | none => 0)),
   (0x7F010, 2, fun (s : State) => s.flightMax k % 2 ^ 48),
   (0x7F018, 2, fun (s : State) => match (s.root k).flightPlan with | some p => at_ 63 1 + p % 2 ^ 48 | none => 0)]

/-- The counters of a root. -/
def ctrsRoot : List Nat := (List.range 12).map (fun j => 0x80700 + 4 * j) ++ [0xA0300, 0xA0304]

/-- The write-only registers of a root. -/
def woRoot : List Nat :=
  [0x80000, 0x80004, 0x80008, 0x80100, 0x80104, 0x80110, 0x80118, 0x80200, 0x80204, 0x8020C, 0x80214, 0x80310, 0x80410, 0x80414, 0x80420,
   0x7F020]

/-! ## The Maryel's own pages -/

/-- Registers of group page `g` (Table 18.3). -/
def viewGroup (g : Nat) : List RegView :=
  let b := 0x64000 + 0x1000 * g
  [(b + 0x004, fun (s : State) => (s.group g).err.toNat), (b + 0x008, fun (s : State) => s.grpSum g),
   (b + 0x00C, fun (s : State) => b01 (s.group g).ch0.table.isNone), (b + 0x010, fun (s : State) => intBits 32 (s.group g).ch0.gain),
   (b + 0x014, fun (s : State) => at_ 1 (b01 (s.group g).ch0.advFail) + b01 (s.group g).ch0.advLow),
   (b + 0x018, fun (s : State) => s.groupWeight g % 2 ^ 24)]

/-- Registers of quadrant page `q` (Table 18.3). -/
def viewQuad (q : Nat) : List RegView :=
  let b := 0x78000 + 0x1000 * q
  [(b + 0x004, fun (s : State) => (s.quad q).err.toNat), (b + 0x008, fun (s : State) => s.quadSum q), (b + 0x00C, fun (s : State) => b01 (s.quad q).held),
   (b + 0x010, fun (s : State) => s.quadWeight q % 2 ^ 24)]

/-- Registers of the chip page and of host control (Table 18.4), and the Maryel's own fields of the time core (Table 18.6). TEMP_C is a
measurement, whose value the reading access takes. -/
def viewChip : List RegView :=
  [(0x7C000, fun _ => 0x00030302), (0x7C004, fun _ => at_ 16 (Config.rclass .mary).toNat + 0x00B0),
   (0x7C010, fun (s : State) =>
     let c := s.cfg .mary
     at_ 18 (b01 c.fixlat) + at_ 17 (b01 c.root) + at_ 16 (domIdx c.dom) + c.nodeId.toNat % 2 ^ 16),
   (0x7C014, fun (s : State) =>
     let l := s.mary.lic
     at_ 31 (b01 l.gm) + at_ 30 (b01 l.quorum) + at_ 29 (b01 l.exact) + at_ 28 (b01 l.sdTier) + at_ 16 (l.portTier % 128) + b01 Config.gradeE),
   (0x7C020, fun (s : State) => s.mary.chipErr.toNat), (0x7C024, fun (s : State) => at_ 4 (b01 (decide (s.mary.chipErr ≠ 0))) + s.chipSum),
   (0x7C028, fun (s : State) => at_ 7 (b01 s.mary.silent) + s.mary.alarm.toNat),
   (0x7C038, fun (s : State) => (Config.tempC s.freeCtr).toNat),
   (0x7D024, fun (s : State) =>
     flagsOf ((List.finRange 4).map (fun h => (h.val, s.isExpert .mary (.host h))) ++ [(4, s.isExpert .mary .tunnel)])),
   (0x7D030, fun (s : State) => s.irqMary.toNat % 2 ^ 14),
   (0x7F040, fun (s : State) => at_ 8 (b01 s.mary.capPin) + s.mary.tseq.toNat)]

/-- The combine context that a source's CTX_SEL names. -/
def State.ctxSel (s : State) (src : Src) : Option Ctx := (s.ctxs .mary)[s.selOf .mary src 0x90004]?

/-- Member ports of a context that have not sent (Table 18.8). -/
def State.awaited (s : State) (c : Ctx) : Nat := ((s.memberPorts .mary c.dom c.sd).filter (fun p => !decide (p ∈ c.got))).length

/-- Registers of the diagnostics page (Table 18.8). -/
def viewDiag (src : Src) : List RegView :=
  let sel : State → Sd := fun (s : State) => BitVec.ofNat 12 (s.selOf .mary src 0x90118)
  let leaf : State → Option BindEnt := fun (s : State) => (s.root .mary).binds.find? (fun e => decide (e.leaf.toNat = s.selOf .mary src 0x90200))
  [(0x90000, fun (s : State) => (s.ctxs .mary).length), (0x90004, fun (s : State) => s.selOf .mary src 0x90004),
   (0x90008, fun (s : State) => match s.ctxSel src with | some c => at_ 31 1 + at_ 16 c.sd.toNat + c.hoopId.toNat | none => 0),
   (0x9000C, fun (s : State) => match s.ctxSel src with
      | some c => at_ 16 c.gen.toNat + at_ 15 (domIdx c.dom) + at_ 8 (c.got.length % 128) + s.awaited c % 128
      | none => 0),
   (0x90010, fun (s : State) => match s.ctxSel src with | some c => tuNs c.openAt % 2 ^ 32 | none => 0),
   (0x90100, fun (s : State) => b01 (s.membOk .mary)),
   (0x90118, fun (s : State) => (sel s).toNat), (0x9011C, fun (s : State) => s.selOf .mary src 0x9011C),
   (0x90120, fun (s : State) => ((s.curGenOf .mary (sel s)).getD 0).toNat), (0x90124, fun (s : State) => s.membOf .mary (sel s) (s.selOf .mary src 0x9011C)),
   (0x90128, fun (s : State) => s.liveCount .mary (s.selOf .mary src 0x9011C)),
   (0x90200, fun (s : State) => s.selOf .mary src 0x90200),
   (0x90204, fun (s : State) => match leaf s with | some e => at_ 31 1 + at_ 16 e.sd.toNat | none => 0),
   (0x90208, fun (s : State) => match leaf s with | some e => e.rank.toNat | none => 0)]

/-- REF_STAT codes (R313). -/
def RefStat.code : RefStat → Nat
  | .disabled => 0
  | .lost => 1
  | .qualifying => 2
  | .qualified => 3
  | .wtr => 4

/-- SEL_STATE (Table 14.7). -/
def State.selCode (s : State) : Nat := if s.mary.silent then 7 else s.mary.sel.st.code

/-- STATE[2:0]: the selector's at a root, that of the domain machine in any other Maryel (R323, Table 14.7). -/
def State.stateCode (s : State) : Nat :=
  let t := s.time .mary
  if s.mary.silent then 7
  else if s.isRoot .mary then s.mary.sel.st.code
  else match (t.dom s.rootDom).st with
    | .track => 2
    | .hold => 3
    | .lost => 3
    | .seek => 1
    | .acquire => 1
    | .off => 0

/-- REFLOS[n]: the entry for REFIN_n is enabled and LOST, QUALIFYING or WTR (R323). -/
def State.refLos (s : State) (n : Nat) : Bool :=
  (List.range 8).any (fun i =>
    let e := s.ent i
    refEn e.word && decide (refSrc e.word = n) && decide (e.stat = .lost ∨ e.stat = .qualifying ∨ e.stat = .wtr))

/-- Registers of the selector page (Table 18.9). -/
def viewSel : List RegView :=
  [(0x98000, fun (s : State) => s.mary.sel.ctl.toNat), (0x9804C, fun (s : State) => s.mary.sel.why % 8)]
  ++ (List.range 8).map (fun i => (0x98050 + 4 * i, fun (s : State) => (s.ent i).stat.code))
  ++ [(0x980C0, fun (s : State) => (match s.mary.sel.selected with | some i => at_ 7 1 + at_ 4 i.val | none => 0) + s.selCode),
      (0x980C4, fun (s : State) => b01 s.mary.sel.softMode), (0x980F8, fun (s : State) => s.mary.sel.holdSec % 2 ^ 32),
      (0x98110, fun (s : State) => intBits 32 s.mary.sel.ageEst), (0x98114, fun (s : State) => s.mary.sel.evt.toNat),
      (0x98118, fun (s : State) => at_ 5 s.stateCode + at_ 4 (b01 s.mary.sel.warm) + flagsOf ((List.range 4).map (fun n => (n, s.refLos n)))),
      (0x9821C, fun (s : State) => at_ 31 (b01 s.mary.utcValid) + (s.reg .mary 0x9821C).toNat)]

/-- Wide registers of the selector page. -/
def wideSel : List WideView :=
  (List.range 8).map (fun i => (0x98008 + 8 * i, 2, fun (s : State) => (s.ent i).word.toNat))
  ++ (List.range 8).map (fun i => (0x98080 + 8 * i, 2, fun (s : State) => intBits 48 (s.ent i).e))
  ++ [(0x980C8, 2, fun _ => 0), (0x980D8, 3, fun _ => 0), (0x980E8, 2, fun _ => 0), (0x980F0, 2, fun (s : State) => s.mary.sel.kHo.toNat),
      (0x98100, 2, fun (s : State) => s.mary.sel.kDay.toNat), (0x98108, 2, fun (s : State) => s.mary.sel.kDayPrev.toNat),
      (0x9811C, 2, fun (s : State) => intBits 48 s.mary.sel.abDiff), storedWide .mary 0x98208 2, storedWide .mary 0x98210 2]

/-- Registers of 1588 port `k` (Table 18.10). -/
def viewPtp (k : Nat) : List RegView :=
  [(tReg k 0x000, fun (s : State) => (clrBit (s.reg .mary (tReg k 0)) 2).toNat + at_ 2 (b01 (s.slaveOnly k))),
   (tReg k 0x00C, fun (s : State) => (s.ptpPort k).state.toNat),
   (tReg k 0x020, fun (s : State) => (s.reg .mary (tReg k 0x20)).toNat + at_ 8 (s.ptpPort k).qlRx.toNat)]

/-- MAC_ADDR of a port: what was written, else the fused address. -/
def State.macAddr (s : State) (k : Fin 2) : Nat :=
  let w (off : Nat) (d : Nat) : Nat := match sget s.maryN.regs (tReg k.val off) with | some v => v.toNat | none => d
  w 0x28 ((Config.macAddr k).toNat % 2 ^ 32) + 2 ^ 32 * w 0x2C ((Config.macAddr k).toNat / 2 ^ 32)

/-- Wide registers of 1588 port `k`. -/
def widePtp (k : Fin 2) : List WideView :=
  [(tReg k.val 0x010, 2, fun (s : State) => intBits 48 (s.ptpPort k.val).offset), (tReg k.val 0x018, 2, fun (s : State) => intBits 48 (s.ptpPort k.val).delay),
   (tReg k.val 0x028, 2, fun (s : State) => s.macAddr k)]

/-- Registers of the engine, profile and licence pages (Tables 18.11, 18.12). -/
def viewProf (src : Src) : List RegView :=
  [(0xB000C, fun (s : State) => s.mary.me.state.toNat), (0xC0010, fun (s : State) => s.selOf .mary src 0xC0010)]
  ++ (List.range 4).map (fun n => (0xC0060 + 4 * n, fun (s : State) => s.selOf .mary src (0xC0060 + 4 * n)))
  ++ [(0xC0070, fun (s : State) => s.selOf .mary src 0xC0070),
      (0xC00CC, fun (s : State) => at_ 31 (b01 s.mary.profPend.isSome) + at_ 4 (flagsOf ((List.range 4).map (fun n => (n, s.profValid n)))) + s.mary.profAct.val),
      (0xC00D0, fun (s : State) => s.mary.profErr.toNat)]
  ++ (List.range 4).map (fun n => (0xC00D4 + 4 * n, fun (s : State) => match s.profAt n with | some p => p.serial.toNat | none => 0))
  ++ [(0xD0088, fun (s : State) => s.mary.licWhy % 8), (0xD0204, fun (s : State) => s.mary.licLost.toNat)]

/-- LIC_SLOT_k (Table 18.12). -/
def State.licView (s : State) (k : Nat) : Nat :=
  match s.licSlot k with
  | some l => at_ 63 1 + at_ 62 (b01 (s.mary.licRm.getLsbD k)) + at_ 48 (beField l 5 1) + at_ 32 (beField l 6 2) + beField l 16 4
  | none => 0

/-- A wide register of a source's staging words. -/
def stagedWide (src : Src) (off n : Nat) : WideView :=
  (off, n, fun (s : State) => wideNum ((List.range n).map (fun i => (s.srcBuf .mary src).staged (off + 4 * i))))

/-- Wide registers of the profile and licence pages. -/
def wideProf (src : Src) : List WideView :=
  (List.range 8).map (fun i => stagedWide src (0xC0018 + 8 * i) 2)
  ++ [stagedWide src 0xC0080 12, stagedWide src 0xD0000 32]
  ++ (List.range 16).map (fun k => (0xD0100 + 8 * k, 2, fun (s : State) => s.licView k))

/-- Registers of cellar control (Table 18.13). -/
def viewCel (src : Src) : List RegView :=
  [(0xF0000, fun (s : State) => s.selOf .mary src 0xF0000),
   (0xF000C, fun (s : State) =>
     at_ 31 (b01 s.cellar.busy) + at_ 30 (b01 s.rwpPend) + at_ 29 (b01 s.cellar.ka.valid) + s.cellar.queue.length % 2 ^ 16),
   (0xF0014, fun (s : State) => at_ 31 (b01 s.cellar.rwpLost.2) + s.cellar.rwpLost.1), (0xF0030, fun (s : State) => s.wearMax.2),
   (0xF0034, fun (s : State) => s.eraseCount % 2 ^ 32), (0xF004C, fun (s : State) => if s.mary.sel.wasLocked then 0 else min (2 ^ 32 - 1) s.cellar.ka.unc)]

/-- Wide registers of cellar control. -/
def wideCel : List WideView :=
  [(0xF0028, 2, fun (s : State) => s.wearMax.1), (0xF0038, 2, fun (s : State) => s.cellar.ka.cnt.toNat),
   (0xF0040, 3, fun (s : State) => match s.cellar.ka.time with | some t => if s.mary.sel.wasLocked then 0 else (htOf (t * nsTu)).toNat | none => 0),
   (0xF0050, 2, fun (s : State) => s.cellar.ka.ancCnt.toNat), (0xF0058, 2, fun (s : State) => s.cellar.ka.ancSec.toNat),
   (0xF0060, 2, fun (s : State) => s.cellar.ka.rate.toNat)]

/-- The cellar word that an offset of the aperture shows to a source (R350, R403). -/
def State.apertureWord (s : State) (src : Src) (off : Nat) : Nat := s.selOf .mary src 0xF0000 * 8192 + (off - 0xE0000) / 8

/-- The counters of the Maryel's own pages. -/
def ctrsMary : List Nat :=
  [0x7C018, 0x7C03C, 0x7D060, 0x7D064, 0x7D068, 0x7D06C, 0x7D070, 0x7D074, 0x7D078, 0x7D07C, 0x7D080]
  ++ (List.range 7).map (fun j => 0x7E200 + 4 * j) ++ (List.range 13).map (fun j => 0x90400 + 4 * j)
  ++ [0x98400, 0x98404] ++ (List.range 8).map (fun i => 0x98410 + 4 * i) ++ [0x99100, 0x99104, 0x99900, 0x99904, 0xA0308, 0xB0014, 0xB0018,
      0xC0118, 0xC0200, 0xD0200, 0xF0100, 0xF0104, 0xF0108, 0xF010C]

/-- The write-only registers of the Maryel's own pages. -/
def woMary : List Nat :=
  [0x7C01C, 0x7C030, 0x7C034, 0x7D020, 0x7E00C, 0x7F03C, 0x90114, 0x98048, 0x980D0, 0xB0000, 0xB0004, 0xB0008, 0xC0000, 0xC0004, 0xC00C0,
   0xC00C4, 0xC00C8, 0xC0100, 0xC0104, 0xD0080, 0xD0084, 0xF0004, 0xF0008, 0xF0010]

/-! ## The maps of the windows -/

/-- The pages of the leaf's window: registers, wide registers, counters and write-only registers of the page of an offset. -/
def leafPage (src : Src) (off : Nat) : List RegView × List WideView × List Nat × List Nat :=
  let c := (off - 0x2000) / 0x1000
  if 0x2000 ≤ off ∧ off < 0x8000 then (viewCell .leaf c, wideCell .leaf c, ctrsCell.map (cOff .leaf c), [])
  else if off < 0x10000 then
    (viewIdent ++ viewTime .leaf ++ viewIntp ++ viewFreq ++ viewPrick ++ viewHoop ++ viewSeed ++ viewRegion ++ viewBind ++ viewBs .leaf,
     wideTime .leaf ++ wideIntp ++ wideFreq ++ wideHoop ++ wideSeed ++ wideRegion ++ (fifosOf .leaf).map (fifoView .leaf), ctrsLeaf, woLeaf)
  else (viewRoot .leaf src, wideRoot .leaf src ++ [fifoView .leaf .exc, fifoView .leaf .alarm], ctrsRoot, woRoot)

/-- The pages of the Maryel's window. -/
def maryPage (src : Src) (off : Nat) : List RegView × List WideView × List Nat × List Nat :=
  let c := off / 0x1000
  let g := (off - 0x64000) / 0x1000
  let q := (off - 0x78000) / 0x1000
  if off < 0x64000 then (viewCell .mary c, wideCell .mary c, ctrsCell.map (cOff .mary c), [cOff .mary c 0xC])
  else if off < 0x78000 then (viewGroup g, [], [0x64000 + 0x1000 * g + 0x1C, 0x64000 + 0x1000 * g + 0x20], [0x64000 + 0x1000 * g])
  else if off < 0x7C000 then (viewQuad q, [], [0x78000 + 0x1000 * q + 0x14, 0x78000 + 0x1000 * q + 0x18], [0x78000 + 0x1000 * q])
  else if 0xE0000 ≤ off ∧ off < 0xF0000 then
    ([], [(off / 8 * 8, 2, fun (s : State) => (s.celWord (s.apertureWord src off)).toNat)], [], [])
  else
    (viewTime .mary ++ viewChip ++ viewRoot .mary src ++ viewDiag src ++ viewSel ++ viewPtp 0 ++ viewPtp 1 ++ viewProf src ++ viewBs .mary
      ++ viewCel src,
     wideTime .mary ++ [(0x7C008, 2, fun _ => Config.chipUid.toNat)] ++ wideRoot .mary src ++ wideSel ++ widePtp 0 ++ widePtp 1 ++ wideProf src
      ++ wideCel ++ (fifosOf .mary).map (fifoView .mary),
     ctrsMary ++ ctrsRoot, woMary ++ woRoot)

/-- The page of an offset at a node. -/
def pageOf (k : NodeSel) (src : Src) (off : Nat) : List RegView × List WideView × List Nat × List Nat :=
  match k with
  | .leaf => leafPage src off
  | .mary => maryPage src off

/-- The wide register that an offset belongs to. -/
def wideAt (k : NodeSel) (src : Src) (off : Nat) : Option WideView :=
  (pageOf k src off).2.1.find? (fun w => decide (w.1 ≤ off ∧ off < w.1 + 4 * w.2.1))

/-- The leaf's stored registers that lie on the Maryel's time page only as unassigned offsets (R395). -/
def notAtMary (off : Nat) : Bool := decide (off = 0x7E000 ∨ (0x7E060 ≤ off ∧ off < 0x7E080))

/-- Does a node store what is written at an offset (Operands.lean)? -/
def isStored (k : NodeSel) (off : Nat) : Bool := !(fieldsAt k off).isEmpty && !(decide (k = .mary) && notAtMary off)

/-- What a register that is no part of a wide one reads as; none at an unassigned offset (R10). ME_MBOX holds what the engine has
written (R300). -/
def State.view (s : State) (k : NodeSel) (src : Src) (off : Nat) : Option Nat :=
  let p := pageOf k src off
  match p.1.find? (fun r => r.1 == off) with
  | some r => some (r.2 s)
  | none =>
    if p.2.2.1.contains off then some (s.count k off).toNat
    else if isStored k off then some (s.reg k off).toNat
    else if k = .mary ∧ 0xB1000 ≤ off ∧ off < 0xB2000 then some (s.reg .mary off).toNat
    else if p.2.2.2.contains off then some 0
    else none

/-! ## The reading access -/

/-- The Maryel offset of an offset in the island root image, if the image has one there (R383). -/
def imageOff (a : Nat) : Option Nat :=
  if a % 4 ≠ 0 then none
  else if a < 0x1000 then some (0x80000 + a)
  else if (0xA000 ≤ a ∧ a < 0xA200) ∨ a = 0xA300 ∨ a = 0xA304 then some (0xA0000 + (a - 0xA000))
  else if 0xF010 ≤ a ∧ a ≤ 0xF02C then some (0x7F000 + (a - 0xF000))
  else none

/-- The read data of an access, and whether it was refused or met an unassigned offset (R135). -/
def State.answer (s : State) (k : NodeSel) (v : W32) (bad : Bool) : State := s.modNode k (fun N => { N with rdata := (v, bad) })

/-- A word of a snapshot that a source holds of a wide register. -/
def State.snapWord (s : State) (k : NodeSel) (src : Src) (base : Nat) : Option (List W32) :=
  s.onNode k (fun N => (N.snaps.find? (fun x => decide (x.1 = src ∧ x.2.1 = base))).map (fun x => x.2.2))

/-- Forget a snapshot, or a mark. -/
def State.snapDrop (s : State) (k : NodeSel) (src : Src) (base : Nat) : State :=
  s.modNode k (fun N => { N with snaps := N.snaps.filter (fun x => !decide (x.1 = src ∧ x.2.1 = base)) })

/-- Keep a snapshot. The island root image has one a source (R383), so a new one there replaces the last. -/
def State.snapKeep (s : State) (k : NodeSel) (src : Src) (base : Nat) (l : List W32) : State :=
  s.modNode k (fun N =>
    { N with snaps := N.snaps.filter (fun x =>
        !decide (x.1 = src ∧ (x.2.1 = base ∨ (k = .leaf ∧ 0x10000 ≤ base ∧ 0x10000 ≤ x.2.1 ∧ x.2.1 ≠ base + 1)))) ++ [(src, base, l)] })

/-- The FIFO that a wide register is, if it is one. -/
def fifoOf (k : NodeSel) (base : Nat) : Option FifoId := (fifosOf k).find? (fun f => (fifoAt f).1 == base)

/-- PRBS_ERR and PRBS_BITS run on while a cell is in TEST: what the checker has counted since the last read; PRBS_BITS stays at its greatest
value as PRBS_ERR does (R77, log 111). -/
def State.prbsRun (s : State) (k : NodeSel) (i : Nat) : State :=
  if (s.cell k i).ts = .test then
    let (n, s1) := s.takeFree
    let (e, b) := Config.prbs n
    (s1.bumpBy k (cOff k i 0x70) e).modCell k i (fun c => { c with prbsBits := BitVec.ofNat 48 (min (2 ^ 48 - 1) (c.prbsBits.toNat + b)) })
  else s

/-- The cell whose page an offset lies on. -/
def cellAt (k : NodeSel) (off : Nat) : Option Nat :=
  match k with
  | .leaf => if 0x2000 ≤ off ∧ off < 0x8000 then some ((off - 0x2000) / 0x1000) else none
  | .mary => if off < 0x64000 then some (off / 0x1000) else none

/-- What runs on by itself comes up to date before it is read: the pattern checker, and the crystal counter KA_CNT (R77, R343). -/
def State.readRun (s : State) (k : NodeSel) (off : Nat) : State :=
  let s1 := match cellAt k off with
    | some i => if off = cOff k i 0x70 ∨ off = cOff k i 0x74 then s.prbsRun k i else s
    | none => s
  if k = .mary ∧ off = 0xF0038 then
    let (n, s2) := s1.takeFree
    s2.modCellar (fun c => { c with ka := { c.ka with cnt := c.ka.cnt + Config.freeBits 48 n } })
  else s1

/-- What a read of a lowest word does beside its snapshot: SNAP_RC counts as read (R41, R373), and an uncorrectable cellar word is
counted (R347). -/
def State.readAfter (s : State) (k : NodeSel) (src : Src) (off : Nat) : State :=
  if off = tOff k 0x1030 then s.modTime k (fun t => { t with snapUnread := false })
  else if k = .mary ∧ 0xE0000 ≤ off ∧ off < 0xF0000 ∧ !s.celOk (s.apertureWord src off) then s.celUe (s.apertureWord src off)
  else s

/-- The words a low read takes: those of the register; of an uncorrectable cellar word free ones, since the spec states no data for it (R347). -/
def State.wideTake (s : State) (k : NodeSel) (src : Src) (w : WideView) : List W32 × State :=
  if k = .mary ∧ 0xE0000 ≤ w.1 ∧ w.1 < 0xF0000 ∧ !s.celOk (s.apertureWord src w.1) then
    let (n, s1) := s.takeFree
    (wideWords 2 (Config.freeBits 64 n).toNat, s1)
  else (wideWords w.2.1 (w.2.2 s), s)

/-- A read of a word of a wide register (R9, R368). A higher word that no low read went before has no stated value: a free one. The mark
one above a FIFO's offset says that a low read has taken its head record. -/
def State.readWide (s : State) (k : NodeSel) (src : Src) (w : WideView) (off : Nat) : State :=
  let base := w.1
  let i := (off - base) / 4
  if i = 0 then
    let (l, s1) := (s.readRun k off).wideTake k src w
    let s2 := ((s1.snapDrop k src (base + 1)).snapKeep k src base l).readAfter k src off
    let s3 := match fifoOf k base with
      | some f => if (s.fifo k f).isEmpty then s2 else s2.snapKeep k src (base + 1) []
      | none => s2
    s3.answer k (l.getD 0 0) false
  else
    match s.snapWord k src base with
    | some l =>
      let s1 := s.answer k (l.getD i 0) false
      match fifoOf k base with
      | some f => if i + 1 = w.2.1 ∧ (s.snapWord k src (base + 1)).isSome then (s1.snapDrop k src (base + 1)).fifoDrop k f else s1
      | none => s1
    | none =>
      let (n, s1) := s.takeFree
      s1.answer k (Config.freeBits 32 n) false

/-- A read of a register that is no part of a wide one. TEMP_C is a measurement. -/
def State.readWord (s : State) (k : NodeSel) (src : Src) (off : Nat) : State :=
  let s1 := s.readRun k off
  match s1.view k src off with
  | some v => (if k = .mary ∧ off = 0x7C038 then s1.takeFree.2 else s1).answer k (BitVec.ofNat 32 v) false
  | none => s1.answer k 0 true

/-- A read of an assigned or unassigned offset of a window whose access is allowed. -/
def State.readAt (s : State) (k : NodeSel) (src : Src) (off : Nat) : State :=
  if off % 4 ≠ 0 then s.answer k 0 true
  else match wideAt k src off with
    | some w => s.readWide k src w off
    | none => s.readWord k src off

/-- ROOT_DATA read: the register of the image at ROOT_ADDR; 0 at a leaf that is no island root (R383). -/
def opRootRead (src : Src) (s : State) : State :=
  if !s.isRoot .leaf then s.answer .leaf 0 false
  else match imageOff (s.fld .leaf 0xE050 15 0) with
    | some o => s.readAt .leaf src o
    | none => s.answer .leaf 0 true

/-- A read access: nothing from a source the node lacks; a leaf held in reset answers 0 with an error but for TIME_CTL (R367); at a Maryel
any access cancels the source's key, the permission is judged, and root pages read 0 elsewhere (R297, R359, R387). -/
def State.readReg (s : State) (k : NodeSel) (src : Src) (off : Nat) : State :=
  if !srcAt k src || (decide (src = .engine) && decide (s.mary.me.state ≠ 1)) then s
  else match k with
    | .leaf =>
      if s.held .leaf && !decide (off = 0x1000) then (if src = .qhp then s.answer .leaf 0 true else s)
      else if off = 0xE054 then opRootRead src s
      else if 0x10000 ≤ off ∧ !s.isRoot .leaf then s.answer .leaf 0 false
      else s.readAt .leaf src off
    | .mary =>
      if s.held .mary then s
      else
        let s0 := s.cancelKey src
        if !s.mayRead src off then
          ((s0.hostStat src 1).bumpIf (decide (src = .tunnel)) .mary (offDeny src)).answer .mary 0 true
        else if rootPage off && !s.isRoot .mary then s0.answer .mary 0 false
        else s0.readAt .mary src off

/-- Is an offset assigned in a window (R10)? -/
def assignedAt (k : NodeSel) (src : Src) (off : Nat) : Bool :=
  let p := pageOf k src off
  decide (off % 4 = 0) && ((wideAt k src off).isSome || p.1.any (fun r => r.1 == off) || p.2.2.1.contains off || p.2.2.2.contains off ||
    isStored k off || (decide (k = .leaf) && decide (off = 0xE054)) || (decide (k = .mary) && decide (0xB1000 ≤ off ∧ off < 0xB2000)))

/-- Does an access to an offset count as one to an unassigned offset (R10, R135, R383)? -/
def State.unassigned (s : State) (k : NodeSel) (src : Src) (off : Nat) : Bool :=
  if k = .leaf ∧ off = 0xE054 then
    s.isRoot .leaf && (match imageOff (s.fld .leaf 0xE050 15 0) with | some o => !assignedAt .leaf src o | none => true)
  else !assignedAt k src off

/-! ## The commands -/

/-- WIDE_READ_SNAPSHOT: a read of a lowest word of the leaf's window (R9, R41). -/
def execWideReadSnapshot (src : Src) (off : W16) (s : State) : Host.Outcome State Fault Refusal := .next (s.readReg .leaf src off.toNat)

/-- FIFO_POP: a read of the highest word of a FIFO, which removes the head record when a low read went before (R368). -/
def execFifoPop (n : NodeSel) (src : Src) (f : FifoId) (s : State) : Host.Outcome State Fault Refusal :=
  .next (s.readReg n src ((fifoAt f).1 + 4 * ((fifoAt f).2 - 1)))

end Sys2Proof.Machine
end

