-- ==== Sys2Proof/Machine/RegWrite.lean ====
section
/-! DEFINITION. What a register write does: the stored fields with their ranges and types (R10, Table 0.5), the staging of wide writes (R9), the
RW1C registers, and the dispatch of every other register to the operation of its own rule. -/

namespace Sys2Proof.Machine

/-! ## Stored fields (R10, Table 0.5) -/

/-- Is a field of a register expert (Table 0.5)? -/
def Fld.expert (f : Fld) : Bool := decide (f.ty = .rwx)

/-- The value of a field in a written word. -/
def Fld.of (f : Fld) (v : W32) : Nat := bitsOf v (f.lo + f.w - 1) f.lo

/-- Does a written word keep a field in range? -/
def Fld.ok (f : Fld) (v : W32) : Bool := decide (f.mn ≤ f.of v ∧ f.of v ≤ f.mx)

/-- A field of a word replaced by that of another. -/
def Fld.put (f : Fld) (old v : W32) : W32 :=
  BitVec.ofNat 32 (old.toNat - f.of old * 2 ^ f.lo + f.of v * 2 ^ f.lo)

/-- The two's complement ranges that Table 14.9 gives three fields of a 1588 port: lowest bit, least and greatest value. -/
def ptpLogs : List (Nat × Int × Int) := [(24, -7, 5), (8, -3, 3), (0, -7, 0)]

/-- Is a field's value in its range, the signed ones of Table 14.9 and QUAL_TIME of REF_CTL (Table 14.3) among them? DESIGN CHOICE
(log 111): REF_CTL is the one 32-bit field that the table makes of it, so a write with QUAL_TIME 0 is refused whole. -/
def fieldOk (k : NodeSel) (off : Nat) (f : Fld) (v : W32) : Bool :=
  if k = .mary ∧ canonMary off = 0x99008 ∧ f.lo ≠ 16 then
    (ptpLogs.filter (fun p => p.1 == f.lo)).all (fun p => decide (p.2.1 ≤ signedOf 4 (f.of v) ∧ signedOf 4 (f.of v) ≤ p.2.2))
  else if k = .mary ∧ off = 0x98000 then decide (bitsOf v 15 8 ≠ 0)
  else f.ok v

/-- The counter that a refused value of a field moves: a signed field of a 1588 port counts in REF_REFUSED (R400). -/
def fieldCtr (k : NodeSel) (off : Nat) (f : Fld) : RefCtr := if k = .mary ∧ canonMary off = 0x99008 then .ref else f.ctr

/-- A write to a register of stored fields: an expert field needs open expert access, a field whose value is out of range keeps its
value, and the write is counted once in each counter that its refused fields name. Every other field takes its value (R10, R337). -/
def State.writeStored (s : State) (k : NodeSel) (src : Src) (off : Nat) (v : W32) : State :=
  let fs := fieldsAt k off
  if fs.any Fld.expert && !s.isExpert k src then s.refuse k (offAccErr k)
  else
    let bad := fs.filter (fun f => !fieldOk k off f v)
    let ctrs := (bad.map (fun f => (fieldCtr k off f).off k (s.isRoot k))).eraseDups
    let new := (fs.filter (fun f => fieldOk k off f v)).foldl (fun a f => f.put a v) (s.reg k off)
    let s1 := if fs.any (fun f => decide (f.ty = .rwp)) then (if bad == [] then s.setRwp off new else s) else s.setReg k off new
    s1.each ctrs (fun s c => s.refuse k c)

/-! ## Expert access and counters (R272, R369, R390) -/

/-- EXPERT_UNLOCK: the key opens expert access for the source, any other value closes it (R369, R390). -/
def opExpertUnlock (k : NodeSel) (src : Src) (v : W32) (s : State) : State :=
  s.modNode k (fun N =>
    let l := N.expert.filter (fun x => !decide (x = src))
    { N with expert := if v = 0x45585054#32 then l ++ [src] else l })

/-- ERR_CNT_CLR: every counter of the window clears, and the PRBS pair of each port (R272, R368). -/
def opErrCntClr (k : NodeSel) (v : Bool) (s : State) : State :=
  if v then (s.modNode k (fun N => { N with ctr := [] })).each (List.range (cellCount k)) (fun s i => s.modCell k i (fun c => { c with prbsBits := 0 }))
  else s

/-! ## RW1C registers (Table 0.5) -/

/-- Clear the bits that are written 1. -/
def w1c {n : Nat} (x : BitVec n) (v : W32) : BitVec n := x &&& ~~~ (v.setWidth n)

/-- A write to a register of RW1C bits; none where the offset has none. -/
def State.writeW1c (s : State) (k : NodeSel) (off : Nat) (v : W32) : Option State :=
  let cell (c : Nat) : Option State := if off = cOff .mary c 0x80 then some (s.modCell .mary c (fun x => { x with err := w1c x.err v })) else none
  if off = tOff k 0x1014 then some (s.modTime k (fun t => { t with evt := w1c t.evt v }))
  else if off = bsOff k 8 then
    some (s.modBs k (fun b => { b with done := b.done && !v.getLsbD 31, refd := b.refd && !v.getLsbD 30 }))
  else if off = 0x80800 then some (s.modRoot k (fun r => { r with evt := w1c r.evt v }))
  else match k with
    | .leaf =>
      if off = 0x0020 then some (s.modNode .leaf (fun N => { N with irq := w1c N.irq v }))
      else if off = 0x0030 then some (s.modLeaf (fun l => { l with err := w1c l.err v }))
      else if off = 0x0038 then some (s.modLeaf (fun l => { l with alarm := w1c l.alarm v }))
      else if off = 0x810C then some (s.modLeaf (fun l => { l with stat := { l.stat with done := l.stat.done && !v.getLsbD 0 } }))
      else if off = 0x9008 then some (s.modLeaf (fun l => { l with freq := { l.freq with done := l.freq.done && !v.getLsbD 0 } }))
      else if off = 0xC028 then
        some (s.modSeed (fun x => { x with err := x.err && !v.getLsbD 1, done := x.done && !v.getLsbD 0 }))
      else if off = 0xD004 then some (s.modGate (fun g => { g with refused := w1c g.refused v }))
      else if off = 0xD00C then some (s.modLeaf (fun l => { l with landStat := w1c l.landStat v }))
      else none
    | .mary =>
      if off < 0x64000 then cell (off / 0x1000)
      else if off < 0x78000 ∧ off % 0x1000 = 4 then
        some (s.modGroup ((off - 0x64000) / 0x1000) (fun g => { g with err := w1c g.err v }))
      else if 0x78000 ≤ off ∧ off < 0x7C000 ∧ off % 0x1000 = 4 then
        some (s.modQuad ((off - 0x78000) / 0x1000) (fun q => { q with err := w1c q.err v }))
      else if off = 0x7C020 then some (s.modMary (fun m => { m with chipErr := w1c m.chipErr v }))
      else if off = 0x7C028 then some (s.modMary (fun m => { m with alarm := w1c m.alarm v }))
      else if off = 0x7D030 then some (s.modNode .mary (fun N => { N with irq := w1c N.irq v }))
      else if off = 0x98114 then some (s.modSel (fun x => { x with evt := w1c x.evt v }))
      else if off = 0xC00D0 then some (s.modMary (fun m => { m with profErr := w1c m.profErr v }))
      else if off = 0xD0204 then some (s.modMary (fun m => { m with licLost := w1c m.licLost v }))
      else if off = 0xF0014 then some (s.modCellar (fun c => { c with rwpLost := (c.rwpLost.1, c.rwpLost.2 && !v.getLsbD 31) }))
      else none

/-! ## Registers at both nodes -/

/-- The first word of a cell page: PATSEL, TEST and PORT_EN, in that order (Table 17.5). -/
def opPortCtl (k : NodeSel) (i : Nat) (v : W32) (s : State) : State :=
  opPortEn k i (v.getLsbD 0) (opTest k i (v.getLsbD 1) (s.setReg k (cOff k i 0) (v &&& 0xC#32)))

/-- SNAP_PICOT and SNAP_GO (R41). -/
def opSnapCtl (k : NodeSel) (v : W32) (s : State) : State :=
  let s1 := s.setReg k (tOff k 0x1018) (v &&& 2#32)
  if v.getLsbD 0 then opSnapGo k s1 else s1

/-- The bitstream port's command register: START, then APPLY (R384). -/
def opBsCtl (k : NodeSel) (src : Src) (v : W32) (s : State) : State :=
  let s1 := if v.getLsbD 0 then opBsStart k src s else s
  if v.getLsbD 1 then opBsApply k src s1 else s1

/-- Act on bit 0 of a written word. -/
def onBit0 (v : W32) (f : State → State) (s : State) : State := if v.getLsbD 0 then f s else s

/-- An SD in bits [11:0] of a written word. -/
def sdLow (v : W32) : Sd := v.extractLsb' 0 12
/-- An SD in bits [27:16] of a written word. -/
def sdHigh (v : W32) : Sd := v.extractLsb' 16 12
/-- Bits [15:0] of a written word. -/
def lowHalf (v : W32) : W16 := v.extractLsb' 0 16

/-- Write a selector or staging word of a source's own (R389). -/
def State.putSel (s : State) (k : NodeSel) (src : Src) (off : Nat) (v : Nat) : State :=
  s.modSrcBuf k src (fun b => { b with sel := sput b.sel off (BitVec.ofNat 32 v) })

/-- A field of the context of SD_SEL is set (R397): without a context the write is counted in ACC_ERR; an expert field needs open expert
access, SD_GUARD below 2,000 ns likewise; a value out of range is counted by its own rule (R167, R266). -/
def State.writeSd (s : State) (k : NodeSel) (src : Src) (expert ok : Bool) (ctr : Nat) (f : SdCtx → SdCtx) : State :=
  if ((s.root k).ctxOf (s.sdSel k src)).isNone then s.refuse k (offAccErr k)
  else if expert && !s.isExpert k src then s.refuse k (offAccErr k)
  else if !ok then s.refuse k ctr
  else s.modRoot k (fun r => r.modCtx (s.sdSel k src) f)

/-- A write to a register of a root that has a rule of its own; none elsewhere (Table 18.7). -/
def State.writeRoot (s : State) (k : NodeSel) (src : Src) (off : Nat) (v : W32) : Option State :=
  let n (hi : Nat) : Nat := bitsOf v hi 0
  match off with
  | 0x80000 => some (onBit0 v (opBufClr k src .inst) s)
  | 0x80004 => some (opAppend k src .inst v s)
  | 0x80008 => some (opInstGo k src (sdHigh v) (lowHalf v) s)
  | 0x80100 => some (onBit0 v (opBufClr k src .bind) s)
  | 0x80104 => some (opAppend k src .bind v s)
  | 0x80110 => some (opBindGo k src (sdLow v) s)
  | 0x80118 => some (s.teardownOp k src (sdLow v))
  | 0x80200 => some (onBit0 v (opBufClr k src .rcp) s)
  | 0x80204 => some (opAppend k src .rcp v s)
  | 0x8020C => some (opRcpGo k src (sdHigh v) (lowHalf v) s)
  | 0x80214 => some (opHoopAbort k (sdHigh v) (lowHalf v) s)
  | 0x80310 => some (opKeySend k src (sdLow v) s)
  | 0x80410 => some (opStepWinSet k src (sdLow v) s)
  | 0x80414 => some (opStepWinAdopt k (sdLow v) s)
  | 0x80420 => some (s.vintOp k src v)
  | 0x80500 => some (s.putSel k src 0x80500 (n 11))
  | 0x80530 => some (s.writeSd k src (decide (n 13 < 2000)) (decide (500 ≤ n 13 ∧ n 13 ≤ 16380 ∧ n 13 % 4 = 0)) 0x80700
      (fun c => { c with guardNs := n 13 }))
  | 0x80534 => some (s.writeSd k src true (decide (1 ≤ n 6 ∧ n 6 ≤ 80)) 0x80708 (fun c => { c with c2Rate := n 6 }))
  | 0x80538 => some (s.writeSd k src true (decide (64 ≤ n 16 ∧ n 16 ≤ 65536)) 0x80708 (fun c => { c with c2Burst := n 16 }))
  | 0x7F020 => some (onBit0 v (opPlanCmd k) s)
  | _ => none

/-- A write to a register of the time page that has a rule of its own. -/
def State.writeTime (s : State) (k : NodeSel) (off : Nat) (v : W32) : Option State :=
  if off = tOff k 0x1004 then some (opDomEn k (v.setWidth 2) s)
  else if off = tOff k 0x100C then some (opDomReacq k (if v.getLsbD 0 then .b else .a) s)
  else if off = tOff k 0x1018 then some (opSnapCtl k v s)
  else none

/-! ## The leaf -/

/-- ROOT_DATA is handled by its own operation; every other register of the leaf's pages with a rule of its own. -/
def State.writeLeaf (s : State) (src : Src) (off : Nat) (v : W32) : Option State :=
  let b (f : State → State) : Option State := some (onBit0 v f s)
  let st : State := s.writeStored .leaf src off v
  let mode (s : State) : State :=
    if (fieldsAt .leaf off).all (fun f => fieldOk .leaf off f v) then s.modLeaf (fun l => { l with evt := { l.evt with modeWr := true } }) else s
  match off with
  | 0x0010 => some (opExpertUnlock .leaf src v s)
  | 0x001C => b (opErrCntClr .leaf true)
  | 0x1008 => some (opRackCmd (if v.getLsbD 0 then .b else .a) s)
  | 0x8000 => some (mode st)
  | 0x8004 => some (mode st)
  | 0x8008 => some (mode st)
  | 0x8108 => some (onBit0 v opStatGo (if v.getLsbD 1 then opStatStop s else s))
  | 0x9000 => some (if (fieldsAt .leaf off).any (fun f => fieldOk .leaf off f v) then st.fcWritten else st)
  | 0x9004 => b opFcGo
  | 0x9020 => some (opFcMinRst (lowHalf v) s)
  | 0xA008 => b (fun s => s.modPrick (fun p => { p with fatal := false }))
  | 0xB004 => b opHcCommit
  | 0xC024 => b opStitchGo
  | 0xD000 => some (opGateCtl (v.setWidth 24) s)
  | 0xE008 => b State.leaveSd
  | 0xE00C => some (opMembValid .leaf (v.getLsbD 0) s)
  | 0xE020 => b (opMembWr .leaf)
  | 0xF000 => some (opBsCtl .leaf src v s)
  | 0xF004 => some (opBsData .leaf src v s)
  | _ => none

/-! ## The Maryel -/

/-- IRQ_EN_n: a bit of a class that host n may not read is not set (R394). -/
def State.writeIrqEn (s : State) (h : Fin 4) (v : W32) : State :=
  let old := s.reg .mary (0x7D040 + 4 * h.val)
  s.setReg .mary (0x7D040 + 4 * h.val) (v &&& (s.irqMask h ||| old) &&& 0x3FFF#32)

/-- The first word of a 1588 port: MASTER_ONLY is ignored without the licence; a change of PTP_EN makes the port LISTENING or DISABLED
(R330, R400). -/
def State.writePtp (s : State) (k : Nat) (v : W32) : State :=
  let old := s.reg .mary (tReg k 0)
  let v1 := if s.mary.lic.gm then v else (clrBit v 1) ||| (old &&& 2#32)
  let s1 := s.writeStored .mary (.host 0) (tReg k 0) v1
  if v.getLsbD 0 = old.getLsbD 0 then s1 else s1.modPtp k (fun p => { p with state := if v.getLsbD 0 then 4 else 3, master := none })

/-- A write to a register of the Maryel's own pages with a rule of its own; `armed` says that the source's CHIP_RST_KEY was armed before this
access (R359). -/
def State.writeMary (s : State) (src : Src) (armed : Bool) (off : Nat) (v : W32) : Option State :=
  let b (f : State → State) : Option State := some (onBit0 v f s)
  let sel (n : Nat) : Option State := some (s.putSel .mary src off (v.toNat % 2 ^ n))
  let g := (off - 0x64000) / 0x1000
  let q := (off - 0x78000) / 0x1000
  if off < 0x64000 then (if off % 0x1000 = 0xC then b (opCellRst (off / 0x1000)) else none)
  else if off < 0x78000 then (if off % 0x1000 = 0 then b (opGrpRst g) else none)
  else if off < 0x7C000 then (if off % 0x1000 = 0 then b (opQuadRst false q) else none)
  else match off with
  | 0x7C01C => b (opErrCntClr .mary true)
  | 0x7C030 => some (opChipRstKey src v s)
  | 0x7C034 => b (opChipRst armed src s.mary.profsel)
  | 0x7D000 => some (opHostPerm src 0 (v.setWidth 20) s)
  | 0x7D004 => some (opHostPerm src 1 (v.setWidth 20) s)
  | 0x7D008 => some (opHostPerm src 2 (v.setWidth 20) s)
  | 0x7D00C => some (opHostPerm src 3 (v.setWidth 20) s)
  | 0x7D020 => some (opExpertUnlock .mary src v s)
  | 0x7D040 => some (s.writeIrqEn 0 v)
  | 0x7D044 => some (s.writeIrqEn 1 v)
  | 0x7D048 => some (s.writeIrqEn 2 v)
  | 0x7D04C => some (s.writeIrqEn 3 v)
  | 0x7F03C => some (s.originThrottle (v.setWidth 3) false)
  | 0x7F044 => some (opHoopDecider (v.getLsbD 0) s)
  | 0x90004 => sel 12
  | 0x90100 => some (opMembValid .mary (v.getLsbD 0) s)
  | 0x90114 => b (opMembWr .mary)
  | 0x90118 => sel 12
  | 0x9011C => sel 7
  | 0x90200 => sel 20
  | 0x98048 => b opRefApply
  | 0x980C4 => some (opSelMode (v.getLsbD 0) s)
  | 0x980D0 => b opRootStep
  | 0x9821C => some ((s.writeStored .mary src off v).modMary (fun m => { m with utcValid := true }))
  | 0x99000 => some (s.writePtp 0 v)
  | 0x99800 => some (s.writePtp 1 v)
  | 0xB0000 => b opMeClr
  | 0xB0004 => some (opMeLoad v s)
  | 0xB0008 => b opMeStart
  | 0xC0000 => b (opProfClr src)
  | 0xC0004 => some (opAppend .mary src .prof v s)
  | 0xC0010 => sel 32
  | 0xC0060 => sel 20
  | 0xC0064 => sel 20
  | 0xC0068 => sel 20
  | 0xC006C => sel 20
  | 0xC0070 => sel 1
  | 0xC00C0 => b (opProfCheck src)
  | 0xC00C4 => some (opProfCommit src ((v.setWidth 2).toFin) s)
  | 0xC00C8 => some (opProfApply ((v.setWidth 2).toFin) s)
  | 0xC0100 => some (opBsCtl .mary src v s)
  | 0xC0104 => some (opBsData .mary src v s)
  | 0xD0080 => b (opLicInstall src)
  | 0xD0084 => some (opLicRemove (v.toNat % 16) s)
  | 0xF0000 => sel 7
  | 0xF0004 => some (s.modCellar (fun c =>
      let l := c.eraseKey.filter (fun x => !decide (x = src))
      { c with eraseKey := if v = Config.chipUid.extractLsb' 0 32 then l ++ [src] else l }))
  | 0xF0008 => some (opCelErase src (v.getLsbD 0) s)
  | 0xF0010 => b (opRwpSync src)
  | _ => none

/-! ## Wide writes (R9, R296) -/

/-- Is the aperture offset of a source in CAL, the one region a host may write (R350)? -/
def State.inCal (s : State) (src : Src) (off : Nat) : Bool :=
  decide (celCal ≤ s.apertureWord src off ∧ s.apertureWord src off < celCal + 0x6000)

/-- Stored words of a wide register, each cut to its fields. -/
def State.setWide (s : State) (k : NodeSel) (base : Nat) (l : List W32) : State :=
  s.each l.zipIdx (fun s p => s.setReg k (base + 4 * p.2) ((fieldsAt k (base + 4 * p.2)).foldl (fun a f => f.put a p.1) 0))

/-- DOM_K_OVR: an enabled K outside Table 2.1 is refused and counted in TIME_REFUSED (R42, R44); a Maryel has it for its own domain only (R395). -/
def State.setKOvr (s : State) (k : NodeSel) (d : Dom) (base : Nat) (l : List W32) : State :=
  let x := wideNum l
  if k = .mary ∧ d ≠ (s.cfg .mary).dom then s
  else if x / 2 ^ 63 % 2 = 1 ∧ (x % 2 ^ 48 < kMin ∨ kMax < x % 2 ^ 48) then s.refuse k (offTimeRefused k)
  else s.setWide k base l

/-- What the commit of a whole wide value does, by the offset of its lowest word; none where the register takes no writes. -/
def State.commitWide (s : State) (k : NodeSel) (src : Src) (base : Nat) (l : List W32) : Option State :=
  let x := wideNum l
  let stage : State := s.each l.zipIdx (fun s p => s.putSel k src (base + 4 * p.2) p.1.toNat)
  if base = tOff k 0x1110 then some (s.setKOvr k .a base l)
  else if base = tOff k 0x1118 then some (s.setKOvr k .b base l)
  else if base = 0x80300 then some (s.modSrcBuf k src (fun b => { b with keyBuf := BitVec.ofNat 128 x, keySet := true }))
  else if base = 0x80400 ∨ base = 0x80408 then some (s.setWide k base l)
  else if base = 0x80438 then some (opResFloor k src (BitVec.ofNat 64 x) s)
  else match k with
    | .leaf =>
      if base = 0x1060 then some (opHtSetMarks (BitVec.ofNat 96 x) s)
      else if base = 0x1070 then some (opIslandK (BitVec.ofNat 48 x) s)
      else if base = 0x1078 ∨ base = 0xC010 then some (s.setWide .leaf base l)
      else if 0xB100 ≤ base ∧ base < 0xB180 then
        some ((s.setWide .leaf base l).modLeaf (fun y => { y with hcWritten := setBit y.hcWritten ((base - 0xB100) / 8) }))
      else if base = 0xC030 then some (s.modSeed (fun y => { y with stitchKey := BitVec.ofNat 128 x }))
      else if base = 0xC050 then some (opFpHash (BitVec.ofNat 64 x) s)
      else if base = 0xC068 ∨ base = 0x80418 then some (opStepHwm (BitVec.ofNat 64 x) s)
      else none
    | .mary =>
      if 0x98008 ≤ base ∧ base < 0x98048 then some (s.setWide .mary base l)
      else if base = 0x980C8 then some (opSoftK (BitVec.ofNat 48 x) s)
      else if base = 0x980D8 then some (opRootHtSet (BitVec.ofNat 96 x) s)
      else if base = 0x980E8 then some (opRootSecNext (BitVec.ofNat 48 x) s)
      else if base = 0x98208 ∨ base = 0x98210 then
        some (if (signedOf 40 x).natAbs ≤ 65536000000 then s.aroundSecond base (fun s => s.setWide .mary base l) else s.refuse .mary (offAccErr .mary))
      else if base = 0x99028 ∨ base = 0x99828 then some (s.setWide .mary base l)
      else if (0xC0018 ≤ base ∧ base < 0xC0058) ∨ base = 0xC0080 ∨ base = 0xD0000 then some stage
      else if 0xE0000 ≤ base ∧ base < 0xF0000 then some (s.celPut (s.apertureWord src base) (BitVec.ofNat 64 x))
      else none

/-- May a wide register be written at all: does its commit have a rule? -/
def wideWritable (k : NodeSel) (base : Nat) : Bool :=
  decide (base = tOff k 0x1110 ∨ base = tOff k 0x1118 ∨ base = 0x80300 ∨ base = 0x80400 ∨ base = 0x80408 ∨ base = 0x80438) ||
  (match k with
   | .leaf => decide (base = 0x1060 ∨ base = 0x1070 ∨ base = 0x1078 ∨ (0xB100 ≤ base ∧ base < 0xB180) ∨ base = 0xC010 ∨ base = 0xC030 ∨
      base = 0xC050 ∨ base = 0xC068 ∨ base = 0x80418)
   | .mary => decide ((0x98008 ≤ base ∧ base < 0x98048) ∨ base = 0x980C8 ∨ base = 0x980D8 ∨ base = 0x980E8 ∨ base = 0x98208 ∨ base = 0x98210 ∨
      base = 0x99028 ∨ base = 0x99828 ∨ (0xC0018 ≤ base ∧ base < 0xC0058) ∨ base = 0xC0080 ∨ base = 0xD0000 ∨
      (0xE0000 ≤ base ∧ base < 0xF0000)))

/-- The wide write that a source has in progress: the offset of the lowest word, the words written as bits, and the words. -/
def State.stageOf (s : State) (k : NodeSel) (src : Src) : Option (Nat × W32 × List W32) :=
  s.onNode k (fun N => (N.stages.find? (fun x => decide (x.1 = src))).map (fun x => (x.2.1, x.2.2.headD 0, x.2.2.drop 1)))

/-- Forget the wide write of a source. -/
def State.stageDrop (s : State) (k : NodeSel) (src : Src) : State :=
  s.modNode k (fun N => { N with stages := N.stages.filter (fun x => !decide (x.1 = src)) })

/-- Keep the wide write of a source; the list holds the written bits before the words. -/
def State.stageKeep (s : State) (k : NodeSel) (src : Src) (base : Nat) (mask : W32) (l : List W32) : State :=
  s.modNode k (fun N => { N with stages := N.stages.filter (fun x => !decide (x.1 = src)) ++ [(src, base, mask :: l)] })

/-- A wide write left without its highest word has no effect; a host's STATUS says so (R9, R295). -/
def State.abandon (s : State) (k : NodeSel) (src : Src) : State :=
  match s.stageOf k src with
  | some _ => (s.stageDrop k src).hostStat src 2
  | none => s

/-- A write of one word of a wide register: it is staged for the source, and the highest word commits the value when every lower word has
been written since (R9). DOM_K_OVR is expert; the aperture takes writes to CAL only (R44, R350). -/
def State.writeWide (s : State) (k : NodeSel) (src : Src) (base n off : Nat) (v : W32) : State :=
  if !wideWritable k base then s
  else if (base = tOff k 0x1110 ∨ base = tOff k 0x1118) ∧ !s.isExpert k src then s.refuse k (offAccErr k)
  else if k = .mary ∧ 0xE0000 ≤ base ∧ base < 0xF0000 ∧ !s.inCal src base then (s.refuse .mary 0xF0108).hostStat src 1
  else
    let s1 := match s.stageOf k src with | some st => if st.1 = base then s else s.abandon k src | none => s
    let (mask, l) := match s1.stageOf k src with | some st => st.2 | none => (0#32, List.replicate n 0)
    let i := (off - base) / 4
    let mask1 := setBit mask i
    let l1 := l.set i v
    if i + 1 < n then s1.stageKeep k src base mask1 l1
    else if mask1.toNat = 2 ^ n - 1 then ((s1.stageDrop k src).commitWide k src base l1).getD s1
    else s1.stageDrop k src

/-! ## The writing access -/

/-- A write to a register that is no part of a wide one: by the rule of its own, else to its stored fields; a read-only register ignores it
(Table 0.5). -/
def State.writeWord (s : State) (k : NodeSel) (src : Src) (armed : Bool) (off : Nat) (v : W32) : State :=
  let own : Option State :=
    match cellAt k off with
    | some i =>
      if off = cOff k i 0 then some (opPortCtl k i v s)
      else if off = cOff k i 0x40 then some (opAsymSwap k i v s)
      else none
    | none => none
  let rest : Option State := match k with | .leaf => s.writeLeaf src off v | .mary => s.writeMary src armed off v
  match own.or ((s.writeW1c k off v).or ((s.writeTime k off v).or ((s.writeRoot k src off v).or rest))) with
  | some s1 => s1
  | none =>
    if !isStored k off then s
    else match k with
      | .leaf => s.writeStored .leaf src off v
      | .mary => s.aroundSecond off (fun s => s.writeStored .mary src off v)

/-- A write of one word at an offset of a window whose access is allowed: an unassigned offset ignores it and counts it in ACC_ERR (R10). A write
of ROOT_ADDR, which names the next word of a wide register of the image, leaves a wide write in progress (R383). -/
def State.writeAt (s : State) (k : NodeSel) (src : Src) (armed : Bool) (off : Nat) (v : W32) : State :=
  if !assignedAt k src off then s.refuse k (offAccErr k)
  else match wideAt k src off with
    | some w => s.writeWide k src w.1 w.2.1 off v
    | none => (if k = .leaf ∧ off = 0xE050 then s else s.abandon k src).writeWord k src armed off v

/-- ROOT_DATA written: the register of the image at ROOT_ADDR; ignored and counted in ACC_ERR at a leaf that is no island root (R383). -/
def opRootWrite (src : Src) (v : W32) (s : State) : State :=
  if !s.isRoot .leaf then s.refuse .leaf (offAccErr .leaf)
  else match imageOff (s.fld .leaf 0xE050 15 0) with
    | some o => s.writeAt .leaf src false o v
    | none => s.refuse .leaf (offAccErr .leaf)

/-- A write access of a source to a register of a node; the engine writes its mailbox (R300). -/
def State.writeReg (s : State) (k : NodeSel) (src : Src) (off : Nat) (v : W32) : State :=
  let armed := decide (src ∈ s.mary.rstKeys)
  s.accessC k src off (fun s =>
    if src = .engine then s.setReg k off v
    else if k = .leaf ∧ off = 0xE054 then opRootWrite src v s else s.writeAt k src armed off v)

/-! ## The commands -/

/-- EXPERT_UNLOCK. -/
def execExpertUnlock (n : NodeSel) (src : Src) (v : W32) (s : State) : Host.Outcome State Fault Refusal :=
  .next (s.access n src (match n with | .leaf => 0x0010 | .mary => 0x7D020) (opExpertUnlock n src v))
/-- ERR_CNT_CLR. -/
def execErrCntClr (n : NodeSel) (src : Src) (v : Bool) (s : State) : Host.Outcome State Fault Refusal :=
  .next (s.access n src (match n with | .leaf => 0x001C | .mary => 0x7C01C) (opErrCntClr n v))
/-- ROOT_DATA: read, or written with a word (R383). -/
def execRootData (src : Src) (w : Option W32) (s : State) : Host.Outcome State Fault Refusal :=
  match w with
  | some v => .next (s.access .leaf src 0xE054 (opRootWrite src v))
  | none => .next (s.readReg .leaf src 0xE054)

end Sys2Proof.Machine
end

