-- ==== Sys2Proof/Machine/Serve.lean ====
section
/-! DEFINITION. The host ports of the Maryel, the serving of their accesses, and REG-TUNNEL (R58, R59, R294 to R296, R385). -/

namespace Sys2Proof.Machine

/-! ## Host frames (R294, R295) -/

/-- Edit a host port. -/
def State.modPort (s : State) (h : Fin 4) (f : HostPort → HostPort) : State :=
  s.modMary (fun m => { m with ports := vmod m.ports h.val f })

/-- A host port. -/
def State.port (s : State) (h : Fin 4) : HostPort := s.mary.ports[h]

/-- Is a queued access a write? -/
def isWriteAcc : HostAcc → Bool
  | .write _ _ => true
  | .read _ => false

/-- The writes of a host that wait (R295). -/
def HostPort.writes (p : HostPort) : Nat := (p.queue.filter isWriteAcc).length

/-- A write word reaches the write queue of 64 words; a further one is discarded and sets OVERRUN (R295). -/
def HostPort.putWrite (p : HostPort) (off : Nat) (v : W32) : HostPort :=
  if p.writes < 64 then { p with queue := p.queue ++ [.write off v] } else { p with status := setBit p.status 4 }

/-- An address whose bits [23:20] and [1:0] are 0 (R294). -/
def addrOk (a : BitVec 24) : Bool := decide (a.toNat < 0x100000 ∧ a.toNat % 4 = 0)

/-- The offset of word i of a frame: the address advances by 4 within the 1 MiB window (R294). -/
def frameOff (a : BitVec 24) (i : Nat) : Nat := (a.toNat + 4 * i) % 0x100000

/-- A write frame of a host: FRAME_ERR for a bad address; each complete word is handed to the core, and the bits of an incomplete one are
discarded (R294, R295). -/
def opHostWrite (h : Fin 4) (a : BitVec 24) (ws : List W32) (s : State) : State :=
  if !addrOk a then s.modPort h (fun p => { p with status := setBit p.status 3 })
  else s.modPort h (fun p => ws.zipIdx.foldl (fun p w => p.putWrite (frameOff a w.2) w.1) p)

/-- A read frame of a host: its words are taken in the core after the host's earlier writes; a frame that the host ended because no 0xA5 had come
after 256 wait bytes is counted in HP_RD_TMO_n (R295, log 48). -/
def opHostRead (h : Fin 4) (a : BitVec 24) (n : Nat) (tmo : Bool) (s : State) : State :=
  if !addrOk a then s.modPort h (fun p => { p with status := setBit p.status 3 })
  else if tmo then s.bump .mary (0x7D070 + 4 * h.val)
  else s.modPort h (fun p => { p with queue := p.queue ++ (List.range n).map (fun i => HostAcc.read (frameOff a i)) })

/-- The opcodes of Table 13.6 that want an address. -/
def addrOps : List Byte := [0x02, 0x32, 0x0B, 0x6B]

/-- A frame of an opcode byte alone. STATUS, 0x05: BUSY in bit 7 and the five status bits, which the read clears. An opcode of no row of Table
13.6 sets FRAME_ERR; one that wants an address carries no word (R295). -/
def opHostStatus (h : Fin 4) (op : Byte) (s : State) : State :=
  if op = 0x05 then
    s.modPort h (fun p => { p with
      statOut := BitVec.ofNat 8 (p.status.toNat + (if 0 < p.writes then 128 else 0)), status := 0 })
  else if op ∈ addrOps then s
  else s.modPort h (fun p => { p with status := setBit p.status 3 })

/-! ## Serving (R296, R337) -/

/-- Has a host an access that the core may take? Its writes wait after RWP_SYNC until RWP_PEND is clear (R337). -/
def State.servable (s : State) (h : Fin 4) : Bool :=
  match (s.port h).queue with
  | [] => false
  | .read _ :: _ => true
  | .write _ _ :: _ => !((s.port h).sync && s.rwpPend)

/-- The host to be served: the first after the one last served, by ascending index (R296). -/
def State.nextHost (s : State) : Option (Fin 4) :=
  ([1, 2, 3, 4].map (fun d => Fin.ofNat 4 (s.mary.rrHost.val + d))).find? (fun h => s.servable h)

/-- HOST_ACCESS_SERVE: the core takes one queued access, in round robin by ascending host index (R296). -/
def opHostServe (s : State) : State :=
  match s.nextHost with
  | none => s
  | some h =>
    let s1 := (s.modMary (fun m => { m with rrHost := h })).modPort h (fun p => { p with queue := p.queue.drop 1 })
    match (s.port h).queue with
    | [] => s
    | .write off v :: _ => s1.writeReg .mary (.host h) off v
    | .read off :: _ =>
      let s2 := s1.readReg .mary (.host h) off
      s2.modPort h (fun p => { p with out := p.out ++ [s2.maryN.rdata.1] })

/-! ## REG-TUNNEL (R58, R59, R385) -/

/-- A window offset beyond the leaf's 64 KiB window: unassigned (R10, R385). -/
def beyond (k : NodeSel) (off : Nat) : Bool := decide (k = .leaf) && decide (0x10000 ≤ off)

/-- A register write by its offset in the node's window. -/
def State.windowWrite (s : State) (k : NodeSel) (src : Src) (off : Nat) (v : W32) : State :=
  if beyond k off then s.access k src 0 (fun s => s.refuse k (offAccErr k)) else s.writeReg k src off v

/-- A register read by its offset in the node's window. -/
def State.windowRead (s : State) (k : NodeSel) (src : Src) (off : Nat) : State :=
  if beyond k off then s.answer k 0 true else s.readReg k src off

/-- Is a request denied by permission (R297, R390)? -/
def State.tunDenied (s : State) (k : NodeSel) (m : TunnelMsg) : Bool :=
  decide (k = .mary) && !(if m.write then s.mayWrite .tunnel m.addr.toNat else s.mayRead .tunnel m.addr.toNat)

/-- STATUS of a response: 2 for an unassigned offset, 1 for a refused access, 0 done (Table 3.8, R297). -/
def State.tunStatus (s : State) (k : NodeSel) (m : TunnelMsg) (bad : Bool) : BitVec 4 :=
  if s.tunDenied k m then 1
  else if beyond k m.addr.toNat || s.unassigned k .tunnel m.addr.toNat then 2
  else if bad then 1 else 0

/-- The response to a request: read data, or the data of the write. -/
def tunAnswer (m : TunnelMsg) (st : BitVec 4) (d : W32) : TunnelMsg :=
  { m with status := st, data := if m.write then m.data else d }

/-- Does a request name this node (Table 3.8)? -/
def State.tunMine (s : State) (k : NodeSel) (m : TunnelMsg) : Bool :=
  decide (m.maryel = decide (k = .mary)) && decide (m.nodeId = s.nodeId k)

/-- The access of a request at its target, and the response it sends towards the root (R385). -/
def opTunServe (k : NodeSel) (d : Dom) (m : TunnelMsg) (s : State) : State :=
  let s1 := if m.write then s.windowWrite k .tunnel m.addr.toNat m.data else s.windowRead k .tunnel m.addr.toNat
  let r := s1.onNode k (fun N => N.rdata)
  s1.live k (fun s1 => s1.sendOwnC3 k d (tunnelToks true (tunAnswer m (s.tunStatus k m r.2) r.1)))

/-- REG_TUNNEL_REQUEST_RX: requests come down; one for this node is served, another goes to the port whose subtree holds NODE_ID or is
dropped (R58, R59). -/
def opTunRequest (k : NodeSel) (i : Nat) (m : TunnelMsg) (s : State) : State :=
  let x := s.cell k i
  if x.ts ≠ .active then s
  else if x.cfg.role ≠ 1 then s.dropRoute k i
  else if s.tunMine k m then opTunServe k x.cfg.dom m s
  else match (s.routePorts k m.maryel m.nodeId).filter (fun p => decide (p ∈ s.downCells k x.cfg.dom)) with
    | [] => s.dropRoute k i
    | p :: _ => s.sendC3 k p (tunnelToks false m)

/-- REG_TUNNEL_RESPONSE_RX: the Maryel that holds the TAG passes the response to its host; another node sends it on towards the root
(R58). -/
def opTunResponse (k : NodeSel) (i : Nat) (m : TunnelMsg) (s : State) : State :=
  let x := s.cell k i
  if x.ts ≠ .active then s
  else if x.cfg.role ≠ 2 then s.dropRoute k i
  else
    match (if k = .mary then s.mary.tags.find? (fun t => decide (t.1 = m.tag)) else none) with
    | some t => s.modMary (fun y => { y with
        tags := y.tags.filter (fun u => !decide (u.1 = m.tag)), tunResp := y.tunResp ++ [(t.2, m)] })
    | none => s.passUpC3 k i (tunnelToks true m)

/-! ## A TCLK edge without a command (R22, R132; log 1) -/

/-- RC of a node goes up by one at an edge of a running TCLK while the node is not held in reset. -/
def State.tickNode (s : State) (k : NodeSel) : State :=
  s.live k (fun s => s.modTime k (fun t => if t.tclk then { t with rc := t.rc + 1 } else t))

/-- One TCLK edge at both nodes. -/
def State.tick (s : State) : State := (s.tickNode .leaf).tickNode .mary

/-! ## The commands -/

/-- HOST_WRITE: a single lane frame. -/
def execHostWrite (h : Fin 4) (a : BitVec 24) (ws : List W32) (_part : Bool) (s : State) : Host.Outcome State Fault Refusal :=
  .next (s.live .mary (opHostWrite h a ws))
/-- HOST_WRITE4: a quad frame, alike in effect. -/
def execHostWrite4 (h : Fin 4) (a : BitVec 24) (ws : List W32) (_part : Bool) (s : State) : Host.Outcome State Fault Refusal :=
  .next (s.live .mary (opHostWrite h a ws))
/-- HOST_READ. -/
def execHostRead (h : Fin 4) (a : BitVec 24) (n : Nat) (s : State) (tmo : Bool := false) : Host.Outcome State Fault Refusal :=
  .next (s.live .mary (opHostRead h a n tmo))
/-- HOST_READ4. -/
def execHostRead4 (h : Fin 4) (a : BitVec 24) (n : Nat) (s : State) (tmo : Bool := false) : Host.Outcome State Fault Refusal :=
  .next (s.live .mary (opHostRead h a n tmo))
/-- HOST_STATUS. -/
def execHostStatus (h : Fin 4) (s : State) (op : Byte := 0x05) : Host.Outcome State Fault Refusal := .next (s.live .mary (opHostStatus h op))
/-- HOST_ACCESS_SERVE. -/
def execHostAccessServe (s : State) : Host.Outcome State Fault Refusal := .next (s.live .mary opHostServe)
/-- REGISTER_WRITE. -/
def execRegisterWrite (n : NodeSel) (src : Src) (off : BitVec 20) (v : W32) (s : State) : Host.Outcome State Fault Refusal :=
  .next (s.windowWrite n src off.toNat v)
/-- REG_TUNNEL_REQUEST_RX. -/
def execRegTunnelRequestRx (c : CellRef) (m : TunnelMsg) (s : State) : Host.Outcome State Fault Refusal :=
  .next (s.live c.node (opTunRequest c.node c.idx m))
/-- REG_TUNNEL_RESPONSE_RX. -/
def execRegTunnelResponseRx (c : CellRef) (m : TunnelMsg) (s : State) : Host.Outcome State Fault Refusal :=
  .next (s.live c.node (opTunResponse c.node c.idx m))

end Sys2Proof.Machine
end

