-- ==== Sys2Proof/Machine/Dispatch.lean ====
section
/-! DEFINITION. The dispatch of the commands: one arm per constructor of `Instr`. -/

namespace Sys2Proof.Machine

/-- The effect of a command on everything but the queue. -/
def exec (i : Instr) (s : State) : Host.Outcome State Fault Refusal :=
  match i with
  | .powerOnResetAssert => Sys2Proof.Machine.execPowerOnResetAssert s
  | .powerOnResetRelease profsel => Sys2Proof.Machine.execPowerOnResetRelease profsel s
  | .leafResetAssert => Sys2Proof.Machine.execLeafResetAssert s
  | .leafResetRelease => Sys2Proof.Machine.execLeafResetRelease s
  | .computeResetAssert p => Sys2Proof.Machine.execComputeResetAssert p s
  | .computeResetRelease p => Sys2Proof.Machine.execComputeResetRelease p s
  | .chipRstKey src v => Sys2Proof.Machine.execChipRstKey src v s
  | .chipRst src profsel => Sys2Proof.Machine.execChipRst src profsel s
  | .cellRst src c => Sys2Proof.Machine.execCellRst src c s
  | .grpRst src g => Sys2Proof.Machine.execGrpRst src g s
  | .quadRst who q => Sys2Proof.Machine.execQuadRst who q s
  | .supplyMonitorTrip => Sys2Proof.Machine.execSupplyMonitorTrip s
  | .registerWrite n src off v => Sys2Proof.Machine.execRegisterWrite n src off v s
  | .expertUnlock n src v => Sys2Proof.Machine.execExpertUnlock n src v s
  | .errCntClr n src v => Sys2Proof.Machine.execErrCntClr n src v s
  | .fifoPop n src f => Sys2Proof.Machine.execFifoPop n src f s
  | .picot n d => Sys2Proof.Machine.execPicot n d s
  | .reanchor n => Sys2Proof.Machine.execReanchor n s
  | .domEn n src v => Sys2Proof.Machine.execDomEn n src v s
  | .rackCmd src d => Sys2Proof.Machine.execRackCmd src d s
  | .plannedRack => Sys2Proof.Machine.execPlannedRack s
  | .unplannedRack => Sys2Proof.Machine.execUnplannedRack s
  | .foldComplete => Sys2Proof.Machine.execFoldComplete s
  | .domReacq n src d => Sys2Proof.Machine.execDomReacq n src d s
  | .htSet src v => Sys2Proof.Machine.execHtSet src v s
  | .islandK src k => Sys2Proof.Machine.execIslandK src k s
  | .holdLimitExpiry n d => Sys2Proof.Machine.execHoldLimitExpiry n d s
  | .snapGo n src => Sys2Proof.Machine.execSnapGo n src s
  | .eventEdge inp rise code => Sys2Proof.Machine.execEventEdge inp rise code s
  | .intvTimeout => Sys2Proof.Machine.execIntvTimeout s
  | .frameRx c f pos => Sys2Proof.Machine.execFrameRx c f s pos
  | .lossOfSignal c => Sys2Proof.Machine.execLossOfSignal c s
  | .cdrLock c => Sys2Proof.Machine.execCdrLock c s
  | .cdrTimeout c => Sys2Proof.Machine.execCdrTimeout c s
  | .portEn c src v => Sys2Proof.Machine.execPortEn c src v s
  | .test c src v => Sys2Proof.Machine.execTest c src v s
  | .helloSend c => Sys2Proof.Machine.execHelloSend c s
  | .helloRx c h => Sys2Proof.Machine.execHelloRx c h s
  | .barRx c bar => Sys2Proof.Machine.execBarRx c bar s
  | .barApply c => Sys2Proof.Machine.execBarApply c s
  | .linkAckRx c nak rseq => Sys2Proof.Machine.execLinkAckRx c nak rseq s
  | .linkAckTimer c => Sys2Proof.Machine.execLinkAckTimer c s
  | .retryTimeoutExpiry c => Sys2Proof.Machine.execRetryTimeoutExpiry c s
  | .retryResend c => Sys2Proof.Machine.execRetryResend c s
  | .retryStateDiscard c => Sys2Proof.Machine.execRetryStateDiscard c s
  | .c2MessageSend c => Sys2Proof.Machine.execC2MessageSend c s
  | .channel0Shot c c1 c2 code => Sys2Proof.Machine.execChannel0Shot c c1 c2 code s
  | .phVoid c => Sys2Proof.Machine.execPhVoid c s
  | .cal1PairSlot c1 c2 ch => Sys2Proof.Machine.execCal1PairSlot c1 c2 s ch
  | .cal1DensitySlot d ch => Sys2Proof.Machine.execCal1DensitySlot d s ch
  | .densityHitCh0 ch d => Sys2Proof.Machine.execDensityHitCh0 ch d s
  | .statGo src => Sys2Proof.Machine.execStatGo src s
  | .statStop src => Sys2Proof.Machine.execStatStop src s
  | .fcGo src => Sys2Proof.Machine.execFcGo src s
  | .fcMinRst src m => Sys2Proof.Machine.execFcMinRst src m s
  | .fcGateEnd count => Sys2Proof.Machine.execFcGateEnd count s
  | .holdGateEnd count k => Sys2Proof.Machine.execHoldGateEnd count s k
  | .probeSend c => Sys2Proof.Machine.execProbeSend c s
  | .delayProbeRx c id rsv => Sys2Proof.Machine.execDelayProbeRx c id rsv s
  | .echoTx c => Sys2Proof.Machine.execEchoTx c s
  | .delayEchoRx c id turn rsv => Sys2Proof.Machine.execDelayEchoRx c id turn rsv s
  | .probeTmoExpiry c id => Sys2Proof.Machine.execProbeTmoExpiry c id s
  | .asymSwap c src v => Sys2Proof.Machine.execAsymSwap c src v s
  | .delayTrendSend c => Sys2Proof.Machine.execDelayTrendSend c s
  | .telemetryRx c r => Sys2Proof.Machine.execTelemetryRx c r s
  | .planCmd n src => Sys2Proof.Machine.execPlanCmd n src s
  | .strobeLanding p e => Sys2Proof.Machine.execStrobeLanding p e s
  | .rpLandTmo p => Sys2Proof.Machine.execRpLandTmo p s
  | .picotLanding p e => Sys2Proof.Machine.execPicotLanding p e s
  | .tallyCorrection p e => Sys2Proof.Machine.execTallyCorrection p s e
  | .throttleEffect p e => Sys2Proof.Machine.execThrottleEffect p s e
  | .regionContribution p slot lane data e last ue => Sys2Proof.Machine.execRegionContribution p slot lane data s e last ue
  | .outcomeDelivery p e => Sys2Proof.Machine.execOutcomeDelivery p s e
  | .gateCtl src v => Sys2Proof.Machine.execGateCtl src v s
  | .refclkLost => Sys2Proof.Machine.execRefclkLost s
  | .instData n src v => Sys2Proof.Machine.execInstData n src v s
  | .instClr n src => Sys2Proof.Machine.execInstClr n src s
  | .instGo n src sd batch => Sys2Proof.Machine.execInstGo n src sd batch s
  | .prickInstallRx c m => Sys2Proof.Machine.execPrickInstallRx c m s
  | .hoopRecipeRx c m => Sys2Proof.Machine.execHoopRecipeRx c m s
  | .armSend n sd batch => Sys2Proof.Machine.execArmSend n sd batch s
  | .armRx c sd gen batch errs => Sys2Proof.Machine.execArmRx c sd gen batch s errs
  | .guardCheck => Sys2Proof.Machine.execGuardCheck s
  | .missMarkSend => Sys2Proof.Machine.execMissMarkSend s
  | .firing errs => Sys2Proof.Machine.execFiring s errs
  | .seedCompute ev => Sys2Proof.Machine.execSeedCompute ev s
  | .throttleRx c level cap tseq effNs => Sys2Proof.Machine.execThrottleRx c level cap tseq effNs s
  | .capreqEdge => Sys2Proof.Machine.execCapreqEdge s
  | .capRelease => Sys2Proof.Machine.execCapRelease s
  | .thrCmd src level => Sys2Proof.Machine.execThrCmd src level s
  | .prkScrub r => Sys2Proof.Machine.execPrkScrub r s
  | .prkFatalClr src => Sys2Proof.Machine.execPrkFatalClr src s
  | .rcpData n src v => Sys2Proof.Machine.execRcpData n src v s
  | .rcpClr n src => Sys2Proof.Machine.execRcpClr n src s
  | .rcpGo n src sd hoop => Sys2Proof.Machine.execRcpGo n src sd hoop s
  | .hoopUpRx c m ue => Sys2Proof.Machine.execHoopUpRx c m s ue
  | .hoopDeadline n sd hoop => Sys2Proof.Machine.execHoopDeadline n sd hoop s
  | .contextDeadline n d sd hoop => Sys2Proof.Machine.execContextDeadline n d sd hoop s
  | .quorumWindowSend slot => Sys2Proof.Machine.execQuorumWindowSend slot s
  | .quorumWindowProcess n sd hoop => Sys2Proof.Machine.execQuorumWindowProcess n sd hoop s
  | .hoopAbort n src sd hoop => Sys2Proof.Machine.execHoopAbort n src sd hoop s
  | .hoopDecider src v => Sys2Proof.Machine.execHoopDecider src v s
  | .hoopDownRx c m => Sys2Proof.Machine.execHoopDownRx c m s
  | .outcomeTakeEffect r => Sys2Proof.Machine.execOutcomeTakeEffect r s
  | .slotHoldExpiry slot => Sys2Proof.Machine.execSlotHoldExpiry slot s
  | .outcomeLimitExpiry slot => Sys2Proof.Machine.execOutcomeLimitExpiry slot s
  | .installContextExpiry k => Sys2Proof.Machine.execInstallContextExpiry k s
  | .hcCommit src => Sys2Proof.Machine.execHcCommit src s
  | .stepWinSet n src sd => Sys2Proof.Machine.execStepWinSet n src sd s
  | .stepWinAdopt n src sd => Sys2Proof.Machine.execStepWinAdopt n src sd s
  | .stepHwm src v => Sys2Proof.Machine.execStepHwm src v s
  | .keySend n src sd => Sys2Proof.Machine.execKeySend n src sd s
  | .keyRx c m => Sys2Proof.Machine.execKeyRx c m s
  | .stitchGo src => Sys2Proof.Machine.execStitchGo src s
  | .stitchDone => Sys2Proof.Machine.execStitchDone s
  | .fpHash src v => Sys2Proof.Machine.execFpHash src v s
  | .fpValid => Sys2Proof.Machine.execFpValid s
  | .bindData n src v => Sys2Proof.Machine.execBindData n src v s
  | .bindClr n src => Sys2Proof.Machine.execBindClr n src s
  | .bindGo n src sd => Sys2Proof.Machine.execBindGo n src sd s
  | .bindRx c m => Sys2Proof.Machine.execBindRx c m s
  | .sdLeave src => Sys2Proof.Machine.execSdLeave src s
  | .leaveLimitExpiry => Sys2Proof.Machine.execLeaveLimitExpiry s
  | .sdTeardown n src sd => Sys2Proof.Machine.execSdTeardown n src sd s
  | .membWr n src => Sys2Proof.Machine.execMembWr n src s
  | .membValid n src v => Sys2Proof.Machine.execMembValid n src v s
  | .cellFault c k => Sys2Proof.Machine.execCellFault c k s
  | .groupFault g k => Sys2Proof.Machine.execGroupFault g k s
  | .quadrantFault q k => Sys2Proof.Machine.execQuadrantFault q k s
  | .chipFault k => Sys2Proof.Machine.execChipFault k s
  | .leafCellFault c => Sys2Proof.Machine.execLeafCellFault c s
  | .leafFatal => Sys2Proof.Machine.execLeafFatal s
  | .darkCellReturn n d => Sys2Proof.Machine.execDarkCellReturn n d s
  | .hostWrite h addr words partialWord => Sys2Proof.Machine.execHostWrite h addr words partialWord s
  | .hostWrite4 h addr words partialWord => Sys2Proof.Machine.execHostWrite4 h addr words partialWord s
  | .hostRead h addr words tmo => Sys2Proof.Machine.execHostRead h addr words s tmo
  | .hostRead4 h addr words tmo => Sys2Proof.Machine.execHostRead4 h addr words s tmo
  | .hostStatus h op => Sys2Proof.Machine.execHostStatus h s op
  | .hostAccessServe => Sys2Proof.Machine.execHostAccessServe s
  | .regTunnelRequestRx c m => Sys2Proof.Machine.execRegTunnelRequestRx c m s
  | .regTunnelResponseRx c m => Sys2Proof.Machine.execRegTunnelResponseRx c m s
  | .hostPerm src idx v => Sys2Proof.Machine.execHostPerm src idx v s
  | .rootData src w => Sys2Proof.Machine.execRootData src w s
  | .bsStart n src => Sys2Proof.Machine.execBsStart n src s
  | .bsData n src v => Sys2Proof.Machine.execBsData n src v s
  | .bsApply n src => Sys2Proof.Machine.execBsApply n src s
  | .patchApply n => Sys2Proof.Machine.execPatchApply n s
  | .profBsData src v => Sys2Proof.Machine.execProfBsData src v s
  | .profClr src => Sys2Proof.Machine.execProfClr src s
  | .profCheck src => Sys2Proof.Machine.execProfCheck src s
  | .profCommit src slot => Sys2Proof.Machine.execProfCommit src slot s
  | .profCommitDone => Sys2Proof.Machine.execProfCommitDone s
  | .profApply src slot => Sys2Proof.Machine.execProfApply src slot s
  | .meClr src => Sys2Proof.Machine.execMeClr src s
  | .meLoad src v => Sys2Proof.Machine.execMeLoad src v s
  | .meStart src => Sys2Proof.Machine.execMeStart src s
  | .meWdog => Sys2Proof.Machine.execMeWdog s
  | .licInstall src => Sys2Proof.Machine.execLicInstall src s
  | .licRemove src slot => Sys2Proof.Machine.execLicRemove src slot s
  | .refApply src => Sys2Proof.Machine.execRefApply src s
  | .refMeasurement idx m => Sys2Proof.Machine.execRefMeasurement idx m s
  | .refLoss idx annTmo => Sys2Proof.Machine.execRefLoss idx annTmo s
  | .refQualified idx => Sys2Proof.Machine.execRefQualified idx s
  | .refWtrEnd idx => Sys2Proof.Machine.execRefWtrEnd idx s
  | .holdoverKUpdate => Sys2Proof.Machine.execHoldoverKUpdate s
  | .selMode src soft => Sys2Proof.Machine.execSelMode src soft s
  | .softK src k => Sys2Proof.Machine.execSoftK src k s
  | .softTmo => Sys2Proof.Machine.execSoftTmo s
  | .rootStep src => Sys2Proof.Machine.execRootStep src s
  | .rootHtSet src v => Sys2Proof.Machine.execRootHtSet src v s
  | .rootSecNext src v => Sys2Proof.Machine.execRootSecNext src v s
  | .ocxoWarmChange v => Sys2Proof.Machine.execOcxoWarmChange v s
  | .ocxoWaitExpiry => Sys2Proof.Machine.execOcxoWaitExpiry s
  | .kDayEnd => Sys2Proof.Machine.execKDayEnd s
  | .ppsOut n => Sys2Proof.Machine.execPpsOut n s
  | .todSentence => Sys2Proof.Machine.execTodSentence s
  | .ptpMessageRx k m => Sys2Proof.Machine.execPtpMessageRx k m s
  | .esmcRx k ssm => Sys2Proof.Machine.execEsmcRx k ssm s
  | .esmcTimeout k => Sys2Proof.Machine.execEsmcTimeout k s
  | .cellarWrite => Sys2Proof.Machine.execCellarWrite s
  | .rwpSync src => Sys2Proof.Machine.execRwpSync src s
  | .ceilingRaise => Sys2Proof.Machine.execCeilingRaise s
  | .ceilingRaiseDone => Sys2Proof.Machine.execCeilingRaiseDone s
  | .resFloor n src v => Sys2Proof.Machine.execResFloor n src v s
  | .vintIssue n src v => Sys2Proof.Machine.execVintIssue n src v s
  | .kaAnchor cnt rate => Sys2Proof.Machine.execKaAnchor cnt rate s
  | .kaInvalidate why => Sys2Proof.Machine.execKaInvalidate why s
  | .cellarScrub word r => Sys2Proof.Machine.execCellarScrub word r s
  | .histFile => Sys2Proof.Machine.execHistFile s
  | .celErase src v => Sys2Proof.Machine.execCelErase src v s
  | .celEraseDone => Sys2Proof.Machine.execCelEraseDone s
  | .timeAnnounceRx c acount stamp => Sys2Proof.Machine.execTimeAnnounceRx c acount stamp s
  | .frameStart c => Sys2Proof.Machine.execFrameStart c s
  | .wideReadSnapshot src off => Sys2Proof.Machine.execWideReadSnapshot src off s
  | .refclkReturn => Sys2Proof.Machine.execRefclkReturn s
  | .quadrantResetRelease q => Sys2Proof.Machine.execQuadrantResetRelease q s
  | .refSignalPresent idx => Sys2Proof.Machine.execRefSignalPresent idx s
  | .ptpMessageSend k what => Sys2Proof.Machine.execPtpMessageSend k what s
  | .esmcSend k => Sys2Proof.Machine.execEsmcSend k s

end Sys2Proof.Machine
end

