-- ==== Sys2Proof/Safety.lean ====
section
/-! DEFINITION. What counts as a safe run, and the words the claims are stated in. No command of the spec stops the block, so a safe step is
one that answers a next state and leaves the block in the form every operation relies on. -/

namespace Sys2Proof.Machine

/-- The command answers a next state, and that state meets `Q`. -/
def Does (c : Instr) (s : State) (Q : State → Prop) : Prop := ∃ t, exec c s = .next t ∧ Q t

/-- The cellar's medium is in its canonical form: addresses strictly rising and no listed byte 0. -/
def State.canonical (s : State) : Prop := Memory.wf s.cellar.mem = true

/-- A write of `src` to offset `off` of node `k` reaches the register's own rule: the source exists there, the node is not held in reset, at a
Maryel it is no write of the engine (R300) and the permission stands (R297), and a root register lies at a root (R383, R387). -/
def State.takes (s : State) (k : NodeSel) (src : Src) (off : Nat) : Bool :=
  srcAt k src && !s.held k &&
    (match k with
     | .leaf => decide (off < 0x10000) || s.isRoot .leaf
     | .mary => !decide (src = .engine) && s.mayWrite src off && (!rootPage off || s.isRoot .mary))

/-- The state from which a register's own rule starts: the mark of the last refused access is cleared, and at a Maryel the source's CHIP_RST
key (R359). -/
def State.opened (s : State) (k : NodeSel) (src : Src) : State :=
  match k with
  | .leaf => s.clearRefused .leaf
  | .mary => (s.clearRefused .mary).cancelKey src

/-- The Maryel and its cellar are as before. -/
def SameMary (s t : State) : Prop := t.maryN = s.maryN ∧ t.mary = s.mary ∧ t.cellar = s.cellar

/-- The leaf is as before. -/
def SameLeaf (s t : State) : Prop := t.leafN = s.leafN ∧ t.leaf = s.leaf

/-- Two states differ at most in the queue and in the model's counter of free values. -/
def SameBlock (s t : State) : Prop := SameLeaf s t ∧ SameMary s t

/-- Nothing but the time core of one node differs. -/
def OnlyTime (k : NodeSel) (s t : State) : Prop := t = s.modTime k (fun _ => t.time k)

/-- Nothing but one port cell differs. -/
def OnlyCell (c : CellRef) (s t : State) : Prop := t = s.modCell c.node c.idx (fun _ => t.cell c.node c.idx)

/-- Nothing but one region port differs. -/
def OnlyRegion (p : Fin 16) (s t : State) : Prop := t = s.modRegion p (fun _ => t.region p)

/-- Nothing but the leaf's parts beside its node differs. -/
def OnlyLeaf (s t : State) : Prop := t = s.modLeaf (fun _ => t.leaf)

/-- Nothing but the Maryel's parts beside its node differs. -/
def OnlyMary (s t : State) : Prop := t = s.modMary (fun _ => t.mary)

/-- Nothing but the cellar differs. -/
def OnlyCellar (s t : State) : Prop := t = s.modCellar (fun _ => t.cellar)

/-- At a cell's node the other cells and every register are as before; so are the other node, the leaf's and the Maryel's own parts and the
cellar. What may differ is the cell, and its node's clock, counters and interrupt bits. -/
def KeepsCell (c : CellRef) (s t : State) : Prop :=
  (∀ i, i ≠ c.idx → t.cell c.node i = s.cell c.node i) ∧ (∀ k o, t.reg k o = s.reg k o) ∧
  (match c.node with | .leaf => t.maryN = s.maryN | .mary => t.leafN = s.leafN) ∧ t.leaf = s.leaf ∧ t.mary = s.mary ∧ t.cellar = s.cellar

/-! ## What a command may change -/

/-- The node at which an event acts; none for a register access and for a pin or supply event that acts on a node held in reset as well. -/
def actsAt : Instr → Option NodeSel
  | .computeResetAssert _ => some .leaf
  | .computeResetRelease _ => some .leaf
  | .picot n _ => some n
  | .reanchor n => some n
  | .plannedRack => some .leaf
  | .unplannedRack => some .leaf
  | .foldComplete => some .leaf
  | .holdLimitExpiry n _ => some n
  | .eventEdge _ _ _ => some .leaf
  | .intvTimeout => some .leaf
  | .frameRx c _ _ => some c.node
  | .lossOfSignal c => some c.node
  | .cdrLock c => some c.node
  | .cdrTimeout c => some c.node
  | .helloSend c => some c.node
  | .helloRx c _ => some c.node
  | .barRx c _ => some c.node
  | .barApply c => some c.node
  | .linkAckRx c _ _ => some c.node
  | .linkAckTimer c => some c.node
  | .retryTimeoutExpiry c => some c.node
  | .retryResend c => some c.node
  | .retryStateDiscard c => some c.node
  | .c2MessageSend c => some c.node
  | .channel0Shot c _ _ _ => some c.node
  | .phVoid c => some c.node
  | .cal1PairSlot _ _ ch => some (match ch with | .leaf => .leaf | .ref _ => .mary)
  | .cal1DensitySlot _ ch => some (match ch with | .leaf => .leaf | .ref _ => .mary)
  | .densityHitCh0 ch _ => some (ch0Node ch)
  | .fcGateEnd _ => some .leaf
  | .holdGateEnd _ k => some k
  | .probeSend c => some c.node
  | .delayProbeRx c _ _ => some c.node
  | .echoTx c => some c.node
  | .delayEchoRx c _ _ _ => some c.node
  | .probeTmoExpiry c _ => some c.node
  | .delayTrendSend c => some c.node
  | .telemetryRx c _ => some c.node
  | .strobeLanding _ _ => some .leaf
  | .rpLandTmo _ => some .leaf
  | .picotLanding _ _ => some .leaf
  | .tallyCorrection _ _ => some .leaf
  | .throttleEffect _ _ => some .leaf
  | .regionContribution _ _ _ _ _ _ _ => some .leaf
  | .outcomeDelivery _ _ => some .leaf
  | .prickInstallRx c _ => some c.node
  | .hoopRecipeRx c _ => some c.node
  | .armSend n _ _ => some n
  | .armRx c _ _ _ _ => some c.node
  | .guardCheck => some .leaf
  | .missMarkSend => some .leaf
  | .firing _ => some .leaf
  | .seedCompute _ => some .leaf
  | .throttleRx c _ _ _ _ => some c.node
  | .capreqEdge => some .mary
  | .capRelease => some .mary
  | .prkScrub _ => some .leaf
  | .hoopUpRx c _ _ => some c.node
  | .hoopDeadline n _ _ => some n
  | .contextDeadline n _ _ _ => some n
  | .quorumWindowSend _ => some .leaf
  | .quorumWindowProcess n _ _ => some n
  | .hoopDownRx c _ => some c.node
  | .outcomeTakeEffect _ => some .leaf
  | .slotHoldExpiry _ => some .leaf
  | .outcomeLimitExpiry _ => some .leaf
  | .installContextExpiry _ => some .leaf
  | .keyRx c _ => some c.node
  | .stitchDone => some .leaf
  | .fpValid => some .leaf
  | .bindRx c _ => some c.node
  | .leaveLimitExpiry => some .leaf
  | .cellFault _ _ => some .mary
  | .groupFault _ _ => some .mary
  | .quadrantFault _ _ => some .mary
  | .chipFault _ => some .mary
  | .leafCellFault _ => some .leaf
  | .leafFatal => some .leaf
  | .darkCellReturn n _ => some n
  | .hostWrite _ _ _ _ => some .mary
  | .hostWrite4 _ _ _ _ => some .mary
  | .hostRead _ _ _ _ => some .mary
  | .hostRead4 _ _ _ _ => some .mary
  | .hostStatus _ _ => some .mary
  | .hostAccessServe => some .mary
  | .regTunnelRequestRx c _ => some c.node
  | .regTunnelResponseRx c _ => some c.node
  | .patchApply n => some n
  | .profCommitDone => some .mary
  | .meWdog => some .mary
  | .refMeasurement _ _ => some .mary
  | .refLoss _ _ => some .mary
  | .refQualified _ => some .mary
  | .refWtrEnd _ => some .mary
  | .holdoverKUpdate => some .mary
  | .softTmo => some .mary
  | .ocxoWaitExpiry => some .mary
  | .kDayEnd => some .mary
  | .ppsOut _ => some .mary
  | .todSentence => some .mary
  | .ptpMessageRx _ _ => some .mary
  | .esmcRx _ _ => some .mary
  | .esmcTimeout _ => some .mary
  | .cellarWrite => some .mary
  | .ceilingRaise => some .mary
  | .ceilingRaiseDone => some .mary
  | .kaAnchor _ _ => some .mary
  | .cellarScrub _ _ => some .mary
  | .histFile => some .mary
  | .celEraseDone => some .mary
  | .timeAnnounceRx c _ _ => some c.node
  | .frameStart c => some c.node
  | .refSignalPresent _ => some .mary
  | .ptpMessageSend _ _ => some .mary
  | .esmcSend _ => some .mary
  | _ => none

/-- The commands that may change the leaf's binding: BIND and what ends a membership, a register write that does the same by its offset, and leaf reset. -/
def mayBind : Instr → Bool
  | .bindRx _ _ => true
  | .bindGo _ _ _ => true
  | .sdLeave _ => true
  | .sdTeardown _ _ _ => true
  | .leaveLimitExpiry => true
  | .ceilingRaise => true
  | .ceilingRaiseDone => true
  | .registerWrite _ _ _ _ => true
  | .rootData _ _ => true
  | .regTunnelRequestRx _ _ => true
  | .hostAccessServe => true
  | .leafResetAssert => true
  | _ => false

/-- The commands that may put a node in reset or take it out: its pin, and what reaches CHIP_RST. -/
def mayHold : Instr → Bool
  | .leafResetAssert => true
  | .leafResetRelease => true
  | .powerOnResetAssert => true
  | .powerOnResetRelease _ => true
  | .chipRst _ _ => true
  | .registerWrite _ _ _ _ => true
  | .rootData _ _ => true
  | .regTunnelRequestRx _ _ => true
  | .hostAccessServe => true
  | _ => false

/-- `v` is changed by none but the commands that `may` names. -/
def OnlyBy {α : Type} (may : Instr → Bool) (v : State → α) : Prop :=
  ∀ (c : Instr) (s t : State), exec c s = .next t → may c = false → v t = v s

/-! ## Numerics the claims speak of -/

/-- A number reduced modulo x^8 + x^5 + x^3 + x^2 + x + 1 over GF(2), its `n` highest bits above bit 7 taken from the top (R53). -/
def polyRem : Nat → Nat → Nat
  | 0, v => v
  | n + 1, v => polyRem n (if v.testBit (n + 8) then v ^^^ (0x12F <<< n) else v)

/-- A way to combine the inputs of one lane: an order and a tree shape (R174). -/
inductive LaneTree
  | input (v : W64)
  | join (a b : LaneTree)
  deriving DecidableEq, Repr

/-- The carried value that a tree gives. -/
def laneTreeValue (d : W32) : LaneTree → BitVec 240
  | .input v => laneInput d v
  | .join a b => laneCombine d (laneTreeValue d a) (laneTreeValue d b)

/-- The inputs of a tree, in its order. -/
def laneTreeInputs : LaneTree → List W64
  | .input v => [v]
  | .join a b => laneTreeInputs a ++ laneTreeInputs b

/-- A SUM_S64 input clamped to -2^38 .. 2^38 - 1 (R174). -/
def s64Clamp (v : W64) : Int := max (-(2 ^ 38)) (min (2 ^ 38 - 1) v.toInt)

end Sys2Proof.Machine
end

