-- ==== Sys2Proof/Certificates/Slice0/Obligations.lean ====
section
/-! DEFINITION. What is claimed of the model, for the provers: the block as a whole first, then every command. `Does c s Q` says that the
command completes in a next state that meets Q. -/

open Sys2Proof Sys2Proof.Machine

/-- O1. A step runs the command at the front of the queue. For every command c, queue rest and state s: step of s with c in front of rest is
exec of c on s with the queue rest. Basis: derived (95_what_each_step_holds.md). -/
def Obligations.StepRunsFrontCommand : Prop :=
  ∀ (c : Instr) (rest : List Instr) (s : State),
    step { s with pending := c :: rest } = exec c { s with pending := rest }

/-- O2. With an empty queue a step is one TCLK edge (the model's choice, log 1). For every state whose queue is empty, step answers the
state after one TCLK edge: at a node that is not held and whose TCLK runs RC goes up by one, and nothing else changes. That an empty
queue stands for one edge is the model's choice (log 1). Basis: derived (02_hall_time.md). -/
def Obligations.EmptyQueueTicks : Prop :=
  ∀ s : State, s.pending = [] → ∃ t, step s = .next t ∧
    (∀ k, t.rc k = if s.held k = false ∧ (s.time k).tclk = true then s.rc k + 1 else s.rc k) ∧
    t = (s.modTime .leaf (fun x => { x with rc := t.rc .leaf })).modTime .mary (fun x => { x with rc := t.rc .mary })

/-- O3. No command faults and none is refused. For every command and state, exec answers a next state. Basis: derived
(95_what_each_step_holds.md). -/
def Obligations.EveryCommandCompletes : Prop :=
  ∀ (c : Instr) (s : State), ∃ t, exec c s = .next t

/-- O4. A command's effect leaves the queue alone. For every command c and states s, t: if exec c s answers next t, the queue of t is that
of s. Basis: derived (95_what_each_step_holds.md). -/
def Obligations.QueueIsLeftAlone : Prop :=
  ∀ (c : Instr) (s t : State), exec c s = .next t → t.pending = s.pending

/-- O5. Every step keeps the cellar's memory in its canonical form. For every state whose cellar medium lists strictly rising addresses and
no zero byte, so does the state after a step, whichever command runs. Basis: derived (15_cellar.md). -/
def Obligations.StepKeepsCellarCanonical : Prop :=
  ∀ s t : State, s.canonical → step s = .next t → t.canonical

/-- O6. After reset the cellar's memory is in its canonical form. State.reset meets the invariant of StepKeepsCellarCanonical, and its queue
is empty. Basis: derived (15_cellar.md). -/
def Obligations.ResetIsCanonical : Prop :=
  State.reset.canonical ∧ State.reset.pending = []

/-- O7. The state right after power-up. Right after power-up: no node is held by its pin, every RC is 0 and TCLK has no HT (NOHT = 1), every
port cell is OFF, the leaf has no binding, no pricking entry, no key and no bitstream, the Maryel holds no recipe and no context, and
the queue of commands is empty. Values that the spec does not list are the model's choice: logs 12 and 14. Basis: derived
(16_bringup_and_live_change.md). -/
def Obligations.ResetState : Prop :=
  (∀ k, State.reset.held k = false ∧ State.reset.rc k = 0 ∧ (State.reset.time k).noht = true ∧ (State.reset.cfg k).loaded = false ∧
      State.reset.recipes k = [] ∧ State.reset.ctxs k = []) ∧
    (∀ k i, (State.reset.cell k i).ts = .off) ∧ State.reset.leaf.binding = none ∧ State.reset.leaf.prick.entries = [] ∧
    State.reset.leaf.seed.key = none ∧ State.reset.cellar.queue = [] ∧ State.reset.pending = []

/-- O8. A node held in reset does not act on events. For every event command that acts at a node held in reset, exec answers the state
unchanged. Basis: derived (16_bringup_and_live_change.md). -/
def Obligations.HeldNodeLetsEventsPass : Prop :=
  ∀ (c : Instr) (s : State) (k : NodeSel), actsAt c = some k → s.held k = true → exec c s = .next s

/-- O9. Nothing but the binding commands changes the leaf's binding. For every command that is not BIND_RX, BIND_GO, SD_LEAVE, SD_TEARDOWN,
LEAVE_LIMIT_EXPIRY, CEILING_RAISE, CEILING_RAISE_DONE (a held bind judged again), LEAF_RESET_ASSERT, or an access by offset
(REGISTER_WRITE, ROOT_DATA, REG_TUNNEL_REQUEST_RX, HOST_ACCESS_SERVE), the leaf's binding after it is the binding before. Basis: derived
(11_binding_and_domains.md). -/
def Obligations.OnlyBindingCommandsBind : Prop :=
  OnlyBy mayBind (fun s => s.leaf.binding)

/-- O10. Nothing but the reset commands puts a node in reset or takes it out. For every command other than the two reset pins' four
commands, CHIP_RST and an access by offset, whether each node is held in reset is unchanged. Basis: derived
(16_bringup_and_live_change.md). -/
def Obligations.OnlyResetCommandsHold : Prop :=
  OnlyBy mayHold (fun s => (s.held .leaf, s.held .mary))

/-- O11. A SUM_S64 lane gives one result whatever the order and tree shape. For a lane of operation SUM_S64: an input is clamped to -2^38 ..
2^38 - 1 and a clamp sets its flag; for every tree over at most 2^24 inputs the result is the exact sum of the clamped inputs, that sum
lies within -2^62 .. 2^62 - 1, and the flag is set when any input was clamped; and two trees over the same inputs in any order carry the
same value. Basis: stated (R174). -/
def Obligations.SumS64AnyOrder : Prop :=
  ∀ d : W32, laneOp d = 1 →
    (∀ v : W64, laneResult d (laneInput d v) = (BitVec.ofInt 64 (s64Clamp v), decide (s64Clamp v ≠ v.toInt))) ∧
    (∀ t : LaneTree, (laneTreeInputs t).length ≤ 2 ^ 24 →
      -(2 ^ 62) ≤ ((laneTreeInputs t).map s64Clamp).sum ∧ ((laneTreeInputs t).map s64Clamp).sum ≤ 2 ^ 62 - 1 ∧
      laneResult d (laneTreeValue d t) =
        (BitVec.ofInt 64 ((laneTreeInputs t).map s64Clamp).sum, (laneTreeInputs t).any (fun v => decide (s64Clamp v ≠ v.toInt)))) ∧
    (∀ t u : LaneTree, (laneTreeInputs t).Perm (laneTreeInputs u) → (laneTreeInputs t).length ≤ 2 ^ 24 →
      laneTreeValue d t = laneTreeValue d u)

/-- O12. TCRC is the remainder by 0x2F of bits [63:8], started from 0xFF. For every token, TCRC is the remainder of its bits [63:8], most
significant first and followed by eight zeros, with the first eight bits inverted by the initial value 0xFF, by x^8 + x^5 + x^3 + x^2 +
x + 1, not reflected and with nothing added at the end; and the NULL token 0x0000_0000_0000_0095 carries its own TCRC. Basis: stated
(R53). -/
def Obligations.TcrcIsPolynomialRemainder : Prop :=
  (∀ t : W64, (crc8 t).toNat = polyRem 56 ((t.toNat / 256 * 256) ^^^ (0xFF <<< 56))) ∧ nullTok = 0x0000000000000095 ∧ tokGood nullTok = true

/-- O13. A corrected single-bit error is counted in PRK_CE and changes nothing else. For every state of a leaf that is not held: a scrub
that corrects leaves what a scrub that finds nothing leaves, but for one more in PRK_CE (0xA11C); the entries of the pricking memory are
as before. Basis: stated (R164). -/
def Obligations.ScrubCorrectsInPlace : Prop :=
  ∀ s : State, s.held .leaf = false → ∃ t, exec (.prkScrub .clean) s = .next t ∧
    exec (.prkScrub .corrected) s = .next (t.bump .leaf 0xA11C) ∧
    (t.bump .leaf 0xA11C).count .leaf 0xA11C = satInc (s.count .leaf 0xA11C) ∧
    t.leaf.prick.entries = s.leaf.prick.entries

/-- O14. What racks, folds and re-anchoring do to the read path. RACK_CMD, PLANNED_RACK, UNPLANNED_RACK, FOLD_COMPLETE and REANCHOR, a
clause for each form: under conditions on the state and the operands alone the command answers the next state that the clause gives.
Choices of the model where the spec is open: log 2. Basis: derived (02_hall_time.md). -/
def Obligations.TimeRacks : Prop :=
  -- RACK_CMD accepted, for a domain in TRACK that is not the active one, with the fold it would make within AB_LIMIT: the request and
  -- the HT of the read path's next picot are registered, and nothing else changes.
  (∀ (s : State) (src : Src) (d : Dom), s.takes .leaf src 0x1008 = true → ((s.time .leaf).dom d).st = .track →
    (s.time .leaf).isActive d = false → ((s.time .leaf).foldTo d).dFold.natAbs ≤ s.abLimit .leaf →
    exec (.rackCmd src d) s = .next ((s.opened .leaf src).modTime .leaf (fun t =>
    { t with rackReq := some d, rackHt := t.read.nextPicot t.rc }))) ∧
  -- RACK_CMD accepted while the domain is not in TRACK, is the active one, or the fold would exceed AB_LIMIT: one is added to
  -- TIME_REFUSED's counter, and nothing else changes.
  (∀ (s : State) (src : Src) (d : Dom), s.takes .leaf src 0x1008 = true →
    (((s.time .leaf).dom d).st ≠ .track ∨ (s.time .leaf).isActive d = true ∨ s.abLimit .leaf < ((s.time .leaf).foldTo d).dFold.natAbs) →
    exec (.rackCmd src d) s = .next ((s.opened .leaf src).refuse .leaf (offTimeRefused .leaf))) ∧
  -- FOLD_COMPLETE while a fold runs: the fold ends, the read path becomes the set of the domain racked to, the active domain stays, and
  -- outside the leaf's time nothing changes.
  (∀ (s : State) (f : Fold), s.held .leaf = false → (s.time .leaf).fold = some f → Does .foldComplete s (fun t =>
    (t.time .leaf).fold = none ∧ (t.time .leaf).read = ((s.time .leaf).dom f.dom).set ∧ (t.time .leaf).active = (s.time .leaf).active ∧
    OnlyTime .leaf s t)) ∧
  -- PLANNED_RACK with a registered request whose HT is reached and that is still allowed, TCLK running, the active domain not LOST, and
  -- the edge a picot of the active domain (or a fold still running): the named domain becomes active, the fold to it starts, the request
  -- is gone and HT does not jump; registers and the Maryel are as before.
  (∀ (s : State) (d : Dom), s.held .leaf = false → (s.time .leaf).tclk = true → (s.time .leaf).rackReq = some d →
    (s.time .leaf).rackHt ≤ s.ht .leaf → s.rackBad d = false → ((s.time .leaf).dom (s.time .leaf).active).st ≠ .lost →
    ((s.time .leaf).fold.isSome = true ∨ ((s.time .leaf).dom (s.time .leaf).active).picotAt = some (s.rc .leaf)) →
    Does .plannedRack s (fun t => (t.time .leaf).active = d ∧ (t.time .leaf).fold = some ((s.time .leaf).foldTo d) ∧
    (t.time .leaf).rackReq = none ∧ t.ht .leaf = s.ht .leaf ∧ t.leafN.regs = s.leafN.regs ∧ SameMary s t)) ∧
  -- PLANNED_RACK in the same place when the request is no longer allowed: the request is dropped and the active domain and HT stay;
  -- registers and the Maryel are as before.
  (∀ (s : State) (d : Dom), s.held .leaf = false → (s.time .leaf).tclk = true → (s.time .leaf).rackReq = some d →
    (s.time .leaf).rackHt ≤ s.ht .leaf → s.rackBad d = true →
    ((s.time .leaf).fold.isSome = true ∨ ((s.time .leaf).dom (s.time .leaf).active).picotAt = some (s.rc .leaf)) →
    Does .plannedRack s (fun t => (t.time .leaf).rackReq = none ∧ (t.time .leaf).active = (s.time .leaf).active ∧
    t.ht .leaf = s.ht .leaf ∧ t.leafN.regs = s.leafN.regs ∧ SameMary s t)) ∧
  -- UNPLANNED_RACK when one is due, HT is valid, the other domain is in TRACK and the active one is not LOST: the other domain becomes
  -- active, the fold to it starts and HT does not jump.
  (∀ (s : State), s.held .leaf = false → (s.time .leaf).tclk = true → (s.time .leaf).rackDue = true → (s.time .leaf).noht = false →
    ((s.time .leaf).dom (otherDom (s.time .leaf).active)).st = .track → ((s.time .leaf).dom (s.time .leaf).active).st ≠ .lost →
    Does .unplannedRack s (fun t => (t.time .leaf).active = otherDom (s.time .leaf).active ∧
    (t.time .leaf).fold = some ((s.time .leaf).foldTo (otherDom (s.time .leaf).active)) ∧ (t.time .leaf).rackDue = false ∧
    t.ht .leaf = s.ht .leaf ∧ t.leafN.regs = s.leafN.regs ∧ t.leaf = s.leaf ∧ SameMary s t)) ∧
  -- UNPLANNED_RACK when one is due but HT is not valid or the other domain is not in TRACK: nothing is racked, and the due mark goes.
  (∀ (s : State), s.held .leaf = false → (s.time .leaf).rackDue = true →
    ((s.time .leaf).noht = true ∨ ((s.time .leaf).dom (otherDom (s.time .leaf).active)).st ≠ .track) → Does .unplannedRack s (fun t =>
    (t.time .leaf).rackDue = false ∧ (t.time .leaf).active = (s.time .leaf).active ∧ t.ht .leaf = s.ht .leaf ∧
    t.leafN.regs = s.leafN.regs ∧ t.leaf = s.leaf ∧ SameMary s t)) ∧
  -- REANCHOR at a node that is not held: both domains' sets and the read path's are anchored anew at the present RC with their own
  -- rates, and nothing else changes.
  (∀ (s : State) (n : NodeSel), s.held n = false → exec (.reanchor n) s = .next (s.modTime n (fun t => { t with
            domA := { t.domA with set := t.domA.set.reanchor t.rc t.domA.set.rate },
              domB := { t.domB with set := t.domB.set.reanchor t.rc t.domB.set.rate }, read := t.read.reanchor t.rc t.read.rate }))) ∧
  -- REANCHOR leaves RC, HT and both domains' HT as they were, and the read path's anchor is the present RC.
  (∀ (s : State) (n : NodeSel), s.held n = false → Does (.reanchor n) s (fun t => t.rc n = s.rc n ∧ t.ht n = s.ht n ∧
    t.htDom n .a = s.htDom n .a ∧ t.htDom n .b = s.htDom n .b ∧ ((t.time n).read.anchor = s.rc n)))

/-- O15. What snapshots, domain enables and the island root's time commands do. SNAP_GO, DOM_EN, DOM_REACQ, HT_SET, ISLAND_K and
HOLD_LIMIT_EXPIRY, a clause for each form: under conditions on the state and the operands alone the command answers the next state that
the clause gives. Choices of the model where the spec is open: logs 2, 111. Basis: derived (02_hall_time.md, 17_leaf_registers.md). -/
def Obligations.TimeDomains : Prop :=
  -- SNAP_GO accepted while snapshots are not taken at picots: the snapshot is the present one and is unread; domains, read path and RC
  -- are as before.
  (∀ (s : State) (n : NodeSel) (src : Src), s.takes n src (tOff n 0x1018) = true → s.snapsPicots n = false →
    Does (.snapGo n src) s (fun t => (t.time n).snap = s.snapNow n ∧ (t.time n).snapUnread = true ∧ OnlyTime n (s.opened n src) t ∧
    (t.time n).domA = (s.time n).domA ∧ (t.time n).domB = (s.time n).domB ∧ (t.time n).read = (s.time n).read ∧ t.rc n = s.rc n)) ∧
  -- SNAP_GO accepted while SNAP_PICOT takes the snapshots at picots: no snapshot is taken.
  (∀ (s : State) (n : NodeSel) (src : Src), s.takes n src (tOff n 0x1018) = true → s.snapsPicots n = true →
    exec (.snapGo n src) s = .next (s.opened n src)) ∧
  -- DOM_EN written 0 at the leaf while neither domain is active and both are enabled: both domains go OFF with cleared sets; the read
  -- path and the leaf's other parts are as before.
  (∀ (s : State) (src : Src), s.takes .leaf src 0x1004 = true → (s.time .leaf).isActive .a = false → (s.time .leaf).isActive .b = false →
    s.domEnabled .leaf .a = true → s.domEnabled .leaf .b = true → Does (.domEn .leaf src 0) s (fun t => ((t.time .leaf).domA).st = .off ∧
    ((t.time .leaf).domB).st = .off ∧ (t.time .leaf).domA.set = .cleared ∧ (t.time .leaf).domB.set = .cleared ∧
    (t.time .leaf).read = (s.time .leaf).read ∧ t.leaf = s.leaf ∧ SameMary s t)) ∧
  -- DOM_EN written 3 at the leaf with both domains OFF and an UP cell in each: each starts (SEEK or ACQUIRE) and its bit is set in
  -- DOM_EN.
  (∀ (s : State) (src : Src), s.takes .leaf src 0x1004 = true → (s.time .leaf).domA.st = .off → (s.time .leaf).domB.st = .off →
    s.hasUpRole .leaf .a = true → s.hasUpRole .leaf .b = true → Does (.domEn .leaf src 3) s (fun t =>
    (t.time .leaf).domA.st = s.acqOrSeek .leaf .a ∧ (t.time .leaf).domB.st = s.acqOrSeek .leaf .b ∧
    t.reg .leaf 0x1004 = s.reg .leaf 0x1004 ||| 3 ∧ t.leaf = s.leaf ∧ SameMary s t)) ∧
  -- DOM_EN written at a root Maryel: the value is stored and neither domain changes.
  (∀ (s : State) (src : Src) (v : BitVec 2), s.takes .mary src (tOff .mary 0x1004) = true → (s.cfg .mary).root = true →
    Does (.domEn .mary src v) s (fun t => t.reg .mary (tOff .mary 0x1004) = v.zeroExtend 32 ∧ (t.time .mary).domA = (s.time .mary).domA ∧
    (t.time .mary).domB = (s.time .mary).domB ∧ t.cellar = s.cellar ∧ SameLeaf s t)) ∧
  -- DOM_REACQ accepted for the active domain in LOST (not at a root Maryel): the domain restarts with a cleared set and its
  -- reacquisition mark, the fold ends and the read path runs on.
  (∀ (s : State) (n : NodeSel) (src : Src) (d : Dom), s.takes n src (tOff n 0x100C) = true → (s.time n).isActive d = true →
    ((s.time n).dom d).st = .lost → (n = .mary → (s.cfg .mary).root = false) → Does (.domReacq n src d) s (fun t =>
    ((t.time n).dom d).st = s.acqOrSeek n d ∧ ((t.time n).dom d).reacq = true ∧ ((t.time n).dom d).set = .cleared ∧
    (t.time n).fold = none ∧ (t.time n).read = (s.time n).read ∧ t.leaf = s.leaf)) ∧
  -- DOM_REACQ accepted for a domain that is not the active one in LOST, or at a root Maryel: it is counted as refused and time is as
  -- before.
  (∀ (s : State) (n : NodeSel) (src : Src) (d : Dom), s.takes n src (tOff n 0x100C) = true →
    ((s.time n).isActive d = false ∨ ((s.time n).dom d).st ≠ .lost ∨ n = .mary ∧ (s.cfg .mary).root = true) →
    Does (.domReacq n src d) s (fun t => (t.time n).domA = (s.time n).domA ∧ (t.time n).domB = (s.time n).domB ∧
    (t.time n).read = (s.time n).read ∧ t.count n (offTimeRefused n) = satInc (s.count n (offTimeRefused n)) ∧ t.leaf = s.leaf ∧
    t.cellar = s.cellar)) ∧
  -- HT_SET accepted at an island root leaf, with ns up to 999,999,999 and HT within its range, not set since reset and no binding: HT of
  -- the read path and of both domains becomes the written HT, the rates, RC and the pricking entries stay.
  (∀ (s : State) (src : Src) (v : Ht96), s.takes .leaf src 0x1068 = true → (s.cfg .leaf).island = true → htNs v ≤ 999999999 →
    tuNs (tuOfHt v) < 2 ^ 68 → (s.time .leaf).htSetDone = false → s.leaf.binding = none → Does (.htSet src v) s (fun t =>
    t.ht .leaf = tuOfHt v ∧ t.htDom .leaf .a = tuOfHt v ∧ t.htDom .leaf .b = tuOfHt v ∧
    (t.time .leaf).domA.set.rate = (s.time .leaf).domA.set.rate ∧ t.rc .leaf = s.rc .leaf ∧ t.leaf.prick.entries = s.leaf.prick.entries ∧
    SameMary s t)) ∧
  -- ISLAND_K accepted at an island root with K in its range: both domains will take K (at their next picot), and nothing else changes.
  (∀ (s : State) (src : Src) (kk : BitVec 48), s.takes .leaf src 0x1074 = true → (s.cfg .leaf).island = true → kMin ≤ kk.toNat →
    kk.toNat ≤ kMax → exec (.islandK src kk) s = .next ((s.opened .leaf src).modTime .leaf (fun t =>
    { t with domA := { t.domA with kPend := some kk }, domB := { t.domB with kPend := some kk } }))) ∧
  -- ISLAND_K accepted where the leaf is no island root or K is out of range: it is counted as refused, and nothing else changes.
  (∀ (s : State) (src : Src) (kk : BitVec 48), s.takes .leaf src 0x1074 = true →
    ((s.cfg .leaf).island = false ∨ kk.toNat < kMin ∨ kMax < kk.toNat) →
    exec (.islandK src kk) s = .next ((s.opened .leaf src).refuse .leaf (offTimeRefused .leaf))) ∧
  -- HOLD_LIMIT_EXPIRY for the active domain in HOLD: the domain goes LOST and its event bit is set, its set and the read path stay, and
  -- an unplanned racking is due if the other domain is in TRACK.
  (∀ (s : State) (n : NodeSel) (d : Dom), s.held n = false → ((s.time n).dom d).st = .hold → (s.time n).isActive d = true →
    Does (.holdLimitExpiry n d) s (fun t => ((t.time n).dom d).st = .lost ∧ (t.time n).evt.getLsbD (2 + domIdx d) = true ∧
    ((t.time n).dom d).set = ((s.time n).dom d).set ∧ (t.time n).read = (s.time n).read ∧ (((s.time n).dom (otherDom d)).st = .track →
    (t.time n).rackDue = true) ∧ t.leaf = s.leaf))

/-- O16. What a picot does at a leaf, at a Maryel and at a root. PICOT, a clause for each form: under conditions on the state and the
operands alone the command answers the next state that the clause gives. Choices of the model where the spec is open: logs 2, 86. Basis:
derived (02_hall_time.md, 14_references_and_holdover.md). -/
def Obligations.PicotEdge : Prop :=
  -- PICOT of a leaf domain whose set runs over TCLK, with no racking requested: RC advances to the picot's edge, waiting writes of that
  -- domain take effect, the domain takes its override K in TRACK or else its measured K, re-anchored there, and notes the picot; the
  -- other domain and the active one are as before.
  (∀ (s : State) (d : Dom) (c : CorrSet) (want : Option (BitVec 48)), s.held .leaf = false → (s.time .leaf).tclk = true →
    s.picotSet .leaf d = some c → (s.time .leaf).rackReq = none → (let u := (s.advTo .leaf (s.picotEdge .leaf d c)).commitPicot .leaf d;
    (∀ v, u.kOvr .leaf d = some v → ((s.time .leaf).dom d).st = .track → want = some v) →
    (u.kOvr .leaf d = none ∨ ((s.time .leaf).dom d).st ≠ .track → want = ((s.time .leaf).dom d).kPend) → Does (.picot .leaf d) s (fun t =>
    t.rc .leaf = u.rc .leaf ∧ (t.time .leaf).dom d =
    { (match want with | some v => (u.time .leaf).putK d v | none => u.time .leaf).dom d with
            kPend := none, picotAt := some (u.rc .leaf) } ∧ (∀ x, x ≠ d → (t.time .leaf).dom x = (s.time .leaf).dom x) ∧
    (t.time .leaf).active = (s.time .leaf).active ∧ t.leaf.evt.modeWr = false ∧ SameMary s t))) ∧
  -- PICOT of a domain without a running set: nothing changes.
  (∀ (s : State) (n : NodeSel) (d : Dom), s.held n = false → (s.time n).tclk = true → s.picotSet n d = none →
    exec (.picot n d) s = .next (s.convRefresh n)) ∧
  -- PICOT of a Maryel that is no root: RC advances to the picot's edge, the domain notes it and has no K left to take, pending licences
  -- take effect, and the leaf is as before.
  (∀ (s : State) (d : Dom) (c : CorrSet), s.held .mary = false → (s.time .mary).tclk = true → s.picotSet .mary d = some c →
    s.isRoot .mary = false → (let u := (s.advTo .mary (s.picotEdge .mary d c)).commitPicot .mary d; Does (.picot .mary d) s (fun t =>
    t.rc .mary = u.rc .mary ∧ ((t.time .mary).dom d).picotAt = some (u.rc .mary) ∧ ((t.time .mary).dom d).kPend = none ∧ (∀ x, x ≠ d →
    (t.time .mary).dom x = (s.time .mary).dom x) ∧ t.mary.licPend = false ∧ t.leaf = s.leaf))) ∧
  -- PICOT of a root Maryel: the leaf is as before.
  (∀ (s : State) (d : Dom), s.held .mary = false → s.isRoot .mary = true → Does (.picot .mary d) s (fun t => t.leaf = s.leaf))

/-- O17. What a register write stores, clears, refuses or counts. REGISTER_WRITE, EXPERT_UNLOCK and ERR_CNT_CLR, a clause for each form:
under conditions on the state and the operands alone the command answers the next state that the clause gives. Choices of the model
where the spec is open: logs 10, 105. Basis: derived (17_leaf_registers.md, 18_maryel_registers.md). -/
def Obligations.RegisterWrites : Prop :=
  -- REGISTER_WRITE to IRQ_STAT of the leaf: the written ones clear their bits; registers, cells and the rest are as before.
  (∀ (s : State) (src : Src) (v : W32), s.takes .leaf src 0x20 = true → Does (.registerWrite .leaf src 0x20 v) s (fun t =>
    t.leafN.irq = s.leafN.irq &&& ~~~ v.setWidth _ ∧ t.leafN.regs = s.leafN.regs ∧ t.leafN.cells = s.leafN.cells ∧ t.leaf = s.leaf ∧
    SameMary s t)) ∧
  -- REGISTER_WRITE to STAT_N (0x8104) with 1 to 2^24: the field takes the value and no other register changes.
  (∀ (s : State) (src : Src) (v : W32), s.takes .leaf src 0x8104 = true → 0 < v.toNat → v.toNat ≤ 0x1000000 →
    Does (.registerWrite .leaf src 0x8104 v) s (fun t => t.statN = v.toNat ∧ (∀ o, o ≠ 0x8104 → t.reg .leaf o = s.reg .leaf o) ∧
    t.leaf = s.leaf ∧ SameMary s t)) ∧
  -- REGISTER_WRITE to STAT_N out of that range: the register keeps its value and the leaf's counter at 0x18 goes up by one.
  (∀ (s : State) (src : Src) (v : W32), s.takes .leaf src 0x8104 = true → (v.toNat % 2 ^ 25 = 0 ∨ 0x1000000 < v.toNat % 2 ^ 25) →
    Does (.registerWrite .leaf src 0x8104 v) s (fun t => t.reg .leaf 0x8104 = s.reg .leaf 0x8104 ∧
    t.count .leaf 0x18 = satInc (s.count .leaf 0x18) ∧ t.leaf = s.leaf ∧ SameMary s t)) ∧
  -- REGISTER_WRITE at either node to an offset that holds no register: ACC_ERR goes up by one; registers and cells are as before.
  (∀ (s : State) (n : NodeSel) (src : Src) (off : BitVec 20) (v : W32), s.takes n src off.toNat = true →
    assignedAt n src off.toNat = false → beyond n off.toNat = false → off.toNat ≠ 0xE054 → Does (.registerWrite n src off v) s (fun t =>
    t.count n (offAccErr n) = satInc (s.count n (offAccErr n)) ∧ t.leaf = s.leaf ∧ (∀ o, t.reg n o = s.reg n o) ∧
    (∀ i, t.cell n i = s.cell n i) ∧ t.cellar = s.cellar)) ∧
  -- REGISTER_WRITE of a host or tunnel to a page of the Maryel it may not write: its DENY counter goes up by one; registers, cells and
  -- time are as before.
  (∀ (s : State) (src : Src) (off : BitVec 20) (v : W32), srcAt .mary src = true → src ≠ .engine → s.held .mary = false →
    beyond .mary off.toNat = false → s.mayWrite src off.toNat = false → Does (.registerWrite .mary src off v) s (fun t =>
    t.count .mary (offDeny src) = satInc (s.count .mary (offDeny src)) ∧ t.leafN = s.leafN ∧ t.leaf = s.leaf ∧ t.cellar = s.cellar ∧
    t.maryN.regs = s.maryN.regs ∧ t.maryN.cells = s.maryN.cells ∧ t.maryN.time = s.maryN.time)) ∧
  -- REGISTER_WRITE of the running management engine to an offset it may write: that register takes the value and no other changes.
  (∀ (s : State) (off : BitVec 20) (v : W32), s.held .mary = false → s.mary.me.state = 1 → beyond .mary off.toNat = false →
    engineMay off.toNat = true → Does (.registerWrite .mary .engine off v) s (fun t => t.reg .mary off.toNat = v ∧ (∀ o, o ≠ off.toNat →
    t.reg .mary o = s.reg .mary o) ∧ t.mary = s.mary ∧ t.cellar = s.cellar ∧ SameLeaf s t)) ∧
  -- REGISTER_WRITE of the running engine elsewhere: ME_DENY goes up by one and the engine's interrupt bit is set; no register changes.
  (∀ (s : State) (off : BitVec 20) (v : W32), s.held .mary = false → s.mary.me.state = 1 → beyond .mary off.toNat = false →
    engineMay off.toNat = false → Does (.registerWrite .mary .engine off v) s (fun t =>
    t.count .mary 0xB0018 = satInc (s.count .mary 0xB0018) ∧ t.maryN.irq.getLsbD 9 = true ∧ t.maryN.regs = s.maryN.regs ∧
    t.mary = s.mary ∧ t.cellar = s.cellar ∧ SameLeaf s t)) ∧
  -- EXPERT_UNLOCK accepted: the source is unlocked exactly when the word is 0x45585054; every other source stays as it was.
  (∀ (s : State) (n : NodeSel) (src : Src) (v : W32), s.takes n src (match n with | .leaf => 0x0010 | .mary => 0x7D020) = true →
    Does (.expertUnlock n src v) s (fun t => (t.isExpert n src = decide (v = 0x45585054)) ∧ (∀ x, x ≠ src →
    t.isExpert n x = s.isExpert n x) ∧ t.cellar = s.cellar ∧ t.leaf = s.leaf)) ∧
  -- ERR_CNT_CLR accepted at the leaf with its bit 1: every counter of the leaf reads 0.
  (∀ (s : State) (src : Src), s.takes .leaf src 0x1C = true → Does (.errCntClr .leaf src true) s (fun t => (∀ o, t.count .leaf o = 0) ∧
    t.leaf = s.leaf ∧ SameMary s t))

/-- O18. What FIFO pops and wide reads answer and change. FIFO_POP and WIDE_READ_SNAPSHOT, a clause for each form: under conditions on the
state and the operands alone the command answers the next state that the clause gives. Choices of the model where the spec is open: log
33. Basis: derived (17_leaf_registers.md). -/
def Obligations.RegisterReads : Prop :=
  -- FIFO_POP of a leaf's event, interval, miss or landing FIFO when its snapshot was read before: the head entry goes and the last word
  -- of the snapshot answers.
  (∀ (s : State) (src : Src) (f : FifoId) (l : List W32), srcAt .leaf src = true → s.held .leaf = false →
    (f = .evt 0 ∨ f = .evt 1 ∨ f = .intv ∨ f = .miss ∨ ∃ p, f = .land p) → s.snapWord .leaf src (fifoAt f).1 = some l →
    (s.snapWord .leaf src ((fifoAt f).1 + 1)).isSome = true → Does (.fifoPop .leaf src f) s (fun t =>
    t.fifo .leaf f = (s.fifo .leaf f).drop 1 ∧ t.leafN.rdata = (l.getD ((fifoAt f).2 - 1) 0, false) ∧ t.leafN.regs = s.leafN.regs ∧
    t.leafN.cells = s.leafN.cells ∧ SameMary s t)) ∧
  -- FIFO_POP of the same when that snapshot shows an empty FIFO: the last word answers and nothing else changes.
  (∀ (s : State) (src : Src) (f : FifoId) (l : List W32), srcAt .leaf src = true → s.held .leaf = false →
    (f = .evt 0 ∨ f = .evt 1 ∨ f = .intv ∨ f = .miss ∨ ∃ p, f = .land p) → s.snapWord .leaf src (fifoAt f).1 = some l →
    s.snapWord .leaf src ((fifoAt f).1 + 1) = none → Does (.fifoPop .leaf src f) s (fun t => t.leaf = s.leaf ∧
    t.leafN.rdata = (l.getD ((fifoAt f).2 - 1) 0, false) ∧ t.leafN.regs = s.leafN.regs ∧ t.leafN.cells = s.leafN.cells ∧ SameMary s t)) ∧
  -- FIFO_POP of the exception or alarm FIFO of a root Maryel by a source that may read it: the head entry goes and the last word of the
  -- snapshot answers.
  (∀ (s : State) (src : Src) (f : FifoId) (l : List W32), srcAt .mary src = true → src ≠ .engine → s.held .mary = false →
    (f = .exc ∨ f = .alarm) → s.isRoot .mary = true → s.mayRead src ((fifoAt f).1 + 4 * ((fifoAt f).2 - 1)) = true →
    s.snapWord .mary src (fifoAt f).1 = some l → (s.snapWord .mary src ((fifoAt f).1 + 1)).isSome = true →
    Does (.fifoPop .mary src f) s (fun t => t.fifo .mary f = (s.fifo .mary f).drop 1 ∧
    t.maryN.rdata = (l.getD ((fifoAt f).2 - 1) 0, false) ∧ t.maryN.regs = s.maryN.regs ∧ t.maryN.cells = s.maryN.cells ∧
    t.cellar = s.cellar ∧ SameLeaf s t)) ∧
  -- FIFO_POP of the telemetry FIFO likewise.
  (∀ (s : State) (src : Src) (l : List W32), srcAt .mary src = true → src ≠ .engine → s.held .mary = false →
    s.mayRead src 0xA0240 = true → s.snapWord .mary src 0xA0200 = some l → (s.snapWord .mary src 0xA0201).isSome = true →
    Does (.fifoPop .mary src .tel) s (fun t => t.fifo .mary .tel = (s.fifo .mary .tel).drop 1 ∧ t.maryN.rdata = (l.getD 16 0, false) ∧
    t.maryN.regs = s.maryN.regs ∧ t.maryN.cells = s.maryN.cells ∧ t.cellar = s.cellar ∧ SameLeaf s t)) ∧
  -- WIDE_READ_SNAPSHOT of HT at the leaf: the low word of HT answers and the whole HT is the source's snapshot.
  (∀ (s : State) (src : Src), srcAt .leaf src = true → s.held .leaf = false → Does (.wideReadSnapshot src 0x1020) s (fun t =>
    t.leafN.rdata = (BitVec.ofNat 32 (htOf (s.ht .leaf)).toNat, false) ∧
    t.snapWord .leaf src 0x1020 = some (wideWords 3 (htOf (s.ht .leaf)).toNat) ∧ t.leafN.time = s.leafN.time ∧
    t.leafN.regs = s.leafN.regs ∧ t.leafN.cells = s.leafN.cells ∧ t.leaf = s.leaf ∧ SameMary s t)) ∧
  -- WIDE_READ_SNAPSHOT of any wide register's lowest word at the leaf that is no FIFO: the low word of its value answers and the whole
  -- value is the source's snapshot; RC, HT, registers and cells are as before.
  (∀ (s : State) (src : Src) (off : BitVec 16) (w : WideView), srcAt .leaf src = true → s.held .leaf = false → off.toNat % 4 = 0 →
    off.toNat ≠ 0xE054 → wideAt .leaf src off.toNat = some w → w.1 = off.toNat → fifoOf .leaf w.1 = none →
    (∀ i, cellAt .leaf off.toNat = some i → (s.cell .leaf i).ts ≠ .test) → Does (.wideReadSnapshot src off) s (fun t =>
    t.leafN.rdata = ((wideWords w.2.1 (w.2.2 s)).getD 0 0, false) ∧ t.snapWord .leaf src w.1 = some (wideWords w.2.1 (w.2.2 s)) ∧
    t.rc .leaf = s.rc .leaf ∧ t.ht .leaf = s.ht .leaf ∧ t.leafN.regs = s.leafN.regs ∧ t.leafN.cells = s.leafN.cells ∧ t.leaf = s.leaf ∧
    SameMary s t))

/-- O19. ROOT_DATA reaches the image of a root page through ROOT_ADDR. ROOT_DATA, a clause for each form: under conditions on the state and
the operands alone the command answers the next state that the clause gives. Choices of the model where the spec is open: logs 22, 34.
Basis: derived (17_leaf_registers.md). -/
def Obligations.RootPageWindow : Prop :=
  -- ROOT_DATA written at a root leaf whose ROOT_ADDR names an image offset: the write is that of the offset.
  (∀ (s : State) (src : Src) (v : W32) (o : Nat), s.takes .leaf src 0xE054 = true → s.isRoot .leaf = true →
    imageOff (s.fld .leaf 0xE050 15 0) = some o →
    exec (.rootData src (some v)) s = .next ((s.opened .leaf src).writeAt .leaf src false o v)) ∧
  -- ROOT_DATA read likewise: the read is that of the offset.
  (∀ (s : State) (src : Src) (o : Nat), srcAt .leaf src = true → s.held .leaf = false → s.isRoot .leaf = true →
    imageOff (s.fld .leaf 0xE050 15 0) = some o → exec (.rootData src none) s = .next (s.readAt .leaf src o)) ∧
  -- ROOT_DATA written at a leaf that is no root: ACC_ERR goes up by one, nothing else changes.
  (∀ (s : State) (src : Src) (v : W32), s.takes .leaf src 0xE054 = true → s.isRoot .leaf = false →
    Does (.rootData src (some v)) s (fun t => t.count .leaf (offAccErr .leaf) = satInc (s.count .leaf (offAccErr .leaf)) ∧
    t.leaf = s.leaf ∧ t.leafN.regs = s.leafN.regs ∧ SameMary s t)) ∧
  -- ROOT_DATA read at a leaf that is no root: 0 answers.
  (∀ (s : State) (src : Src), srcAt .leaf src = true → s.held .leaf = false → s.isRoot .leaf = false →
    exec (.rootData src none) s = .next (s.answer .leaf 0 false)) ∧
  -- ROOT_DATA written with ROOT_ADDR at the image of 0x8010C: the field takes the value's low 16 bits and no other register changes.
  (∀ (s : State) (src : Src) (v : W32), s.takes .leaf src 0xE054 = true → s.isRoot .leaf = true →
    imageOff (s.fld .leaf 0xE050 15 0) = some 0x8010C → Does (.rootData src (some v)) s (fun t =>
    t.fld .leaf 0x8010C 15 0 = v.toNat % 2 ^ 16 ∧ (∀ o, o ≠ 0x8010C → t.reg .leaf o = s.reg .leaf o) ∧ t.leafN.cells = s.leafN.cells ∧
    t.leafN.root = s.leafN.root ∧ t.leaf = s.leaf ∧ SameMary s t))

/-- O20. What lock, timeout, enable, test and loss of signal do to a port cell. CDR_LOCK, CDR_TIMEOUT, PORT_EN, TEST and LOSS_OF_SIGNAL, a
clause for each form: under conditions on the state and the operands alone the command answers the next state that the clause gives.
Choices of the model where the spec is open: logs 2, 95. Basis: derived (03_sync_link.md). -/
def Obligations.LinkTraining : Prop :=
  -- CDR_LOCK at a cell in CDR: the cell goes to WORD with no comma counted; other cells, and all but the cell, are as before.
  (∀ (s : State) (c : CellRef), s.held c.node = false → (s.cell c.node c.idx).ts = .cdr → Does (.cdrLock c) s (fun t =>
    (t.cell c.node c.idx).ts = .word ∧ (t.cell c.node c.idx).commaRun = 0 ∧ KeepsCell c s t)) ∧
  -- CDR_TIMEOUT at a cell in CDR: it starts CDR again from the present edge and its counter goes up by one.
  (∀ (s : State) (c : CellRef), s.held c.node = false → (s.cell c.node c.idx).ts = .cdr → Does (.cdrTimeout c) s (fun t =>
    (t.cell c.node c.idx).ts = .cdr ∧ (t.cell c.node c.idx).cdrSince = t.rc c.node ∧
    t.count c.node (cOff c.node c.idx 0x120) = satInc (s.count c.node (cOff c.node c.idx 0x120)) ∧ KeepsCell c s t)) ∧
  -- PORT_EN set at a cell that is OFF, has a role, is neither silenced nor dark (at a leaf, one already enabled by its bitstream): the
  -- cell is enabled and goes to CDR.
  (∀ (s : State) (c : CellRef) (src : Src), s.takes c.node src (cOff c.node c.idx 0) = true → (s.cell c.node c.idx).ts = .off →
    (c.node = .leaf → (s.cell c.node c.idx).portEn = true) → (s.cell c.node c.idx).mute = 0 → (s.cell c.node c.idx).dark = false →
    (s.cell c.node c.idx).cfg.role ≠ 0 → Does (.portEn c src true) s (fun t => (t.cell c.node c.idx).portEn = true ∧
    (t.cell c.node c.idx).ts = .cdr ∧ (t.cell c.node c.idx).cdrSince = s.rc c.node ∧ KeepsCell c (s.opened c.node src) t)) ∧
  -- TEST started at a cell that is OFF and neither silenced nor dark: the cell goes to TEST with PRBS_BITS 0.
  (∀ (s : State) (c : CellRef) (src : Src), s.takes c.node src (cOff c.node c.idx 0) = true → (s.cell c.node c.idx).ts = .off →
    (s.cell c.node c.idx).mute = 0 → (s.cell c.node c.idx).dark = false → Does (.test c src true) s (fun t =>
    (t.cell c.node c.idx).ts = .test ∧ (t.cell c.node c.idx).prbsBits = 0 ∧ KeepsCell c (s.opened c.node src) t)) ∧
  -- TEST ended at a cell that is not enabled: the cell goes OFF.
  (∀ (s : State) (c : CellRef) (src : Src), s.takes c.node src (cOff c.node c.idx 0) = true → (s.cell c.node c.idx).ts = .test →
    (s.cell c.node c.idx).portEn = false → Does (.test c src false) s (fun t => (t.cell c.node c.idx).ts = .off ∧
    KeepsCell c (s.opened c.node src) t)) ∧
  -- LOSS_OF_SIGNAL at a cell in WORD: it goes back to CDR at the present edge.
  (∀ (s : State) (c : CellRef), s.held c.node = false → (s.cell c.node c.idx).ts = .word → Does (.lossOfSignal c) s (fun t =>
    (t.cell c.node c.idx).ts = .cdr ∧ (t.cell c.node c.idx).cdrSince = s.rc c.node ∧ KeepsCell c s t))

/-- O21. What HELLO and BAR do as sent, received and applied. HELLO_SEND, HELLO_RX, BAR_RX and BAR_APPLY, a clause for each form: under
conditions on the state and the operands alone the command answers the next state that the clause gives. Choices of the model where the
spec is open: log 6. Basis: derived (03_sync_link.md). -/
def Obligations.LinkGreetings : Prop :=
  -- HELLO_SEND at an aligned cell: the HELLO joins its control tokens and its timer restarts.
  (∀ (s : State) (c : CellRef), s.held c.node = false → (s.cell c.node c.idx).aligned = true → Does (.helloSend c) s (fun t =>
    (t.cell c.node c.idx).ctlq = (s.cell c.node c.idx).ctlq ++ [s.linkCtlOf c.node c.idx 0] ∧
    (t.cell c.node c.idx).helloAt = t.rc c.node ∧ KeepsCell c s t)) ∧
  -- HELLO_RX in HELLO with roles that do not match: the cell's counter goes up by one, and nothing else changes.
  (∀ (s : State) (c : CellRef) (h : LinkCtl), s.held c.node = false → (s.cell c.node c.idx).ts = .hello →
    rolesMatch (s.cell c.node c.idx).cfg h = false → exec (.helloRx c h) s = .next (s.bump c.node (cOff c.node c.idx 0x124))) ∧
  -- HELLO_RX in HELLO with matching roles: the cell notes the HELLO, and goes to DELAY when either side has acknowledged.
  (∀ (s : State) (c : CellRef) (h : LinkCtl), s.held c.node = false → (s.cell c.node c.idx).ts = .hello →
    rolesMatch (s.cell c.node c.idx).cfg h = true → Does (.helloRx c h) s (fun t =>
    (t.cell c.node c.idx).ts = (if (s.cell c.node c.idx).helloAck || h.ack then .delay else .hello) ∧
    (t.cell c.node c.idx).gotHello = true ∧ KeepsCell c s t)) ∧
  -- BAR_RX at an aligned cell with a bar up to 6: the bar waits to be applied, and nothing else changes.
  (∀ (s : State) (c : CellRef) (bar : BitVec 3), s.held c.node = false → (s.cell c.node c.idx).aligned = true → bar.toNat ≤ 6 →
    exec (.barRx c bar) s = .next (s.modCell c.node c.idx (fun x => { x with barPend := some (bar, s.rc c.node) }))) ∧
  -- BAR_APPLY with a bar waiting: one microsecond after it was received the cell sends by it.
  (∀ (s : State) (c : CellRef) (bar : BitVec 3) (rc : W64), s.held c.node = false → (s.cell c.node c.idx).barPend = some (bar, rc) →
    exec (.barApply c) s = .next ((s.advAfter c.node rc cyclesUs).modCell c.node c.idx (fun x =>
    { x with barTx := bar, barPend := none })))

/-- O22. What acknowledgements and the retry timers do. LINK_ACK_RX, LINK_ACK_TIMER, RETRY_TIMEOUT_EXPIRY, RETRY_RESEND and
RETRY_STATE_DISCARD, a clause for each form: under conditions on the state and the operands alone the command answers the next state
that the clause gives. Choices of the model where the spec is open: log 2. Basis: derived (03_sync_link.md). -/
def Obligations.LinkRetry : Prop :=
  -- LINK_ACK_RX (ACK or NAK) at an aligned cell whose RSEQ lies in the unacknowledged sets: the sets before it are dropped, the resend
  -- count is 0 and the acknowledge time is now.
  (∀ (s : State) (c : CellRef) (nak : Bool) (rseq o : Byte) (w : List W64) (l : List (Byte × List W64)), s.held c.node = false →
    (s.cell c.node c.idx).aligned = true → (s.cell c.node c.idx).retry.unacked = (o, w) :: l → (rseq - o).toNat ≠ 0 →
    (rseq - o).toNat ≤ l.length + 1 → Does (.linkAckRx c nak rseq) s (fun t =>
    (t.cell c.node c.idx).retry.unacked = (s.cell c.node c.idx).retry.unacked.drop (rseq - o).toNat ∧
    (t.cell c.node c.idx).retry.resends = 0 ∧ (t.cell c.node c.idx).retry.ackAt = s.rc c.node ∧ KeepsCell c s t)) ∧
  -- LINK_ACK_TIMER at an aligned cell that has an unacknowledged acceptance: one microsecond after it an acknowledgement of everything
  -- accepted is queued.
  (∀ (s : State) (c : CellRef) (rc : W64), s.held c.node = false → (s.cell c.node c.idx).aligned = true →
    (s.cell c.node c.idx).retry.firstAcc = some rc →
    exec (.linkAckTimer c) s = .next ((s.advAfter c.node rc cyclesUs).modCell c.node c.idx (fun c =>
    { c with ackq := c.ackq ++ [linkAckTok false c.retry.exp], retry := { c.retry with accepted := 0, firstAcc := none } }))) ∧
  -- RETRY_TIMEOUT_EXPIRY at an ACTIVE cell with unacknowledged sets: a resend is due.
  (∀ (s : State) (c : CellRef), s.held c.node = false → (s.cell c.node c.idx).ts = .active → (s.cell c.node c.idx).retry.unacked ≠ [] →
    Does (.retryTimeoutExpiry c) s (fun t =>
    (t.cell c.node c.idx).retry = { (s.cell c.node c.idx).retry with resendDue := true, ackAt := t.rc c.node } ∧ KeepsCell c s t)) ∧
  -- RETRY_RESEND at an ACTIVE cell with a resend due and fewer than 16 made: all unacknowledged sets are queued again and the count goes
  -- up by one.
  (∀ (s : State) (c : CellRef), s.held c.node = false → (s.cell c.node c.idx).ts = .active → (s.cell c.node c.idx).retry.unacked ≠ [] →
    (s.cell c.node c.idx).retry.resendDue = true → (s.cell c.node c.idx).retry.resends < 16 → Does (.retryResend c) s (fun t => (t.cell
      c.node c.idx).retry = { (s.cell c.node c.idx).retry with
            resendDue := false, resends := (s.cell c.node c.idx).retry.resends + 1, resendQ := (s.cell c.node c.idx).retry.unacked } ∧
    KeepsCell c s t)) ∧
  -- RETRY_STATE_DISCARD at a cell that is not ACTIVE and lost its link: its retry state is reset and marked discarded; registers are as
  -- before.
  (∀ (s : State) (c : CellRef) (rc : W64), s.held c.node = false → (s.cell c.node c.idx).ts ≠ .active →
    (s.cell c.node c.idx).retry.lossAt = some rc → Does (.retryStateDiscard c) s (fun t =>
    (t.cell c.node c.idx).retry = { Retry.reset with discarded := true } ∧ (∀ k o, t.reg k o = s.reg k o) ∧ t.leaf = s.leaf ∧
    t.mary = s.mary ∧ t.cellar = s.cellar))

/-- O23. What frames received and sent, announced time and a root's C2 messages do. FRAME_RX, FRAME_START, TIME_ANNOUNCE_RX and
C2_MESSAGE_SEND, a clause for each form: under conditions on the state and the operands alone the command answers the next state that
the clause gives. Choices of the model where the spec is open: logs 92, 111, 112. Basis: derived (03_sync_link.md,
07_pricking_and_launch.md). -/
def Obligations.LinkFrames : Prop :=
  -- FRAME_RX in WORD, the eighth comma in a row: the cell goes to FRAME with no good or bad frame counted, keeping the running disparity
  -- of what it decoded.
  (∀ (s : State) (c : CellRef) (f : LineFrame) (pos : Nat), s.held c.node = false → (s.cell c.node c.idx).ts = .word →
    (f.decode (s.cell c.node c.idx).rxRd pos).1.comma = true → (s.cell c.node c.idx).commaRun = 7 → Does (.frameRx c f pos) s (fun t =>
    (t.cell c.node c.idx).ts = .frame ∧ (t.cell c.node c.idx).goodRun = 0 ∧ (t.cell c.node c.idx).badRun = 0 ∧
    (t.cell c.node c.idx).rxRd = (f.decode (s.cell c.node c.idx).rxRd pos).2 ∧ KeepsCell c s t)) ∧
  -- FRAME_RX in WORD before that: the run of commas goes up by one, or to 0 when the word is no comma.
  (∀ (s : State) (c : CellRef) (f : LineFrame) (pos : Nat), s.held c.node = false → (s.cell c.node c.idx).ts = .word →
    ((f.decode (s.cell c.node c.idx).rxRd pos).1.comma = true → (s.cell c.node c.idx).commaRun < 7) → Does (.frameRx c f pos) s (fun t =>
    (t.cell c.node c.idx).ts = .word ∧ (t.cell c.node c.idx).commaRun = (if (f.decode (s.cell c.node c.idx).rxRd pos).1.comma then (s.cell
      c.node c.idx).commaRun + 1 else 0) ∧ KeepsCell c s t)) ∧
  -- FRAME_RX of a bad frame in FRAME, not the third in a row: the bad run goes up by one, the good run to 0, and FSEQ is noted.
  (∀ (s : State) (c : CellRef) (f : LineFrame) (pos : Nat), s.held c.node = false → (s.cell c.node c.idx).ts = .frame →
    (f.decode (s.cell c.node c.idx).rxRd pos).1.good (s.cell c.node c.idx).fseqRx = false → (s.cell c.node c.idx).badRun < 2 →
    Does (.frameRx c f pos) s (fun t => (t.cell c.node c.idx).ts = .frame ∧
    (t.cell c.node c.idx).badRun = (s.cell c.node c.idx).badRun + 1 ∧ (t.cell c.node c.idx).goodRun = 0 ∧
    (t.cell c.node c.idx).fseqRx = some (f.decode (s.cell c.node c.idx).rxRd pos).1.fseq ∧ KeepsCell c s t)) ∧
  -- FRAME_RX of a good frame in FRAME, not the fourth in a row: the good run goes up by one and the bad run to 0.
  (∀ (s : State) (c : CellRef) (f : LineFrame) (pos : Nat), s.held c.node = false → (s.cell c.node c.idx).ts = .frame →
    (f.decode (s.cell c.node c.idx).rxRd pos).1.good (s.cell c.node c.idx).fseqRx = true → (s.cell c.node c.idx).goodRun < 3 →
    Does (.frameRx c f pos) s (fun t => (t.cell c.node c.idx).ts = .frame ∧ (t.cell c.node c.idx).badRun = 0 ∧
    (t.cell c.node c.idx).goodRun = (s.cell c.node c.idx).goodRun + 1 ∧ KeepsCell c s t)) ∧
  -- FRAME_START at a cell that sends: the sent words are the comma, the header, the seven tokens and the CRC over header and tokens; the
  -- frame's edge is the cell's next frame boundary.
  (∀ (s : State) (c : CellRef), s.held c.node = false → (s.cell c.node c.idx).sends = true → Does (.frameStart c) s (fun t =>
    ∃ hdr slots, (t.cell c.node c.idx).lastFrame = some (hdr, slots) ∧
    (t.cell c.node c.idx).lastWords = commaWord :: hdr :: slots.flatMap tokWords ++ frameCrc (hdr :: slots.flatMap tokWords) ∧
    (t.cell c.node c.idx).frameRc = (s.nextFrame c.node c.idx).1 ∧ (t.cell c.node c.idx).echoq = [])) ∧
  -- TIME_ANNOUNCE_RX at an aligned UP cell of the leaf whose domain is not in ACQUIRE, with no binding: the announced HT is the cell's
  -- and its count starts again; RC and the Maryel are as before.
  (∀ (s : State) (c : Fin 6) (acount : BitVec 48) (stamp : Stamp), s.held .leaf = false → (s.cell .leaf c.val).aligned = true →
    (s.cell .leaf c.val).cfg.role = 1 → ((s.time .leaf).dom (s.cell .leaf c.val).cfg.dom).st ≠ .acquire → s.leaf.binding = none →
    Does (.timeAnnounceRx (.leaf c) acount stamp) s (fun t => (t.cell .leaf c.val).annHt = some (acount.toNat * 2 ^ 20) ∧
    (t.cell .leaf c.val).annCount = 0 ∧ t.rc .leaf = s.rc .leaf ∧ SameMary s t)) ∧
  -- TIME_ANNOUNCE_RX at an ACTIVE UP cell of the leaf whose domain is in ACQUIRE: the announced HT is the cell's and its pending
  -- stamps', and the domain takes the acquisition step from the stamp.
  (∀ (s : State) (c : Fin 6) (acount : BitVec 48) (stamp : Stamp), s.held .leaf = false → (s.cell .leaf c.val).ts = .active →
    (s.cell .leaf c.val).cfg.role = 1 → ((s.time .leaf).dom (s.cell .leaf c.val).cfg.dom).st = .acquire →
    exec (.timeAnnounceRx (.leaf c) acount stamp) s = .next (((((s.modCell .leaf c.val (fun x => { x with
            annHt := some (acount.toNat * 2 ^ 20), annCount := 0,
              stampReq := x.stampReq.map (fun r => if r.rc = stamp.rc then { r with p := some (acount.toNat * 2 ^ 20) } else r) })).acquireStep
      .leaf (s.cell .leaf c.val).cfg.dom stamp.rc (annOff (acount.toNat * 2 ^ 20) (s.cell .leaf c.val).dly.d
      stamp.pos)).sendMarks)).convRefresh .leaf)) ∧
  -- C2_MESSAGE_SEND at a cell for which the root's one waiting message is ready: its tokens join the cell's C2 queue and the cell leaves
  -- the message's list; with the last cell the message goes.
  (∀ (s : State) (c : CellRef) (m : C2Out), s.held c.node = false → (s.root c.node).c2out = [m] → c.idx ∈ m.ports →
    (s.root c.node).readyMsg (s.rc c.node) c.idx m.sd = some m → (s.cell c.node c.idx).refuses = false →
    Does (.c2MessageSend c) s (fun t => (t.root c.node).c2out = (if m.ports.filter (fun x =>
    x != c.idx) = [] then [] else [{ m with ports := m.ports.filter (fun x => x != c.idx), debited := true }]) ∧
    (t.cell c.node c.idx).c2q = (s.cell c.node c.idx).c2q ++ [m.toks] ∧ KeepsCell c s t))

/-- O24. What statistics, the frequency counter and the interval events do. STAT_GO, STAT_STOP, FC_GO, FC_MIN_RST, FC_GATE_END,
HOLD_GATE_END, EVENT_EDGE and INTV_TIMEOUT, a clause for each form: under conditions on the state and the operands alone the command
answers the next state that the clause gives. Choices of the model where the spec is open: logs 2, 67, 111. Basis: derived
(04_interpolator.md, 02_hall_time.md). -/
def Obligations.IntervalCounters : Prop :=
  -- STAT_GO accepted: the statistics engine starts afresh, its done flag kept.
  (∀ (s : State) (src : Src), s.takes .leaf src 0x8108 = true → exec (.statGo src) s = .next ((s.opened .leaf src).modLeaf (fun l =>
    { l with stat := { StatSt.reset with run := true, done := l.stat.done } }))) ∧
  -- STAT_STOP accepted while it runs with no result: it stops, is done and reads zeros.
  (∀ (s : State) (src : Src), s.takes .leaf src 0x8108 = true → s.leaf.stat.run = true → s.leaf.stat.n = 0 →
    exec (.statStop src) s = .next ((s.opened .leaf src).modLeaf (fun l =>
    { l with stat := { l.stat with run := false, done := true, mean := 0, sdev := 0, min := 0, max := 0 } }))) ∧
  -- STAT_STOP accepted: a running engine finishes with its results, one that does not run stays.
  (∀ (s : State) (src : Src), s.takes .leaf src 0x8108 = true → exec (.statStop src) s = .next ((s.opened .leaf src).modLeaf (fun l =>
    if l.stat.run then { l with stat := l.stat.finish } else l))) ∧
  -- FC_GO accepted: in SINGLE mode a gate is started at the next boundary, or remembered while one runs; in the other modes nothing
  -- changes.
  (∀ (s : State) (src : Src), s.takes .leaf src 0x9004 = true → exec (.fcGo src) s = .next ((s.opened .leaf src).modLeaf (fun l => if
      l.freq.mode ≠ 0 then l else if l.freq.busy then { l with freq := { l.freq with go := true } } else
      { l with freq := { l.freq with busy := true, start := gateBoundary (s.rc .leaf) } }))) ∧
  -- FC_MIN_RST accepted with one bit i: the minimum of slot i becomes all ones, and nothing else changes.
  (∀ (s : State) (src : Src) (i : Fin 16), s.takes .leaf src 0x9020 = true →
    exec (.fcMinRst src (BitVec.ofNat 16 (2 ^ i.val))) s = .next ((s.opened .leaf src).modLeaf (fun l =>
    { l with freq := { l.freq with regMin := vmod l.freq.regMin i.val (fun _ => 0xFFFFFFFFFF#40) } }))) ∧
  -- FC_GATE_END of a SINGLE gate that runs over a clock (its gate not off, no change pending, no second FC_GO): the counter is free and
  -- done, NOCLK says whether the count was 0, the next gate starts 2^G edges later.
  (∀ (s : State) (count : BitVec 40), s.held .leaf = false → s.leaf.freq.busy = true → s.leaf.gate.off.getLsbD 23 = false →
    s.leaf.freq.change = false → s.leaf.freq.mode = 0 → s.leaf.freq.go = false → s.leaf.freq.sel ≠ 0 → Does (.fcGateEnd count) s (fun t =>
    t.leaf.freq.busy = false ∧ t.leaf.freq.done = true ∧ t.leaf.freq.noclk = decide (count = 0) ∧
    t.leaf.freq.start = s.leaf.freq.start + BitVec.ofNat 64 (2 ^ s.leaf.freq.g) ∧ t.leaf.prick = s.leaf.prick ∧ SameMary s t)) ∧
  -- HOLD_GATE_END at the leaf while a domain is not OFF and the gate that ends is not valid: only HOLD's NOCLK bit changes.
  (∀ (s : State) (count : BitVec 40), s.held .leaf = false → ¬ ((s.time .leaf).domA.st = .off ∧ (s.time .leaf).domB.st = .off) →
    s.leaf.gate.off.getLsbD 23 = false → ((s.advTo .leaf (s.time .leaf).holdStop).time .leaf).holdValid = false →
    Does (.holdGateEnd count .leaf) s (fun t => t.leaf = { s.leaf with freq := { s.leaf.freq with holdNoclk := decide (count = 0) } } ∧
    t.leafN.regs = s.leafN.regs ∧ t.leafN.cells = s.leafN.cells ∧ SameMary s t)) ∧
  -- HOLD_GATE_END at the leaf with a valid gate, not the 1,024th: its count heads the last eight and the ratio is that of their sum.
  (∀ (s : State) (count : BitVec 40), s.held .leaf = false → ¬ ((s.time .leaf).domA.st = .off ∧ (s.time .leaf).domB.st = .off) →
    s.leaf.gate.off.getLsbD 23 = false → ((s.advTo .leaf (s.time .leaf).holdStop).time .leaf).holdValid = true →
    (s.leaf.freq.valid + 1) % 1024 ≠ 0 → Does (.holdGateEnd count .leaf) s (fun t => t.leaf = { s.leaf with
            freq := { s.leaf.freq with holdNoclk := decide (count = 0), gates := (count :: s.leaf.freq.gates).take 8, valid := s.leaf.freq.valid + 1, ratioHold := holdRatioOf ((count :: s.leaf.freq.gates).take 8) s.leaf.freq.ratioHold } }
      ∧ t.leafN.regs = s.leafN.regs ∧ t.leafN.cells = s.leafN.cells ∧ SameMary s t)) ∧
  -- HOLD_GATE_END at a Maryel that is no root: the same for its holdover counter when the gate is valid, otherwise nothing.
  (∀ (s : State) (count : BitVec 40), s.held .mary = false → ¬ ((s.time .mary).domA.st = .off ∧ (s.time .mary).domB.st = .off) →
    s.isRoot .mary = false → Does (.holdGateEnd count .mary) s (fun t => t.mary.hold = (if ((s.advTo .mary (s.time .mary).holdStop).time
      .mary).holdValid then {
            gates := (count :: s.mary.hold.gates).take 8, ratio := holdRatioOf ((count :: s.mary.hold.gates).take 8) s.mary.hold.ratio }
      else s.mary.hold) ∧ t.mary = { s.mary with hold := t.mary.hold } ∧ t.maryN.regs = s.maryN.regs ∧ t.maryN.cells = s.maryN.cells ∧
    t.cellar = s.cellar ∧ SameLeaf s t)) ∧
  -- EVENT_EDGE of an edge that EVT_CTL asks for, with channel 1 on, no interval started, intervals disabled and the event FIFO below 16:
  -- a record with the edge, the active domain, NOHT and FOLDING joins that FIFO.
  (∀ (s : State) (i : Fin 2) (rise : Bool) (code : Byte), s.held .leaf = false → s.ch1Off = false → (if rise then (s.fld .leaf 0x8004 (4 *
      i.val + 1) (4 * i.val) = 1 ∨ s.fld .leaf 0x8004 (4 * i.val + 1) (4 * i.val) = 3) else (s.fld .leaf 0x8004 (4 * i.val + 1) (4 *
      i.val) = 2 ∨ s.fld .leaf 0x8004 (4 * i.val + 1) (4 * i.val) = 3)) → s.leaf.evt.open_ = none → s.effFld .leaf 0x8000 1 0 = 0 →
    (if i = 0 then s.leaf.evt.fifo0 else s.leaf.evt.fifo1).length < 16 → Does (.eventEdge i rise code) s (fun t =>
    ∃ r : EvtRec, r.rise = rise ∧ r.active = (s.time .leaf).active ∧ r.noht = (s.time .leaf).noht ∧
    r.folding = (s.time .leaf).fold.isSome ∧ t.leaf.evt.fifo0 = s.leaf.evt.fifo0 ++ (if i = 0 then [r] else []) ∧
    t.leaf.evt.fifo1 = s.leaf.evt.fifo1 ++ (if i = 0 then [] else [r]) ∧ t.leaf.evt.intv = s.leaf.evt.intv ∧ t.leaf.prick = s.leaf.prick)) ∧
  -- INTV_TIMEOUT with an interval started, the interval FIFO below 16 and no statistics running: a record of value all ones with its
  -- TIMEOUT bit joins the FIFO and the interval ends.
  (∀ (s : State) (x : Int × Bool × Bool × W64), s.held .leaf = false → s.leaf.evt.open_ = some x → s.leaf.evt.intv.length < 16 →
    s.leaf.stat.run = false → Does .intvTimeout s (fun t => t.leaf.evt.open_ = none ∧ (∃ r : IntvRec, r.timeout = true ∧
    r.coarse = x.2.1 ∧ r.val = 0xFFFFFFFFFFFFFF#56 ∧ t.leaf.evt.intv = s.leaf.evt.intv ++ [r]) ∧ t.leaf.prick = s.leaf.prick))

/-- O25. What channel 0 shots and the calibration slots do. CHANNEL0_SHOT, PH_VOID, CAL1_PAIR_SLOT, CAL1_DENSITY_SLOT and DENSITY_HIT_CH0, a
clause for each form: under conditions on the state and the operands alone the command answers the next state that the clause gives.
Choices of the model where the spec is open: logs 2, 55, 111. Basis: derived (04_interpolator.md). -/
def Obligations.InterpolatorCalibration : Prop :=
  -- CHANNEL0_SHOT at an aligned cell (channel on, no request waiting): once channel 0 is free, the pair with its edge and the positions
  -- of both codes heads the 17 kept, the channel is busy for 5 edges and the cell has its phase.
  (∀ (s : State) (c : CellRef) (c1 c2 code : Byte), s.held c.node = false → (s.cell c.node c.idx).aligned = true → (c.node = .leaf →
    s.leaf.gate.off.getLsbD 21 = false) → (c.node = .mary → (s.chan c.node (chanOf c.node c.idx)).badShots < 3) →
    (s.cell c.node c.idx).stampReq = [] → Does (.channel0Shot c c1 c2 code) s (fun t => (t.chan c.node (chanOf c.node c.idx)).pairs =
      (((s.advTo c.node (s.chan c.node (chanOf c.node c.idx)).busyTo).rc c.node, s.tapPos c.node (chanOf c.node c.idx) c1.toNat, s.tapPos
      c.node (chanOf c.node c.idx) c2.toNat) :: (s.chan c.node (chanOf c.node c.idx)).pairs).take 17 ∧
    (t.chan c.node (chanOf c.node c.idx)).busyTo = (s.advTo c.node (s.chan c.node (chanOf c.node c.idx)).busyTo).rc c.node + 5 ∧
    (t.cell c.node c.idx).phase.isSome = true ∧ t.cellar = s.cellar)) ∧
  -- PH_VOID at a cell with requests: those older than 64 cycles go.
  (∀ (s : State) (c : CellRef) (r : StampReq) (l : List StampReq), s.held c.node = false → (s.cell c.node c.idx).stampReq = r :: l →
    Does (.phVoid c) s (fun t => (t.cell c.node c.idx).stampReq = (s.cell c.node c.idx).stampReq.filter (fun q =>
    !q.late ((s.advAfter c.node r.rc 65).rc c.node)) ∧ KeepsCell c s t)) ∧
  -- CAL1_PAIR_SLOT of a channel that is not off: at its next slot the pair with its edge heads the 17 kept; its histogram is as before.
  (∀ (s : State) (ch : SlotChan) (c1 c2 : Byte), s.held (slotAt ch).1 = false → s.slotOff ch = false →
    Does (.cal1PairSlot c1 c2 ch) s (fun t =>
    ∃ e, e = slotEdge (s.rc (slotAt ch).1) (s.chan (slotAt ch).1 (slotAt ch).2).pairAt (s.slotPeriod ch) 0 ∧ (t.chan (slotAt ch).1 (slotAt
      ch).2).pairs = ((e, s.tapPos (slotAt ch).1 (slotAt ch).2 c1.toNat, s.tapPos (slotAt ch).1 (slotAt ch).2 c2.toNat) :: (s.chan (slotAt
      ch).1 (slotAt ch).2).pairs).take 17 ∧ (t.chan (slotAt ch).1 (slotAt ch).2).pairAt = some e ∧
    (t.chan (slotAt ch).1 (slotAt ch).2).hist = (s.chan (slotAt ch).1 (slotAt ch).2).hist)) ∧
  -- CAL1_DENSITY_SLOT of a channel whose density slots are on: at its next slot one tap, an empty code or a full code is counted; table
  -- and pairs are as before.
  (∀ (s : State) (ch : SlotChan) (d : DensityCode), s.held (slotAt ch).1 = false → s.slotOff ch = false → s.slotDensity ch = true →
    Does (.cal1DensitySlot d ch) s (fun t => (t.chan (slotAt ch).1 (slotAt ch).2).hitAt = some (slotEdge (s.rc (slotAt ch).1) (s.chan
      (slotAt ch).1 (slotAt ch).2).hitAt (s.slotPeriod ch) (s.slotPeriod ch / 2)) ∧ (t.chan (slotAt ch).1 (slotAt ch).2).hist =
      (match d with
        | .tap x => sput (s.chan (slotAt ch).1 (slotAt ch).2).hist x.toNat ((sget (s.chan (slotAt ch).1 (slotAt ch).2).hist x.toNat).getD 0 + 1)
        | _ => (s.chan (slotAt ch).1 (slotAt ch).2).hist)
      ∧ (t.chan (slotAt ch).1 (slotAt ch).2).hEmpty = (s.chan (slotAt ch).1 (slotAt ch).2).hEmpty + (if d = .empty then 1 else 0) ∧
    (t.chan (slotAt ch).1 (slotAt ch).2).hFull = (s.chan (slotAt ch).1 (slotAt ch).2).hFull + (if d = .full then 1 else 0) ∧
    (t.chan (slotAt ch).1 (slotAt ch).2).table = (s.chan (slotAt ch).1 (slotAt ch).2).table ∧
    (t.chan (slotAt ch).1 (slotAt ch).2).pairs = (s.chan (slotAt ch).1 (slotAt ch).2).pairs)) ∧
  -- DENSITY_HIT_CH0 of a channel that is not off: one tap, an empty or a full code is counted; table and pairs are as before.
  (∀ (s : State) (ch : Ch0Ref) (d : DensityCode), s.held (ch0Node ch) = false → (ch = .leaf → s.leaf.gate.off.getLsbD 21 = false) →
    Does (.densityHitCh0 ch d) s (fun t => ∃ j, j = (match ch with | .leaf => 0 | .group g => g.val) ∧ (t.chan (ch0Node ch) j).hist =
      (match d with
        | .tap x => sput (s.chan (ch0Node ch) j).hist x.toNat ((sget (s.chan (ch0Node ch) j).hist x.toNat).getD 0 + 1)
        | _ => (s.chan (ch0Node ch) j).hist)
      ∧ (t.chan (ch0Node ch) j).hEmpty = (s.chan (ch0Node ch) j).hEmpty + (if d = .empty then 1 else 0) ∧
    (t.chan (ch0Node ch) j).hFull = (s.chan (ch0Node ch) j).hFull + (if d = .full then 1 else 0) ∧
    (t.chan (ch0Node ch) j).table = (s.chan (ch0Node ch) j).table ∧ (t.chan (ch0Node ch) j).pairs = (s.chan (ch0Node ch) j).pairs))

/-- O26. What probes, echoes and their timeouts do. PROBE_SEND, DELAY_PROBE_RX, ECHO_TX, DELAY_ECHO_RX and PROBE_TMO_EXPIRY, a clause for
each form: under conditions on the state and the operands alone the command answers the next state that the clause gives. Choices of the
model where the spec is open: logs 2, 93. Basis: derived (05_path_delay.md). -/
def Obligations.DelayProbes : Prop :=
  -- PROBE_SEND at a cell in DELAY or ACTIVE that sends, with HT and fewer than eight probes out: a probe is due under the next id, and
  -- no counter changes.
  (∀ (s : State) (c : CellRef) (cs : CorrSet) (h : Nat), s.held c.node = false → s.portSet c.node c.idx = some cs →
    (s.nextFrame c.node c.idx).2 = some h → (s.cell c.node c.idx).ts = .delay ∨ (s.cell c.node c.idx).ts = .active →
    (s.cell c.node c.idx).sends = true → (s.cell c.node c.idx).dly.outst.length + b01 (s.cell c.node c.idx).dly.probeDue.isSome < 8 →
    Does (.probeSend c) s (fun t => (t.cell c.node c.idx).dly = { (s.cell c.node c.idx).dly with
            probeDue := some (s.cell c.node c.idx).dly.probeId, probeId := (s.cell c.node c.idx).dly.probeId + 1 } ∧
    (∀ k o, t.count k o = s.count k o) ∧ KeepsCell c s t)) ∧
  -- PROBE_SEND with eight out: the cell is as before and its counter goes up by one.
  (∀ (s : State) (c : CellRef) (cs : CorrSet) (h : Nat), s.held c.node = false → s.portSet c.node c.idx = some cs →
    (s.nextFrame c.node c.idx).2 = some h → (s.cell c.node c.idx).ts = .delay ∨ (s.cell c.node c.idx).ts = .active →
    (s.cell c.node c.idx).sends = true → (s.cell c.node c.idx).dly.outst.length + b01 (s.cell c.node c.idx).dly.probeDue.isSome ≥ 8 →
    Does (.probeSend c) s (fun t => t.cell c.node c.idx = s.cell c.node c.idx ∧
    t.count c.node (cOff c.node c.idx 0x134) = satInc (s.count c.node (cOff c.node c.idx 0x134)) ∧ KeepsCell c s t)) ∧
  -- DELAY_PROBE_RX, whatever its reserved bits, at an aligned cell with the probe's stamp measured and fewer than four echoes waiting:
  -- an echo with that stamp waits.
  (∀ (s : State) (c : CellRef) (id : Byte) (rsv : BitVec 40) (t2 : Stamp), s.held c.node = false → (s.cell c.node c.idx).aligned = true →
    (s.cell c.node c.idx).stampFor false = some (some t2) → (s.cell c.node c.idx).dly.echoes.length < 4 →
    exec (.delayProbeRx c id rsv) s = .next ((s.modCell c.node c.idx (fun x =>
    { x with stamps := x.stamps.eraseP (fun p => p.1 == false) })).modDly c.node c.idx (fun d =>
    { d with echoes := d.echoes ++ [{ id := id, t2 := t2 }] }))) ∧
  -- DELAY_PROBE_RX whose stamp is void, or with four waiting: no echo; ECHO_VOID or ECHO_DROP goes up by one.
  (∀ (s : State) (c : CellRef) (id : Byte) (rsv : BitVec 40) (st : Option Stamp), s.held c.node = false →
    (s.cell c.node c.idx).aligned = true → (s.cell c.node c.idx).stampFor false = some st →
    st = none ∨ (s.cell c.node c.idx).dly.echoes.length ≥ 4 → exec (.delayProbeRx c id rsv) s = .next ((s.modCell c.node c.idx (fun x =>
    { x with stamps := x.stamps.eraseP (fun p => p.1 == false) })).bump c.node (cOff c.node c.idx (if st = none then 0x140 else 0x13C)))) ∧
  -- ECHO_TX at a cell that sends, with an echo waiting, at a frame that neither announces nor is barred by C3, within the limit: the
  -- echo with its turn takes the frame.
  (∀ (s : State) (c : CellRef) (e : Echo) (es : List Echo) (b n : Nat), s.held c.node = false → (s.cell c.node c.idx).aligned = true →
    (s.cell c.node c.idx).sends = true → (s.cell c.node c.idx).dly.echoes = e :: es → (s.nextFrame c.node c.idx).2 = some b →
    ((s.cell c.node c.idx).announce (some b)).isSome = false → s.barC3 c.node c.idx b = false →
    s.turnOf c.node c.idx e (s.nextFrame c.node c.idx).1 = some n → exec (.echoTx c) s = .next (s.modCell c.node c.idx (fun c =>
    { c with echoq := [echoTok e.id n] }))) ∧
  -- ECHO_TX in the same place beyond the limit: the echo is dropped and counted.
  (∀ (s : State) (c : CellRef) (e : Echo) (es : List Echo) (b : Nat), s.held c.node = false → (s.cell c.node c.idx).aligned = true →
    (s.cell c.node c.idx).sends = true → (s.cell c.node c.idx).dly.echoes = e :: es → (s.nextFrame c.node c.idx).2 = some b →
    ((s.cell c.node c.idx).announce (some b)).isSome = false → s.barC3 c.node c.idx b = false →
    s.turnOf c.node c.idx e (s.nextFrame c.node c.idx).1 = none → exec (.echoTx c) s = .next ((s.modDly c.node c.idx (fun d =>
    { d with echoes := es })).bump c.node (cOff c.node c.idx 0x138))) ∧
  -- DELAY_ECHO_RX, whatever its reserved bits, at an aligned cell of a probe that is out, its stamp measured, the first sample and
  -- within the span limit: the filter holds the round trip less the turn as its first sample, the probe is no longer out, and a cell in
  -- DELAY goes ACTIVE.
  (∀ (s : State) (c : CellRef) (id : Byte) (turn : W32) (rsv : Byte) (t4 : Stamp) (p : Probe), s.held c.node = false →
    (s.cell c.node c.idx).aligned = true → (s.cell c.node c.idx).dly.outst.find? (fun p => decide (p.id = id)) = some p →
    (s.cell c.node c.idx).stampFor true = some (some t4) → (s.cell c.node c.idx).dly.n = 0 →
    (let σ := s.interval c.node (s.cell c.node c.idx).cfg.dom p.t1 t4 - (turn.toNat : Int); 0 < σ →
    σ ≤ ((s.effFldD c.node (s.cell c.node c.idx).cfg.dom (tOff c.node 0x1128) 9 0 * 1000 * 65536 : Nat) : Int) →
    Does (.delayEchoRx c id turn rsv) s (fun t => (t.cell c.node c.idx).dly.n = 1 ∧ (t.cell c.node c.idx).dly.sf = σ ∧
    (t.cell c.node c.idx).dly.outst = (s.cell c.node c.idx).dly.outst.filter (fun q => !decide (q.id = id)) ∧
    (t.cell c.node c.idx).ts = (if (s.cell c.node c.idx).ts = .delay then .active else (s.cell c.node c.idx).ts) ∧ KeepsCell c s t))) ∧
  -- DELAY_ECHO_RX whose stamp is void or whose round trip is not positive or over the limit: the probe is no longer out, the filter
  -- stays, DLY_VOID goes up by one.
  (∀ (s : State) (c : CellRef) (id : Byte) (turn : W32) (rsv : Byte) (t4 : Option Stamp) (p : Probe), s.held c.node = false →
    (s.cell c.node c.idx).aligned = true → (s.cell c.node c.idx).dly.outst.find? (fun p => decide (p.id = id)) = some p →
    (s.cell c.node c.idx).stampFor true = some t4 → (∀ t, t4 = some t →
    let σ := s.interval c.node (s.cell c.node c.idx).cfg.dom p.t1 t - (turn.toNat : Int);
    σ ≤ 0 ∨ σ > ((s.effFldD c.node (s.cell c.node c.idx).cfg.dom (tOff c.node 0x1128) 9 0 * 1000 * 65536 : Nat) : Int)) →
    Does (.delayEchoRx c id turn rsv) s (fun t => (t.cell c.node c.idx).dly.n = (s.cell c.node c.idx).dly.n ∧
    (t.cell c.node c.idx).dly.sf32 = (s.cell c.node c.idx).dly.sf32 ∧
    (t.cell c.node c.idx).dly.outst = (s.cell c.node c.idx).dly.outst.filter (fun q => !decide (q.id = id)) ∧
    (t.cell c.node c.idx).ts = (s.cell c.node c.idx).ts ∧
    t.count c.node (cOff c.node c.idx 0x148) = satInc (s.count c.node (cOff c.node c.idx 0x148)) ∧ KeepsCell c s t)) ∧
  -- DELAY_ECHO_RX of no probe that is out: the stamp is dropped and its counter goes up by one.
  (∀ (s : State) (c : CellRef) (id : Byte) (turn : W32) (rsv : Byte), s.held c.node = false → (s.cell c.node c.idx).aligned = true →
    (s.cell c.node c.idx).dly.outst.find? (fun p => decide (p.id = id)) = none →
    exec (.delayEchoRx c id turn rsv) s = .next ((((s.modCell c.node c.idx (fun x =>
    { x with stamps := x.stamps.eraseP (fun p => p.1 == true) })).bump c.node (cOff c.node c.idx 0x144))).convRefresh c.node)) ∧
  -- PROBE_TMO_EXPIRY of a probe that is out: it is no longer, the filter stays, DLY_VOID goes up by one.
  (∀ (s : State) (c : CellRef) (id : Byte) (p : Probe), s.held c.node = false → (s.cell c.node c.idx).dly.outst.find? (fun p =>
    decide (p.id = id)) = some p → Does (.probeTmoExpiry c id) s (fun t =>
    (t.cell c.node c.idx).dly.outst = (s.cell c.node c.idx).dly.outst.filter (fun q => !decide (q.id = id)) ∧
    (t.cell c.node c.idx).dly.sf32 = (s.cell c.node c.idx).dly.sf32 ∧
    t.count c.node (cOff c.node c.idx 0x148) = satInc (s.count c.node (cOff c.node c.idx 0x148)) ∧ KeepsCell c s t))

/-- O27. What asymmetry changes, trend records, telemetry and the plan command do. ASYM_SWAP, DELAY_TREND_SEND, TELEMETRY_RX and PLAN_CMD, a
clause for each form: under conditions on the state and the operands alone the command answers the next state that the clause gives.
Choices of the model where the spec is open: logs 2, 96. Basis: derived (05_path_delay.md, 12_failures.md). -/
def Obligations.DelayRecords : Prop :=
  -- ASYM_SWAP accepted at a leaf cell: the register takes the value and the swap is pending, and nothing else changes.
  (∀ (s : State) (c : Fin 6) (src : Src) (v : W32), s.takes .leaf src (cOff .leaf c.val 0x40) = true →
    exec (.asymSwap (.leaf c) src v) s = .next (((s.opened .leaf src).setReg .leaf (cOff .leaf c.val 0x40) v).modDly .leaf c.val (fun d =>
    { d with swapPend := true }))) ∧
  -- DELAY_TREND_SEND at an UP or CROSS cell of a leaf that is no root, with a record due: the record goes up, and is no longer due.
  (∀ (s : State) (c : Fin 6), s.held .leaf = false → (s.cell .leaf c.val).cfg.role = 1 ∨ (s.cell .leaf c.val).cfg.role = 3 →
    (s.cell .leaf c.val).dly.trendDue = true → s.isRoot .leaf = false → exec (.delayTrendSend (.leaf c)) s = .next ((s.sendOwnC3 .leaf
      (s.cell .leaf c.val).cfg.dom (teleToks (s.trendRec .leaf c.val))).modDly .leaf c.val (fun d =>
    { d with trendDue := false, trendAt := s.rc .leaf }))) ∧
  -- TELEMETRY_RX of kinds 1, 3 and 4 at an ACTIVE DOWN cell of a leaf that is no root: it is passed up unchanged.
  (∀ (s : State) (c : Fin 6) (r : TeleRec), s.held .leaf = false → (s.cell .leaf c.val).ts = .active → (s.cell .leaf c.val).cfg.role = 2 →
    (r.kind = 1 ∨ r.kind = 3 ∨ r.kind = 4) → s.isRoot .leaf = false →
    exec (.telemetryRx (.leaf c) r) s = .next (s.passUpC3 .leaf c.val (teleToks r))) ∧
  -- PLAN_CMD accepted at a root: the planned flight is the largest known, GUARD_ADD and DEADLINE_ADD are 0 and ADV_FLIGHT is cleared.
  (∀ (s : State) (n : NodeSel) (src : Src), s.takes n src 0x7F020 = true → s.isRoot n = true → Does (.planCmd n src) s (fun t =>
    (t.root n).flightPlan = some (s.flightMax n) ∧ (t.root n).guardAdd = 0 ∧ (t.root n).deadlineAdd = 0 ∧ (t.root n).advFlight = false ∧
    t.leaf = s.leaf ∧ t.cellar = s.cellar))

/-- O28. What the compute reset of a port, the gates and the reference clock do. COMPUTE_RESET_ASSERT, COMPUTE_RESET_RELEASE, GATE_CTL,
REFCLK_LOST and REFCLK_RETURN, a clause for each form: under conditions on the state and the operands alone the command answers the next
state that the clause gives. Choices of the model where the spec is open: logs 88, 113. Basis: derived (06_region_port.md,
14_references_and_holdover.md). -/
def Obligations.PortResets : Prop :=
  -- COMPUTE_RESET_ASSERT at a port with empty queues: rp_cr_n falls; strobe, picot, correction, outcome and refusal signals fall, beats
  -- left are counted as lost, lanes queued go and the anchor is void; other ports are as before.
  (∀ (s : State) (p : Fin 16), s.held .leaf = false → (s.region p.val).crN = true → (s.region p.val).queue = [] →
    (s.region p.val).wait = [] → Does (.computeResetAssert p) s (fun t => t.region p.val = { s.region p.val with
            crN := false, launch := false, picot := false, corrVld := false, hcErr := false, hoVld := false, beats := [], hcq := [],
              hcGap := false, anchor := none, corrOpen := none, corrOk := false } ∧ t.count .leaf (rOff p.val 0x20) = (if (s.region
      p.val).beats.length = 0 then s.count .leaf (rOff p.val 0x20) else satAdd (s.count .leaf (rOff p.val 0x20)) (s.region
      p.val).beats.length) ∧ (∀ q, q ≠ p.val → t.region q = s.region q) ∧ t.leafN.regs = s.leafN.regs ∧ t.leafN.cells = s.leafN.cells ∧
    t.leafN.time = s.leafN.time ∧ t.leaf.prick = s.leaf.prick ∧ SameMary s t)) ∧
  -- COMPUTE_RESET_RELEASE: rp_cr_n rises, and nothing else changes.
  (∀ (s : State) (p : Fin 16), s.held .leaf = false → exec (.computeResetRelease p) s = .next (s.modRegion p.val (fun r =>
    { r with crN := true }))) ∧
  -- GATE_CTL written 1 where region 0 may be gated: its gate is pending.
  (∀ (s : State) (src : Src), s.takes .leaf src 0xD000 = true → s.gateWhy 0 = 0 → s.leaf.gate.off.getLsbD 0 = false →
    Does (.gateCtl src 1) s (fun t => t.leaf.gate.off = 0 ∧ t.leaf.gate.pend = 1 ∧ t.leaf.regions = s.leaf.regions ∧ SameMary s t)) ∧
  -- GATE_CTL written 1 where it may not: the bit and its reason show, the refusal is counted and no gate is pending.
  (∀ (s : State) (src : Src), s.takes .leaf src 0xD000 = true → s.gateWhy 0 ≠ 0 → s.leaf.gate.off.getLsbD 0 = false →
    Does (.gateCtl src 1) s (fun t => t.leaf.gate.off = 0 ∧ t.leaf.gate.pend = 0 ∧ t.leaf.gate.refused.getLsbD 0 = true ∧
    t.leaf.gate.why = BitVec.ofNat 3 (s.gateWhy 0) ∧ t.count .leaf 0xD014 = satInc (s.count .leaf 0xD014) ∧
    t.leaf.regions = s.leaf.regions ∧ SameMary s t)) ∧
  -- REFCLK_LOST at a leaf that runs: REFCLK is lost, TCLK stops unless the PLL holds over, the event bit is set, the anchors are void
  -- when TCLK stops; RC and HT stay.
  (∀ (s : State), s.held .leaf = false → Does .refclkLost s (fun t => (t.time .leaf).refclk = false ∧
    (t.time .leaf).tclk = ((s.time .leaf).tclk && decide ((s.time .leaf).pll ≠ .refclk)) ∧ (t.time .leaf).evt.getLsbD 7 = true ∧
    t.leaf.freq.holdNoclk = true ∧ t.leaf.regions = (if (s.time .leaf).pll = .refclk then s.leaf.regions.map (fun r =>
    { r with anchor := none }) else s.leaf.regions) ∧ t.rc .leaf = s.rc .leaf ∧ t.ht .leaf = s.ht .leaf ∧ t.leafN.regs = s.leafN.regs ∧
    t.leafN.cells = s.leafN.cells ∧ t.leaf.prick = s.leaf.prick ∧ SameMary s t)) ∧
  -- REFCLK_LOST at a leaf in reset: the clock is off.
  (∀ (s : State), s.held .leaf = true → exec .refclkLost s = .next (s.modTime .leaf (fun t => { t with refclk := false, tclk := false }))) ∧
  -- REFCLK_RETURN: REFCLK and TCLK run.
  (∀ (s : State), exec .refclkReturn s = .next (s.modTime .leaf (fun t => { t with refclk := true, tclk := true })))

/-- O29. What strobes, picots, tallies, levels and outcomes do at a region port. STROBE_LANDING, RP_LAND_TMO, PICOT_LANDING,
TALLY_CORRECTION, THROTTLE_EFFECT and OUTCOME_DELIVERY, a clause for each form: under conditions on the state and the operands alone the
command answers the next state that the clause gives. Choices of the model where the spec is open: logs 2, 89, 113. Basis: derived
(06_region_port.md, 04_interpolator.md, 09_numerics_and_seeds.md). -/
def Obligations.PortLandings : Prop :=
  -- STROBE_LANDING at a port that is not quiet, with a strobe at the head that has not expired, at a region edge not used by a landing:
  -- the strobe's kind and argument show, step and seed for the kinds that carry them, the vintage when it is higher; the tally counts
  -- the edges and the landing record is filed.
  (∀ (s : State) (p : Fin 16) (e : RpEdge) (x : Strobe) (q : List Strobe), s.held .leaf = false → (s.time .leaf).tclk = true →
    (s.region p.val).queue = x :: q → s.portQuiet p.val = false → x.expired (s.rc .leaf) = false →
    (s.region p.val).landTally ≠ some ((s.region p.val).tally + e.edges) → Does (.strobeLanding p e) s (fun t =>
    (t.region p.val).launch = true ∧ (t.region p.val).kind = x.kind ∧ (t.region p.val).arg = x.arg ∧
    (t.region p.val).tally = (s.region p.val).tally + e.edges ∧ (t.region p.val).landTally = some ((s.region p.val).tally + e.edges) ∧
    (t.region p.val).step = (if x.kind = 1 ∨ x.kind = 3 then x.step else (s.region p.val).step) ∧
    (t.region p.val).seed = (if x.kind = 1 ∨ x.kind = 3 then x.seed else (s.region p.val).seed) ∧
    (t.region p.val).vintage = (if x.kind = 2 ∧
    (s.region p.val).vintage.toNat < bitsOf x.arg 31 0 then x.arg.extractLsb' 0 32 else (s.region p.val).vintage) ∧
    (t.region p.val).land.getLast? = some ((s.landFrom x.entered e.pos).landRec e.pos x.kind ((s.region p.val).tally + e.edges)) ∧
    t.rc .leaf = (s.landFrom x.entered e.pos).rc .leaf ∧ (∀ r, r ≠ p.val → t.region r = s.region r) ∧ t.leaf.prick = s.leaf.prick ∧
    t.leafN.regs = s.leafN.regs ∧ t.leafN.cells = s.leafN.cells ∧ SameMary s t)) ∧
  -- RP_LAND_TMO with a strobe at the head that opens no hoop: it is dropped and counted, the landing bit is set, the anchor is void and
  -- the port's signals and tally stay.
  (∀ (s : State) (p : Fin 16) (x : Strobe) (q : List Strobe), s.held .leaf = false → (s.region p.val).queue = x :: q → x.kind ≠ 4 →
    Does (.rpLandTmo p) s (fun t => t.count .leaf (rOff p.val 0x18) = satInc (s.count .leaf (rOff p.val 0x18)) ∧
    (t.region p.val).launch = (s.region p.val).launch ∧ (t.region p.val).kind = (s.region p.val).kind ∧
    (t.region p.val).arg = (s.region p.val).arg ∧ (t.region p.val).land = (s.region p.val).land ∧ (t.region p.val).anchor = none ∧
    (t.region p.val).tally = (s.region p.val).tally ∧ t.leaf.landStat.getLsbD p.val = true ∧ (∀ r, r ≠ p.val → t.region r = s.region r) ∧
    t.leaf.prick = s.leaf.prick ∧ t.leafN.regs = s.leafN.regs ∧ t.leafN.cells = s.leafN.cells ∧ SameMary s t)) ∧
  -- PICOT_LANDING at a port that is not quiet, with a picot due: the tally counts the edges, rp_picot shows, the landing stamp is the
  -- anchor and a correction opens from the anchor before when it follows it.
  (∀ (s : State) (p : Fin 16) (e : RpEdge) (g : W64), s.held .leaf = false → (s.time .leaf).tclk = true → s.portQuiet p.val = false →
    (s.region p.val).picotDue = some g → Does (.picotLanding p e) s (fun t => (t.region p.val).tally = (s.region p.val).tally + e.edges ∧
    (t.region p.val).picot = true ∧ (t.region p.val).picotDue = none ∧
    (t.region p.val).anchor = some ((s.region p.val).tally + e.edges, landStamp ((s.landFrom g e.pos).edgeHt e.pos)) ∧ (t.region
      p.val).corrOpen =
      (match (s.region p.val).anchor with
        | some (a0, h0) => if followsAnchor (landStamp ((s.landFrom g e.pos).edgeHt e.pos)) h0 then some ((s.region p.val).tally + e.edges, landStamp ((s.landFrom g e.pos).edgeHt e.pos), a0, h0) else none
        | none => none)
      ∧ (t.region p.val).tbEff = (s.reg .leaf 0xD010).getLsbD p.val ∧ t.rc .leaf = (s.landFrom g e.pos).rc .leaf ∧ (∀ r, r ≠ p.val →
    t.region r = s.region r) ∧ t.leaf.prick = s.leaf.prick ∧ t.leafN.regs = s.leafN.regs ∧ t.leafN.cells = s.leafN.cells ∧ SameMary s t)) ∧
  -- TALLY_CORRECTION with a correction open over at least one edge: A, H and Q are presented and the correction closes; only this port
  -- changes.
  (∀ (s : State) (p : Fin 16) (e : RpEdge) (a a0 : BitVec 48) (h h0 : Nat), s.held .leaf = false → (s.time .leaf).tclk = true →
    s.portQuiet p.val = false → (s.region p.val).corrOpen = some (a, h, a0, h0) → a ≠ a0 → Does (.tallyCorrection p e) s (fun t =>
    (t.region p.val).corr = { a := a, h := htOf (h * 2 ^ 24), q := BitVec.ofNat 36 ((h - h0) * 2 ^ 16 / (a - a0).toNat) } ∧
    (t.region p.val).corrVld = true ∧ (t.region p.val).corrOk = true ∧ (t.region p.val).corrOpen = none ∧
    (t.region p.val).tally = (s.region p.val).tally + e.edges ∧ OnlyRegion p s t)) ∧
  -- THROTTLE_EFFECT at a port that is not gated: its level is the larger one of the port's sources; other ports are as before.
  (∀ (s : State) (p : Fin 16) (e : RpEdge), s.held .leaf = false → s.gated p.val = false → Does (.throttleEffect p e) s (fun t =>
    (t.region p.val).thrOut = t.thrMax p.val ∧ (∀ q, q ≠ p.val → t.region q = s.region q) ∧ t.leaf.prick = s.leaf.prick ∧
    t.leaf.slots = s.leaf.slots ∧ t.leafN.regs = s.leafN.regs ∧ SameMary s t)) ∧
  -- OUTCOME_DELIVERY at a port that is not quiet and presents none, with an outcome queued: its first beat shows and the rest follow.
  (∀ (s : State) (p : Fin 16) (e : RpEdge) (o : PortOut) (q : List PortOut) (b : Beat) (l : List Beat), s.held .leaf = false →
    (s.region p.val).hoq = o :: q → o.beats = b :: l → s.portQuiet p.val = false → (s.region p.val).hoVld = false →
    Does (.outcomeDelivery p e) s (fun t => (t.region p.val).hoq = q ∧ (t.region p.val).hoVld = true ∧ (t.region p.val).ho = b ∧
    (t.region p.val).beats = l ∧ (t.region p.val).tally = (s.region p.val).tally + e.edges ∧ (∀ r, r ≠ p.val → t.region r = s.region r) ∧
    t.leaf.prick = s.leaf.prick ∧ t.leafN.regs = s.leafN.regs ∧ t.leafN.cells = s.leafN.cells ∧ SameMary s t)) ∧
  -- OUTCOME_DELIVERY at one region edge with beats left: the next beat shows.
  (∀ (s : State) (p : Fin 16) (pos : Fin 16) (b : Beat) (l : List Beat), s.held .leaf = false → (s.region p.val).hoq = [] →
    s.gated p.val = false → s.leaf.fatal = false → (s.region p.val).hoVld = true → (s.region p.val).beats = b :: l →
    Does (.outcomeDelivery p { pos := pos, edges := 1 }) s (fun t => (t.region p.val).hoVld = true ∧ (t.region p.val).ho = b ∧
    (t.region p.val).beats = l ∧ (t.region p.val).tally = (s.region p.val).tally + 1 ∧ OnlyRegion p s t)) ∧
  -- OUTCOME_DELIVERY while rp_cr_n is low: the outcome is dropped and its beats are counted as lost.
  (∀ (s : State) (p : Fin 16) (e : RpEdge) (o : PortOut) (q : List PortOut), s.held .leaf = false → (s.region p.val).hoq = o :: q →
    s.gated p.val = false → s.leaf.fatal = false → (s.region p.val).crN = false → Does (.outcomeDelivery p e) s (fun t =>
    (t.region p.val).hoq = q ∧ (t.region p.val).ho = (((s.region p.val).count e.edges).ho) ∧
    t.count .leaf (rOff p.val 0x20) = satAdd (s.count .leaf (rOff p.val 0x20)) o.beats.length ∧ (∀ r, r ≠ p.val →
    t.region r = s.region r) ∧ t.leaf.prick = s.leaf.prick ∧ t.leafN.regs = s.leafN.regs ∧ SameMary s t))

/-- O30. What installs, arms, guards, miss marks and firings do. PRICK_INSTALL_RX, ARM_RX, GUARD_CHECK, MISS_MARK_SEND and FIRING, a clause
for each form: under conditions on the state and the operands alone the command answers the next state that the clause gives. Choices of
the model where the spec is open: logs 2, 23, 24, 31. Basis: derived (07_pricking_and_launch.md). -/
def Obligations.PrickingInstallAndFire : Prop :=
  -- PRICK_INSTALL_RX at an ACTIVE UP cell of a leaf bound to its SD and GEN, addressed to it, with an install image of that SD not taken
  -- before: the image is noted as taken, and the Maryel is as before.
  (∀ (s : State) (c : Fin 6) (m : InstallMsg) (b : Binding), s.held .leaf = false → (s.cell .leaf c.val).ts = .active →
    (s.cell .leaf c.val).cfg.role = 1 → s.leaf.binding = some b → b.sd = m.head.sd → b.gen = m.head.gen →
    (m.head.all = true ∨ m.head.dest = s.nodeId .leaf) → imgOp m.image = false → imgSd m.image = m.head.sd →
    (m.head.gen, m.batch, imgEidx m.image) ∉ s.leaf.prick.taken → Does (.prickInstallRx (.leaf c) m) s (fun t =>
    t.leaf.prick.taken = s.leaf.prick.taken ++ [(m.head.gen, m.batch, imgEidx m.image)] ∧ SameMary s t)) ∧
  -- PRICK_INSTALL_RX at an ACTIVE UP cell of a Maryel: it is passed on by the rules for C2 messages.
  (∀ (s : State) (c : Fin 100) (m : InstallMsg), s.held .mary = false → (s.cell .mary c.val).ts = .active →
    (s.cell .mary c.val).cfg.role = 1 → exec (.prickInstallRx (.mary c) m) s = .next (s.passC2 .mary c.val m.head (installToks m))) ∧
  -- ARM_RX at an ACTIVE UP cell of a leaf bound to its SD and GEN, the batch not late, no read error and no mark owed: every entry of
  -- the batch is armed by that cell's domain, and nothing else of the leaf changes.
  (∀ (s : State) (c : Fin 6) (sd : Sd) (g : Gen) (b : Batch) (x : Binding), s.held .leaf = false → (s.cell .leaf c.val).ts = .active →
    (s.cell .leaf c.val).cfg.role = 1 → s.leaf.binding = some x → x.sd = sd → x.gen = g → b ∉ s.leaf.prick.lateBatch →
    s.leaf.prick.marks = [] → s.leaf.prick.pending = false → Does (.armRx (.leaf c) sd g b []) s (fun t => t.leaf = { s.leaf with
            prick := { s.leaf.prick with entries := s.leaf.prick.entries.map (fun e => if e.batch = b then e.arm (s.cell .leaf c.val).cfg.dom else e) } }
      ∧ SameMary s t)) ∧
  -- ARM_RX of a late batch: ARM_LATE goes up by one and the leaf is as before.
  (∀ (s : State) (c : Fin 6) (sd : Sd) (g : Gen) (b : Batch) (errs : List PrkErr) (x : Binding), s.held .leaf = false →
    (s.cell .leaf c.val).ts = .active → (s.cell .leaf c.val).cfg.role = 1 → s.leaf.binding = some x → x.sd = sd → x.gen = g →
    b ∈ s.leaf.prick.lateBatch → Does (.armRx (.leaf c) sd g b errs) s (fun t => t.leaf = s.leaf ∧
    t.count .leaf 0xA10C = satInc (s.count .leaf 0xA10C) ∧ SameMary s t)) ∧
  -- ARM_RX at an ACTIVE UP cell of a Maryel: it is passed to every member port.
  (∀ (s : State) (c : Fin 100) (sd : Sd) (g : Gen) (b : Batch) (errs : List PrkErr), s.held .mary = false →
    (s.cell .mary c.val).ts = .active → (s.cell .mary c.val).cfg.role = 1 → exec (.armRx (.mary c) sd g b errs) s = .next (s.sendC0All
      .mary (s.memberPorts .mary (s.cell .mary c.val).cfg.dom sd) [armTok sd g b])) ∧
  -- GUARD_CHECK of the only entry, armed by both domains, at its guard edge, with no mark, outcome or halt due: the entry is judged and
  -- stays.
  (∀ (s : State) (e : Entry), s.held .leaf = false → s.leaf.prick.entries = [e] → e.judged = false → e.armA = true → e.armB = true →
    e.guardAt * nsTu ≤ (s.advHt .leaf (e.guardAt * nsTu)).ht .leaf → s.leaf.prick.marks = [] → s.leaf.prick.pending = false →
    (∀ i, (s.slot i).taken = none) → s.leaf.prick.halts = [] → Does .guardCheck s (fun t =>
    t.leaf = { s.leaf with prick := { s.leaf.prick with entries := [{ e with judged := true }] } } ∧ SameMary s t)) ∧
  -- GUARD_CHECK of the only entry, armed by neither domain and no hoop opening, at an unbound leaf with room in MISS: the entry goes
  -- with its batch late, a miss record is filed, a mark is pending and the interrupt bit is set.
  (∀ (s : State) (e : Entry), s.held .leaf = false → s.leaf.prick.entries = [e] → e.judged = false → e.armA = false → e.armB = false →
    imgKind e.image ≠ 4 → e.guardAt * nsTu ≤ (s.advHt .leaf (e.guardAt * nsTu)).ht .leaf → s.leaf.prick.marks = [] →
    s.leaf.prick.miss.length < 16 → s.leaf.binding = none → (∀ i, (s.slot i).taken = none) → s.leaf.prick.halts = [] →
    Does .guardCheck s (fun t => t.leaf.prick.entries = [] ∧ e.batch ∈ t.leaf.prick.lateBatch ∧
    t.leaf.prick.miss = s.leaf.prick.miss ++ [missOf e 0] ∧ t.leaf.prick.pending = true ∧ t.leafN.irq.getLsbD 6 = true ∧ SameMary s t)) ∧
  -- MISS_MARK_SEND with a mark pending and a slot that owes one: the mark goes for that slot's hoop and is no longer pending.
  (∀ (s : State) (b : Binding) (i : Nat), s.held .leaf = false → s.leaf.prick.marks = [] → s.leaf.prick.pending = true →
    s.leaf.fatal = false → s.leaf.binding = some b → s.firstOwed b.sd = some i →
    exec .missMarkSend s = .next ((s.leafMissed b.sd (s.slot i).hoopId b.gen).modPrick (fun p => { p with pending := false }))) ∧
  -- MISS_MARK_SEND with nothing pending: nothing changes.
  (∀ (s : State), s.held .leaf = false → s.leaf.prick.marks = [] → s.leaf.prick.pending = false → exec .missMarkSend s = .next s) ∧
  -- FIRING of the only entry, armed, judged and its tick reached, a flip that does not repeat: the entry goes and the leaf's vintage is
  -- the argument's.
  (∀ (s : State) (b : Binding) (e : Entry), s.held .leaf = false → s.leaf.binding = some b → s.leaf.prick.entries = [e] → e.armed = true →
    e.judged = true → e.tick * nsTu ≤ (s.advHt .leaf (e.tick * nsTu)).ht .leaf → imgKind e.image = 1 → imgRepCnt e.image = 0 →
    e.fired = 0 → s.leaf.prick.marks = [] → s.leaf.prick.pending = false → (∀ i, (s.slot i).taken = none) → s.leaf.prick.halts = [] →
    Does (.firing []) s (fun t => t.leaf.prick = { s.leaf.prick.afterFire e with vintage := (imgArg e.image).extractLsb' 0 32 } ∧
    t.leaf.prick.entries = [] ∧ SameMary s t)) ∧
  -- FIRING of such an entry of kind 5 for one port whose rp_cr_n is high: the strobe enters that port at the firing edge.
  (∀ (s : State) (b : Binding) (e : Entry) (p : Fin 16), s.held .leaf = false → s.leaf.binding = some b → s.leaf.prick.entries = [e] →
    e.armed = true → e.judged = true → e.tick * nsTu ≤ (s.advHt .leaf (e.tick * nsTu)).ht .leaf → imgKind e.image = 5 →
    bitsSet (imgPorts e.image) = [p.val] → (s.region p.val).crN = true → s.leaf.prick.marks = [] → s.leaf.prick.pending = false →
    (∀ i, (s.slot i).taken = none) → s.leaf.prick.halts = [] → Does (.firing []) s (fun t => t.leaf.prick = s.leaf.prick.afterFire e ∧
      t.region p.val = Region.takeIn { s.region p.val with
            wait := (s.region p.val).wait ++ [{ e.strobe 5 (imgArgAt e.image e.fired) 0 true with entered := t.rc .leaf }] } (t.rc .leaf)
      ∧ SameMary s t))

/-- O31. What scrubbing, the fatal latch and throttle levels do. PRK_SCRUB, PRK_FATAL_CLR, THROTTLE_RX, CAPREQ_EDGE, CAP_RELEASE and
THR_CMD, a clause for each form: under conditions on the state and the operands alone the command answers the next state that the clause
gives. Choices of the model where the spec is open: logs 99, 114. Basis: derived (07_pricking_and_launch.md). -/
def Obligations.PrickingCare : Prop :=
  -- THROTTLE_RX at an ACTIVE UP cell of the leaf not more than 2^31 ns ahead: the level waits for its HT.
  (∀ (s : State) (c : Fin 6) (level : BitVec 3) (cap : Bool) (seq : Byte) (ns : W32), s.held .leaf = false →
    (s.cell .leaf c.val).ts = .active → (s.cell .leaf c.val).cfg.role = 1 →
    resolveMod 32 (s.htNs .leaf) ns.toNat - s.htNs .leaf ≤ 2 ^ 31 → Does (.throttleRx (.leaf c) level cap seq ns) s (fun t =>
    t.leaf = { s.leaf with thrToks := s.leaf.thrToks ++ [(resolveMod 32 (s.htNs .leaf) ns.toNat, level)] } ∧ SameMary s t)) ∧
  -- THROTTLE_RX at an ACTIVE UP cell of a Maryel: it is passed to every DOWN cell of the domain.
  (∀ (s : State) (c : Fin 100) (level : BitVec 3) (cap : Bool) (seq : Byte) (ns : W32), s.held .mary = false →
    (s.cell .mary c.val).ts = .active → (s.cell .mary c.val).cfg.role = 1 → exec (.throttleRx (.mary c) level cap seq ns) s = .next
      (s.sendC0All .mary (s.downCells .mary (s.cell .mary c.val).cfg.dom) [throttleTok level cap seq ns])) ∧
  -- CAPREQ_EDGE of a high pin of an enabled Maryel with HT: the pin is low, the throttle sequence goes up by one and the cap's HT is
  -- noted.
  (∀ (s : State), s.held .mary = false → s.mary.capPin = true → s.capEn = true → (s.time .mary).noht = false →
    Does .capreqEdge s (fun t => t.mary = { s.mary with capPin := false, tseq := s.mary.tseq + 1, capEff := some s.throttleAt } ∧
    SameLeaf s t)) ∧
  -- CAP_RELEASE of a high pin with a cap in effect: the throttle sequence goes up by one and no cap is in effect.
  (∀ (s : State) (n : Nat), s.held .mary = false → s.mary.capPin = true → s.capEn = true → (s.time .mary).noht = false →
    s.mary.capEff = some n → Does .capRelease s (fun t => t.mary = { s.mary with tseq := s.mary.tseq + 1, capEff := none } ∧ SameLeaf s t)) ∧
  -- THR_CMD accepted at a Maryel with HT: the throttle sequence goes up by one, the leaf is as before.
  (∀ (s : State) (src : Src) (level : BitVec 3), s.takes .mary src 0x7F03C = true → (s.time .mary).noht = false →
    s.wasRefused .mary = false → Does (.thrCmd src level) s (fun t => t.mary.tseq = s.mary.tseq + 1 ∧ SameLeaf s t)) ∧
  -- PRK_SCRUB that finds nothing: the pointer goes to the next of the 2,048 words, and nothing else of the leaf changes.
  (∀ (s : State), s.held .leaf = false → Does (.prkScrub .clean) s (fun t =>
    t.leaf = { s.leaf with prick := { s.leaf.prick with scrubPtr := (s.leaf.prick.scrubPtr + 1) % 2048, scrubAt := t.rc .leaf } } ∧
    SameMary s t)) ∧
  -- PRK_SCRUB that corrects: PRK_CE goes up by one and the entries stay.
  (∀ (s : State), s.held .leaf = false → Does (.prkScrub .corrected) s (fun t => t.count .leaf 0xA11C = satInc (s.count .leaf 0xA11C) ∧
    t.leaf.prick.entries = s.leaf.prick.entries ∧ SameMary s t)) ∧
  -- PRK_SCRUB of an uncorrectable word of the only entry, no hoop opening, at an unbound leaf with room in MISS: the entry goes, a miss
  -- record of cause 2 is filed, a mark is pending and the interrupt bit is set.
  (∀ (s : State) (e : Entry), s.held .leaf = false → s.leaf.prick.entries = [e] → e.pos = s.leaf.prick.scrubPtr / 4 →
    imgKind e.image ≠ 4 → s.leaf.prick.marks = [] → s.leaf.binding = none → s.leaf.prick.miss.length < 16 →
    Does (.prkScrub .uncorrectable) s (fun t => t.leaf.prick.entries = [] ∧ t.leaf.prick.miss = s.leaf.prick.miss ++ [missOf e 2] ∧
    t.leaf.prick.pending = true ∧ t.leafN.irq.getLsbD 7 = true ∧ SameMary s t)) ∧
  -- PRK_SCRUB of a read that finds the same: the same.
  (∀ (s : State) (e : Entry), s.held .leaf = false → s.leaf.prick.entries = [e] → imgKind e.image ≠ 4 → s.leaf.prick.marks = [] →
    s.leaf.binding = none → s.leaf.prick.miss.length < 16 →
    Does (.prkScrub (.read { batch := e.batch, eidx := imgEidx e.image, ue := true })) s (fun t => t.leaf.prick.entries = [] ∧
    t.leaf.prick.miss = s.leaf.prick.miss ++ [missOf e 2] ∧ t.leaf.prick.pending = true ∧ t.leafN.irq.getLsbD 7 = true ∧ SameMary s t)) ∧
  -- PRK_SCRUB of a tag's parity error at an unbound leaf: every entry goes, the fatal latch is set and a mark is pending.
  (∀ (s : State), s.held .leaf = false → s.leaf.binding = none → s.leaf.prick.marks = [] → Does (.prkScrub .tagParity) s (fun t =>
    t.leaf.prick.entries = [] ∧ t.leaf.prick.fatal = true ∧ t.leaf.prick.pending = true ∧ SameMary s t)) ∧
  -- PRK_FATAL_CLR accepted: the fatal latch is cleared, and nothing else changes.
  (∀ (s : State) (src : Src), s.takes .leaf src 0xA008 = true → exec (.prkFatalClr src) s = .next ((s.opened .leaf src).modPrick (fun p =>
    { p with fatal := false })))

/-- O32. What contributions and quorum windows do at a leaf. REGION_CONTRIBUTION, HC_COMMIT and QUORUM_WINDOW_SEND, a clause for each form:
under conditions on the state and the operands alone the command answers the next state that the clause gives. Choices of the model
where the spec is open: logs 109, 113. Basis: derived (08_hoops_and_harvest.md). -/
def Obligations.HoopContributions : Prop :=
  -- REGION_CONTRIBUTION of a lane that is not the last, over a gate that is on with rp_hc_rdy high: the lane waits with the others, the
  -- port's tally counts the edges; slots and other ports are as before.
  (∀ (s : State) (p : Fin 16) (e : RpEdge) (i : Fin 32) (lane : BitVec 4) (data : W64) (ue : Bool), s.held .leaf = false →
    s.gated p.val = false → s.leaf.fatal = false → ((s.regionEdge p.val e).region p.val).hcRdy = true →
    Does (.regionContribution p i lane data e false ue) s (fun t =>
    (t.region p.val).hcq = (s.region p.val).hcq ++ [{ slot := BitVec.ofNat 5 i.val, lane := lane, data := data }] ∧
    (t.region p.val).tally = (s.region p.val).tally + e.edges ∧ (t.region p.val).hcAt = (s.region p.val).tally + e.edges ∧
    (∀ q, q ≠ p.val → t.region q = s.region q) ∧ t.leaf.slots = s.leaf.slots ∧ t.leaf.prick = s.leaf.prick ∧ SameMary s t)) ∧
  -- REGION_CONTRIBUTION of the last lane of an input that the slot's open hoop takes (member port, landed, not contributed, lanes
  -- complete and in order, no error): the waiting lanes go and the slot takes them as the port's input.
  (∀ (s : State) (p : Fin 16) (e : RpEdge) (i : Fin 32) (lane : BitVec 4) (data : W64), s.held .leaf = false → s.gated p.val = false →
    s.leaf.fatal = false → ((s.regionEdge p.val e).region p.val).hcRdy = true → (s.slot i.val).st = .open_ → (s.slot i.val).taken = none →
    (s.slot i.val).ports.getLsbD p.val = true → (s.slot i.val).landed.getLsbD p.val = true →
    (s.slot i.val).contributed.getLsbD p.val = false →
    (let r := ((s.regionEdge p.val e).region p.val).putLane { slot := BitVec.ofNat 5 i.val, lane := lane, data := data };
    r.hcGap = false → r.hcq.all (fun l => l.slot.toNat == i.val) = true → lanesOk (s.slot i.val).lanes.length (r.hcq.map (fun l =>
    (l.lane, l.data))) = true →
    exec (.regionContribution p i lane data e true false) s = .next (((((s.regionEdge p.val e).modRegion p.val (fun r =>
    r.putLane { slot := BitVec.ofNat 5 i.val, lane := lane, data := data })).modRegion p.val (fun r =>
    { r with hcq := [], hcGap := false }))).takeInput i.val p.val (r.hcq.map HcLane.data)))) ∧
  -- REGION_CONTRIBUTION of the last lane for a QUORUM slot likewise: the slot takes the input into the present window and the waiting
  -- lanes go.
  (∀ (s : State) (p : Fin 16) (e : RpEdge) (i : Fin 32) (lane : BitVec 4) (data : W64), s.held .leaf = false → s.gated p.val = false →
    s.leaf.fatal = false → ((s.regionEdge p.val e).region p.val).hcRdy = true → (s.slot i.val).st = .open_ → (s.slot i.val).taken = none →
    (s.slot i.val).ports.getLsbD p.val = true → (s.slot i.val).landed.getLsbD p.val = true →
    (s.slot i.val).contributed.getLsbD p.val = false → rcQuorum (s.slot i.val).common = true →
    (∀ c, s.recipeOf .leaf (s.slot i.val).sd (s.slot i.val).hoopId = some c → rcQuorum c.common = true) →
    (let r := ((s.regionEdge p.val e).region p.val).putLane { slot := BitVec.ofNat 5 i.val, lane := lane, data := data };
    r.hcGap = false → r.hcq.all (fun l => l.slot.toNat == i.val) = true → lanesOk (s.slot i.val).lanes.length (r.hcq.map (fun l =>
    (l.lane, l.data))) = true → Does (.regionContribution p i lane data e true false) s (fun t =>
    t.slot i.val = (s.slot i.val).take p.val (s.winNow .leaf (s.slot i.val).common) (r.hcq.map HcLane.data) ∧ (t.region p.val).hcq = [] ∧
    SameMary s t))) ∧
  -- REGION_CONTRIBUTION of a last lane for a slot that is free, not of the port or not landed there: refusal code 0 shows, the lanes go
  -- and the slots are as before.
  (∀ (s : State) (p : Fin 16) (e : RpEdge) (i : Fin 32) (lane : BitVec 4) (data : W64) (ue : Bool), s.held .leaf = false →
    s.gated p.val = false → s.leaf.fatal = false → ((s.regionEdge p.val e).region p.val).hcRdy = true → (s.slot i.val).taken = none →
    ((s.slot i.val).st = .free ∨ (s.slot i.val).ports.getLsbD p.val = false ∨ (s.slot i.val).landed.getLsbD p.val = false) →
    Does (.regionContribution p i lane data e true ue) s (fun t => (t.region p.val).hcErr = true ∧ (t.region p.val).hcCode = 0 ∧
    (t.region p.val).hcq = [] ∧ t.leaf.slots = s.leaf.slots ∧ t.leaf.prick = s.leaf.prick ∧ SameMary s t)) ∧
  -- REGION_CONTRIBUTION while rp_hc_rdy is low: only the region's edges pass.
  (∀ (s : State) (p : Fin 16) (e : RpEdge) (i : Fin 32) (lane : BitVec 4) (data : W64) (last ue : Bool), s.held .leaf = false →
    s.gated p.val = false → s.leaf.fatal = false → ((s.regionEdge p.val e).region p.val).hcRdy = false →
    exec (.regionContribution p i lane data e last ue) s = .next (s.regionEdge p.val e)) ∧
  -- HC_COMMIT accepted for a closed slot with a host input not yet given and every lane written: the slot has its host input.
  (∀ (s : State) (src : Src), s.takes .leaf src 0xB004 = true → (s.slot (s.fld .leaf 0xB000 4 0)).st = .closed →
    rcHost (s.slot (s.fld .leaf 0xB000 4 0)).common = true → (s.slot (s.fld .leaf 0xB000 4 0)).hostDone = false →
    (∀ j, j < (s.slot (s.fld .leaf 0xB000 4 0)).lanes.length → s.leaf.hcWritten.getLsbD j = true) →
    exec (.hcCommit src) s = .next (((s.opened .leaf src).modLeaf (fun l =>
    { l with hcWritten := 0 })).modSlot (s.fld .leaf 0xB000 4 0) (fun x => { x with hostDone := true }))) ∧
  -- HC_COMMIT accepted for a free slot: refusal code 0 shows, is counted, and the interrupt bit is set.
  (∀ (s : State) (src : Src), s.takes .leaf src 0xB004 = true → (s.slot (s.fld .leaf 0xB000 4 0)).st = .free →
    Does (.hcCommit src) s (fun t => t.leaf = { s.leaf with hcErr := 0 } ∧ t.count .leaf 0xB520 = satInc (s.count .leaf 0xB520) ∧
    t.leafN.irq.getLsbD 25 = true ∧ SameMary s t)) ∧
  -- QUORUM_WINDOW_SEND of a slot at a leaf that is no root with a window not sent: that window is sent.
  (∀ (s : State) (i : Fin 32) (w : WinLeft), s.held .leaf = false → s.leaf.winq.find? (fun q => decide (q.slot = i.val)) = none →
    ((s.slot i.val).unsent i.val).head? = some w → s.isRoot .leaf = false → Does (.quorumWindowSend i) s (fun t => t.leaf = { s.leaf with
            slots := vmod s.leaf.slots i.val (fun x => { x with wins := x.wins.map (fun y => if y.win = w.win then { y with sent := true } else y) }) }
      ∧ SameMary s t)) ∧
  -- QUORUM_WINDOW_SEND of a slot whose windows wait after its hoop ended: the first of them is sent and leaves the list.
  (∀ (s : State) (i : Fin 32) (w : WinLeft), s.held .leaf = false → s.leaf.winq.find? (fun q => decide (q.slot = i.val)) = some w →
    s.isRoot .leaf = false → Does (.quorumWindowSend i) s (fun t => t.leaf = { s.leaf with winq := s.leaf.winq.erase w } ∧ SameMary s t))

/-- O33. What outcomes taken at a leaf and the timers of its slots do. OUTCOME_TAKE_EFFECT, SLOT_HOLD_EXPIRY, OUTCOME_LIMIT_EXPIRY and
INSTALL_CONTEXT_EXPIRY, a clause for each form: under conditions on the state and the operands alone the command answers the next state
that the clause gives. Choices of the model where the spec is open: logs 2, 26, 27. Basis: derived (08_hoops_and_harvest.md). -/
def Obligations.HoopOutcomes : Prop :=
  -- OUTCOME_TAKE_EFFECT of an open slot of a host hoop with an outcome taken and its release HT known: the slot closes with that
  -- outcome, not before the present edge.
  (∀ (s : State) (i : Fin 32) (m : HoopDown) (n : Nat), s.held .leaf = false → (s.slot i.val).taken = some m →
    (s.slot i.val).relNs = some n → (s.slot i.val).st = .open_ → rcHost (s.slot i.val).common = true →
    Does (.outcomeTakeEffect (.slot i)) s (fun t => (t.slot i.val).st = .closed ∧ (t.slot i.val).eff = some m ∧
    s.rc .leaf ≤ (t.slot i.val).closedAt ∧ SameMary s t)) ∧
  -- OUTCOME_TAKE_EFFECT of a busy install context with an outcome taken: the context is free and its batch is ended; pricking entries
  -- and slots are as before.
  (∀ (s : State) (k : Fin 4) (m : HoopDown), s.held .leaf = false → (s.instCtx k.val).taken = some m → (s.instCtx k.val).busy = true →
    Does (.outcomeTakeEffect (.inst k)) s (fun t => t.leaf.insts = vmod s.leaf.insts k.val (fun _ => .reset) ∧
    (s.instCtx k.val).batch ∈ t.leaf.prick.instDone ∧ t.leaf.prick.entries = s.leaf.prick.entries ∧ t.leaf.slots = s.leaf.slots ∧
    SameMary s t)) ∧
  -- OUTCOME_TAKE_EFFECT of a slot with no outcome taken: nothing changes.
  (∀ (s : State) (i : Fin 32), s.held .leaf = false → (s.slot i.val).taken = none → exec (.outcomeTakeEffect (.slot i)) s = .next s) ∧
  -- OUTCOME_TAKE_EFFECT of the one halt due: the entries of its SD that halt are gone, the slots are as before.
  (∀ (s : State) (sd : Sd) (n : Nat), s.held .leaf = false → s.leaf.prick.halts = [(sd, n)] →
    n * nsTu ≤ (s.advHt .leaf (n * nsTu)).ht .leaf → Does (.outcomeTakeEffect .halt) s (fun t => t.leaf.prick.halts = [] ∧
    t.leaf.prick.entries = s.leaf.prick.entries.filter (fun e => !(imgHalt e.image && decide (imgSd e.image = sd))) ∧
    t.leaf.slots = s.leaf.slots ∧ SameMary s t)) ∧
  -- SLOT_HOLD_EXPIRY of a closed slot: the slot is free and its unsent windows wait to be sent.
  (∀ (s : State) (i : Fin 32), s.held .leaf = false → (s.slot i.val).st = .closed → Does (.slotHoldExpiry i) s (fun t =>
    t.leaf = { s.leaf with slots := vmod s.leaf.slots i.val (fun _ => .reset), winq := s.leaf.winq ++ (s.slot i.val).unsent i.val } ∧
    s.rc .leaf ≤ t.rc .leaf ∧ SameMary s t)) ∧
  -- SLOT_HOLD_EXPIRY of a slot that is not closed: nothing changes.
  (∀ (s : State) (i : Fin 32), s.held .leaf = false → (s.slot i.val).st ≠ .closed → exec (.slotHoldExpiry i) s = .next s) ∧
  -- OUTCOME_LIMIT_EXPIRY of an open slot of a host hoop with no outcome taken: the slot closes with the local outcome 4.
  (∀ (s : State) (i : Fin 32), s.held .leaf = false → (s.slot i.val).st = .open_ → (s.slot i.val).taken = none →
    rcHost (s.slot i.val).common = true → Does (.outcomeLimitExpiry i) s (fun t => (t.slot i.val).st = .closed ∧
    (t.slot i.val).eff = some ((s.slot i.val).localEnd 4) ∧ SameMary s t)) ∧
  -- OUTCOME_LIMIT_EXPIRY of a slot with an outcome taken: nothing changes.
  (∀ (s : State) (i : Fin 32) (m : HoopDown), s.held .leaf = false → (s.slot i.val).taken = some m →
    exec (.outcomeLimitExpiry i) s = .next s) ∧
  -- INSTALL_CONTEXT_EXPIRY of a busy install context: the context is free and its batch is ended; pricking entries and slots are as
  -- before.
  (∀ (s : State) (k : Fin 4), s.held .leaf = false → (s.instCtx k.val).busy = true → Does (.installContextExpiry k) s (fun t =>
    t.leaf.insts = vmod s.leaf.insts k.val (fun _ => .reset) ∧ (s.instCtx k.val).batch ∈ t.leaf.prick.instDone ∧
    t.leaf.prick.entries = s.leaf.prick.entries ∧ t.leaf.slots = s.leaf.slots ∧ s.rc .leaf ≤ t.rc .leaf ∧ SameMary s t)) ∧
  -- INSTALL_CONTEXT_EXPIRY of a free install context: nothing changes.
  (∀ (s : State) (k : Fin 4), s.held .leaf = false → (s.instCtx k.val).busy = false → exec (.installContextExpiry k) s = .next s)

/-- O34. What recipes, partials and outcomes do on their way through a node. HOOP_RECIPE_RX, HOOP_UP_RX, HOOP_DOWN_RX and CONTEXT_DEADLINE,
a clause for each form: under conditions on the state and the operands alone the command answers the next state that the clause gives.
Choices of the model where the spec is open: logs 30, 51, 107, 110. Basis: derived (08_hoops_and_harvest.md). -/
def Obligations.HoopTraffic : Prop :=
  -- HOOP_RECIPE_RX at an ACTIVE UP cell of a Maryel of a recipe it neither holds nor has freed, with room: it holds the recipe with the
  -- received words and no hoop ended; the leaf is as before.
  (∀ (s : State) (c : Fin 100) (m : RecipeMsg), s.held .mary = false → (s.cell .mary c.val).ts = .active →
    (s.cell .mary c.val).cfg.role = 1 → (m.head.sd, m.hoopId, m.head.gen, (s.cell .mary c.val).cfg.dom) ∉ s.maryN.freed →
    s.maryN.recipes.length < 1024 → (∀ r ∈ s.maryN.recipes, r.sd ≠ m.head.sd ∨ r.hoopId ≠ m.hoopId ∨ r.gen ≠ m.head.gen) →
    Does (.hoopRecipeRx (.mary c) m) s (fun t => ∃ r, t.maryN.recipes = s.maryN.recipes ++ [r] ∧ r.sd = m.head.sd ∧ r.hoopId = m.hoopId ∧
    r.gen = m.head.gen ∧ r.common = m.common ∧ r.lanes = m.lanes ∧ r.ended = [] ∧ t.leaf = s.leaf)) ∧
  -- HOOP_UP_RX at an ACTIVE DOWN cell of a Maryel that is no root, the first partial of an ALL hoop with a recipe, of the present GEN,
  -- from one of several member ports and without error: a context opens with that port and its lanes combined.
  (∀ (s : State) (c : Fin 100) (m : HoopUp) (r : Recipe), s.held .mary = false → (s.cell .mary c.val).ts = .active →
    (s.cell .mary c.val).cfg.role = 2 → s.isRoot .mary = false → s.curGenOf .mary m.sd = some m.gen → s.membOk .mary = true →
    s.membOver .mary m.sd = false → s.upClosed .mary m.sd m.hoopId (s.cell .mary c.val).cfg.dom = false →
    s.combRecipe .mary m.sd m.hoopId m.gen = some r → rcQuorum r.common = false →
    (m.sd, m.hoopId, (s.cell .mary c.val).cfg.dom) ∉ s.maryN.noCtx → m.missed = false → m.incomplete = false →
    s.ctxOf .mary m.sd m.hoopId (s.cell .mary c.val).cfg.dom = none → s.ctxFull .mary (s.cell .mary c.val).cfg.dom = false →
    (s.memberPorts .mary (s.cell .mary c.val).cfg.dom m.sd).all (fun p => decide (p ∈ [c.val])) = false → exec (.hoopUpRx (.mary c) m
      false) s = .next (s.putCtx .mary {
            sd := m.sd, hoopId := m.hoopId, dom := (s.cell .mary c.val).cfg.dom, gen := m.gen, openAt := s.ht .mary, got := [c.val],
              acc := lanesCombine r.lanes (lanesEmpty r.lanes) m.lanes })) ∧
  -- HOOP_UP_RX there for a QUORUM recipe: it is passed by the rules for windows.
  (∀ (s : State) (c : Fin 100) (m : HoopUp) (r : Recipe), s.held .mary = false → (s.cell .mary c.val).ts = .active →
    (s.cell .mary c.val).cfg.role = 2 → s.isRoot .mary = false → s.curGenOf .mary m.sd = some m.gen → s.membOk .mary = true →
    s.membOver .mary m.sd = false → s.upClosed .mary m.sd m.hoopId (s.cell .mary c.val).cfg.dom = false →
    s.combRecipe .mary m.sd m.hoopId m.gen = some r → rcQuorum r.common = true →
    exec (.hoopUpRx (.mary c) m false) s = .next (s.passWindow .mary c.val (s.cell .mary c.val).cfg.dom m r)) ∧
  -- HOOP_UP_RX of an older GEN: it is returned as stale.
  (∀ (s : State) (c : Fin 100) (m : HoopUp) (ue : Bool) (g : Gen), s.held .mary = false → (s.cell .mary c.val).ts = .active →
    (s.cell .mary c.val).cfg.role = 2 → s.curGenOf .mary m.sd = some g → m.gen.toNat < g.toNat →
    exec (.hoopUpRx (.mary c) m ue) s = .next (s.staleReturn .mary c.val m)) ∧
  -- HOOP_UP_RX that finds the partial it adds to uncorrectable: the context is closed for that error and the message is counted as late.
  (∀ (s : State) (c : Fin 100) (m : HoopUp) (r : Recipe), s.held .mary = false → (s.cell .mary c.val).ts = .active →
    (s.cell .mary c.val).cfg.role = 2 → s.isRoot .mary = false → s.curGenOf .mary m.sd = some m.gen → s.membOk .mary = true →
    s.membOver .mary m.sd = false → s.upClosed .mary m.sd m.hoopId (s.cell .mary c.val).cfg.dom = false →
    s.combRecipe .mary m.sd m.hoopId m.gen = some r → rcQuorum r.common = false →
    s.holdsPart .mary (s.cell .mary c.val).cfg.dom m.sd m.hoopId = true →
    exec (.hoopUpRx (.mary c) m true) s = .next ((s.ctxUe .mary (s.cell .mary c.val).cfg.dom m.sd m.hoopId m.gen r).bump .mary 0x9041C)) ∧
  -- HOOP_UP_RX of a hoop closed in that domain: it is counted, and nothing else changes.
  (∀ (s : State) (c : Fin 100) (m : HoopUp) (ue : Bool), s.held .mary = false → (s.cell .mary c.val).ts = .active →
    (s.cell .mary c.val).cfg.role = 2 → s.isRoot .mary = false → s.curGenOf .mary m.sd = some m.gen → s.membOk .mary = true →
    s.membOver .mary m.sd = false → s.upClosed .mary m.sd m.hoopId (s.cell .mary c.val).cfg.dom = true →
    exec (.hoopUpRx (.mary c) m ue) s = .next (s.bump .mary 0x9041C)) ∧
  -- CONTEXT_DEADLINE of an open context of an ALL hoop at a Maryel that is no root: the context is gone and the hoop is closed there;
  -- the leaf is as before.
  (∀ (s : State) (d : Dom) (sd : Sd) (h : HoopId) (x : Ctx) (r : Recipe), s.held .mary = false → s.isRoot .mary = false →
    s.ctxOf .mary sd h d = some x → s.combRecipe .mary sd h 0 = some r → rcQuorum r.common = false →
    Does (.contextDeadline .mary d sd h) s (fun t => t.ctxOf .mary sd h d = none ∧ t.isClosed .mary sd h d = true ∧ t.leaf = s.leaf)) ∧
  -- CONTEXT_DEADLINE without that context: nothing changes.
  (∀ (s : State) (k : NodeSel) (d : Dom) (sd : Sd) (h : HoopId), s.held k = false → s.ctxOf k sd h d = none →
    exec (.contextDeadline k d sd h) s = .next s) ∧
  -- HOOP_DOWN_RX for all at an ACTIVE UP cell of a Maryel: no context of that hoop is left in the domain; the leaf is as before.
  (∀ (s : State) (c : Fin 100) (m : HoopDown), s.held .mary = false → (s.cell .mary c.val).ts = .active →
    (s.cell .mary c.val).cfg.role = 1 → m.all = true → Does (.hoopDownRx (.mary c) m) s (fun t =>
    t.ctxOf .mary m.sd m.hoopId (s.cell .mary c.val).cfg.dom = none ∧ t.leaf = s.leaf)) ∧
  -- HOOP_DOWN_RX for all or for this leaf at an ACTIVE UP cell of the leaf: it is relayed, then taken.
  (∀ (s : State) (c : Fin 6) (m : HoopDown), s.held .leaf = false → (s.cell .leaf c.val).ts = .active →
    (s.cell .leaf c.val).cfg.role = 1 → m.all = true ∨ m.dest = s.nodeId .leaf →
    exec (.hoopDownRx (.leaf c) m) s = .next ((s.relayDown .leaf (s.cell .leaf c.val).cfg.dom m).takeDown m))

/-- O35. What aborts, deadlines, windows and the decider do at a root. HOOP_ABORT, HOOP_DEADLINE, QUORUM_WINDOW_PROCESS and HOOP_DECIDER, a
clause for each form: under conditions on the state and the operands alone the command answers the next state that the clause gives.
Choices of the model where the spec is open: logs 2, 29, 116. Basis: derived (08_hoops_and_harvest.md, 10_determinism.md). -/
def Obligations.HoopAtRoot : Prop :=
  -- HOOP_ABORT accepted at the deciding Maryel of a hoop with a recipe, not ended and not known yet: the hoop is decided with outcome 4.
  (∀ (s : State) (src : Src) (sd : Sd) (h : HoopId) (c : Recipe), s.takes .mary src 0x80214 = true → s.isDecider .mary = true →
    s.recipeOf .mary sd h = some c → h ∉ c.ended → s.rhoop .mary sd h = none → Does (.hoopAbort .mary src sd h) s (fun t =>
    ∃ r d, t.rhoop .mary sd h = some r ∧ r.decided = some d ∧ d.outcome = 4)) ∧
  -- HOOP_DEADLINE at the deciding Maryel of an undecided ALL hoop that has begun: it is decided with outcome 1.
  (∀ (s : State) (sd : Sd) (h : HoopId) (r : RHoop), s.held .mary = false → s.isDecider .mary = true → s.rhoop .mary sd h = some r →
    r.decided = none → r.begun = true → rcQuorum r.common = false → Does (.hoopDeadline .mary sd h) s (fun t =>
    ∃ r' d, t.rhoop .mary sd h = some r' ∧ r'.decided = some d ∧ d.outcome = 1)) ∧
  -- HOOP_DEADLINE of a hoop that has not begun: nothing changes.
  (∀ (s : State) (k : NodeSel) (sd : Sd) (h : HoopId) (r : RHoop), s.held k = false → s.rhoop k sd h = some r → r.begun = false →
    exec (.hoopDeadline k sd h) s = .next s) ∧
  -- QUORUM_WINDOW_PROCESS at the deciding Maryel of an undecided QUORUM hoop that has begun, its window due and clean from neither tree:
  -- it is decided with outcome 1.
  (∀ (s : State) (sd : Sd) (h : HoopId) (r : RHoop), s.held .mary = false → s.isDecider .mary = true → s.rhoop .mary sd h = some r →
    r.decided = none → rcQuorum r.common = true → r.begun = true → s.winInTime .mary r = true → r.own.clean r.nextWin = false →
    r.other.clean r.nextWin = false → Does (.quorumWindowProcess .mary sd h) s (fun t => ∃ r' d, t.rhoop .mary sd h = some r' ∧
    r'.decided = some d ∧ d.outcome = 1)) ∧
  -- QUORUM_WINDOW_PROCESS with the window clean from the own tree only and the quorum not reached: the window's sum is added and the
  -- next window is up.
  (∀ (s : State) (sd : Sd) (h : HoopId) (r : RHoop), s.held .mary = false → s.isDecider .mary = true → s.rhoop .mary sd h = some r →
    r.decided = none → rcQuorum r.common = true → r.begun = true → s.winInTime .mary r = true → r.own.clean r.nextWin = true →
    r.other.clean r.nextWin = false →
    (let run := lanesCombine r.lanes (r.running.getD (lanesEmpty r.lanes)) (r.own.sum r.lanes r.nextWin);
    ((roleResult r.lanes (lanesResult r.lanes run) 1).getD 0).toNat < rcQ r.common → Does (.quorumWindowProcess .mary sd h) s (fun t =>
      t.rhoop .mary sd h = some { r with
            own := r.own.drop r.nextWin, other := r.other.drop r.nextWin, lastWin := some r.nextWin, running := some run,
              crossLost := false } ∧ t.leaf = s.leaf))) ∧
  -- QUORUM_WINDOW_PROCESS of an ALL hoop, one not begun or with its window not due: nothing changes.
  (∀ (s : State) (k : NodeSel) (sd : Sd) (h : HoopId) (r : RHoop), s.held k = false → s.rhoop k sd h = some r →
    rcQuorum r.common = false ∨ r.begun = false ∨ s.winInTime k r = false → exec (.quorumWindowProcess k sd h) s = .next s) ∧
  -- HOOP_DECIDER taken while every hoop of the Maryel is decided: the register holds the value, and the leaf is as before.
  (∀ (s : State) (src : Src) (v : Bool), s.takes .mary src 0x7F044 = true → (∀ r ∈ (s.root .mary).hoops, r.decided.isSome = true) →
    Does (.hoopDecider src v) s (fun t => t.reg .mary 0x7F044 = BitVec.ofNat 32 (b01 v) ∧ t.leaf = s.leaf))

/-- O36. What the key of a leaf and its seeds do. KEY_RX and SEED_COMPUTE, a clause for each form: under conditions on the state and the
operands alone the command answers the next state that the clause gives. Choices of the model where the spec is open: logs 25, 40, 115.
Basis: derived (09_numerics_and_seeds.md). -/
def Obligations.LeafKeys : Prop :=
  -- KEY_RX at an ACTIVE UP cell of a leaf bound to its SD and GEN, for all: the key and its check are the leaf's (nothing changes when
  -- it holds that key).
  (∀ (s : State) (c : Fin 6) (m : KeyMsg) (b : Binding), s.held .leaf = false → (s.cell .leaf c.val).ts = .active →
    (s.cell .leaf c.val).cfg.role = 1 → s.leaf.binding = some b → b.sd = m.head.sd → b.gen = m.head.gen → m.head.all = true →
    Does (.keyRx (.leaf c) m) s (fun t => t.leaf = (if s.leaf.seed.key = some m.key then s.leaf else
      { s.leaf with seed := { s.leaf.seed with key := some m.key, keyChk := keyChk m.key } }) ∧ SameMary s t)) ∧
  -- KEY_RX of an SD or GEN the leaf is not bound to: the leaf is as before.
  (∀ (s : State) (c : Fin 6) (m : KeyMsg), s.held .leaf = false → (s.cell .leaf c.val).ts = .active → (s.cell .leaf c.val).cfg.role = 1 →
    (∀ b, s.leaf.binding = some b → b.sd ≠ m.head.sd ∨ b.gen ≠ m.head.gen) → Does (.keyRx (.leaf c) m) s (fun t => t.leaf = s.leaf ∧
    SameMary s t)) ∧
  -- KEY_RX at an ACTIVE UP cell of a Maryel: it is passed on by the rules for C2 messages.
  (∀ (s : State) (c : Fin 100) (m : KeyMsg), s.held .mary = false → (s.cell .mary c.val).ts = .active →
    (s.cell .mary c.val).cfg.role = 1 → exec (.keyRx (.mary c) m) s = .next (s.passC2 .mary c.val m.head (keyToks m))) ∧
  -- SEED_COMPUTE that finds the key uncorrectable: the key goes and is counted.
  (∀ (s : State) (k : BitVec 128), s.held .leaf = false → s.leaf.seed.key = some k → Does (.seedCompute .keyUe) s (fun t =>
    t.leaf.seed.key = none ∧ t.count .leaf 0xC104 = satInc (s.count .leaf 0xC104) ∧ t.leaf.prick = s.leaf.prick ∧ SameMary s t)) ∧
  -- SEED_COMPUTE that agrees, with a strobe waiting for its seed: the first waiting strobe is ready at every port that holds it.
  (∀ (s : State) (x : Strobe), s.held .leaf = false → s.firstWaiting = some x →
    exec (.seedCompute .agree) s = .next (s.each (List.range 16) (fun s p => s.readyAt x p))) ∧
  -- SEED_COMPUTE that agrees, with none waiting and an entry to compute ahead: its records replace those of that entry and repetition.
  (∀ (s : State) (e : Entry) (k : Nat) (recs : List SeedRec), s.held .leaf = false → s.firstWaiting = none →
    s.seedsAhead = some (e, k, recs) → Does (.seedCompute .agree) s (fun t => t.leaf = { s.leaf with
            prick := { s.leaf.prick with seeds := s.leaf.prick.seeds.filter (fun r => !(decide (r.batch = e.batch ∧ r.eidx = imgEidx e.image) && r.k == k)) ++ recs } }
      ∧ SameMary s t)) ∧
  -- SEED_COMPUTE whose second output differs from the seed of a port: the seeds are given and the difference is taken as a fatal miss.
  (∀ (s : State) (p : Fin 16) (second : BitVec 128), s.held .leaf = false → (∃ v, (p.val, v) ∈ s.seedsNext ∧ v ≠ second) →
    exec (.seedCompute (.differ p second)) s = .next s.computeSeeds.seedDiffers) ∧
  -- SEED_COMPUTE that corrects the key: it is counted and the seeds are computed.
  (∀ (s : State) (k : BitVec 128), s.held .leaf = false → s.leaf.seed.key = some k →
    exec (.seedCompute .keyCe) s = .next (s.bump .leaf 0xC100).computeSeeds)

/-- O37. What the stitch calculator, the fingerprint and STEP_HWM do. STITCH_GO, STITCH_DONE, FP_HASH, FP_VALID and STEP_HWM, a clause for
each form: under conditions on the state and the operands alone the command answers the next state that the clause gives. Choices of the
model where the spec is open: log 2. Basis: derived (09_numerics_and_seeds.md, 10_determinism.md, 17_leaf_registers.md). -/
def Obligations.LeafFingerprint : Prop :=
  -- STITCH_GO accepted with a key (the leaf's own or the stitch key, as STITCH_CTL says): the stitch of key, step, rank and lane runs.
  (∀ (s : State) (src : Src) (key : BitVec 128), s.takes .leaf src 0xC024 = true →
    (if s.fld .leaf 0xC020 0 0 = 0 then s.leaf.seed.key else some s.leaf.seed.stitchKey) = some key →
    exec (.stitchGo src) s = .next ((s.opened .leaf src).modSeed (fun x => { x with
            busy := some (stitch key (s.reg64 .leaf 0xC010) ((s.reg .leaf 0xC018).extractLsb' 0 20) ((s.reg .leaf 0xC01C).extractLsb' 0 12), s.rc .leaf) }))) ∧
  -- STITCH_GO accepted with the leaf's own key chosen and none held: the error flag is set.
  (∀ (s : State) (src : Src), s.takes .leaf src 0xC024 = true → s.fld .leaf 0xC020 0 0 = 0 → s.leaf.seed.key = none →
    exec (.stitchGo src) s = .next ((s.opened .leaf src).modSeed (fun x => { x with err := true }))) ∧
  -- STITCH_DONE of a running stitch: its result shows and it is done.
  (∀ (s : State) (r : BitVec 128 × W64), s.held .leaf = false → s.leaf.seed.busy = some r →
    exec .stitchDone s = .next (s.modSeed (fun x => { x with busy := none, done := true, out := r.1 }))) ∧
  -- FP_HASH accepted at an unbound leaf: the hash is taken, its value waits.
  (∀ (s : State) (src : Src) (v : W64), s.takes .leaf src 0xC054 = true → s.leaf.binding = none →
    exec (.fpHash src v) s = .next ((s.opened .leaf src).modSeed (fun x => { x with fpHash := v, fpValid := false, fpPend := true }))) ∧
  -- FP_HASH accepted at a bound leaf: the hash is taken too, is counted, and the interrupt bit is set.
  (∀ (s : State) (src : Src) (v : W64), s.takes .leaf src 0xC054 = true → s.leaf.binding.isSome = true → Does (.fpHash src v) s (fun t =>
    t.leaf.seed.fpHash = v ∧ t.leaf.seed.fpPend = true ∧ t.count .leaf 0xC114 = satInc (s.count .leaf 0xC114) ∧
    t.leafN.irq.getLsbD 13 = true ∧ t.leaf.binding = s.leaf.binding ∧ SameMary s t)) ∧
  -- FP_VALID with a value waiting: the fingerprint of the hash is valid.
  (∀ (s : State), s.held .leaf = false → s.leaf.seed.fpPend = true → exec .fpValid s = .next (s.modSeed (fun x =>
    { x with fpPend := false, fpValid := true, fpValue := fingerprint x.fpHash fpWord }))) ∧
  -- STEP_HWM accepted at an island root with a higher value: the mark is that value.
  (∀ (s : State) (src : Src) (v : W64), s.takes .leaf src 0xC06C = true → (s.cfg .leaf).island = true →
    (s.root .leaf).stepHwm.toNat < v.toNat → exec (.stepHwm src v) s = .next ((s.opened .leaf src).modRoot .leaf (fun r =>
    { r with stepHwm := v }))) ∧
  -- STEP_HWM elsewhere or with a value not higher: it is counted as refused, and nothing else changes.
  (∀ (s : State) (src : Src) (v : W64), s.takes .leaf src 0xC06C = true →
    ((s.cfg .leaf).island = false ∨ v.toNat ≤ (s.root .leaf).stepHwm.toNat) →
    exec (.stepHwm src v) s = .next ((s.opened .leaf src).refuse .leaf 0xC118))

/-- O38. What the staging buffers of install, recipe and bind commands hold. INST_DATA, RCP_DATA, BIND_DATA, INST_CLR, RCP_CLR and BIND_CLR,
a clause for each form: under conditions on the state and the operands alone the command answers the next state that the clause gives.
Choices of the model where the spec is open: log 100. Basis: derived (18_maryel_registers.md, 07_pricking_and_launch.md). -/
def Obligations.StagingBuffers : Prop :=
  -- INST_DATA accepted with room: the word joins the source's install buffer.
  (∀ (s : State) (n : NodeSel) (src : Src) (v : W32), s.takes n src 0x80004 = true → (s.srcBuf n src).inst.length < bufCap n .inst →
    Does (.instData n src v) s (fun t => (t.srcBuf n src).inst = (s.srcBuf n src).inst ++ [v] ∧ t.leaf = s.leaf ∧ t.cellar = s.cellar)) ∧
  -- INST_DATA without room: the buffer stays and is marked full.
  (∀ (s : State) (n : NodeSel) (src : Src) (v : W32), s.takes n src 0x80004 = true → bufCap n .inst ≤ (s.srcBuf n src).inst.length →
    Does (.instData n src v) s (fun t => (t.srcBuf n src).inst = (s.srcBuf n src).inst ∧ (t.srcBuf n src).full .inst = true ∧
    t.leaf = s.leaf ∧ t.cellar = s.cellar)) ∧
  -- RCP_DATA accepted with room: the word joins the source's recipe buffer.
  (∀ (s : State) (n : NodeSel) (src : Src) (v : W32), s.takes n src 0x80204 = true → (s.srcBuf n src).rcp.length < bufCap n .rcp →
    Does (.rcpData n src v) s (fun t => (t.srcBuf n src).rcp = (s.srcBuf n src).rcp ++ [v] ∧ t.leaf = s.leaf ∧ t.cellar = s.cellar)) ∧
  -- BIND_DATA accepted with room: the word joins the source's bind buffer.
  (∀ (s : State) (n : NodeSel) (src : Src) (v : W32), s.takes n src 0x80104 = true → (s.srcBuf n src).bind.length < bufCap n .bind →
    Does (.bindData n src v) s (fun t => (t.srcBuf n src).bind = (s.srcBuf n src).bind ++ [v] ∧ t.leaf = s.leaf ∧ t.cellar = s.cellar)) ∧
  -- INST_CLR accepted: the source's install buffer is empty and not full.
  (∀ (s : State) (n : NodeSel) (src : Src), s.takes n src 0x80000 = true → Does (.instClr n src) s (fun t => (t.srcBuf n src).inst = [] ∧
    (t.srcBuf n src).full .inst = false ∧ t.leaf = s.leaf ∧ t.cellar = s.cellar)) ∧
  -- RCP_CLR accepted: the source's recipe buffer is empty and not full.
  (∀ (s : State) (n : NodeSel) (src : Src), s.takes n src 0x80200 = true → Does (.rcpClr n src) s (fun t => (t.srcBuf n src).rcp = [] ∧
    (t.srcBuf n src).full .rcp = false ∧ t.leaf = s.leaf ∧ t.cellar = s.cellar)) ∧
  -- BIND_CLR accepted: the source's bind buffer is empty and not full.
  (∀ (s : State) (n : NodeSel) (src : Src), s.takes n src 0x80100 = true → Does (.bindClr n src) s (fun t => (t.srcBuf n src).bind = [] ∧
    (t.srcBuf n src).full .bind = false ∧ t.leaf = s.leaf ∧ t.cellar = s.cellar))

/-- O39. What INST_GO and RCP_GO do with what was staged. INST_GO and RCP_GO, a clause for each form: under conditions on the state and the
operands alone the command answers the next state that the clause gives. Choices of the model where the spec is open: log 98. Basis:
derived (07_pricking_and_launch.md, 08_hoops_and_harvest.md, 18_maryel_registers.md). -/
def Obligations.RootInstallAndRecipe : Prop :=
  -- INST_GO accepted whose staged batch passes every check: the batch is sent with the staged entries.
  (∀ (s : State) (n : NodeSel) (src : Src) (sd : Sd) (batch : Batch) (c : SdCtx), s.takes n src 0x80008 = true →
    (s.opened n src).instWhyOf n src sd batch = none → (s.root n).ctxOf sd = some c → exec (.instGo n src sd batch) s = .next (((s.opened
      n src).sendBatch n c sd batch (instEnts (s.srcBuf n src).inst.length (s.srcBuf n src).inst)).noteRefused n src)) ∧
  -- INST_GO that a check refuses: the reason shows and is counted; contexts, batches and messages are as before.
  (∀ (s : State) (n : NodeSel) (src : Src) (sd : Sd) (batch : Batch) (w : Nat × Nat × Nat), s.takes n src 0x80008 = true →
    (s.opened n src).instWhyOf n src sd batch = some w → Does (.instGo n src sd batch) s (fun t => (t.root n).instWhy = w ∧
    t.count n 0x80700 = satInc (s.count n 0x80700) ∧ (t.root n).sds = (s.root n).sds ∧ (t.root n).batches = (s.root n).batches ∧
    (t.root n).c2out = (s.root n).c2out ∧ t.leaf = s.leaf ∧ t.cellar = s.cellar ∧ t.leafN.regs = s.leafN.regs ∧
    t.maryN.regs = s.maryN.regs)) ∧
  -- RCP_GO accepted whose staged recipe passes every check: the recipe, its deadline lengthened by DEADLINE_ADD, is sent to all and is
  -- the root's.
  (∀ (s : State) (n : NodeSel) (src : Src) (sd : Sd) (h : HoopId), s.takes n src 0x8020C = true →
    (s.opened n src).rcpWhy n src sd h = none → let bytes := rcpBytes (s.srcBuf n src).rcp (6 * s.fld n 0x80208 5 0); let m : RecipeMsg :=
    {
            head := { sd := sd, dest := 0, all := true, gen := BitVec.ofNat 16 ((s.root n).hwmOf sd) }, hoopId := h,
              common := addDeadline (rcpCommon bytes) ((s.opened n src).deadlineAddOf n), lanes := rcpLanes bytes }; exec (.rcpGo n src sd
      h) s = .next ((((s.opened n src).takeFree.2.rootC2 n m.head none (recipeToks m)).rootRecipe n m).noteRefused n src)) ∧
  -- RCP_GO that a check refuses: the reason shows and is counted; recipes and messages are as before.
  (∀ (s : State) (n : NodeSel) (src : Src) (sd : Sd) (h : HoopId) (w : Nat), s.takes n src 0x8020C = true →
    (s.opened n src).rcpWhy n src sd h = some w → Does (.rcpGo n src sd h) s (fun t => (t.root n).hoopWhy = w ∧
    t.count n 0x80718 = satInc (s.count n 0x80718) ∧ t.recipes n = s.recipes n ∧ (t.root n).c2out = (s.root n).c2out ∧ t.leaf = s.leaf ∧
    t.cellar = s.cellar ∧ t.leafN.regs = s.leafN.regs ∧ t.maryN.regs = s.maryN.regs))

/-- O40. What BIND_GO, KEY_SEND and ARM_SEND do at a root. BIND_GO, KEY_SEND and ARM_SEND, a clause for each form: under conditions on the
state and the operands alone the command answers the next state that the clause gives. Choices of the model where the spec is open: log
2. Basis: derived (07_pricking_and_launch.md, 09_numerics_and_seeds.md, 11_binding_and_domains.md, 18_maryel_registers.md). -/
def Obligations.RootBindKeyArm : Prop :=
  -- BIND_GO accepted whose staged table passes every check and whose generation needs no ceiling raise: the SD is bound to the staged
  -- entries.
  (∀ (s : State) (n : NodeSel) (src : Src) (sd : Sd), s.takes n src 0x80110 = true → (let u := (s.opened n src).modSrcBuf n src (fun b =>
    b.setFull .bind false); let gen : Gen := (s.reg n 0x8010C).extractLsb' 0 16; let b := s.srcBuf n src;
    u.bindWhyOf n sd b.bind (b.full .bind) (s.fld n 0x80108 14 0) gen = none → u.needsRaise n (.gen sd) gen.toNat = false →
    exec (.bindGo n src sd) s = .next ((u.doBind n sd (bindEnts b.bind.length b.bind) gen).noteRefused n src))) ∧
  -- BIND_GO at a Maryel whose generation needs a ceiling raise: it is held for the raise.
  (∀ (s : State) (src : Src) (sd : Sd), s.takes .mary src 0x80110 = true → (let u := (s.opened .mary src).modSrcBuf .mary src (fun b =>
    b.setFull .bind false); let gen : Gen := (s.reg .mary 0x8010C).extractLsb' 0 16; let b := s.srcBuf .mary src;
    u.bindWhyOf .mary sd b.bind (b.full .bind) (s.fld .mary 0x80108 14 0) gen = none → u.needsRaise .mary (.gen sd) gen.toNat = true →
      exec (.bindGo .mary src sd) s = .next ((u.holdFor (.gen sd) gen.toNat (.bind src sd b.bind (s.fld .mary 0x80108 14 0)
      gen)).noteRefused .mary src))) ∧
  -- BIND_GO that a check refuses: the reason shows and is counted; bindings, marks and messages are as before.
  (∀ (s : State) (n : NodeSel) (src : Src) (sd : Sd) (w : Nat × Nat), s.takes n src 0x80110 = true →
    ((s.opened n src).modSrcBuf n src (fun b => b.setFull .bind false)).bindWhyOf n sd (s.srcBuf n src).bind ((s.srcBuf n src).full .bind)
      (s.fld n 0x80108 14 0) ((s.reg n 0x8010C).extractLsb' 0 16) = some w → Does (.bindGo n src sd) s (fun t => (t.root n).bindWhy = w ∧
    t.count n 0x80708 = satInc (s.count n 0x80708) ∧ (t.root n).binds = (s.root n).binds ∧ (t.root n).genHwm = (s.root n).genHwm ∧
    (t.root n).c2out = (s.root n).c2out ∧ t.leaf = s.leaf ∧ t.cellar = s.cellar ∧ t.leafN.regs = s.leafN.regs ∧
    t.maryN.regs = s.maryN.regs)) ∧
  -- KEY_SEND accepted at an unbound root leaf for an SD with a checked fingerprint, no other key and no batch armed: the SD's key is the
  -- staged key.
  (∀ (s : State) (src : Src) (sd : Sd) (c : SdCtx), s.takes .leaf src 0x80310 = true → (s.opened .leaf src).sdRefused .leaf sd = false →
    (s.root .leaf).ctxOf sd = some c → c.fpState = 1 → c.key = none ∨ c.key = some (s.srcBuf .leaf src).keyBuf →
    (s.root .leaf).batches.any (fun b => decide (b.sd = sd ∧ b.st = .armed)) = false → s.leaf.binding = none →
    Does (.keySend .leaf src sd) s (fun t => (∀ x ∈ (t.root .leaf).sds, x.sd = sd → x.key = some (s.srcBuf .leaf src).keyBuf) ∧
    (t.root .leaf).keyWhy = (s.root .leaf).keyWhy ∧ t.leaf = s.leaf ∧ SameMary s t)) ∧
  -- KEY_SEND of an SD not licensed or not bound: reason 3 or 1 shows and is counted; contexts and messages are as before.
  (∀ (s : State) (n : NodeSel) (src : Src) (sd : Sd), s.takes n src 0x80310 = true →
    (s.opened n src).sdRefused n sd = true ∨ (s.root n).ctxOf sd = none → Does (.keySend n src sd) s (fun t =>
    (t.root n).keyWhy = (if (s.opened n src).sdRefused n sd then 3 else 1) ∧ t.count n 0x8070C = satInc (s.count n 0x8070C) ∧
    (t.root n).sds = (s.root n).sds ∧ (t.root n).c2out = (s.root n).c2out ∧ t.leaf = s.leaf ∧ t.cellar = s.cellar ∧
    t.leafN.regs = s.leafN.regs ∧ t.maryN.regs = s.maryN.regs)) ∧
  -- KEY_SEND accepted at a Maryel in the same place with no key yet: the SD's key is the staged key and is sent to all.
  (∀ (s : State) (src : Src) (sd : Sd) (c : SdCtx), s.takes .mary src 0x80310 = true → (s.opened .mary src).sdRefused .mary sd = false →
    (s.root .mary).ctxOf sd = some c → c.fpState = 1 → c.key = none → (s.root .mary).batches.any (fun b => decide (b.sd = sd ∧
    b.st = .armed)) = false → (let m : KeyMsg := {
            head := { sd := sd, dest := 0, all := true, gen := BitVec.ofNat 16 ((s.root .mary).hwmOf sd) },
              key := (s.srcBuf .mary src).keyBuf }; exec (.keySend .mary src sd) s = .next ((((s.opened .mary src).modRoot .mary (fun r =>
    r.modCtx sd (fun c => { c with key := some m.key }))).rootC2 .mary m.head none (keyToks m)).noteRefused .mary src))) ∧
  -- ARM_SEND of a pending batch that is ready and in time: it is armed and sent.
  (∀ (s : State) (n : NodeSel) (sd : Sd) (batch : Batch) (b : BatchRec), s.held n = false → (s.root n).batches.find? (fun b =>
    decide (b.sd = sd ∧ b.batch = batch ∧ b.st = .pending)) = some b → s.armReady n b = true → s.armInTime n b = true →
    exec (.armSend n sd batch) s = .next (s.sendArm n b)) ∧
  -- ARM_SEND of a pending batch that is not ready and has no earliest tick: nothing changes.
  (∀ (s : State) (n : NodeSel) (sd : Sd) (batch : Batch) (b : BatchRec), s.held n = false → (s.root n).batches.find? (fun b =>
    decide (b.sd = sd ∧ b.batch = batch ∧ b.st = .pending)) = some b → s.armReady n b = false → b.earliest = none →
    exec (.armSend n sd batch) s = .next s) ∧
  -- ARM_SEND of a pending batch that is not ready when its time is past: the batch fails with reason 5.
  (∀ (s : State) (n : NodeSel) (sd : Sd) (batch : Batch) (b : BatchRec) (t : Nat), s.held n = false → (s.root n).batches.find? (fun b =>
    decide (b.sd = sd ∧ b.batch = batch ∧ b.st = .pending)) = some b → s.armReady n b = false → b.earliest = some t →
    (s.advHt n (t * nsTu - s.flightMax n * 2 ^ 24 - b.armMargin * nsTu + 1)).armInTime n b = false →
    exec (.armSend n sd batch) s = .next ((s.advHt n (t * nsTu - s.flightMax n * 2 ^ 24 - b.armMargin * nsTu + 1)).failBatch n b 5))

/-- O41. What step windows, vintages and floors do at a root. STEP_WIN_SET, STEP_WIN_ADOPT, VINT_ISSUE and RES_FLOOR, a clause for each
form: under conditions on the state and the operands alone the command answers the next state that the clause gives. Choices of the
model where the spec is open: logs 62, 80. Basis: derived (09_numerics_and_seeds.md, 15_cellar.md). -/
def Obligations.RootCounters : Prop :=
  -- STEP_WIN_SET accepted at a root leaf of a window above the mark: the mark is its end, the window is granted and is the SD's.
  (∀ (s : State) (src : Src) (sd : Sd), s.takes .leaf src 0x80410 = true → s.sdRefused .leaf sd = false →
    ((s.root .leaf).ctxOf sd).isSome = true → (s.root .leaf).stepHwm.toNat < (s.reg64 .leaf 0x80400).toNat →
    (s.reg64 .leaf 0x80400).toNat ≤ (s.reg64 .leaf 0x80408).toNat → s.reg64 .leaf 0x80408 ≠ 0xFFFFFFFFFFFFFFFF#64 →
    Does (.stepWinSet .leaf src sd) s (fun t => (t.root .leaf).stepHwm = s.reg64 .leaf 0x80408 ∧
    (t.root .leaf).grants = (s.root .leaf).grants ++ [(s.reg64 .leaf 0x80400, s.reg64 .leaf 0x80408)] ∧
    (∀ x ∈ (t.root .leaf).sds, x.sd = sd → x.win = some (s.reg64 .leaf 0x80400, s.reg64 .leaf 0x80408)) ∧
    (t.root .leaf).vintHwm = (s.root .leaf).vintHwm ∧ t.leafN.regs = s.leafN.regs ∧ t.leafN.cells = s.leafN.cells ∧ t.leaf = s.leaf ∧
    SameMary s t)) ∧
  -- STEP_WIN_SET accepted at a Maryel likewise: the window is granted, or held when the ceiling must be raised first.
  (∀ (s : State) (src : Src) (sd : Sd), s.takes .mary src 0x80410 = true → s.sdRefused .mary sd = false → s.jrnlLost .mary .step = false →
    ((s.root .mary).ctxOf sd).isSome = true → (s.root .mary).stepHwm.toNat < (s.reg64 .mary 0x80400).toNat →
    (s.reg64 .mary 0x80400).toNat ≤ (s.reg64 .mary 0x80408).toNat → s.reg64 .mary 0x80408 ≠ 0xFFFFFFFFFFFFFFFF#64 → exec (.stepWinSet
      .mary src sd) s = .next ((if s.needsRaise .mary .step (s.reg64 .mary 0x80408).toNat then (s.opened .mary src).holdFor .step (s.reg64
      .mary 0x80408).toNat (.stepWin src sd (s.reg64 .mary 0x80400) (s.reg64 .mary 0x80408)) else (s.opened .mary src).grantWin .mary sd
      (s.reg64 .mary 0x80400) (s.reg64 .mary 0x80408)).noteRefused .mary src)) ∧
  -- STEP_WIN_SET of an SD not licensed or not bound, with the journal lost, or of a window not above the mark, empty or ending at the
  -- last step: it is refused and counted.
  (∀ (s : State) (n : NodeSel) (src : Src) (sd : Sd), s.takes n src 0x80410 = true → (s.sdRefused n sd = true ∨ s.jrnlLost n .step = true
      ∨ (s.root n).ctxOf sd = none ∨ (s.reg64 n 0x80400).toNat ≤ (s.root n).stepHwm.toNat ∨ (s.reg64 n 0x80408).toNat < (s.reg64 n
      0x80400).toNat ∨ s.reg64 n 0x80408 = 0xFFFFFFFFFFFFFFFF#64) →
    exec (.stepWinSet n src sd) s = .next (((s.opened n src).refuse n 0x80710).noteRefused n src)) ∧
  -- STEP_WIN_ADOPT accepted of a window that was granted and no SD holds: it is the SD's.
  (∀ (s : State) (n : NodeSel) (src : Src) (sd : Sd), s.takes n src 0x80414 = true → s.sdRefused n sd = false →
    s.jrnlLost n .step = false → ((s.root n).ctxOf sd).isSome = true →
      (match n with
        | .leaf => (s.reg64 .leaf 0x80400, s.reg64 .leaf 0x80408) ∈ (s.root .leaf).grants
        | .mary => ∃ q, (q, s.reg64 .mary 0x80400, s.reg64 .mary 0x80408) ∈ s.grantRecs)
      → (∀ c ∈ (s.root n).sds, c.win ≠ some (s.reg64 n 0x80400, s.reg64 n 0x80408)) →
    exec (.stepWinAdopt n src sd) s = .next ((s.opened n src).modRoot n (fun r => r.modCtx sd (fun c =>
    { c with win := some (s.reg64 n 0x80400, s.reg64 n 0x80408) })))) ∧
  -- VINT_ISSUE accepted at a root leaf with a higher value: the mark is that value.
  (∀ (s : State) (src : Src) (v : W32), s.takes .leaf src 0x80420 = true → (s.root .leaf).vintHwm.toNat < v.toNat → v ≠ 0xFFFFFFFF#32 →
    exec (.vintIssue .leaf src v) s = .next ((s.opened .leaf src).modRoot .leaf (fun r => { r with vintHwm := v }))) ∧
  -- VINT_ISSUE accepted at a Maryel with a higher value: the mark is that value, or the issue is held when the ceiling must be raised
  -- first.
  (∀ (s : State) (src : Src) (v : W32), s.takes .mary src 0x80420 = true → s.jrnlLost .mary .vint = false →
    (s.root .mary).vintHwm.toNat < v.toNat → v ≠ 0xFFFFFFFF#32 → exec (.vintIssue .mary src v) s = .next ((if s.needsRaise .mary .vint
      v.toNat then (s.opened .mary src).holdFor .vint v.toNat (.vint src v) else ((s.opened .mary src).modRoot .mary (fun r =>
    { r with vintHwm := v })).raiseAhead .vint).noteRefused .mary src)) ∧
  -- VINT_ISSUE of a value not above the mark: it is refused and counted.
  (∀ (s : State) (n : NodeSel) (src : Src) (v : W32), s.takes n src 0x80420 = true → v.toNat ≤ (s.root n).vintHwm.toNat →
    Does (.vintIssue n src v) s (fun t => t.count n 0x80714 = satInc (s.count n 0x80714) ∧ (t.root n).vintHwm = (s.root n).vintHwm ∧
    t.leaf = s.leaf ∧ t.cellar = s.cellar)) ∧
  -- RES_FLOOR accepted at a root leaf for the selected family with a higher value within its range: that family's counter is the value,
  -- the others stay.
  (∀ (s : State) (src : Src) (v : W64), s.takes .leaf src 0x8043C = true → s.ctrOf .leaf (s.resFamily .leaf) < v.toNat →
    v.toNat ≤ (s.resFamily .leaf).cap → Does (.resFloor .leaf src v) s (fun t => t.ctrOf .leaf (s.resFamily .leaf) = v.toNat ∧
    (∀ f, f ≠ s.resFamily .leaf → t.ctrOf .leaf f = s.ctrOf .leaf f) ∧ (t.root .leaf).sds = (s.root .leaf).sds ∧
    t.leafN.regs = s.leafN.regs ∧ t.leafN.cells = s.leafN.cells ∧ t.leaf = s.leaf ∧ SameMary s t)) ∧
  -- RES_FLOOR accepted at a Maryel likewise: a raise to the value is queued and the floor is held for it.
  (∀ (s : State) (src : Src) (v : W64), s.takes .mary src 0x8043C = true → s.ctrOf .mary (s.resFamily .mary) < v.toNat →
    v.toNat ≤ (s.resFamily .mary).cap → exec (.resFloor .mary src v) s = .next ((s.opened .mary src).modCellar (fun c => { c with
            raises := c.raises ++ [{ fam := s.resFamily .mary, ceil := v.toNat }],
              held := c.held ++ [(s.resFamily .mary, .floor src v)] }))) ∧
  -- RES_FLOOR of a value not higher or out of range: it is refused and counted.
  (∀ (s : State) (n : NodeSel) (src : Src) (v : W64), s.takes n src 0x8043C = true →
    v.toNat ≤ s.ctrOf n (s.resFamily n) ∨ v.toNat > (s.resFamily n).cap →
    exec (.resFloor n src v) s = .next (((s.opened n src).refuse n (s.resFamily n).refusedOff).noteRefused n src))

/-- O42. What joining and leaving a step domain and the membership tables do. BIND_RX, SD_LEAVE, LEAVE_LIMIT_EXPIRY, MEMB_WR, MEMB_VALID and
SD_TEARDOWN, a clause for each form: under conditions on the state and the operands alone the command answers the next state that the
clause gives. Choices of the model where the spec is open: log 2. Basis: derived (11_binding_and_domains.md, 09_numerics_and_seeds.md). -/
def Obligations.BindingCommands : Prop :=
  -- BIND_RX of a BIND addressed to an unbound leaf at an ACTIVE UP cell: it is bound to the SD, rank and GEN with no mark pending.
  (∀ (s : State) (c : Fin 6) (m : BindMsg), s.held .leaf = false → (s.cell .leaf c.val).ts = .active → (s.cell .leaf c.val).cfg.role = 1 →
    s.leaf.binding = none → m.head.all = false → m.unbind = false → m.head.dest = s.nodeId .leaf → Does (.bindRx (.leaf c) m) s (fun t =>
    SameMary s t ∧ t.leaf = { s.leaf with
            binding := some { sd := m.head.sd, rank := m.rank, gen := m.head.gen },
              prick := { s.leaf.prick with pending := false, marks := [] } })) ∧
  -- BIND_RX of the leaf's own SD with a GEN that is not newer: the leaf is as before.
  (∀ (s : State) (c : Fin 6) (m : BindMsg) (b : Binding), s.held .leaf = false → (s.cell .leaf c.val).ts = .active →
    (s.cell .leaf c.val).cfg.role = 1 → s.leaf.binding = some b → b.sd = m.head.sd → m.head.gen.toNat ≤ b.gen.toNat →
    Does (.bindRx (.leaf c) m) s (fun t => t.leaf = s.leaf ∧ SameMary s t)) ∧
  -- BIND_RX of an UNBIND of the leaf's SD with a newer GEN: the leaf is unbound, its key, job and plan throttles and entries of that SD
  -- are gone, no mark is pending.
  (∀ (s : State) (c : Fin 6) (m : BindMsg) (b : Binding), s.held .leaf = false → (s.cell .leaf c.val).ts = .active →
    (s.cell .leaf c.val).cfg.role = 1 → s.leaf.binding = some b → b.sd = m.head.sd → b.gen.toNat < m.head.gen.toNat → m.unbind = true →
    m.head.all = true ∨ m.head.dest = s.nodeId .leaf → Does (.bindRx (.leaf c) m) s (fun t => t.leaf.binding = none ∧
    t.leaf.seed.key = none ∧ (∀ p, (t.region p).thrJob = 0 ∧ (t.region p).thrPlan = 0) ∧
    (∀ e ∈ t.leaf.prick.entries, imgSd e.image ≠ b.sd) ∧ t.leaf.prick.pending = false ∧ SameMary s t)) ∧
  -- BIND_RX of another SD addressed to a bound leaf: the leaf is as before and its interrupt bit is set.
  (∀ (s : State) (c : Fin 6) (m : BindMsg) (b : Binding), s.held .leaf = false → (s.cell .leaf c.val).ts = .active →
    (s.cell .leaf c.val).cfg.role = 1 → s.leaf.binding = some b → b.sd ≠ m.head.sd → m.head.all = false → m.head.dest = s.nodeId .leaf →
    Does (.bindRx (.leaf c) m) s (fun t => t.leaf = s.leaf ∧ t.leafN.irq.getLsbD 19 = true ∧ SameMary s t)) ∧
  -- BIND_RX at an ACTIVE UP cell of a Maryel: it is passed on by the rules for BIND.
  (∀ (s : State) (c : Fin 100) (m : BindMsg), s.held .mary = false → (s.cell .mary c.val).ts = .active →
    (s.cell .mary c.val).cfg.role = 1 → exec (.bindRx (.mary c) m) s = .next (s.passBind .mary c.val m)) ∧
  -- SD_LEAVE accepted at a bound leaf: the leaf is unbound, its key, job and plan throttles and entries of that SD are gone, no mark is
  -- pending.
  (∀ (s : State) (src : Src) (b : Binding), s.takes .leaf src 0xE008 = true → s.leaf.binding = some b → Does (.sdLeave src) s (fun t =>
    t.leaf.binding = none ∧ t.leaf.seed.key = none ∧ (∀ p, (t.region p).thrJob = 0 ∧ (t.region p).thrPlan = 0) ∧
    (∀ e ∈ t.leaf.prick.entries, imgSd e.image ≠ b.sd) ∧ t.leaf.prick.pending = false ∧ SameMary s t)) ∧
  -- LEAVE_LIMIT_EXPIRY at a bound leaf, no island root, with neither domain aligned: the same, and the interrupt bit is set.
  (∀ (s : State) (b : Binding), s.held .leaf = false → s.leaf.binding = some b → (s.cfg .leaf).island = false →
    s.domAligned .leaf .a = false → s.domAligned .leaf .b = false → Does .leaveLimitExpiry s (fun t => t.leaf.binding = none ∧
    t.leaf.seed.key = none ∧ (∀ p, (t.region p).thrJob = 0 ∧ (t.region p).thrPlan = 0) ∧
    (∀ e ∈ t.leaf.prick.entries, imgSd e.image ≠ b.sd) ∧ t.leafN.irq.getLsbD 21 = true ∧ SameMary s t)) ∧
  -- LEAVE_LIMIT_EXPIRY with a domain aligned or no binding: nothing changes.
  (∀ (s : State), s.held .leaf = false → s.domAligned .leaf .a = true ∨ s.domAligned .leaf .b = true ∨ s.leaf.binding = none →
    exec .leaveLimitExpiry s = .next s) ∧
  -- MEMB_WR accepted at the leaf for a DOWN port, with room for the SD and a nonzero count: the count and CUR_GEN are the staged ones.
  (∀ (s : State) (src : Src), s.takes .leaf src 0xE020 = true → (s.cell .leaf (s.fld .leaf 0xE014 2 0)).cfg.role = 2 →
    s.memb65 .leaf ((s.reg .leaf 0xE010).extractLsb' 0 12) = false → s.fld .leaf 0xE018 19 0 ≠ 0 → Does (.membWr .leaf src) s (fun t =>
    t.membOf .leaf ((s.reg .leaf 0xE010).extractLsb' 0 12) (s.fld .leaf 0xE014 2 0) = s.fld .leaf 0xE018 19 0 ∧
    t.curGenOf .leaf ((s.reg .leaf 0xE010).extractLsb' 0 12) = some ((s.reg .leaf 0xE01C).extractLsb' 0 16) ∧ t.leaf = s.leaf ∧
    SameMary s t)) ∧
  -- MEMB_WR of a 65th SD: the table is as before and the interrupt bit is set.
  (∀ (s : State) (src : Src), s.takes .leaf src 0xE020 = true → (s.cell .leaf (s.fld .leaf 0xE014 2 0)).cfg.role = 2 →
    s.memb65 .leaf ((s.reg .leaf 0xE010).extractLsb' 0 12) = true → Does (.membWr .leaf src) s (fun t => t.leafN.memb = s.leafN.memb ∧
    t.leafN.irq.getLsbD 20 = true ∧ t.leaf = s.leaf ∧ SameMary s t)) ∧
  -- MEMB_WR for a port that is no DOWN port: ACC_ERR goes up by one, and nothing else changes.
  (∀ (s : State) (src : Src), s.takes .leaf src 0xE020 = true → (s.cell .leaf (s.fld .leaf 0xE014 2 0)).cfg.role ≠ 2 →
    exec (.membWr .leaf src) s = .next ((s.opened .leaf src).refuse .leaf (offAccErr .leaf))) ∧
  -- MEMB_VALID accepted at the leaf: the flag takes the value, and nothing else changes.
  (∀ (s : State) (src : Src) (v : Bool), s.takes .leaf src 0xE00C = true →
    exec (.membValid .leaf src v) s = .next ((s.opened .leaf src).modNode .leaf (fun N => { N with membValid := v }))) ∧
  -- SD_TEARDOWN accepted of an SD whose generation needs no ceiling raise, is not lost and not at its end: the root keeps no context,
  -- binding, hoop or recipe of that SD.
  (∀ (s : State) (n : NodeSel) (src : Src) (sd : Sd), s.takes n src 0x80118 = true → s.jrnlLost n (.gen sd) = false →
    (s.root n).hwmOf sd < 0xFFFF → s.needsRaise n (.gen sd) ((s.root n).hwmOf sd + 1) = false → Does (.sdTeardown n src sd) s (fun t =>
    (∀ c ∈ (t.root n).sds, c.sd ≠ sd) ∧ (∀ e ∈ (t.root n).binds, e.sd ≠ sd) ∧ (∀ h ∈ (t.root n).hoops, h.sd ≠ sd) ∧
    (∀ r ∈ t.recipes n, r.sd ≠ sd)))

/-- O43. What the resets of a leaf and of a Maryel do. LEAF_RESET_ASSERT, LEAF_RESET_RELEASE, POWER_ON_RESET_ASSERT, POWER_ON_RESET_RELEASE,
CHIP_RST_KEY and CHIP_RST, a clause for each form: under conditions on the state and the operands alone the command answers the next
state that the clause gives. Choices of the model where the spec is open: logs 12, 14, 15, 16. Basis: derived
(16_bringup_and_live_change.md, 17_leaf_registers.md, 18_maryel_registers.md). -/
def Obligations.NodeResets : Prop :=
  -- POWER_ON_RESET_ASSERT of a Maryel that is not held, its supply up: the Maryel is held, RC is 0, every cell is OFF, no register is
  -- written, no context is open and it is not silent; the words of the cellar, the crystal's count and the leaf are as before.
  (∀ s : State, s.held .mary = false → s.cellar.supply = true → Does .powerOnResetAssert s (fun t => t.held .mary = true ∧
    t.rc .mary = 0 ∧ (∀ i, (t.cell .mary i).ts = .off) ∧ t.maryN.regs = [] ∧ t.maryN.ctxs = [] ∧ t.mary.silent = false ∧
    t.cellar.mem = s.cellar.mem ∧ t.cellar.ka.cnt = s.cellar.ka.cnt ∧ SameLeaf s t)) ∧
  -- POWER_ON_RESET_ASSERT with the supply down: the same but for the cellar.
  (∀ s : State, s.held .mary = false → s.cellar.supply = false → Does .powerOnResetAssert s (fun t => t.held .mary = true ∧
    t.rc .mary = 0 ∧ (∀ i, (t.cell .mary i).ts = .off) ∧ t.maryN.regs = [] ∧ t.maryN.ctxs = [] ∧ t.mary.silent = false ∧ SameLeaf s t)) ∧
  -- POWER_ON_RESET_ASSERT of a Maryel that is held: nothing changes.
  (∀ s : State, s.held .mary = true → exec .powerOnResetAssert s = .next s) ∧
  -- POWER_ON_RESET_RELEASE of a Maryel that is held: it is not held, and PROFSEL is the sampled value; the leaf's own parts are as
  -- before.
  (∀ (s : State) (p : BitVec 2), s.held .mary = true → Does (.powerOnResetRelease p) s (fun t => t.held .mary = false ∧
    t.mary.profsel = p.toFin ∧ t.leaf = s.leaf)) ∧
  -- POWER_ON_RESET_RELEASE of a Maryel that is not held: nothing changes.
  (∀ (s : State) (p : BitVec 2), s.held .mary = false → exec (.powerOnResetRelease p) s = .next s) ∧
  -- LEAF_RESET_ASSERT: the leaf is held; registers but TIME_CTL, counters, cells, pricking memory, binding, seed unit and regions (but
  -- the level of rp_cr_n) are as at reset, RC is 0; the Maryel is as before.
  (∀ s : State, Does .leafResetAssert s (fun t => t.held .leaf = true ∧ t.leafN.regs = s.leafN.regs.filter (fun p => p.1 == 0x1000) ∧
    t.leafN.ctr = [] ∧ t.rc .leaf = 0 ∧ (∀ i, t.cell .leaf i = .reset) ∧ t.leaf.prick = .reset ∧ t.leaf.binding = none ∧
    t.leaf.seed = .reset ∧ t.leaf.regions = s.leaf.regions.map (fun r => { Region.reset with crN := r.crN }) ∧ SameMary s t)) ∧
  -- LEAF_RESET_RELEASE of a leaf that is held: it is not held and RC starts from 0, and nothing else changes.
  (∀ s : State, s.held .leaf = true → exec .leafResetRelease s = .next (s.modNode .leaf (fun N =>
    { N with inReset := false, time := { N.time with rc := 0 } }))) ∧
  -- LEAF_RESET_RELEASE of a leaf that is not held: nothing changes.
  (∀ (s : State), s.held .leaf = false → exec .leafResetRelease s = .next s) ∧
  -- CHIP_RST_KEY accepted: the source holds the key exactly when the word is the low word of CHIP_UID; other sources' keys stay.
  (∀ (s : State) (src : Src) (v : W32), s.takes .mary src 0x7C030 = true → Does (.chipRstKey src v) s (fun t =>
    (src ∈ t.mary.rstKeys ↔ v = Config.chipUid.extractLsb' 0 32) ∧ (∀ x, x ≠ src → (x ∈ t.mary.rstKeys ↔ x ∈ s.mary.rstKeys)) ∧
    t.cellar = s.cellar ∧ SameLeaf s t)) ∧
  -- CHIP_RST accepted of a source without the key: its DENY counter goes up by one; registers and cells are as before.
  (∀ (s : State) (src : Src) (p : BitVec 2), s.takes .mary src 0x7C034 = true → src ∉ s.mary.rstKeys → Does (.chipRst src p) s (fun t =>
    t.count .mary (offDeny src) = satInc (s.count .mary (offDeny src)) ∧ (∀ i, t.cell .mary i = s.cell .mary i) ∧
    t.maryN.regs = s.maryN.regs ∧ t.cellar = s.cellar ∧ SameLeaf s t)) ∧
  -- CHIP_RST accepted of a source with the key: the Maryel is not held, PROFSEL is the sampled value and no key is left; the leaf's own
  -- parts are as before.
  (∀ (s : State) (src : Src) (p : BitVec 2), s.takes .mary src 0x7C034 = true → src ∈ s.mary.rstKeys → Does (.chipRst src p) s (fun t =>
    t.held .mary = false ∧ t.mary.profsel = p.toFin ∧ t.mary.rstKeys = [] ∧ t.leaf = s.leaf))

/-- O44. What the resets of a cell, a group and a quadrant and the supply trip do. CELL_RST, GRP_RST, QUAD_RST, QUADRANT_RESET_RELEASE and
SUPPLY_MONITOR_TRIP, a clause for each form: under conditions on the state and the operands alone the command answers the next state
that the clause gives. Choices of the model where the spec is open: log 21. Basis: derived (16_bringup_and_live_change.md, 15_cellar.md,
18_maryel_registers.md). -/
def Obligations.PartResets : Prop :=
  -- CELL_RST accepted for a cell that is enabled, has a role, is not dark, is silenced by nothing but its own fault, and is neither
  -- aligned nor ACTIVE: it is in CDR, not silenced, its faults, retry state and bars as at reset.
  (∀ (s : State) (src : Src) (c : Fin 100), s.takes .mary src (cOff .mary c.val 0xC) = true → clrBit (s.cell .mary c.val).mute 0 = 0 →
    (s.cell .mary c.val).portEn = true → (s.cell .mary c.val).cfg.role ≠ 0 → (s.cell .mary c.val).dark = false →
    (s.cell .mary c.val).aligned = false → (s.cell .mary c.val).ts ≠ .active → Does (.cellRst src c) s (fun t =>
    (t.cell .mary c.val).ts = .cdr ∧ (t.cell .mary c.val).mute = 0 ∧ (t.cell .mary c.val).err = 0 ∧ (t.cell .mary c.val).retry = .reset ∧
    (t.cell .mary c.val).barTx = 6 ∧ (t.cell .mary c.val).barRx = 6 ∧ t.leaf = s.leaf ∧ t.cellar = s.cellar)) ∧
  -- GRP_RST accepted: the group's channel 0, faults and waiting cells are as at reset.
  (∀ (s : State) (src : Src) (g : Fin 20), s.takes .mary src (0x64000 + 0x1000 * g.val) = true → Does (.grpRst src g) s (fun t =>
    t.group g.val = { ch0 := .reset, err := 0, left := 0 })) ∧
  -- QUAD_RST accepted by its register: the quadrant's faults are cleared.
  (∀ (s : State) (src : Src) (q : Fin 4), s.takes .mary src (0x78000 + 0x1000 * q.val) = true → Does (.quadRst (.write src) q) s (fun t =>
    (t.quad q.val).err = 0)) ∧
  -- QUAD_RST by its pin: the quadrant is held.
  (∀ (s : State) (q : Fin 4), Does (.quadRst .pin q) s (fun t => (t.quad q.val).held = true)) ∧
  -- QUADRANT_RESET_RELEASE of a held quadrant: it is not held, its faults stay and the leaf is as before.
  (∀ (s : State) (q : Fin 4), (s.quad q.val).held = true → Does (.quadrantResetRelease q) s (fun t => (t.quad q.val).held = false ∧
    (t.quad q.val).err = (s.quad q.val).err ∧ SameLeaf s t)) ∧
  -- SUPPLY_MONITOR_TRIP: the supply is down, and nothing else changes.
  (∀ (s : State), exec .supplyMonitorTrip s = .next (s.modCellar (fun c => { c with supply := false })))

/-- O45. What faults do, and the return of dark cells. CELL_FAULT, GROUP_FAULT, QUADRANT_FAULT, CHIP_FAULT, LEAF_CELL_FAULT, LEAF_FATAL and
DARK_CELL_RETURN, a clause for each form: under conditions on the state and the operands alone the command answers the next state that
the clause gives. Choices of the model where the spec is open: log 85. Basis: derived (12_failures.md). -/
def Obligations.FaultsSilence : Prop :=
  -- LEAF_CELL_FAULT at a leaf not held: the cell is silenced by its own fault and its bit in the leaf's errors is set.
  (∀ (s : State) (c : Fin 6), s.held .leaf = false → Does (.leafCellFault c) s (fun t =>
    (t.cell .leaf c.val).mute = setBit (s.cell .leaf c.val).mute 0 ∧ t.leaf.err = setBit s.leaf.err c.val)) ∧
  -- CELL_FAULT at a Maryel not held: the cell is silenced by its own fault and its error bit is set.
  (∀ (s : State) (c : Fin 100) (f : CellFaultKind), s.held .mary = false → Does (.cellFault c f) s (fun t =>
    (t.cell .mary c.val).mute = setBit (s.cell .mary c.val).mute 0 ∧ (t.cell .mary c.val).err = setBit (s.cell .mary c.val).err f.bit)) ∧
  -- GROUP_FAULT: the group's error bit is set and its five cells wait for their resets.
  (∀ (s : State) (g : Fin 20) (f : GroupFaultKind), s.held .mary = false → Does (.groupFault g f) s (fun t =>
    (t.group g.val).err = setBit (s.group g.val).err f.bit ∧ (t.group g.val).left = 31)) ∧
  -- QUADRANT_FAULT: the quadrant's error bit is set; whether it is held stays.
  (∀ (s : State) (q : Fin 4) (f : QuadFaultKind), s.held .mary = false → Does (.quadrantFault q f) s (fun t =>
    (t.quad q.val).err = setBit (s.quad q.val).err f.bit ∧ (t.quad q.val).held = (s.quad q.val).held)) ∧
  -- CHIP_FAULT: CHIP_ERR's bit is set and the Maryel is silent.
  (∀ (s : State) (f : ChipFaultKind), s.held .mary = false → Does (.chipFault f) s (fun t =>
    t.mary.chipErr = setBit s.mary.chipErr f.bit ∧ t.mary.silent = true)) ∧
  -- LEAF_FATAL: the leaf is fatal and bit 8 of its errors is set.
  (∀ (s : State), s.held .leaf = false → Does .leafFatal s (fun t => t.leaf.fatal = true ∧ t.leaf.err = setBit s.leaf.err 8)) ∧
  -- DARK_CELL_RETURN of a domain in TRACK with an ACTIVE UP cell: none of its DOWN cells is dark.
  (∀ (s : State) (k : NodeSel) (d : Dom), s.held k = false → s.upActive k d = true → ((s.time k).dom d).st = .track →
    Does (.darkCellReturn k d) s (fun t => ∀ i ∈ s.downCells k d, (t.cell k i).dark = false))

/-- O46. What a host's frames do to its queue and status. HOST_WRITE, HOST_WRITE4, HOST_READ, HOST_READ4 and HOST_STATUS, a clause for each
form: under conditions on the state and the operands alone the command answers the next state that the clause gives. Choices of the
model where the spec is open: logs 47, 48. Basis: derived (13_maryel.md). -/
def Obligations.HostFrames : Prop :=
  -- HOST_WRITE to a legal address with room in the queue of 64: its words join the host's queue in order, and nothing else changes.
  (∀ (s : State) (h : Fin 4) (a : BitVec 24) (ws : List W32) (p : Bool), s.held .mary = false → addrOk a = true →
    (s.port h).writes + ws.length ≤ 64 → exec (.hostWrite h a ws p) s = .next (s.modPort h (fun p =>
    { p with queue := p.queue ++ ws.zipIdx.map (fun w => HostAcc.write (frameOff a w.2) w.1) }))) ∧
  -- HOST_WRITE of a word to a full queue: OVERRUN is set, nothing else changes.
  (∀ (s : State) (h : Fin 4) (a : BitVec 24) (w : W32) (p : Bool), s.held .mary = false → addrOk a = true → 64 ≤ (s.port h).writes →
    exec (.hostWrite h a [w] p) s = .next (s.modPort h (fun p => { p with status := setBit p.status 4 }))) ∧
  -- HOST_WRITE to an illegal address: FRAME_ERR is set, nothing else changes.
  (∀ (s : State) (h : Fin 4) (a : BitVec 24) (ws : List W32) (p : Bool), s.held .mary = false → addrOk a = false →
    exec (.hostWrite h a ws p) s = .next (s.modPort h (fun p => { p with status := setBit p.status 3 }))) ∧
  -- HOST_WRITE4 likewise: its words join the queue.
  (∀ (s : State) (h : Fin 4) (a : BitVec 24) (ws : List W32) (p : Bool), s.held .mary = false → addrOk a = true →
    (s.port h).writes + ws.length ≤ 64 → exec (.hostWrite4 h a ws p) s = .next (s.modPort h (fun p =>
    { p with queue := p.queue ++ ws.zipIdx.map (fun w => HostAcc.write (frameOff a w.2) w.1) }))) ∧
  -- HOST_READ from a legal address: its reads join the queue.
  (∀ (s : State) (h : Fin 4) (a : BitVec 24) (n : Nat), s.held .mary = false → addrOk a = true →
    exec (.hostRead h a n false) s = .next (s.modPort h (fun p =>
    { p with queue := p.queue ++ (List.range n).map (fun i => HostAcc.read (frameOff a i)) }))) ∧
  -- HOST_READ and HOST_READ4 that time out: HP_RD_TMO goes up by one, nothing else changes.
  (∀ (s : State) (h : Fin 4) (a : BitVec 24) (n : Nat), s.held .mary = false → addrOk a = true →
    exec (.hostRead h a n true) s = .next (s.bump .mary (0x7D070 + 4 * h.val)) ∧
    exec (.hostRead4 h a n true) s = .next (s.bump .mary (0x7D070 + 4 * h.val))) ∧
  -- HOST_READ and HOST_READ4 from an illegal address: FRAME_ERR is set, nothing else changes.
  (∀ (s : State) (h : Fin 4) (a : BitVec 24) (n : Nat) (tmo : Bool), s.held .mary = false → addrOk a = false →
    exec (.hostRead h a n tmo) s = .next (s.modPort h (fun p => { p with status := setBit p.status 3 })) ∧
    exec (.hostRead4 h a n tmo) s = .next (s.modPort h (fun p => { p with status := setBit p.status 3 }))) ∧
  -- HOST_READ4 likewise.
  (∀ (s : State) (h : Fin 4) (a : BitVec 24) (n : Nat), s.held .mary = false → addrOk a = true →
    exec (.hostRead4 h a n false) s = .next (s.modPort h (fun p =>
    { p with queue := p.queue ++ (List.range n).map (fun i => HostAcc.read (frameOff a i)) }))) ∧
  -- HOST_STATUS (opcode 0x05): the status byte answers, with BUSY while writes wait, and its bits are cleared.
  (∀ (s : State) (h : Fin 4), s.held .mary = false → exec (.hostStatus h 0x05) s = .next (s.modPort h (fun p =>
    { p with statOut := BitVec.ofNat 8 (p.status.toNat + (if 0 < p.writes then 128 else 0)), status := 0 }))) ∧
  -- A host frame of an unknown opcode: FRAME_ERR is set, nothing else changes.
  (∀ (s : State) (h : Fin 4) (op : Byte), s.held .mary = false → op ≠ 0x05 → op ∉ addrOps →
    exec (.hostStatus h op) s = .next (s.modPort h (fun p => { p with status := setBit p.status 3 })))

/-- O47. What serving a host, register tunnels and permissions do. HOST_ACCESS_SERVE, REG_TUNNEL_REQUEST_RX, REG_TUNNEL_RESPONSE_RX and
HOST_PERM, a clause for each form: under conditions on the state and the operands alone the command answers the next state that the
clause gives. Choices of the model where the spec is open: logs 49, 50. Basis: derived (13_maryel.md, 03_sync_link.md). -/
def Obligations.HostServing : Prop :=
  -- HOST_ACCESS_SERVE whose next access is a read: the read answers on that host's port.
  (∀ (s : State) (h : Fin 4) (off : Nat) (rest : List HostAcc), s.held .mary = false → s.nextHost = some h →
    (s.port h).queue = .read off :: rest → exec .hostAccessServe s = .next (let t := ((s.modMary (fun m =>
    { m with rrHost := h })).modPort h (fun p => { p with queue := p.queue.drop 1 })).readReg .mary (.host h) off; t.modPort h (fun p =>
    { p with out := p.out ++ [t.maryN.rdata.1] }))) ∧
  -- HOST_ACCESS_SERVE whose next access is a write: the write is that of the register.
  (∀ (s : State) (h : Fin 4) (off : Nat) (v : W32) (rest : List HostAcc), s.held .mary = false → s.nextHost = some h →
    (s.port h).queue = .write off v :: rest → exec .hostAccessServe s = .next (((s.modMary (fun m =>
    { m with rrHost := h })).modPort h (fun p => { p with queue := p.queue.drop 1 })).writeReg .mary (.host h) off v)) ∧
  -- HOST_ACCESS_SERVE with no access waiting: nothing changes.
  (∀ (s : State), s.held .mary = false → s.nextHost = none → exec .hostAccessServe s = .next s) ∧
  -- REG_TUNNEL_REQUEST_RX at an ACTIVE UP cell, not for this node, with a route down in the domain: it is sent by the first such port.
  (∀ (s : State) (c : CellRef) (m : TunnelMsg) (p : Nat) (ps : List Nat), s.held c.node = false → (s.cell c.node c.idx).ts = .active →
    (s.cell c.node c.idx).cfg.role = 1 → s.tunMine c.node m = false → (s.routePorts c.node m.maryel m.nodeId).filter (fun p =>
    decide (p ∈ s.downCells c.node (s.cell c.node c.idx).cfg.dom)) = p :: ps →
    exec (.regTunnelRequestRx c m) s = .next (s.sendC3 c.node p (tunnelToks false m))) ∧
  -- REG_TUNNEL_REQUEST_RX at an ACTIVE cell that is no UP cell: it is dropped and counted.
  (∀ (s : State) (c : CellRef) (m : TunnelMsg), s.held c.node = false → (s.cell c.node c.idx).ts = .active →
    (s.cell c.node c.idx).cfg.role ≠ 1 → exec (.regTunnelRequestRx c m) s = .next (s.dropRoute c.node c.idx)) ∧
  -- REG_TUNNEL_RESPONSE_RX at an ACTIVE DOWN cell of the Maryel with a tag that waits: the response is that host's and the tag is free.
  (∀ (s : State) (c : CellRef) (m : TunnelMsg) (t : W16 × Fin 4), s.held .mary = false → c.node = .mary →
    (s.cell .mary c.idx).ts = .active → (s.cell .mary c.idx).cfg.role = 2 → s.mary.tags.find? (fun u => decide (u.1 = m.tag)) = some t →
    exec (.regTunnelResponseRx c m) s = .next (s.modMary (fun y =>
    { y with tags := y.tags.filter (fun u => !decide (u.1 = m.tag)), tunResp := y.tunResp ++ [(t.2, m)] }))) ∧
  -- REG_TUNNEL_RESPONSE_RX of no tag that waits here: it is passed up.
  (∀ (s : State) (c : CellRef) (m : TunnelMsg), s.held c.node = false → (s.cell c.node c.idx).ts = .active →
    (s.cell c.node c.idx).cfg.role = 2 → (c.node = .mary → s.mary.tags.find? (fun u => decide (u.1 = m.tag)) = none) →
    exec (.regTunnelResponseRx c m) s = .next (s.passUpC3 c.node c.idx (tunnelToks true m))) ∧
  -- HOST_PERM accepted that leaves a host with bit 5: the register takes the value.
  (∀ (s : State) (src : Src) (i : Fin 4) (v : BitVec 20), s.takes .mary src (0x7D000 + 4 * i.val) = true → ((List.range 4).any (fun j =>
    if j = i.val then v.getLsbD 5 else (s.reg .mary (0x7D000 + 4 * j)).getLsbD 5)) = true →
    exec (.hostPerm src i v) s = .next ((s.opened .mary src).setReg .mary (0x7D000 + 4 * i.val) (v.zeroExtend 32))) ∧
  -- HOST_PERM that would leave none: it is refused and counted, registers are as before.
  (∀ (s : State) (src : Src) (i : Fin 4) (v : BitVec 20), s.takes .mary src (0x7D000 + 4 * i.val) = true → ((List.range 4).any (fun j =>
    if j = i.val then v.getLsbD 5 else (s.reg .mary (0x7D000 + 4 * j)).getLsbD 5)) = false → Does (.hostPerm src i v) s (fun t =>
    t.maryN.regs = s.maryN.regs ∧ t.count .mary (offDeny src) = satInc (s.count .mary (offDeny src)) ∧ t.maryN.cells = s.maryN.cells ∧
    t.cellar = s.cellar ∧ SameLeaf s t))

/-- O48. What staging, judging and applying a bitstream does, and patches. BS_START, BS_DATA, BS_APPLY and PATCH_APPLY, a clause for each
form: under conditions on the state and the operands alone the command answers the next state that the clause gives. Choices of the
model where the spec is open: logs 37, 71, 75, 77. Basis: derived (13_maryel.md, 16_bringup_and_live_change.md, 17_leaf_registers.md,
18_maryel_registers.md). -/
def Obligations.BitstreamPort : Prop :=
  -- BS_START accepted of a source while nobody or the source itself owns the port: the source owns it and its buffer is empty.
  (∀ (s : State) (n : NodeSel) (src : Src), s.takes n src (bsOff n 0) = true → ((s.bs n).owner = none ∨ (s.bs n).owner = some src) →
    Does (.bsStart n src) s (fun t => t.bs n = { s.bs n with buf := [], tooMany := false, owner := some src } ∧ t.cellar = s.cellar ∧
    t.leaf = s.leaf)) ∧
  -- BS_START while another source owns it: ACC_ERR goes up by one and the port is as before.
  (∀ (s : State) (n : NodeSel) (src x : Src), s.takes n src (bsOff n 0) = true → (s.bs n).owner = some x → x ≠ src →
    Does (.bsStart n src) s (fun t => t.bs n = s.bs n ∧ t.count n (offAccErr n) = satInc (s.count n (offAccErr n)))) ∧
  -- BS_DATA of the owner with room: the word's four bytes join the buffer.
  (∀ (s : State) (n : NodeSel) (src : Src) (v : W32), s.takes n src (bsOff n 4) = true → (s.bs n).owner = some src →
    (s.bs n).buf.length + 4 ≤ bsCap n → Does (.bsData n src v) s (fun t =>
    t.bs n = { s.bs n with buf := (s.bs n).buf ++ beBytes 4 v.toNat } ∧ t.cellar = s.cellar ∧ t.leaf = s.leaf)) ∧
  -- BS_DATA of the owner without room: the buffer is marked too long.
  (∀ (s : State) (n : NodeSel) (src : Src) (v : W32), s.takes n src (bsOff n 4) = true → (s.bs n).owner = some src →
    bsCap n < (s.bs n).buf.length + 4 → Does (.bsData n src v) s (fun t => t.bs n = { s.bs n with tooMany := true } ∧
    t.cellar = s.cellar ∧ t.leaf = s.leaf)) ∧
  -- BS_APPLY at the leaf of a bitstream that its check refuses: the code and place show, the refusal flag is set, and the configuration
  -- is as before.
  (∀ (s : State) (src : Src) (e : BsFail), s.takes .leaf src (bsOff .leaf 0) = true → (s.bs .leaf).owner = some src →
    (s.opened .leaf src).bsCheck (s.bs .leaf).buf (s.bs .leaf).tooMany { node := .leaf, full := false, sign := none } = .error e →
    Does (.bsApply .leaf src) s (fun t => (t.bs .leaf).owner = none ∧ (t.bs .leaf).refd = true ∧ (t.bs .leaf).why = BitVec.ofNat 4 e.1 ∧
    (t.bs .leaf).where_ = e.2 ∧ t.leaf = s.leaf ∧ t.leafN.cfg = s.leafN.cfg ∧ SameMary s t)) ∧
  -- BS_APPLY at the Maryel of a patch that passes: it waits behind the patches accepted before, and the configuration is as before.
  (∀ (s : State) (src : Src) (secs : List BsSec), s.takes .mary src (bsOff .mary 0) = true → (s.bs .mary).owner = some src →
    bsFlag (s.bs .mary).buf 1 = true → (s.opened .mary src).bsCheck (s.bs .mary).buf (s.bs .mary).tooMany
      { node := .mary, full := false, sign := (s.opened .mary src).signRule } = .ok secs → Does (.bsApply .mary src) s (fun t =>
    (t.bs .mary).owner = none ∧ (t.bs .mary).patches = (s.bs .mary).patches ++ [patchOf (s.bs .mary).buf secs (s.rc .mary)] ∧
    t.maryN.cfg = s.maryN.cfg ∧ t.cellar = s.cellar ∧ t.leaf = s.leaf)) ∧
  -- BS_APPLY at the Maryel, every cell OFF, of a whole bitstream that passes: done, and the configuration is loaded with its node id,
  -- serial and routes; the cellar and the leaf are as before.
  (∀ (s : State) (src : Src) (secs : List BsSec), s.takes .mary src (bsOff .mary 0) = true → (s.bs .mary).owner = some src →
    bsFlag (s.bs .mary).buf 1 = false → s.allOff .mary = true → (s.opened .mary src).bsCheck (s.bs .mary).buf (s.bs .mary).tooMany
      { node := .mary, full := false, sign := (s.opened .mary src).signRule } = .ok secs → Does (.bsApply .mary src) s (fun t =>
    (t.bs .mary).done = true ∧ t.maryN.cfg.loaded = true ∧ t.maryN.cfg.nodeId = BitVec.ofNat 20 (beField (s.bs .mary).buf 16 4) ∧
    t.maryN.cfg.serial = BitVec.ofNat 32 (beField (s.bs .mary).buf 20 4) ∧ t.maryN.cfg.routes = (confOf .mary secs).routes ∧
    t.cellar = s.cellar ∧ t.leaf = s.leaf)) ∧
  -- PATCH_APPLY at the Maryel with none waiting: nothing changes.
  (∀ (s : State), s.held .mary = false → (s.bs .mary).patches = [] → exec (.patchApply .mary) s = .next (s.convRefresh .mary)) ∧
  -- PATCH_APPLY at either node with a patch whose edge is known: the patch is no longer waiting, done, and the serial and the changed
  -- routes are the node's.
  (∀ (s : State) (n : NodeSel) (p : Patch) (rest : List Patch) (e : W64), s.held n = false → (s.bs n).patches = p :: rest →
    s.patchEdge n p.accepted = some e → Does (.patchApply n) s (fun t => (t.bs n).patches = rest ∧ (t.bs n).done = true ∧
    (t.cfg n).serial = p.serial ∧ (t.cfg n).routes = p.routes.foldl routeChange (s.cfg n).routes))

/-- O49. What staging, checking, committing and applying a profile does. PROF_BS_DATA, PROF_CLR, PROF_CHECK, PROF_COMMIT, PROF_COMMIT_DONE
and PROF_APPLY, a clause for each form: under conditions on the state and the operands alone the command answers the next state that the
clause gives. Choices of the model where the spec is open: logs 72, 79. Basis: derived (13_maryel.md, 18_maryel_registers.md). -/
def Obligations.Profiles : Prop :=
  -- PROF_BS_DATA accepted with room: the word joins the source's profile buffer.
  (∀ (s : State) (src : Src) (v : W32), s.takes .mary src 0xC0004 = true → (s.srcBuf .mary src).prof.length < bufCap .mary .prof →
    Does (.profBsData src v) s (fun t => (t.srcBuf .mary src).prof = (s.srcBuf .mary src).prof ++ [v] ∧ t.leaf = s.leaf ∧
    t.cellar = s.cellar)) ∧
  -- PROF_CLR accepted: the source's profile buffer and its staged words are empty.
  (∀ (s : State) (src : Src), s.takes .mary src 0xC0000 = true → Does (.profClr src) s (fun t => (t.srcBuf .mary src).prof = [] ∧
    (∀ o, 0xC0000 ≤ o → o < 0xC0100 → (t.srcBuf .mary src).staged o = 0) ∧ t.cellar = s.cellar ∧ t.leaf = s.leaf)) ∧
  -- PROF_CHECK of a staged profile that fails its check: the failure is noted and counted.
  (∀ (s : State) (src : Src) (e : BsFail), s.takes .mary src 0xC00C0 = true → (s.opened .mary src).bsCheck ((s.opened .mary src).srcBuf
      .mary src |>.profOf 0).bits (((s.opened .mary src).srcBuf .mary src).full .prof) {
            node := .mary, full := true,
              sign := some (((s.opened .mary src).srcBuf .mary src |>.profOf 0).sign, ((s.opened .mary src).srcBuf .mary src |>.profOf 0).hash) }
      = .error e → exec (.profCheck src) s = .next ((s.opened .mary src).bsNote .mary e)) ∧
  -- PROF_CHECK of one that passes: code and place read 0.
  (∀ (s : State) (src : Src) (secs : List BsSec), s.takes .mary src 0xC00C0 = true → (s.opened .mary src).bsCheck ((s.opened .mary
      src).srcBuf .mary src |>.profOf 0).bits (((s.opened .mary src).srcBuf .mary src).full .prof) {
            node := .mary, full := true,
              sign := some (((s.opened .mary src).srcBuf .mary src |>.profOf 0).sign, ((s.opened .mary src).srcBuf .mary src |>.profOf 0).hash) }
      = .ok secs → exec (.profCheck src) s = .next ((s.opened .mary src).modBs .mary (fun x => { x with why := 0, where_ := 0 }))) ∧
  -- PROF_COMMIT accepted with none in progress: the profile is being stored in its slot.
  (∀ (s : State) (src : Src) (n : Fin 4), s.takes .mary src 0xC00C4 = true → ((s.opened .mary src).srcBuf .mary src).full .prof = false →
    s.mary.profPend = none → Does (.profCommit src n) s (fun t => (∃ p, t.mary.profPend = some p ∧ p.slot = n) ∧ t.cellar = s.cellar ∧
    SameLeaf s t)) ∧
  -- PROF_COMMIT with one in progress: it is refused and counted.
  (∀ (s : State) (src : Src) (n : Fin 4) (p : ProfPend), s.takes .mary src 0xC00C4 = true →
    ((s.opened .mary src).srcBuf .mary src).full .prof = false → s.mary.profPend = some p → Does (.profCommit src n) s (fun t =>
    t.mary.profPend = some p ∧ t.count .mary 0xC0200 = satInc (s.count .mary 0xC0200) ∧ t.cellar = s.cellar ∧ SameLeaf s t)) ∧
  -- PROF_COMMIT_DONE of one in progress with the supply up and the cellar open: none is in progress.
  (∀ (s : State) (p : ProfPend), s.held .mary = false → s.mary.profPend = some p → s.cellar.supply = true → s.celClosed = false →
    Does .profCommitDone s (fun t => t.mary.profPend = none ∧ t.leaf = s.leaf)) ∧
  -- PROF_APPLY accepted with every cell OFF: the profile is the active one; the cellar and the leaf's own parts are as before.
  (∀ (s : State) (src : Src) (n : Fin 4), s.takes .mary src 0xC00C8 = true → s.allOff .mary = true → Does (.profApply src n) s (fun t =>
    t.mary.profAct = n ∧ t.cellar = s.cellar ∧ t.leaf = s.leaf)) ∧
  -- PROF_APPLY with a cell not OFF: it is refused and counted, the active profile stays.
  (∀ (s : State) (src : Src) (n : Fin 4), s.takes .mary src 0xC00C8 = true → s.allOff .mary = false → Does (.profApply src n) s (fun t =>
    t.mary.profAct = s.mary.profAct ∧ t.count .mary 0xC0200 = satInc (s.count .mary 0xC0200) ∧ t.leaf = s.leaf))

/-- O50. What the management engine and licence commands do. ME_CLR, ME_LOAD, ME_START, ME_WDOG, LIC_INSTALL and LIC_REMOVE, a clause for
each form: under conditions on the state and the operands alone the command answers the next state that the clause gives. Choices of the
model where the spec is open: logs 73, 74, 105. Basis: derived (13_maryel.md, 18_maryel_registers.md). -/
def Obligations.EngineAndLicences : Prop :=
  -- ME_CLR accepted: the engine's buffer is empty.
  (∀ (s : State) (src : Src), s.takes .mary src 0xB0000 = true → exec (.meClr src) s = .next ((s.opened .mary src).modMe (fun m =>
    { m with buf := [] }))) ∧
  -- ME_LOAD accepted while the engine does not run: the word joins the buffer.
  (∀ (s : State) (src : Src) (v : W32), s.takes .mary src 0xB0004 = true → s.mary.me.state ≠ 1 →
    exec (.meLoad src v) s = .next ((s.opened .mary src).modMe (fun m => { m with buf := m.buf ++ [v] }))) ∧
  -- ME_LOAD while it runs: it is refused and counted.
  (∀ (s : State) (src : Src) (v : W32), s.takes .mary src 0xB0004 = true → s.mary.me.state = 1 → Does (.meLoad src v) s (fun t =>
    t.mary.me = s.mary.me ∧ t.count .mary 0xB0014 = satInc (s.count .mary 0xB0014) ∧ t.cellar = s.cellar ∧ SameLeaf s t)) ∧
  -- ME_START accepted of an image with a good signature while the engine does not run: it runs, the telemetry FIFO is empty and an
  -- outage record is owed.
  (∀ (s : State) (src : Src), s.takes .mary src 0xB0008 = true → s.mary.me.state ≠ 1 → 96 < (s.mary.me.buf.flatMap (fun w =>
    beBytes 4 w.toNat)).length → Config.signatureOk ((s.mary.me.buf.flatMap (fun w =>
    beBytes 4 w.toNat)).take ((s.mary.me.buf.flatMap (fun w => beBytes 4 w.toNat)).length - 96)) ((s.mary.me.buf.flatMap (fun w =>
    beBytes 4 w.toNat)).drop ((s.mary.me.buf.flatMap (fun w => beBytes 4 w.toNat)).length - 96)) 1 = true →
    Does (.meStart src) s (fun t => t.mary.me.state = 1 ∧ t.mary.tel = [] ∧ t.mary.me.outage = true ∧ t.leaf = s.leaf)) ∧
  -- ME_START of an image too short for a signature: it is refused and counted.
  (∀ (s : State) (src : Src), s.takes .mary src 0xB0008 = true → s.mary.me.state ≠ 1 → (s.mary.me.buf.flatMap (fun w =>
    beBytes 4 w.toNat)).length ≤ 96 → Does (.meStart src) s (fun t => t.mary.me = s.mary.me ∧
    t.count .mary 0xB0014 = satInc (s.count .mary 0xB0014) ∧ t.cellar = s.cellar ∧ SameLeaf s t)) ∧
  -- ME_WDOG while the engine runs: it is halted and forgets.
  (∀ (s : State), s.held .mary = false → s.mary.me.state = 1 → exec .meWdog s = .next (s.modMe (fun m => { m.forget with state := 2 }))) ∧
  -- LIC_INSTALL accepted of a licence that passes: it is pending; the licences in effect are as before.
  (∀ (s : State) (src : Src), s.takes .mary src 0xD0080 = true →
    (s.opened .mary src).licWhyOf ((s.opened .mary src).srcBuf .mary src).licOf = 0 → Does (.licInstall src) s (fun t =>
    t.mary.licPend = true ∧ t.mary.lic = s.mary.lic ∧ t.leaf = s.leaf)) ∧
  -- LIC_INSTALL of one that does not: the reason shows and is counted.
  (∀ (s : State) (src : Src), s.takes .mary src 0xD0080 = true →
    (s.opened .mary src).licWhyOf ((s.opened .mary src).srcBuf .mary src).licOf ≠ 0 → Does (.licInstall src) s (fun t =>
    t.mary.licWhy = (s.opened .mary src).licWhyOf ((s.opened .mary src).srcBuf .mary src).licOf ∧
    t.count .mary 0xD0200 = satInc (s.count .mary 0xD0200) ∧ t.cellar = s.cellar ∧ SameLeaf s t)) ∧
  -- LIC_REMOVE accepted of a filled slot: its deletion waits.
  (∀ (s : State) (src : Src) (k : Fin 16), s.takes .mary src 0xD0084 = true → (s.licSlot k.val).isSome = true →
    exec (.licRemove src k) s = .next ((s.opened .mary src).modMary (fun m => { m with licRm := setBit m.licRm k.val })))

/-- O51. What the reference table and its measurements do. REF_APPLY, REF_MEASUREMENT, REF_LOSS, REF_QUALIFIED, REF_WTR_END and
REF_SIGNAL_PRESENT, a clause for each form: under conditions on the state and the operands alone the command answers the next state that
the clause gives. Choices of the model where the spec is open: logs 55, 111, 119. Basis: derived (14_references_and_holdover.md). -/
def Obligations.ReferenceEntries : Prop :=
  -- REF_APPLY accepted of a staged table that passes its check while the root has HT: the table waits for the next second.
  (∀ (s : State) (src : Src), s.takes .mary src 0x98048 = true → refCheck (s.reg .mary 0x98000) ((List.range 8).map (fun i =>
    s.reg64 .mary (0x98008 + 8 * i))) = 0 → s.rootHasHt = true →
    exec (.refApply src) s = .next ((s.opened .mary src).secondPicot.modSel (fun x =>
      { x with pendTab := some (s.reg .mary 0x98000, (List.range 8).map (fun i => s.reg64 .mary (0x98008 + 8 * i))) }) |>.noteRefused
      .mary src)) ∧
  -- REF_APPLY accepted of such a table while the root has no HT: the table takes effect at once.
  (∀ (s : State) (src : Src), s.takes .mary src 0x98048 = true → refCheck (s.reg .mary 0x98000) ((List.range 8).map (fun i =>
    s.reg64 .mary (0x98008 + 8 * i))) = 0 → s.rootHasHt = false → exec (.refApply src) s = .next (((s.opened .mary src).modSel (fun x =>
    { x with
            pendTab := some (s.reg .mary 0x98000, (List.range 8).map (fun i => s.reg64 .mary (0x98008 + 8 * i))) })).rootSecond.noteRefused
      .mary src)) ∧
  -- REF_APPLY of a table that fails its check: the reason shows and is counted, the table in effect stays.
  (∀ (s : State) (src : Src), s.takes .mary src 0x98048 = true → refCheck (s.reg .mary 0x98000) ((List.range 8).map (fun i =>
    s.reg64 .mary (0x98008 + 8 * i))) ≠ 0 → Does (.refApply src) s (fun t => t.mary.sel =
      { s.mary.sel with why := refCheck (s.reg .mary 0x98000) ((List.range 8).map (fun i => s.reg64 .mary (0x98008 + 8 * i))) } ∧
    t.count .mary 0x98404 = satInc (s.count .mary 0x98404) ∧ t.cellar = s.cellar ∧ t.leaf = s.leaf)) ∧
  -- REF_MEASUREMENT of an entry that is lost or disabled: nothing changes.
  (∀ (s : State) (i : Fin 8) (m : RefMeas), s.held .mary = false → s.isRoot .mary = true →
    (s.ent i.val).stat = .lost ∨ (s.ent i.val).stat = .disabled → exec (.refMeasurement i m) s = .next (s.convRefresh .mary)) ∧
  -- REF_MEASUREMENT of a gate within the frequency window: the count is the entry's, and nothing else changes.
  (∀ (s : State) (i : Fin 8) (n : Nat), s.held .mary = false → s.isRoot .mary = true → (s.ent i.val).stat ≠ .lost →
    (s.ent i.val).stat ≠ .disabled → gateOk (s.ent i.val).word n s.rootK = true →
    exec (.refMeasurement i (.gate n)) s = .next ((s.modEnt i.val (fun e => { e with gate := some n })).convRefresh .mary)) ∧
  -- REF_MEASUREMENT of a gate outside it: the entry qualifies anew, the count is its, the leaf is as before.
  (∀ (s : State) (i : Fin 8) (n : Nat), s.held .mary = false → s.isRoot .mary = true → (s.ent i.val).stat ≠ .lost →
    (s.ent i.val).stat ≠ .disabled → gateOk (s.ent i.val).word n s.rootK = false → Does (.refMeasurement i (.gate n)) s (fun t =>
    (t.ent i.val).stat = .qualifying ∧ (t.ent i.val).gate = some n ∧ t.leaf = s.leaf)) ∧
  -- REF_MEASUREMENT of a pulse of a PHASE entry with a reference channel: it is measured there as a pulse.
  (∀ (s : State) (i : Fin 8) (j : Nat) (code : Byte) (apart : Int), s.held .mary = false → s.isRoot .mary = true →
    (s.ent i.val).stat ≠ .lost → (s.ent i.val).stat ≠ .disabled → refChan (refSrc (s.ent i.val).word) = some j →
    refPhase (s.ent i.val).word = true →
    exec (.refMeasurement i (.pulse code apart)) s = .next ((s.pulseRef i.val j code apart).convRefresh .mary)) ∧
  -- REF_MEASUREMENT of an edge of a frequency entry with a reference channel: it is measured there as an edge.
  (∀ (s : State) (i : Fin 8) (j : Nat) (code : Byte), s.held .mary = false → s.isRoot .mary = true → (s.ent i.val).stat ≠ .lost →
    (s.ent i.val).stat ≠ .disabled → refChan (refSrc (s.ent i.val).word) = some j → refPhase (s.ent i.val).word = false →
    exec (.refMeasurement i (.edge code)) s = .next ((s.edgeRef i.val j (refSrc (s.ent i.val).word) code).convRefresh .mary)) ∧
  -- REF_LOSS of an enabled entry that is neither lost nor disabled (a timeout only of a source that has one): the entry is lost, has no
  -- label, measurement or gate, and must wait to restore if it was qualified.
  (∀ (s : State) (i : Fin 8) (tmo : Bool), s.held .mary = false → s.isRoot .mary = true → refEn (s.ent i.val).word = true →
    tmo = false ∨ (refSrc (s.ent i.val).word ≠ 4 ∧ refSrc (s.ent i.val).word ≠ 5) → (s.ent i.val).stat ≠ .lost →
    (s.ent i.val).stat ≠ .disabled → Does (.refLoss i tmo) s (fun t => (t.ent i.val).stat = .lost ∧ (t.ent i.val).label = none ∧
    (t.ent i.val).last = none ∧ (t.ent i.val).gate = none ∧ (t.ent i.val).mustWtr = ((s.ent i.val).mustWtr || (s.ent i.val).wasQual) ∧
    t.leaf = s.leaf)) ∧
  -- REF_QUALIFIED of a qualifying entry whose source is no SyncE input: it waits to restore when it must and WTR is set, else it is
  -- qualified.
  (∀ (s : State) (i : Fin 8), s.held .mary = false → s.isRoot .mary = true → (s.ent i.val).stat = .qualifying →
    refSrc (s.ent i.val).word < 6 ∨ 7 < refSrc (s.ent i.val).word → Does (.refQualified i) s (fun t =>
    (t.ent i.val).stat = (if (s.ent i.val).mustWtr = true ∧ 0 < refWtr s.mary.sel.ctl then .wtr else .qualified) ∧
    (t.ent i.val).wasQual = true ∧ ((t.ent i.val).mustWtr = true ↔ (s.ent i.val).mustWtr = true ∧ 0 < refWtr s.mary.sel.ctl) ∧
    t.leaf = s.leaf)) ∧
  -- REF_QUALIFIED of an entry that does not qualify: nothing changes.
  (∀ (s : State) (i : Fin 8), s.held .mary = false → (s.ent i.val).stat ≠ .qualifying →
    exec (.refQualified i) s = .next (s.convRefresh .mary)) ∧
  -- REF_WTR_END of an entry that waits to restore: it is qualified and need not wait again.
  (∀ (s : State) (i : Fin 8), s.held .mary = false → s.isRoot .mary = true → (s.ent i.val).stat = .wtr → Does (.refWtrEnd i) s (fun t =>
    (t.ent i.val).stat = .qualified ∧ (t.ent i.val).mustWtr = false ∧ t.leaf = s.leaf)) ∧
  -- REF_SIGNAL_PRESENT of a lost entry: it qualifies from the present edge.
  (∀ (s : State) (i : Fin 8), s.held .mary = false → s.isRoot .mary = true → (s.ent i.val).stat = .lost →
    exec (.refSignalPresent i) s = .next (s.modEnt i.val (fun e =>
    { e with stat := .qualifying, since := s.rc .mary, sinceNW := s.rc .mary })))

/-- O52. What holdover, software steering and the warm-up of a root do. HOLDOVER_K_UPDATE, SEL_MODE, SOFT_K, SOFT_TMO, OCXO_WARM_CHANGE,
OCXO_WAIT_EXPIRY and K_DAY_END, a clause for each form: under conditions on the state and the operands alone the command answers the
next state that the clause gives. Choices of the model where the spec is open: logs 57, 59. Basis: derived
(14_references_and_holdover.md). -/
def Obligations.SelectorSteering : Prop :=
  -- HOLDOVER_K_UPDATE in HOLDOVER: the second goes up by one and the root's domain will take K_HO with its ageing, clamped.
  (∀ (s : State), s.held .mary = false → s.isRoot .mary = true → s.mary.sel.st = .holdover →
    (let k : Int := (s.mary.sel.kHo.toNat : Int) + truncDiv (s.ageComp * ((s.mary.sel.holdSec + 1 : Nat) : Int)) 86400;
    Does .holdoverKUpdate s (fun t => t.mary.sel = { s.mary.sel with holdSec := s.mary.sel.holdSec + 1 } ∧
    ((t.time .mary).dom s.rootDom).kPend = some (clampK k).1 ∧ ((t.time .mary).dom s.rootDom).set = ((s.time .mary).dom s.rootDom).set ∧
    t.leaf = s.leaf))) ∧
  -- SEL_MODE set to software in LOCKED or HOLDOVER: the selector is in SOFTLOOP with no target.
  (∀ (s : State) (src : Src), s.takes .mary src 0x980C4 = true → (s.mary.sel.st = .locked ∨ s.mary.sel.st = .holdover) →
    Does (.selMode src true) s (fun t => t.mary.sel.st = .softloop ∧ t.mary.sel.softMode = true ∧ t.mary.sel.softTgt = none ∧
    t.cellar = s.cellar ∧ t.leaf = s.leaf)) ∧
  -- SEL_MODE set to software in ACQUIRE: the selector is as before.
  (∀ (s : State) (src : Src), s.takes .mary src 0x980C4 = true → s.mary.sel.st = .acquire → Does (.selMode src true) s (fun t =>
    t.mary.sel = s.mary.sel ∧ t.cellar = s.cellar ∧ t.leaf = s.leaf)) ∧
  -- SEL_MODE set to automatic in SOFTLOOP with no entry eligible: the selector is in HOLDOVER from now.
  (∀ (s : State) (src : Src), s.takes .mary src 0x980C4 = true → s.mary.sel.st = .softloop → s.mary.sel.selected = none → (∀ i, i < 8 →
    s.eligible i = false) → Does (.selMode src false) s (fun t => t.mary.sel.st = .holdover ∧ t.mary.sel.softMode = false ∧
    t.mary.sel.softTgt = none ∧ t.mary.sel.holdSec = 0 ∧ t.cellar = s.cellar ∧ t.leaf = s.leaf)) ∧
  -- SOFT_K accepted in SOFTLOOP: the clamped K is the target from now.
  (∀ (s : State) (src : Src) (k : BitVec 48), s.takes .mary src 0x980CC = true → s.mary.sel.st = .softloop →
    Does (.softK src k) s (fun t => t.mary.sel = { s.mary.sel with softTgt := some (clampK (k.toNat : Int)).1, softAt := s.rc .mary } ∧
    t.cellar = s.cellar ∧ t.leaf = s.leaf)) ∧
  -- SOFT_K in another state: nothing changes.
  (∀ (s : State) (src : Src) (k : BitVec 48), s.takes .mary src 0x980CC = true → s.mary.sel.st ≠ .softloop →
    exec (.softK src k) s = .next (s.opened .mary src)) ∧
  -- SOFT_TMO in SOFTLOOP: the selector is in HOLDOVER, the event bit is set.
  (∀ (s : State), s.held .mary = false → s.isRoot .mary = true → s.mary.sel.st = .softloop → Does .softTmo s (fun t =>
    t.mary.sel.st = .holdover ∧ t.mary.sel.softTgt = none ∧ t.mary.sel.evt = setBit s.mary.sel.evt 3 ∧ t.cellar = s.cellar ∧
    t.leaf = s.leaf)) ∧
  -- SOFT_TMO in another state: nothing changes.
  (∀ (s : State), s.held .mary = false → s.mary.sel.st ≠ .softloop → exec .softTmo s = .next (s.convRefresh .mary)) ∧
  -- OCXO_WARM_CHANGE to low at a root while high: OCXO is not warm, its interrupt bit is set, that it was warm stays known.
  (∀ (s : State), s.held .mary = false → s.isRoot .mary = true → s.mary.sel.warm = true →
    exec (.ocxoWarmChange false) s = .next ((s.modSel (fun x => { x with warm := false, warmOk := x.warmOk || false })).raiseRef 0)) ∧
  -- OCXO_WARM_CHANGE to high at a root: OCXO is warm and was warm, and the selector acts on it.
  (∀ (s : State), s.held .mary = false → s.isRoot .mary = true → exec (.ocxoWarmChange true) s = .next (s.modSel (fun x =>
    { x with warm := true, warmOk := true })).selAct) ∧
  -- OCXO_WARM_CHANGE while the Maryel is held: only the pin changes.
  (∀ (s : State) (v : Bool), s.held .mary = true → exec (.ocxoWarmChange v) s = .next (s.modSel (fun x => { x with warm := v }))) ∧
  -- OCXO_WAIT_EXPIRY at a root that was not warm: OCXO_WAIT seconds after the release it counts as warm, the interrupt bit is set and
  -- the selector acts on it.
  (∀ (s : State), s.held .mary = false → s.isRoot .mary = true → s.mary.sel.warmOk = false →
    exec .ocxoWaitExpiry s = .next (((s.advAfter .mary s.mary.porstAt (s.effFld .mary 0x9831C 11 0 * cyclesS)).modSel (fun x =>
    { x with warmOk := true })).raiseRef 0).selAct) ∧
  -- K_DAY_END with no PHASE entry locked: the day's sum starts again, nothing else of the selector changes.
  (∀ (s : State), s.held .mary = false → s.isRoot .mary = true → s.rootHasHt = true → s.mary.sel.phaseAt = none →
    Does .kDayEnd s (fun t => t.mary.sel = { s.mary.sel with daySum := (0, 0) } ∧ t.leaf = s.leaf)) ∧
  -- K_DAY_END of a whole day LOCKED on a PHASE entry: the day's mean K is kept, the one before it too, the days go up by one and the sum
  -- starts again.
  (∀ (s : State) (p : Nat), s.held .mary = false → s.isRoot .mary = true → s.rootHasHt = true → s.mary.sel.phaseAt = some p →
    s.mary.sel.st = .locked → s.mary.sel.daySum.2 ≠ 0 →
    p * 2 ^ 24 ≤ (s.htDom .mary s.rootDom / (86400 * 1000000000 * nsTu)) * (86400 * 1000000000 * nsTu) → Does .kDayEnd s (fun t =>
    t.mary.sel.kDayPrev = s.mary.sel.kDay ∧ t.mary.sel.days = s.mary.sel.days + 1 ∧ t.mary.sel.daySum = (0, 0) ∧
    t.mary.sel.kDay = BitVec.ofNat 48 ((2 * s.mary.sel.daySum.1 + s.mary.sel.daySum.2) / (2 * s.mary.sel.daySum.2)) ∧
    t.mary.sel.st = .locked ∧ t.leaf = s.leaf))

/-- O53. What setting and stepping a root's time does. ROOT_STEP, ROOT_HT_SET and ROOT_SEC_NEXT, a clause for each form: under conditions on
the state and the operands alone the command answers the next state that the clause gives. Choices of the model where the spec is open:
log 58. Basis: derived (14_references_and_holdover.md). -/
def Obligations.RootTimeSet : Prop :=
  -- ROOT_STEP with members: it is refused and counted, selector and time are as before.
  (∀ (s : State) (src : Src), s.takes .mary src 0x980D0 = true → s.anyMembers = true → Does (.rootStep src) s (fun t =>
    t.mary.sel = s.mary.sel ∧ t.maryN.time = s.maryN.time ∧
    t.count .mary (offTimeRefused .mary) = satInc (s.count .mary (offTimeRefused .mary)) ∧ t.cellar = s.cellar ∧ t.leaf = s.leaf)) ∧
  -- ROOT_STEP accepted at a root with HT, no members and no entry eligible: the selector is in FREERUN, stepped, and HT is not valid.
  (∀ (s : State) (src : Src), s.takes .mary src 0x980D0 = true → s.anyMembers = false → s.rootHasHt = true → (∀ i, i < 8 →
    s.eligible i = false) → Does (.rootStep src) s (fun t => t.mary.sel.st = .freerun ∧ t.mary.sel.selected = none ∧
    t.mary.sel.stepped = true ∧ (t.time .mary).noht = true ∧ t.leaf = s.leaf)) ∧
  -- ROOT_STEP at a root without HT: nothing changes.
  (∀ (s : State) (src : Src), s.takes .mary src 0x980D0 = true → s.anyMembers = false → s.rootHasHt = false →
    exec (.rootStep src) s = .next (s.opened .mary src)) ∧
  -- ROOT_HT_SET accepted in FREERUN without HT and members, of an HT in range: it waits to be taken.
  (∀ (s : State) (src : Src) (v : Ht96), s.takes .mary src 0x980E0 = true → s.anyMembers = false → htNs v ≤ 999999999 →
    tuNs (tuOfHt v) < htBound → s.mary.sel.st = .freerun → s.rootHasHt = false →
    exec (.rootHtSet src v) s = .next ((s.opened .mary src).modSel (fun x => { x with htSet := some (tuOfHt v) }))) ∧
  -- ROOT_HT_SET with members or an HT out of range: it is refused and counted, selector and time are as before.
  (∀ (s : State) (src : Src) (v : Ht96), s.takes .mary src 0x980E0 = true →
    (s.anyMembers = true ∨ 999999999 < htNs v ∨ htBound ≤ tuNs (tuOfHt v)) → Does (.rootHtSet src v) s (fun t => t.mary.sel = s.mary.sel ∧
    t.maryN.time = s.maryN.time ∧ t.count .mary (offTimeRefused .mary) = satInc (s.count .mary (offTimeRefused .mary)) ∧
    t.cellar = s.cellar ∧ t.leaf = s.leaf)) ∧
  -- ROOT_SEC_NEXT accepted at a non-root or in SOFTLOOP: the second waits as the label.
  (∀ (s : State) (src : Src) (v : BitVec 48), s.takes .mary src 0x980EC = true → s.isRoot .mary = false ∨ s.mary.sel.st = .softloop →
    exec (.rootSecNext src v) s = .next ((s.opened .mary src).modSel (fun x => { x with secNext := some v }))) ∧
  -- ROOT_SEC_NEXT accepted at a root: the second waits as the label and the selector acts on it.
  (∀ (s : State) (src : Src) (v : BitVec 48), s.takes .mary src 0x980EC = true → s.isRoot .mary = true →
    exec (.rootSecNext src v) s = .next (((s.opened .mary src).modSel (fun x =>
    { x with secNext := some v })).selAct.noteRefused .mary src))

/-- O54. What a root gives the site: pulses, the time of day and ESMC. PPS_OUT, TOD_SENTENCE, ESMC_RX, ESMC_SEND and ESMC_TIMEOUT, a clause
for each form: under conditions on the state and the operands alone the command answers the next state that the clause gives. Choices of
the model where the spec is open: logs 2, 119. Basis: derived (14_references_and_holdover.md). -/
def Obligations.SiteOutputs : Prop :=
  -- PPS_OUT of a live output at a root with HT, its pulse within the present second: the output holds the pulse's rise and fall.
  (∀ (s : State) (n : Fin 2), s.held .mary = false → s.isRoot .mary = true → s.rootHasHt = true → (let v := s.secondPicot;
    let p := nextPulse (tu16 (v.ht .mary)) (v.ppsOfs n.val); p < (tu16 (v.ht .mary) / sec16 + 1) * sec16 →
    v.outLive n.val (nearSec (p - v.ppsOfs n.val)) = true → Does (.ppsOut n) s (fun t =>
    vget t.mary.pps n.val none = some (p, p + v.ppsWidth) ∧ t.mary.sel = v.mary.sel ∧ t.cellar = v.cellar ∧ t.leaf = s.leaf))) ∧
  -- PPS_OUT of an output that is not live there: no pulse.
  (∀ (s : State) (n : Fin 2), s.held .mary = false → s.isRoot .mary = true → s.rootHasHt = true → (let v := s.secondPicot;
    let p := nextPulse (tu16 (v.ht .mary)) (v.ppsOfs n.val); p < (tu16 (v.ht .mary) / sec16 + 1) * sec16 →
    v.outLive n.val (nearSec (p - v.ppsOfs n.val)) = false → exec (.ppsOut n) s = .next v)) ∧
  -- PPS_OUT at a non-root or without HT: nothing changes.
  (∀ (s : State) (n : Fin 2), s.held .mary = false → s.isRoot .mary = false ∨ s.rootHasHt = false → exec (.ppsOut n) s = .next s) ∧
  -- TOD_SENTENCE of a live output: the sentence of the next second, with UTC offset, leap letter, state letter, clock class and holdover
  -- seconds.
  (∀ (s : State), s.held .mary = false → (let p := nextPulse (tu16 (s.ht .mary)) (10000000 * 65536); s.outLive 4 (p / sec16) = true →
    Does .todSentence s (fun t => t.mary.tod = todBytes (p / sec16 + 1) s.utcOffset (leapLetter (s.fld .mary 0x9821C 17 16))
      s.mary.sel.st.letter s.clockClass (if s.mary.sel.st = .holdover then s.mary.sel.holdSec else 0) ∧ t.mary.sel = s.mary.sel ∧
    t.cellar = s.cellar ∧ t.leaf = s.leaf))) ∧
  -- TOD_SENTENCE of an output that is not live: nothing changes.
  (∀ (s : State), s.held .mary = false → s.outLive 4 (nextPulse (tu16 (s.ht .mary)) (10000000 * 65536) / sec16) = false →
    exec .todSentence s = .next s) ∧
  -- ESMC_RX at a root of a quality its mask admits: the quality and its time are the port's.
  (∀ (s : State) (k : Fin 2) (q : BitVec 4), s.held .mary = false → s.isRoot .mary = true →
    (s.reg .mary (tReg k.val 0x20)).getLsbD (16 + q.toNat) = true → Does (.esmcRx k q) s (fun t => (t.ptpPort k.val).qlRx = q ∧
    (t.ptpPort k.val).qlBad = false ∧ (t.ptpPort k.val).esmcAt = s.rc .mary ∧ t.mary.sel = s.mary.sel ∧ t.cellar = s.cellar ∧
    t.leaf = s.leaf)) ∧
  -- ESMC_SEND at a root: the sent quality is the locked one in LOCKED and the other one else.
  (∀ (s : State) (k : Fin 2), s.held .mary = false → s.isRoot .mary = true → exec (.esmcSend k) s = .next (s.modPtp k.val (fun p =>
    { p with
            esmcSent := some (if s.mary.sel.st = .locked then (s.reg .mary (tReg k.val 0x20)).extractLsb' 0 4 else (s.reg .mary (tReg k.val 0x20)).extractLsb' 4 4) }))) ∧
  -- ESMC_TIMEOUT at a root: an enabled entry of that SyncE input is lost.
  (∀ (s : State) (k : Fin 2) (i : Fin 8), s.held .mary = false → s.isRoot .mary = true → refEn (s.ent i.val).word = true →
    refSrc (s.ent i.val).word = 6 + k.val → (s.ent i.val).stat ≠ .disabled → Does (.esmcTimeout k) s (fun t =>
    (t.ent i.val).stat = .lost ∧ t.cellar = s.cellar ∧ t.leaf = s.leaf))

/-- O55. What the IEEE 1588 ports of a root do. PTP_MESSAGE_RX and PTP_MESSAGE_SEND, a clause for each form: under conditions on the state
and the operands alone the command answers the next state that the clause gives. Choices of the model where the spec is open: log 69.
Basis: derived (14_references_and_holdover.md). -/
def Obligations.PtpPorts : Prop :=
  -- PTP_MESSAGE_RX of a malformed message at an enabled port: it is counted, the ports are as before.
  (∀ (s : State) (k : Fin 2) (m : PtpMsg), s.held .mary = false → s.ptpOn k.val = true → m.kind = .malformed →
    Does (.ptpMessageRx k m) s (fun t => t.count .mary (tReg k.val 0x100) = satInc (s.count .mary (tReg k.val 0x100)) ∧ t.mary = s.mary ∧
    t.cellar = s.cellar ∧ t.leaf = s.leaf)) ∧
  -- PTP_MESSAGE_RX of a Delay_Req in the port's domain at a master port: a Delay_Resp with the receive time less the ingress latency
  -- answers the requester.
  (∀ (s : State) (k : Fin 2) (m : PtpMsg), s.held .mary = false → s.ptpOn k.val = true → m.kind = .delayReq →
    m.domainNum.toNat = s.effFld .mary (tReg k.val 4) 6 0 → (s.ptpPort k.val).state = 6 → Does (.ptpMessageRx k m) s (fun t => (t.ptpPort
      k.val) = { s.ptpPort k.val with
            sent := [{ s.ptpMsg k.val .delayResp m.seqId (s.ptpLog k.val 24) with stamp := (m.rx : Int) - Config.ptpIngress k.val, requester := m.source }] }
      ∧ t.mary.sel = s.mary.sel ∧ t.cellar = s.cellar ∧ t.leaf = s.leaf)) ∧
  -- PTP_MESSAGE_RX of an Announce in the domain at a port without a master: the sender is its master.
  (∀ (s : State) (k : Fin 2) (m : PtpMsg), s.held .mary = false → s.ptpOn k.val = true → m.kind = .announce →
    m.domainNum.toNat = s.effFld .mary (tReg k.val 4) 6 0 → (s.ptpPort k.val).master = none → Does (.ptpMessageRx k m) s (fun t =>
    (t.ptpPort k.val).master = some m ∧ t.cellar = s.cellar ∧ t.leaf = s.leaf)) ∧
  -- PTP_MESSAGE_RX of a two-step Sync in the domain of the port's master: its sequence, receive time and correction are kept.
  (∀ (s : State) (k : Fin 2) (m : PtpMsg), s.held .mary = false → s.ptpOn k.val = true → m.kind = .sync → m.twoStep = true →
    m.domainNum.toNat = s.effFld .mary (tReg k.val 4) 6 0 → s.ptpFrom k.val m = true → Does (.ptpMessageRx k m) s (fun t =>
    (t.ptpPort k.val) = { s.ptpPort k.val with sync := some (m.seqId, none, (m.rx : Int) - Config.ptpIngress k.val, m.correction) } ∧
    t.cellar = s.cellar ∧ t.leaf = s.leaf)) ∧
  -- PTP_MESSAGE_RX at a port that is off, or of another domain: nothing changes.
  (∀ (s : State) (k : Fin 2) (m : PtpMsg), s.held .mary = false → s.ptpOn k.val = false ∨ (m.kind ≠ .malformed ∧
    m.domainNum.toNat ≠ s.effFld .mary (tReg k.val 4) 6 0) → exec (.ptpMessageRx k m) s = .next (s.convRefresh .mary)) ∧
  -- PTP_MESSAGE_SEND of Sync at a port that decides for master: the Sync messages are sent and the sequence goes up by one.
  (∀ (s : State) (k : Fin 2), s.held .mary = false → s.ptpOn k.val = true → s.ptpDecide k.val = 6 →
    Does (.ptpMessageSend k .sync) s (fun t => (t.ptpPort k.val).sent = (s.ptpUpdate k.val).ptpSyncMsgs k.val ∧
    (t.ptpPort k.val).seq = (s.ptpPort k.val).seq + 1 ∧ (t.ptpPort k.val).state = 6 ∧ t.maryN = s.maryN ∧ t.cellar = s.cellar ∧
    t.leaf = s.leaf)) ∧
  -- PTP_MESSAGE_SEND of Announce at a master port: the Announce with its content is sent and the sequence goes up by one.
  (∀ (s : State) (k : Fin 2), s.held .mary = false → s.ptpOn k.val = true → (let v := (s.commitAnnounce k.val).ptpUpdate k.val;
    (v.ptpPort k.val).state = 6 → Does (.ptpMessageSend k .announce) s (fun t => (t.ptpPort k.val).sent =
      [{ v.ptpMsg k.val .announce (v.ptpPort k.val).seq (v.ptpLog k.val 8) with ann := some (v.ptpAnnounce k.val) }] ∧
    (t.ptpPort k.val).seq = (v.ptpPort k.val).seq + 1 ∧ t.cellar = v.cellar ∧ t.leaf = s.leaf))) ∧
  -- PTP_MESSAGE_SEND of Delay_Req at a port that decides for slave: the request is sent, kept with its time, and the sequence goes up by
  -- one.
  (∀ (s : State) (k : Fin 2), s.held .mary = false → s.ptpOn k.val = true → s.ptpDecide k.val = 9 →
    Does (.ptpMessageSend k .delayReq) s (fun t => (let m := (s.ptpUpdate k.val).ptpMsg k.val .delayReq (s.ptpPort k.val).seq 127;
    (t.ptpPort k.val).sent = [m] ∧ (t.ptpPort k.val).dreq = some (m.seqId, m.at_)) ∧ (t.ptpPort k.val).seq = (s.ptpPort k.val).seq + 1 ∧
    (t.ptpPort k.val).state = 9 ∧ t.maryN = s.maryN ∧ t.cellar = s.cellar ∧ t.leaf = s.leaf)) ∧
  -- PTP_MESSAGE_SEND at a port that is off: nothing changes.
  (∀ (s : State) (k : Fin 2) (q : PtpSendKind), s.held .mary = false → s.ptpOn k.val = false → exec (.ptpMessageSend k q) s = .next s)

/-- O56. What cellar writes, ceiling raises and the keep-alive commands do. CELLAR_WRITE, RWP_SYNC, CEILING_RAISE, CEILING_RAISE_DONE,
KA_ANCHOR and KA_INVALIDATE, a clause for each form: under conditions on the state and the operands alone the command answers the next
state that the clause gives. Choices of the model where the spec is open: log 80. Basis: derived (15_cellar.md). -/
def Obligations.CellarWrites : Prop :=
  -- CELLAR_WRITE of the first queued word that ends no grant record and no wear block, the supply up and the cellar open: that word
  -- holds its value, every other word stays, its block's wear goes up by one.
  (∀ (s : State) (q : CelWord) (rest : List CelWord), s.held .mary = false → s.cellar.queue = q :: rest → s.cellar.supply = true →
    s.celClosed = false → ¬ (celGrant ≤ q.word ∧ q.word < celRwp ∧ q.word % 4 = 3) →
    ((sget s.cellar.wear (celBlock q.word)).getD 0 + 1) % 4096 ≠ 0 → s.canonical → Does .cellarWrite s (fun t => t.cellar.queue = rest ∧
    t.celWord q.word = q.val ∧ (∀ w, w ≠ q.word → t.celWord w = s.celWord w) ∧
    t.cellar.wear = sput s.cellar.wear (celBlock q.word) ((sget s.cellar.wear (celBlock q.word)).getD 0 + 1) ∧
    t.cellar.held = s.cellar.held ∧ t.cellar.raises = s.cellar.raises ∧ t.cellar.ka = s.cellar.ka ∧ t.maryN.regs = s.maryN.regs ∧
    t.maryN.root = s.maryN.root ∧ t.leafN = s.leafN ∧ t.leaf = s.leaf)) ∧
  -- CELLAR_WRITE of the last word of a grant record with its grant held first: the word holds its value and the SD's window is given.
  (∀ (s : State) (q : CelWord) (rest : List CelWord) (sd : Sd) (lo hi : W64) (hs : List (Family × HeldOp)), s.held .mary = false →
    s.cellar.queue = q :: rest → s.cellar.supply = true → s.celClosed = false → celGrant ≤ q.word ∧ q.word < celRwp ∧ q.word % 4 = 3 →
    ((sget s.cellar.wear (celBlock q.word)).getD 0 + 1) % 4096 ≠ 0 → s.canonical → s.cellar.held = (.step, .grant sd lo hi) :: hs →
    Does .cellarWrite s (fun t => t.cellar.queue = rest ∧ t.celWord q.word = q.val ∧ (∀ w, w ≠ q.word → t.celWord w = s.celWord w) ∧
    t.cellar.held = hs ∧ t.root .mary = (s.setWin .mary sd lo hi).root .mary ∧ t.maryN.regs = s.maryN.regs ∧ t.leafN = s.leafN ∧
    t.leaf = s.leaf)) ∧
  -- CELLAR_WRITE with the supply down: nothing changes.
  (∀ (s : State), s.held .mary = false → s.cellar.supply = false → exec .cellarWrite s = .next s) ∧
  -- CELLAR_WRITE with an empty queue or a closed cellar: nothing changes.
  (∀ (s : State), s.held .mary = false → s.cellar.queue = [] ∨ s.celClosed = true → exec .cellarWrite s = .next s) ∧
  -- RWP_SYNC of a host with RWP words waiting: the host waits for them.
  (∀ (s : State) (h : Fin 4), s.takes .mary (.host h) 0xF0010 = true → s.rwpPend = true →
    exec (.rwpSync (.host h)) s = .next ((s.opened .mary (.host h)).modPort h (fun p => { p with sync := true }))) ∧
  -- RWP_SYNC with none waiting: nothing changes.
  (∀ (s : State) (h : Fin 4), s.takes .mary (.host h) 0xF0010 = true → s.rwpPend = false →
    exec (.rwpSync (.host h)) s = .next (s.opened .mary (.host h))) ∧
  -- CEILING_RAISE of the first raise, none in progress, the supply up, the cellar open and nothing before it: both copies hold the
  -- ceiling, no other word changes and the raise is in progress; the ceiling in effect stays.
  (∀ (s : State) (r : Raise) (rest : List Raise), s.held .mary = false → s.cellar.raises = r :: rest → s.cellar.raising = none →
    s.cellar.supply = true → s.celClosed = false → s.ceilWaits = false → s.famCtr r.fam ≤ r.ceil → s.canonical →
    ((sget s.cellar.wear (celBlock (celCeilA + r.fam.word))).getD 0 + 1) % 4096 ≠ 0 →
    ((sget s.cellar.wear (celBlock (celCeilB + r.fam.word))).getD 0 + 1) % 4096 ≠ 0 → Does .ceilingRaise s (fun t =>
    t.cellar.raising = some r ∧ t.cellar.raises = rest ∧ t.cellar.raiseAt = some (t.rc .mary) ∧
    t.celWord (celCeilA + r.fam.word) = BitVec.ofNat 64 r.ceil ∧ t.celWord (celCeilB + r.fam.word) = BitVec.ofNat 64 r.ceil ∧
    (∀ w, w ≠ celCeilA + r.fam.word → w ≠ celCeilB + r.fam.word → t.celWord w = s.celWord w) ∧ t.cellar.queue = s.cellar.queue ∧
    t.cellar.held = s.cellar.held ∧ t.famCeil r.fam = s.famCeil r.fam ∧ t.maryN.root = s.maryN.root ∧ t.maryN.regs = s.maryN.regs ∧
    t.mary = s.mary ∧ SameLeaf s t)) ∧
  -- CEILING_RAISE of a raise below the counter that nothing waits for: it is dropped.
  (∀ (s : State) (r : Raise) (rest : List Raise), s.held .mary = false → s.cellar.raises = r :: rest → s.cellar.raising = none →
    s.cellar.supply = true → s.celClosed = false → s.ceilWaits = false → r.ceil < s.famCtr r.fam → s.cellar.held.filter (heldFor r) = [] →
    exec .ceilingRaise s = .next (s.modCellar (fun c => { c with raises := rest }))) ∧
  -- CEILING_RAISE_DONE with both copies read back and nothing held for it: the ceiling in effect is the larger, other families' stay and
  -- none is in progress.
  (∀ (s : State) (r : Raise), s.held .mary = false → s.cellar.raising = some r → s.ceilCopies r.fam = [r.ceil, r.ceil] →
    s.cellar.held.filter (heldFor r) = [] → Does .ceilingRaiseDone s (fun t => t.famCeil r.fam = max (s.famCeil r.fam) r.ceil ∧
    (∀ f, f ≠ r.fam → t.famCeil f = s.famCeil f) ∧ t.cellar.raising = none ∧ t.cellar.mem = s.cellar.mem ∧
    t.cellar.queue = s.cellar.queue ∧ t.cellar.raises = s.cellar.raises ∧ t.cellar.held = s.cellar.held ∧ t.maryN = s.maryN ∧
    t.mary = s.mary ∧ SameLeaf s t)) ∧
  -- CEILING_RAISE_DONE with one floor held for it: the counter and the ceiling are the floor, which is no longer held.
  (∀ (s : State) (r : Raise) (v : W64) (src : Src), s.held .mary = false → s.cellar.raising = some r →
    s.ceilCopies r.fam = [r.ceil, r.ceil] → s.cellar.held = [(r.fam, .floor src v)] → v.toNat = r.ceil → v.toNat ≤ r.fam.cap →
    (s.ctrOf .mary r.fam) < v.toNat → Does .ceilingRaiseDone s (fun t => t.ctrOf .mary r.fam = v.toNat ∧ t.famCeil r.fam = v.toNat ∧
    t.cellar.raising = none ∧ t.cellar.held = [] ∧ t.cellar.mem = s.cellar.mem ∧ t.cellar.lost = s.cellar.lost.filter (fun x =>
    !decide (x = r.fam)) ∧ t.maryN.regs = s.maryN.regs ∧ t.maryN.cells = s.maryN.cells ∧ SameLeaf s t)) ∧
  -- KA_ANCHOR at a root LOCKED on a PHASE entry: the anchor is the count, the rate and the present second, valid.
  (∀ (s : State) (cnt rate : BitVec 48), s.held .mary = false → s.isRoot .mary = true → s.lockedPhase = true →
    Does (.kaAnchor cnt rate) s (fun t => t.cellar = { s.cellar with
            ka := { s.cellar.ka with cnt := cnt, ancCnt := cnt, rate := rate, valid := true, ancSec := t.cellar.ka.ancSec } } ∧
    t.cellar.ka.ancSec = BitVec.ofNat 48 (t.htDom .mary t.rootDom / (1000000000 * nsTu)) ∧ t.maryN.regs = s.maryN.regs ∧
    t.maryN.root = s.maryN.root ∧ t.maryN.cells = s.maryN.cells ∧ t.mary = s.mary ∧ SameLeaf s t)) ∧
  -- KA_ANCHOR elsewhere: nothing changes.
  (∀ (s : State) (cnt rate : BitVec 48), s.held .mary = false → s.isRoot .mary = false ∨ s.lockedPhase = false →
    exec (.kaAnchor cnt rate) s = .next s) ∧
  -- KA_INVALIDATE: the keep-alive anchor is not valid, and nothing else changes.
  (∀ (s : State) (w : KaLoss), exec (.kaInvalidate w) s = .next (s.modCellar (fun c => { c with ka := { c.ka with valid := false } })))

/-- O57. What scrubbing, the ageing history and the erase of the cellar do. CELLAR_SCRUB, HIST_FILE, CEL_ERASE and CEL_ERASE_DONE, a clause
for each form: under conditions on the state and the operands alone the command answers the next state that the clause gives. Choices of
the model where the spec is open: logs 82, 83. Basis: derived (15_cellar.md). -/
def Obligations.CellarCare : Prop :=
  -- CELLAR_SCRUB that finds nothing: nothing changes.
  (∀ (s : State) (w : BitVec 20), s.held .mary = false → exec (.cellarScrub w .clean) s = .next s) ∧
  -- CELLAR_SCRUB that corrects a word waiting to be written: it is counted.
  (∀ (s : State) (w : BitVec 20), s.held .mary = false → s.cellar.queue.any (fun q => q.word == w.toNat) = true →
    exec (.cellarScrub w .corrected) s = .next (s.bump .mary 0xF0100)) ∧
  -- CELLAR_SCRUB that corrects another word: it is counted and the word is written again.
  (∀ (s : State) (w : BitVec 20), s.held .mary = false → s.cellar.queue.any (fun q => q.word == w.toNat) = false →
    exec (.cellarScrub w .corrected) s = .next ((s.bump .mary 0xF0100).celPut w.toNat (s.celWord w.toNat))) ∧
  -- CELLAR_SCRUB of an uncorrectable word of the RWP, profile or later tables: it is counted, the interrupt bit is set and the word is
  -- not readable; the medium is as before.
  (∀ (s : State) (w : BitVec 20), s.held .mary = false → celRwp ≤ w.toNat → w.toNat < celWear ∨ celProf ≤ w.toNat →
    Does (.cellarScrub w .uncorrectable) s (fun t => t.count .mary 0xF0104 = satInc (s.count .mary 0xF0104) ∧
    t.maryN.irq.getLsbD 12 = true ∧ w.toNat ∈ t.cellar.bad ∧ t.cellar.mem = s.cellar.mem ∧ t.cellar.queue = s.cellar.queue ∧
    t.maryN.regs = s.maryN.regs ∧ t.mary = s.mary ∧ SameLeaf s t)) ∧
  -- CELLAR_SCRUB of an uncorrectable ceiling at a root whose other copy is not readable: the family is lost and the event bit is set
  -- too.
  (∀ (s : State) (w : BitVec 20) (f : Family), s.held .mary = false → s.isRoot .mary = true → celCeilA ≤ w.toNat → w.toNat < celCeilB →
    famOfWord (w.toNat - celCeilA) = some f → s.celOk (w.toNat + 0x2000) = false → f ∉ s.cellar.lost →
    Does (.cellarScrub w .uncorrectable) s (fun t => t.cellar.lost = s.cellar.lost ++ [f] ∧ (t.root .mary).evt.getLsbD 2 = true ∧
    t.maryN.irq.getLsbD 12 = true ∧ t.count .mary 0xF0104 = satInc (s.count .mary 0xF0104) ∧ w.toNat ∈ t.cellar.bad ∧
    t.cellar.mem = s.cellar.mem ∧ t.maryN.regs = s.maryN.regs ∧ t.mary = s.mary ∧ SameLeaf s t)) ∧
  -- HIST_FILE while the engine does not run: nothing changes.
  (∀ (s : State), s.held .mary = false → s.mary.me.state ≠ 1 → exec .histFile s = .next s) ∧
  -- HIST_FILE while it runs and a second is due: the engine's counts start again; registers, cells and the root are as before.
  (∀ (s : State) (n : Nat), s.held .mary = false → s.mary.me.state = 1 → s.histSec = some n → Does .histFile s (fun t =>
    t.mary = { s.mary with me := { s.mary.me with far := [], leafs := [] } } ∧ t.maryN.regs = s.maryN.regs ∧
    t.maryN.cells = s.maryN.cells ∧ t.maryN.root = s.maryN.root ∧ SameLeaf s t)) ∧
  -- HIST_FILE the first time: only that second is noted.
  (∀ (s : State) (n : Nat), s.held .mary = false → s.mary.me.state = 1 → s.histSec = some n → s.cellar.histAt = none →
    Does .histFile s (fun t => t.cellar.histAt = some n ∧ t.maryN = s.maryN ∧
    t.mary = { s.mary with me := { s.mary.me with far := [], leafs := [] } } ∧ SameLeaf s t)) ∧
  -- CEL_ERASE accepted with the key, every cell OFF, nothing bound and no reservation queued: the erase runs, the queue is empty, the
  -- anchor is not valid.
  (∀ (s : State) (src : Src), s.takes .mary src 0xF0008 = true → s.celClosed = false → src ∈ s.cellar.eraseKey →
    s.cellsWith .mary (fun c => decide (c.ts ≠ .off)) = [] → (s.root .mary).binds = [] → s.reservationQueued = false →
    exec (.celErase src true) s = .next ((s.opened .mary src).modCellar (fun c =>
    { c with eraseKey := c.eraseKey.filter (fun x => !decide (x = src)), busy := true, queue := [], ka := { c.ka with valid := false } }))) ∧
  -- CEL_ERASE accepted with the key otherwise: the key goes, the refusal is counted.
  (∀ (s : State) (src : Src), s.takes .mary src 0xF0008 = true → s.celClosed = false → src ∈ s.cellar.eraseKey →
    (s.cellsWith .mary (fun c => decide (c.ts ≠ .off)) ≠ [] ∨ (s.root .mary).binds ≠ [] ∨ s.reservationQueued = true) →
    Does (.celErase src true) s (fun t => t.cellar = { s.cellar with eraseKey := s.cellar.eraseKey.filter (fun x => !decide (x = src)) } ∧
    t.count .mary 0xF0108 = satInc (s.count .mary 0xF0108) ∧ t.maryN.regs = s.maryN.regs ∧ SameLeaf s t)) ∧
  -- CEL_ERASE without the key: nothing changes.
  (∀ (s : State) (src : Src), s.takes .mary src 0xF0008 = true → src ∉ s.cellar.eraseKey →
    exec (.celErase src true) s = .next (s.opened .mary src)) ∧
  -- CEL_ERASE_DONE of an erase with the supply up: it has ended, the Maryel waits for its reset and the history starts at 0.
  (∀ (s : State), s.held .mary = false → s.cellar.busy = true → s.cellar.supply = true → Does .celEraseDone s (fun t =>
    t.cellar.busy = false ∧ t.cellar.waitRst = true ∧ t.cellar.histPos = 0 ∧ t.cellar.ka = s.cellar.ka ∧ t.cellar.held = s.cellar.held ∧
    t.maryN = s.maryN ∧ t.mary = s.mary ∧ SameLeaf s t))
end

