-- ==== Sys2Proof/Laws/State.lean ====
section
/-! SUPPORT. What each named update of the state leaves as it was, one lemma a part, and what it makes of the part it changes. -/

namespace Sys2Proof.Machine

variable (s : State)

/-! `modNode` -/
@[simp] theorem State.modNode_leaf (k : NodeSel) (f : {n : Nat} → Node n → Node n) : (s.modNode k f).leaf = s.leaf := by cases k <;> rfl
@[simp] theorem State.modNode_mary (k : NodeSel) (f : {n : Nat} → Node n → Node n) : (s.modNode k f).mary = s.mary := by cases k <;> rfl
@[simp] theorem State.modNode_cellar (k : NodeSel) (f : {n : Nat} → Node n → Node n) : (s.modNode k f).cellar = s.cellar := by cases k <;> rfl
@[simp] theorem State.modNode_freeCtr (k : NodeSel) (f : {n : Nat} → Node n → Node n) : (s.modNode k f).freeCtr = s.freeCtr := by cases k <;> rfl
@[simp] theorem State.modNode_pending (k : NodeSel) (f : {n : Nat} → Node n → Node n) : (s.modNode k f).pending = s.pending := by cases k <;> rfl
@[simp] theorem State.modNode_maryN (f : {n : Nat} → Node n → Node n) : (s.modNode .leaf f).maryN = s.maryN := rfl
@[simp] theorem State.modNode_leafN (f : {n : Nat} → Node n → Node n) : (s.modNode .mary f).leafN = s.leafN := rfl
/-! `modTime` -/
@[simp] theorem State.modTime_leaf (k : NodeSel) (f : TimeCore → TimeCore) : (s.modTime k f).leaf = s.leaf := by cases k <;> rfl
@[simp] theorem State.modTime_mary (k : NodeSel) (f : TimeCore → TimeCore) : (s.modTime k f).mary = s.mary := by cases k <;> rfl
@[simp] theorem State.modTime_cellar (k : NodeSel) (f : TimeCore → TimeCore) : (s.modTime k f).cellar = s.cellar := by cases k <;> rfl
@[simp] theorem State.modTime_freeCtr (k : NodeSel) (f : TimeCore → TimeCore) : (s.modTime k f).freeCtr = s.freeCtr := by cases k <;> rfl
@[simp] theorem State.modTime_pending (k : NodeSel) (f : TimeCore → TimeCore) : (s.modTime k f).pending = s.pending := by cases k <;> rfl
@[simp] theorem State.modTime_maryN (f : TimeCore → TimeCore) : (s.modTime .leaf f).maryN = s.maryN := rfl
@[simp] theorem State.modTime_leafN (f : TimeCore → TimeCore) : (s.modTime .mary f).leafN = s.leafN := rfl
/-! `modDom` -/
@[simp] theorem State.modDom_leaf (k : NodeSel) (d : Dom) (f : DomCore → DomCore) : (s.modDom k d f).leaf = s.leaf := by cases k <;> rfl
@[simp] theorem State.modDom_mary (k : NodeSel) (d : Dom) (f : DomCore → DomCore) : (s.modDom k d f).mary = s.mary := by cases k <;> rfl
@[simp] theorem State.modDom_cellar (k : NodeSel) (d : Dom) (f : DomCore → DomCore) : (s.modDom k d f).cellar = s.cellar := by cases k <;> rfl
@[simp] theorem State.modDom_freeCtr (k : NodeSel) (d : Dom) (f : DomCore → DomCore) : (s.modDom k d f).freeCtr = s.freeCtr := by cases k <;> rfl
@[simp] theorem State.modDom_pending (k : NodeSel) (d : Dom) (f : DomCore → DomCore) : (s.modDom k d f).pending = s.pending := by cases k <;> rfl
@[simp] theorem State.modDom_maryN (d : Dom) (f : DomCore → DomCore) : (s.modDom .leaf d f).maryN = s.maryN := rfl
@[simp] theorem State.modDom_leafN (d : Dom) (f : DomCore → DomCore) : (s.modDom .mary d f).leafN = s.leafN := rfl
/-! `modBs` -/
@[simp] theorem State.modBs_leaf (k : NodeSel) (f : BsPort → BsPort) : (s.modBs k f).leaf = s.leaf := by cases k <;> rfl
@[simp] theorem State.modBs_mary (k : NodeSel) (f : BsPort → BsPort) : (s.modBs k f).mary = s.mary := by cases k <;> rfl
@[simp] theorem State.modBs_cellar (k : NodeSel) (f : BsPort → BsPort) : (s.modBs k f).cellar = s.cellar := by cases k <;> rfl
@[simp] theorem State.modBs_freeCtr (k : NodeSel) (f : BsPort → BsPort) : (s.modBs k f).freeCtr = s.freeCtr := by cases k <;> rfl
@[simp] theorem State.modBs_pending (k : NodeSel) (f : BsPort → BsPort) : (s.modBs k f).pending = s.pending := by cases k <;> rfl
@[simp] theorem State.modBs_maryN (f : BsPort → BsPort) : (s.modBs .leaf f).maryN = s.maryN := rfl
@[simp] theorem State.modBs_leafN (f : BsPort → BsPort) : (s.modBs .mary f).leafN = s.leafN := rfl
/-! `modRoot` -/
@[simp] theorem State.modRoot_leaf (k : NodeSel) (f : Root → Root) : (s.modRoot k f).leaf = s.leaf := by cases k <;> rfl
@[simp] theorem State.modRoot_mary (k : NodeSel) (f : Root → Root) : (s.modRoot k f).mary = s.mary := by cases k <;> rfl
@[simp] theorem State.modRoot_cellar (k : NodeSel) (f : Root → Root) : (s.modRoot k f).cellar = s.cellar := by cases k <;> rfl
@[simp] theorem State.modRoot_freeCtr (k : NodeSel) (f : Root → Root) : (s.modRoot k f).freeCtr = s.freeCtr := by cases k <;> rfl
@[simp] theorem State.modRoot_pending (k : NodeSel) (f : Root → Root) : (s.modRoot k f).pending = s.pending := by cases k <;> rfl
@[simp] theorem State.modRoot_maryN (f : Root → Root) : (s.modRoot .leaf f).maryN = s.maryN := rfl
@[simp] theorem State.modRoot_leafN (f : Root → Root) : (s.modRoot .mary f).leafN = s.leafN := rfl
/-! `modSrcBuf` -/
@[simp] theorem State.modSrcBuf_leaf (k : NodeSel) (src : Src) (f : SrcBuf → SrcBuf) : (s.modSrcBuf k src f).leaf = s.leaf := by cases k <;> rfl
@[simp] theorem State.modSrcBuf_mary (k : NodeSel) (src : Src) (f : SrcBuf → SrcBuf) : (s.modSrcBuf k src f).mary = s.mary := by cases k <;> rfl
@[simp] theorem State.modSrcBuf_cellar (k : NodeSel) (src : Src) (f : SrcBuf → SrcBuf) : (s.modSrcBuf k src f).cellar = s.cellar := by cases k <;> rfl
@[simp] theorem State.modSrcBuf_freeCtr (k : NodeSel) (src : Src) (f : SrcBuf → SrcBuf) : (s.modSrcBuf k src f).freeCtr = s.freeCtr := by cases k <;> rfl
@[simp] theorem State.modSrcBuf_pending (k : NodeSel) (src : Src) (f : SrcBuf → SrcBuf) : (s.modSrcBuf k src f).pending = s.pending := by cases k <;> rfl
@[simp] theorem State.modSrcBuf_maryN (src : Src) (f : SrcBuf → SrcBuf) : (s.modSrcBuf .leaf src f).maryN = s.maryN := rfl
@[simp] theorem State.modSrcBuf_leafN (src : Src) (f : SrcBuf → SrcBuf) : (s.modSrcBuf .mary src f).leafN = s.leafN := rfl
/-! `modCell` -/
@[simp] theorem State.modCell_leaf (k : NodeSel) (i : Nat) (f : Cell → Cell) : (s.modCell k i f).leaf = s.leaf := by cases k <;> rfl
@[simp] theorem State.modCell_mary (k : NodeSel) (i : Nat) (f : Cell → Cell) : (s.modCell k i f).mary = s.mary := by cases k <;> rfl
@[simp] theorem State.modCell_cellar (k : NodeSel) (i : Nat) (f : Cell → Cell) : (s.modCell k i f).cellar = s.cellar := by cases k <;> rfl
@[simp] theorem State.modCell_freeCtr (k : NodeSel) (i : Nat) (f : Cell → Cell) : (s.modCell k i f).freeCtr = s.freeCtr := by cases k <;> rfl
@[simp] theorem State.modCell_pending (k : NodeSel) (i : Nat) (f : Cell → Cell) : (s.modCell k i f).pending = s.pending := by cases k <;> rfl
@[simp] theorem State.modCell_maryN (i : Nat) (f : Cell → Cell) : (s.modCell .leaf i f).maryN = s.maryN := rfl
@[simp] theorem State.modCell_leafN (i : Nat) (f : Cell → Cell) : (s.modCell .mary i f).leafN = s.leafN := rfl
/-! `modDly` -/
@[simp] theorem State.modDly_leaf (k : NodeSel) (i : Nat) (f : Delay → Delay) : (s.modDly k i f).leaf = s.leaf := by cases k <;> rfl
@[simp] theorem State.modDly_mary (k : NodeSel) (i : Nat) (f : Delay → Delay) : (s.modDly k i f).mary = s.mary := by cases k <;> rfl
@[simp] theorem State.modDly_cellar (k : NodeSel) (i : Nat) (f : Delay → Delay) : (s.modDly k i f).cellar = s.cellar := by cases k <;> rfl
@[simp] theorem State.modDly_freeCtr (k : NodeSel) (i : Nat) (f : Delay → Delay) : (s.modDly k i f).freeCtr = s.freeCtr := by cases k <;> rfl
@[simp] theorem State.modDly_pending (k : NodeSel) (i : Nat) (f : Delay → Delay) : (s.modDly k i f).pending = s.pending := by cases k <;> rfl
@[simp] theorem State.modDly_maryN (i : Nat) (f : Delay → Delay) : (s.modDly .leaf i f).maryN = s.maryN := rfl
@[simp] theorem State.modDly_leafN (i : Nat) (f : Delay → Delay) : (s.modDly .mary i f).leafN = s.leafN := rfl
/-! `modRetry` -/
@[simp] theorem State.modRetry_leaf (k : NodeSel) (i : Nat) (f : Retry → Retry) : (s.modRetry k i f).leaf = s.leaf := by cases k <;> rfl
@[simp] theorem State.modRetry_mary (k : NodeSel) (i : Nat) (f : Retry → Retry) : (s.modRetry k i f).mary = s.mary := by cases k <;> rfl
@[simp] theorem State.modRetry_cellar (k : NodeSel) (i : Nat) (f : Retry → Retry) : (s.modRetry k i f).cellar = s.cellar := by cases k <;> rfl
@[simp] theorem State.modRetry_freeCtr (k : NodeSel) (i : Nat) (f : Retry → Retry) : (s.modRetry k i f).freeCtr = s.freeCtr := by cases k <;> rfl
@[simp] theorem State.modRetry_pending (k : NodeSel) (i : Nat) (f : Retry → Retry) : (s.modRetry k i f).pending = s.pending := by cases k <;> rfl
@[simp] theorem State.modRetry_maryN (i : Nat) (f : Retry → Retry) : (s.modRetry .leaf i f).maryN = s.maryN := rfl
@[simp] theorem State.modRetry_leafN (i : Nat) (f : Retry → Retry) : (s.modRetry .mary i f).leafN = s.leafN := rfl
/-! `bump` -/
@[simp] theorem State.bump_leaf (k : NodeSel) (off : Nat) : (s.bump k off).leaf = s.leaf := by cases k <;> rfl
@[simp] theorem State.bump_mary (k : NodeSel) (off : Nat) : (s.bump k off).mary = s.mary := by cases k <;> rfl
@[simp] theorem State.bump_cellar (k : NodeSel) (off : Nat) : (s.bump k off).cellar = s.cellar := by cases k <;> rfl
@[simp] theorem State.bump_freeCtr (k : NodeSel) (off : Nat) : (s.bump k off).freeCtr = s.freeCtr := by cases k <;> rfl
@[simp] theorem State.bump_pending (k : NodeSel) (off : Nat) : (s.bump k off).pending = s.pending := by cases k <;> rfl
@[simp] theorem State.bump_maryN (off : Nat) : (s.bump .leaf off).maryN = s.maryN := rfl
@[simp] theorem State.bump_leafN (off : Nat) : (s.bump .mary off).leafN = s.leafN := rfl
/-! `refuse` -/
@[simp] theorem State.refuse_leaf (k : NodeSel) (off : Nat) : (s.refuse k off).leaf = s.leaf := by cases k <;> rfl
@[simp] theorem State.refuse_mary (k : NodeSel) (off : Nat) : (s.refuse k off).mary = s.mary := by cases k <;> rfl
@[simp] theorem State.refuse_cellar (k : NodeSel) (off : Nat) : (s.refuse k off).cellar = s.cellar := by cases k <;> rfl
@[simp] theorem State.refuse_freeCtr (k : NodeSel) (off : Nat) : (s.refuse k off).freeCtr = s.freeCtr := by cases k <;> rfl
@[simp] theorem State.refuse_pending (k : NodeSel) (off : Nat) : (s.refuse k off).pending = s.pending := by cases k <;> rfl
@[simp] theorem State.refuse_maryN (off : Nat) : (s.refuse .leaf off).maryN = s.maryN := rfl
@[simp] theorem State.refuse_leafN (off : Nat) : (s.refuse .mary off).leafN = s.leafN := rfl
/-! `raiseIrq` -/
@[simp] theorem State.raiseIrq_leaf (k : NodeSel) (bit : Nat) : (s.raiseIrq k bit).leaf = s.leaf := by cases k <;> rfl
@[simp] theorem State.raiseIrq_mary (k : NodeSel) (bit : Nat) : (s.raiseIrq k bit).mary = s.mary := by cases k <;> rfl
@[simp] theorem State.raiseIrq_cellar (k : NodeSel) (bit : Nat) : (s.raiseIrq k bit).cellar = s.cellar := by cases k <;> rfl
@[simp] theorem State.raiseIrq_freeCtr (k : NodeSel) (bit : Nat) : (s.raiseIrq k bit).freeCtr = s.freeCtr := by cases k <;> rfl
@[simp] theorem State.raiseIrq_pending (k : NodeSel) (bit : Nat) : (s.raiseIrq k bit).pending = s.pending := by cases k <;> rfl
@[simp] theorem State.raiseIrq_maryN (bit : Nat) : (s.raiseIrq .leaf bit).maryN = s.maryN := rfl
@[simp] theorem State.raiseIrq_leafN (bit : Nat) : (s.raiseIrq .mary bit).leafN = s.leafN := rfl
/-! `raiseTime` -/
@[simp] theorem State.raiseTime_leaf (k : NodeSel) (bit : Nat) : (s.raiseTime k bit).leaf = s.leaf := by cases k <;> rfl
@[simp] theorem State.raiseTime_mary (k : NodeSel) (bit : Nat) : (s.raiseTime k bit).mary = s.mary := by cases k <;> rfl
@[simp] theorem State.raiseTime_cellar (k : NodeSel) (bit : Nat) : (s.raiseTime k bit).cellar = s.cellar := by cases k <;> rfl
@[simp] theorem State.raiseTime_freeCtr (k : NodeSel) (bit : Nat) : (s.raiseTime k bit).freeCtr = s.freeCtr := by cases k <;> rfl
@[simp] theorem State.raiseTime_pending (k : NodeSel) (bit : Nat) : (s.raiseTime k bit).pending = s.pending := by cases k <;> rfl
@[simp] theorem State.raiseTime_maryN (bit : Nat) : (s.raiseTime .leaf bit).maryN = s.maryN := rfl
@[simp] theorem State.raiseTime_leafN (bit : Nat) : (s.raiseTime .mary bit).leafN = s.leafN := rfl
/-! `advTo` -/
@[simp] theorem State.advTo_leaf (k : NodeSel) (rc : W64) : (s.advTo k rc).leaf = s.leaf := by cases k <;> rfl
@[simp] theorem State.advTo_mary (k : NodeSel) (rc : W64) : (s.advTo k rc).mary = s.mary := by cases k <;> rfl
@[simp] theorem State.advTo_cellar (k : NodeSel) (rc : W64) : (s.advTo k rc).cellar = s.cellar := by cases k <;> rfl
@[simp] theorem State.advTo_freeCtr (k : NodeSel) (rc : W64) : (s.advTo k rc).freeCtr = s.freeCtr := by cases k <;> rfl
@[simp] theorem State.advTo_pending (k : NodeSel) (rc : W64) : (s.advTo k rc).pending = s.pending := by cases k <;> rfl
@[simp] theorem State.advTo_maryN (rc : W64) : (s.advTo .leaf rc).maryN = s.maryN := rfl
@[simp] theorem State.advTo_leafN (rc : W64) : (s.advTo .mary rc).leafN = s.leafN := rfl
/-! `advAfter` -/
@[simp] theorem State.advAfter_leaf (k : NodeSel) (mark : W64) (n : Nat) : (s.advAfter k mark n).leaf = s.leaf := by cases k <;> rfl
@[simp] theorem State.advAfter_mary (k : NodeSel) (mark : W64) (n : Nat) : (s.advAfter k mark n).mary = s.mary := by cases k <;> rfl
@[simp] theorem State.advAfter_cellar (k : NodeSel) (mark : W64) (n : Nat) : (s.advAfter k mark n).cellar = s.cellar := by cases k <;> rfl
@[simp] theorem State.advAfter_freeCtr (k : NodeSel) (mark : W64) (n : Nat) : (s.advAfter k mark n).freeCtr = s.freeCtr := by cases k <;> rfl
@[simp] theorem State.advAfter_pending (k : NodeSel) (mark : W64) (n : Nat) : (s.advAfter k mark n).pending = s.pending := by cases k <;> rfl
@[simp] theorem State.advAfter_maryN (mark : W64) (n : Nat) : (s.advAfter .leaf mark n).maryN = s.maryN := rfl
@[simp] theorem State.advAfter_leafN (mark : W64) (n : Nat) : (s.advAfter .mary mark n).leafN = s.leafN := rfl
/-! `advHt` -/
@[simp] theorem State.advHt_leaf (k : NodeSel) (u : Tu) : (s.advHt k u).leaf = s.leaf := by cases k <;> rfl
@[simp] theorem State.advHt_mary (k : NodeSel) (u : Tu) : (s.advHt k u).mary = s.mary := by cases k <;> rfl
@[simp] theorem State.advHt_cellar (k : NodeSel) (u : Tu) : (s.advHt k u).cellar = s.cellar := by cases k <;> rfl
@[simp] theorem State.advHt_freeCtr (k : NodeSel) (u : Tu) : (s.advHt k u).freeCtr = s.freeCtr := by cases k <;> rfl
@[simp] theorem State.advHt_pending (k : NodeSel) (u : Tu) : (s.advHt k u).pending = s.pending := by cases k <;> rfl
@[simp] theorem State.advHt_maryN (u : Tu) : (s.advHt .leaf u).maryN = s.maryN := rfl
@[simp] theorem State.advHt_leafN (u : Tu) : (s.advHt .mary u).leafN = s.leafN := rfl
/-! `clearRefused` -/
@[simp] theorem State.clearRefused_leaf (k : NodeSel) : (s.clearRefused k).leaf = s.leaf := by cases k <;> rfl
@[simp] theorem State.clearRefused_mary (k : NodeSel) : (s.clearRefused k).mary = s.mary := by cases k <;> rfl
@[simp] theorem State.clearRefused_cellar (k : NodeSel) : (s.clearRefused k).cellar = s.cellar := by cases k <;> rfl
@[simp] theorem State.clearRefused_freeCtr (k : NodeSel) : (s.clearRefused k).freeCtr = s.freeCtr := by cases k <;> rfl
@[simp] theorem State.clearRefused_pending (k : NodeSel) : (s.clearRefused k).pending = s.pending := by cases k <;> rfl
@[simp] theorem State.clearRefused_maryN  : (s.clearRefused .leaf).maryN = s.maryN := rfl
@[simp] theorem State.clearRefused_leafN  : (s.clearRefused .mary).leafN = s.leafN := rfl
/-! `markRefused` -/
@[simp] theorem State.markRefused_leaf (k : NodeSel) : (s.markRefused k).leaf = s.leaf := by cases k <;> rfl
@[simp] theorem State.markRefused_mary (k : NodeSel) : (s.markRefused k).mary = s.mary := by cases k <;> rfl
@[simp] theorem State.markRefused_cellar (k : NodeSel) : (s.markRefused k).cellar = s.cellar := by cases k <;> rfl
@[simp] theorem State.markRefused_freeCtr (k : NodeSel) : (s.markRefused k).freeCtr = s.freeCtr := by cases k <;> rfl
@[simp] theorem State.markRefused_pending (k : NodeSel) : (s.markRefused k).pending = s.pending := by cases k <;> rfl
@[simp] theorem State.markRefused_maryN  : (s.markRefused .leaf).maryN = s.maryN := rfl
@[simp] theorem State.markRefused_leafN  : (s.markRefused .mary).leafN = s.leafN := rfl
/-! `modLeaf` -/
@[simp] theorem State.modLeaf_leafN (f : LeafOnly → LeafOnly) : (s.modLeaf f).leafN = s.leafN := rfl
@[simp] theorem State.modLeaf_maryN (f : LeafOnly → LeafOnly) : (s.modLeaf f).maryN = s.maryN := rfl
@[simp] theorem State.modLeaf_mary (f : LeafOnly → LeafOnly) : (s.modLeaf f).mary = s.mary := rfl
@[simp] theorem State.modLeaf_cellar (f : LeafOnly → LeafOnly) : (s.modLeaf f).cellar = s.cellar := rfl
@[simp] theorem State.modLeaf_freeCtr (f : LeafOnly → LeafOnly) : (s.modLeaf f).freeCtr = s.freeCtr := rfl
@[simp] theorem State.modLeaf_pending (f : LeafOnly → LeafOnly) : (s.modLeaf f).pending = s.pending := rfl
/-! `modPrick` -/
@[simp] theorem State.modPrick_leafN (f : Prick → Prick) : (s.modPrick f).leafN = s.leafN := rfl
@[simp] theorem State.modPrick_maryN (f : Prick → Prick) : (s.modPrick f).maryN = s.maryN := rfl
@[simp] theorem State.modPrick_mary (f : Prick → Prick) : (s.modPrick f).mary = s.mary := rfl
@[simp] theorem State.modPrick_cellar (f : Prick → Prick) : (s.modPrick f).cellar = s.cellar := rfl
@[simp] theorem State.modPrick_freeCtr (f : Prick → Prick) : (s.modPrick f).freeCtr = s.freeCtr := rfl
@[simp] theorem State.modPrick_pending (f : Prick → Prick) : (s.modPrick f).pending = s.pending := rfl
/-! `modRegion` -/
@[simp] theorem State.modRegion_leafN (i : Nat) (f : Region → Region) : (s.modRegion i f).leafN = s.leafN := rfl
@[simp] theorem State.modRegion_maryN (i : Nat) (f : Region → Region) : (s.modRegion i f).maryN = s.maryN := rfl
@[simp] theorem State.modRegion_mary (i : Nat) (f : Region → Region) : (s.modRegion i f).mary = s.mary := rfl
@[simp] theorem State.modRegion_cellar (i : Nat) (f : Region → Region) : (s.modRegion i f).cellar = s.cellar := rfl
@[simp] theorem State.modRegion_freeCtr (i : Nat) (f : Region → Region) : (s.modRegion i f).freeCtr = s.freeCtr := rfl
@[simp] theorem State.modRegion_pending (i : Nat) (f : Region → Region) : (s.modRegion i f).pending = s.pending := rfl
/-! `modSlot` -/
@[simp] theorem State.modSlot_leafN (i : Nat) (f : Slot → Slot) : (s.modSlot i f).leafN = s.leafN := rfl
@[simp] theorem State.modSlot_maryN (i : Nat) (f : Slot → Slot) : (s.modSlot i f).maryN = s.maryN := rfl
@[simp] theorem State.modSlot_mary (i : Nat) (f : Slot → Slot) : (s.modSlot i f).mary = s.mary := rfl
@[simp] theorem State.modSlot_cellar (i : Nat) (f : Slot → Slot) : (s.modSlot i f).cellar = s.cellar := rfl
@[simp] theorem State.modSlot_freeCtr (i : Nat) (f : Slot → Slot) : (s.modSlot i f).freeCtr = s.freeCtr := rfl
@[simp] theorem State.modSlot_pending (i : Nat) (f : Slot → Slot) : (s.modSlot i f).pending = s.pending := rfl
/-! `modMary` -/
@[simp] theorem State.modMary_leafN (f : MaryOnly → MaryOnly) : (s.modMary f).leafN = s.leafN := rfl
@[simp] theorem State.modMary_maryN (f : MaryOnly → MaryOnly) : (s.modMary f).maryN = s.maryN := rfl
@[simp] theorem State.modMary_leaf (f : MaryOnly → MaryOnly) : (s.modMary f).leaf = s.leaf := rfl
@[simp] theorem State.modMary_cellar (f : MaryOnly → MaryOnly) : (s.modMary f).cellar = s.cellar := rfl
@[simp] theorem State.modMary_freeCtr (f : MaryOnly → MaryOnly) : (s.modMary f).freeCtr = s.freeCtr := rfl
@[simp] theorem State.modMary_pending (f : MaryOnly → MaryOnly) : (s.modMary f).pending = s.pending := rfl
/-! `modSel` -/
@[simp] theorem State.modSel_leafN (f : Selector → Selector) : (s.modSel f).leafN = s.leafN := rfl
@[simp] theorem State.modSel_maryN (f : Selector → Selector) : (s.modSel f).maryN = s.maryN := rfl
@[simp] theorem State.modSel_leaf (f : Selector → Selector) : (s.modSel f).leaf = s.leaf := rfl
@[simp] theorem State.modSel_cellar (f : Selector → Selector) : (s.modSel f).cellar = s.cellar := rfl
@[simp] theorem State.modSel_freeCtr (f : Selector → Selector) : (s.modSel f).freeCtr = s.freeCtr := rfl
@[simp] theorem State.modSel_pending (f : Selector → Selector) : (s.modSel f).pending = s.pending := rfl
/-! `modGroup` -/
@[simp] theorem State.modGroup_leafN (i : Nat) (f : Group → Group) : (s.modGroup i f).leafN = s.leafN := rfl
@[simp] theorem State.modGroup_maryN (i : Nat) (f : Group → Group) : (s.modGroup i f).maryN = s.maryN := rfl
@[simp] theorem State.modGroup_leaf (i : Nat) (f : Group → Group) : (s.modGroup i f).leaf = s.leaf := rfl
@[simp] theorem State.modGroup_cellar (i : Nat) (f : Group → Group) : (s.modGroup i f).cellar = s.cellar := rfl
@[simp] theorem State.modGroup_freeCtr (i : Nat) (f : Group → Group) : (s.modGroup i f).freeCtr = s.freeCtr := rfl
@[simp] theorem State.modGroup_pending (i : Nat) (f : Group → Group) : (s.modGroup i f).pending = s.pending := rfl
/-! `modQuad` -/
@[simp] theorem State.modQuad_leafN (i : Nat) (f : Quad → Quad) : (s.modQuad i f).leafN = s.leafN := rfl
@[simp] theorem State.modQuad_maryN (i : Nat) (f : Quad → Quad) : (s.modQuad i f).maryN = s.maryN := rfl
@[simp] theorem State.modQuad_leaf (i : Nat) (f : Quad → Quad) : (s.modQuad i f).leaf = s.leaf := rfl
@[simp] theorem State.modQuad_cellar (i : Nat) (f : Quad → Quad) : (s.modQuad i f).cellar = s.cellar := rfl
@[simp] theorem State.modQuad_freeCtr (i : Nat) (f : Quad → Quad) : (s.modQuad i f).freeCtr = s.freeCtr := rfl
@[simp] theorem State.modQuad_pending (i : Nat) (f : Quad → Quad) : (s.modQuad i f).pending = s.pending := rfl
/-! `modEnt` -/
@[simp] theorem State.modEnt_leafN (i : Nat) (f : RefEnt → RefEnt) : (s.modEnt i f).leafN = s.leafN := rfl
@[simp] theorem State.modEnt_maryN (i : Nat) (f : RefEnt → RefEnt) : (s.modEnt i f).maryN = s.maryN := rfl
@[simp] theorem State.modEnt_leaf (i : Nat) (f : RefEnt → RefEnt) : (s.modEnt i f).leaf = s.leaf := rfl
@[simp] theorem State.modEnt_cellar (i : Nat) (f : RefEnt → RefEnt) : (s.modEnt i f).cellar = s.cellar := rfl
@[simp] theorem State.modEnt_freeCtr (i : Nat) (f : RefEnt → RefEnt) : (s.modEnt i f).freeCtr = s.freeCtr := rfl
@[simp] theorem State.modEnt_pending (i : Nat) (f : RefEnt → RefEnt) : (s.modEnt i f).pending = s.pending := rfl
/-! `modPtp` -/
@[simp] theorem State.modPtp_leafN (i : Nat) (f : PtpPort → PtpPort) : (s.modPtp i f).leafN = s.leafN := rfl
@[simp] theorem State.modPtp_maryN (i : Nat) (f : PtpPort → PtpPort) : (s.modPtp i f).maryN = s.maryN := rfl
@[simp] theorem State.modPtp_leaf (i : Nat) (f : PtpPort → PtpPort) : (s.modPtp i f).leaf = s.leaf := rfl
@[simp] theorem State.modPtp_cellar (i : Nat) (f : PtpPort → PtpPort) : (s.modPtp i f).cellar = s.cellar := rfl
@[simp] theorem State.modPtp_freeCtr (i : Nat) (f : PtpPort → PtpPort) : (s.modPtp i f).freeCtr = s.freeCtr := rfl
@[simp] theorem State.modPtp_pending (i : Nat) (f : PtpPort → PtpPort) : (s.modPtp i f).pending = s.pending := rfl
/-! `cancelKey` -/
@[simp] theorem State.cancelKey_leafN (src : Src) : (s.cancelKey src).leafN = s.leafN := rfl
@[simp] theorem State.cancelKey_maryN (src : Src) : (s.cancelKey src).maryN = s.maryN := rfl
@[simp] theorem State.cancelKey_leaf (src : Src) : (s.cancelKey src).leaf = s.leaf := rfl
@[simp] theorem State.cancelKey_cellar (src : Src) : (s.cancelKey src).cellar = s.cellar := rfl
@[simp] theorem State.cancelKey_freeCtr (src : Src) : (s.cancelKey src).freeCtr = s.freeCtr := rfl
@[simp] theorem State.cancelKey_pending (src : Src) : (s.cancelKey src).pending = s.pending := rfl
/-! `modCellar` -/
@[simp] theorem State.modCellar_leafN (f : Cellar → Cellar) : (s.modCellar f).leafN = s.leafN := rfl
@[simp] theorem State.modCellar_maryN (f : Cellar → Cellar) : (s.modCellar f).maryN = s.maryN := rfl
@[simp] theorem State.modCellar_leaf (f : Cellar → Cellar) : (s.modCellar f).leaf = s.leaf := rfl
@[simp] theorem State.modCellar_mary (f : Cellar → Cellar) : (s.modCellar f).mary = s.mary := rfl
@[simp] theorem State.modCellar_freeCtr (f : Cellar → Cellar) : (s.modCellar f).freeCtr = s.freeCtr := rfl
@[simp] theorem State.modCellar_pending (f : Cellar → Cellar) : (s.modCellar f).pending = s.pending := rfl
/-! The part an update changes. -/
@[simp] theorem State.modNode_leafN_self (f : {n : Nat} → Node n → Node n) : (s.modNode .leaf f).leafN = f s.leafN := rfl
@[simp] theorem State.modNode_maryN_self (f : {n : Nat} → Node n → Node n) : (s.modNode .mary f).maryN = f s.maryN := rfl
@[simp] theorem State.modLeaf_leaf (f : LeafOnly → LeafOnly) : (s.modLeaf f).leaf = f s.leaf := rfl
@[simp] theorem State.modPrick_leaf (f : Prick → Prick) : (s.modPrick f).leaf.prick = f s.leaf.prick := rfl
@[simp] theorem State.modMary_mary (f : MaryOnly → MaryOnly) : (s.modMary f).mary = f s.mary := rfl
@[simp] theorem State.modSel_sel (f : Selector → Selector) : (s.modSel f).mary.sel = f s.mary.sel := rfl
@[simp] theorem State.modCellar_cellar (f : Cellar → Cellar) : (s.modCellar f).cellar = f s.cellar := rfl
@[simp] theorem State.modTime_time (k : NodeSel) (f : TimeCore → TimeCore) : (s.modTime k f).time k = f (s.time k) := by cases k <;> rfl
@[simp] theorem State.modBs_bs (k : NodeSel) (f : BsPort → BsPort) : (s.modBs k f).bs k = f (s.bs k) := by cases k <;> rfl
@[simp] theorem State.modRoot_root (k : NodeSel) (f : Root → Root) : (s.modRoot k f).root k = f (s.root k) := by cases k <;> rfl

/-! The hold of a node's reset pin is no part of any of these. -/
@[simp] theorem State.modTime_held (k : NodeSel) (f : TimeCore → TimeCore) (j : NodeSel) : (s.modTime k f).held j = s.held j := by cases k <;> cases j <;> rfl
@[simp] theorem State.modDom_held (k : NodeSel) (d : Dom) (f : DomCore → DomCore) (j : NodeSel) : (s.modDom k d f).held j = s.held j := by cases k <;> cases j <;> rfl
@[simp] theorem State.modBs_held (k : NodeSel) (f : BsPort → BsPort) (j : NodeSel) : (s.modBs k f).held j = s.held j := by cases k <;> cases j <;> rfl
@[simp] theorem State.modRoot_held (k : NodeSel) (f : Root → Root) (j : NodeSel) : (s.modRoot k f).held j = s.held j := by cases k <;> cases j <;> rfl
@[simp] theorem State.modSrcBuf_held (k : NodeSel) (src : Src) (f : SrcBuf → SrcBuf) (j : NodeSel) : (s.modSrcBuf k src f).held j = s.held j := by cases k <;> cases j <;> rfl
@[simp] theorem State.modCell_held (k : NodeSel) (i : Nat) (f : Cell → Cell) (j : NodeSel) : (s.modCell k i f).held j = s.held j := by cases k <;> cases j <;> rfl
@[simp] theorem State.modDly_held (k : NodeSel) (i : Nat) (f : Delay → Delay) (j : NodeSel) : (s.modDly k i f).held j = s.held j := by cases k <;> cases j <;> rfl
@[simp] theorem State.modRetry_held (k : NodeSel) (i : Nat) (f : Retry → Retry) (j : NodeSel) : (s.modRetry k i f).held j = s.held j := by cases k <;> cases j <;> rfl
@[simp] theorem State.bump_held (k : NodeSel) (off : Nat) (j : NodeSel) : (s.bump k off).held j = s.held j := by cases k <;> cases j <;> rfl
@[simp] theorem State.refuse_held (k : NodeSel) (off : Nat) (j : NodeSel) : (s.refuse k off).held j = s.held j := by cases k <;> cases j <;> rfl
@[simp] theorem State.raiseIrq_held (k : NodeSel) (bit : Nat) (j : NodeSel) : (s.raiseIrq k bit).held j = s.held j := by cases k <;> cases j <;> rfl
@[simp] theorem State.raiseTime_held (k : NodeSel) (bit : Nat) (j : NodeSel) : (s.raiseTime k bit).held j = s.held j := by cases k <;> cases j <;> rfl
@[simp] theorem State.advTo_held (k : NodeSel) (rc : W64) (j : NodeSel) : (s.advTo k rc).held j = s.held j := by cases k <;> cases j <;> rfl
@[simp] theorem State.advAfter_held (k : NodeSel) (mark : W64) (n : Nat) (j : NodeSel) : (s.advAfter k mark n).held j = s.held j := by cases k <;> cases j <;> rfl
@[simp] theorem State.advHt_held (k : NodeSel) (u : Tu) (j : NodeSel) : (s.advHt k u).held j = s.held j := by cases k <;> cases j <;> rfl
@[simp] theorem State.clearRefused_held (k : NodeSel) (j : NodeSel) : (s.clearRefused k).held j = s.held j := by cases k <;> cases j <;> rfl
@[simp] theorem State.markRefused_held (k : NodeSel) (j : NodeSel) : (s.markRefused k).held j = s.held j := by cases k <;> cases j <;> rfl
@[simp] theorem State.modLeaf_held (f : LeafOnly → LeafOnly) (j : NodeSel) : (s.modLeaf f).held j = s.held j := by cases j <;> rfl
@[simp] theorem State.modPrick_held (f : Prick → Prick) (j : NodeSel) : (s.modPrick f).held j = s.held j := by cases j <;> rfl
@[simp] theorem State.modRegion_held (i : Nat) (f : Region → Region) (j : NodeSel) : (s.modRegion i f).held j = s.held j := by cases j <;> rfl
@[simp] theorem State.modSlot_held (i : Nat) (f : Slot → Slot) (j : NodeSel) : (s.modSlot i f).held j = s.held j := by cases j <;> rfl
@[simp] theorem State.modMary_held (f : MaryOnly → MaryOnly) (j : NodeSel) : (s.modMary f).held j = s.held j := by cases j <;> rfl
@[simp] theorem State.modSel_held (f : Selector → Selector) (j : NodeSel) : (s.modSel f).held j = s.held j := by cases j <;> rfl
@[simp] theorem State.modGroup_held (i : Nat) (f : Group → Group) (j : NodeSel) : (s.modGroup i f).held j = s.held j := by cases j <;> rfl
@[simp] theorem State.modQuad_held (i : Nat) (f : Quad → Quad) (j : NodeSel) : (s.modQuad i f).held j = s.held j := by cases j <;> rfl
@[simp] theorem State.modEnt_held (i : Nat) (f : RefEnt → RefEnt) (j : NodeSel) : (s.modEnt i f).held j = s.held j := by cases j <;> rfl
@[simp] theorem State.modPtp_held (i : Nat) (f : PtpPort → PtpPort) (j : NodeSel) : (s.modPtp i f).held j = s.held j := by cases j <;> rfl
@[simp] theorem State.cancelKey_held (src : Src) (j : NodeSel) : (s.cancelKey src).held j = s.held j := by cases j <;> rfl
@[simp] theorem State.modCellar_held (f : Cellar → Cellar) (j : NodeSel) : (s.modCellar f).held j = s.held j := by cases j <;> rfl
@[simp] theorem State.modTime_cfg (k : NodeSel) (f : TimeCore → TimeCore) (j : NodeSel) : (s.modTime k f).cfg j = s.cfg j := by cases k <;> cases j <;> rfl
@[simp] theorem State.modDom_cfg (k : NodeSel) (d : Dom) (f : DomCore → DomCore) (j : NodeSel) : (s.modDom k d f).cfg j = s.cfg j := by cases k <;> cases j <;> rfl
@[simp] theorem State.modBs_cfg (k : NodeSel) (f : BsPort → BsPort) (j : NodeSel) : (s.modBs k f).cfg j = s.cfg j := by cases k <;> cases j <;> rfl
@[simp] theorem State.modRoot_cfg (k : NodeSel) (f : Root → Root) (j : NodeSel) : (s.modRoot k f).cfg j = s.cfg j := by cases k <;> cases j <;> rfl
@[simp] theorem State.modSrcBuf_cfg (k : NodeSel) (src : Src) (f : SrcBuf → SrcBuf) (j : NodeSel) : (s.modSrcBuf k src f).cfg j = s.cfg j := by cases k <;> cases j <;> rfl
@[simp] theorem State.modCell_cfg (k : NodeSel) (i : Nat) (f : Cell → Cell) (j : NodeSel) : (s.modCell k i f).cfg j = s.cfg j := by cases k <;> cases j <;> rfl
@[simp] theorem State.modDly_cfg (k : NodeSel) (i : Nat) (f : Delay → Delay) (j : NodeSel) : (s.modDly k i f).cfg j = s.cfg j := by cases k <;> cases j <;> rfl
@[simp] theorem State.modRetry_cfg (k : NodeSel) (i : Nat) (f : Retry → Retry) (j : NodeSel) : (s.modRetry k i f).cfg j = s.cfg j := by cases k <;> cases j <;> rfl
@[simp] theorem State.bump_cfg (k : NodeSel) (off : Nat) (j : NodeSel) : (s.bump k off).cfg j = s.cfg j := by cases k <;> cases j <;> rfl
@[simp] theorem State.refuse_cfg (k : NodeSel) (off : Nat) (j : NodeSel) : (s.refuse k off).cfg j = s.cfg j := by cases k <;> cases j <;> rfl
@[simp] theorem State.raiseIrq_cfg (k : NodeSel) (bit : Nat) (j : NodeSel) : (s.raiseIrq k bit).cfg j = s.cfg j := by cases k <;> cases j <;> rfl
@[simp] theorem State.raiseTime_cfg (k : NodeSel) (bit : Nat) (j : NodeSel) : (s.raiseTime k bit).cfg j = s.cfg j := by cases k <;> cases j <;> rfl
@[simp] theorem State.advTo_cfg (k : NodeSel) (rc : W64) (j : NodeSel) : (s.advTo k rc).cfg j = s.cfg j := by cases k <;> cases j <;> rfl
@[simp] theorem State.advAfter_cfg (k : NodeSel) (mark : W64) (n : Nat) (j : NodeSel) : (s.advAfter k mark n).cfg j = s.cfg j := by cases k <;> cases j <;> rfl
@[simp] theorem State.advHt_cfg (k : NodeSel) (u : Tu) (j : NodeSel) : (s.advHt k u).cfg j = s.cfg j := by cases k <;> cases j <;> rfl
@[simp] theorem State.clearRefused_cfg (k : NodeSel) (j : NodeSel) : (s.clearRefused k).cfg j = s.cfg j := by cases k <;> cases j <;> rfl
@[simp] theorem State.markRefused_cfg (k : NodeSel) (j : NodeSel) : (s.markRefused k).cfg j = s.cfg j := by cases k <;> cases j <;> rfl
@[simp] theorem State.modLeaf_cfg (f : LeafOnly → LeafOnly) (j : NodeSel) : (s.modLeaf f).cfg j = s.cfg j := by cases j <;> rfl
@[simp] theorem State.modPrick_cfg (f : Prick → Prick) (j : NodeSel) : (s.modPrick f).cfg j = s.cfg j := by cases j <;> rfl
@[simp] theorem State.modRegion_cfg (i : Nat) (f : Region → Region) (j : NodeSel) : (s.modRegion i f).cfg j = s.cfg j := by cases j <;> rfl
@[simp] theorem State.modSlot_cfg (i : Nat) (f : Slot → Slot) (j : NodeSel) : (s.modSlot i f).cfg j = s.cfg j := by cases j <;> rfl
@[simp] theorem State.modMary_cfg (f : MaryOnly → MaryOnly) (j : NodeSel) : (s.modMary f).cfg j = s.cfg j := by cases j <;> rfl
@[simp] theorem State.modSel_cfg (f : Selector → Selector) (j : NodeSel) : (s.modSel f).cfg j = s.cfg j := by cases j <;> rfl
@[simp] theorem State.modGroup_cfg (i : Nat) (f : Group → Group) (j : NodeSel) : (s.modGroup i f).cfg j = s.cfg j := by cases j <;> rfl
@[simp] theorem State.modQuad_cfg (i : Nat) (f : Quad → Quad) (j : NodeSel) : (s.modQuad i f).cfg j = s.cfg j := by cases j <;> rfl
@[simp] theorem State.modEnt_cfg (i : Nat) (f : RefEnt → RefEnt) (j : NodeSel) : (s.modEnt i f).cfg j = s.cfg j := by cases j <;> rfl
@[simp] theorem State.modPtp_cfg (i : Nat) (f : PtpPort → PtpPort) (j : NodeSel) : (s.modPtp i f).cfg j = s.cfg j := by cases j <;> rfl
@[simp] theorem State.cancelKey_cfg (src : Src) (j : NodeSel) : (s.cancelKey src).cfg j = s.cfg j := by cases j <;> rfl
@[simp] theorem State.modCellar_cfg (f : Cellar → Cellar) (j : NodeSel) : (s.modCellar f).cfg j = s.cfg j := by cases j <;> rfl
@[simp] theorem State.modTime_isRoot (k : NodeSel) (f : TimeCore → TimeCore) (j : NodeSel) : (s.modTime k f).isRoot j = s.isRoot j := by cases k <;> cases j <;> rfl
@[simp] theorem State.modDom_isRoot (k : NodeSel) (d : Dom) (f : DomCore → DomCore) (j : NodeSel) : (s.modDom k d f).isRoot j = s.isRoot j := by cases k <;> cases j <;> rfl
@[simp] theorem State.modBs_isRoot (k : NodeSel) (f : BsPort → BsPort) (j : NodeSel) : (s.modBs k f).isRoot j = s.isRoot j := by cases k <;> cases j <;> rfl
@[simp] theorem State.modRoot_isRoot (k : NodeSel) (f : Root → Root) (j : NodeSel) : (s.modRoot k f).isRoot j = s.isRoot j := by cases k <;> cases j <;> rfl
@[simp] theorem State.modSrcBuf_isRoot (k : NodeSel) (src : Src) (f : SrcBuf → SrcBuf) (j : NodeSel) : (s.modSrcBuf k src f).isRoot j = s.isRoot j := by cases k <;> cases j <;> rfl
@[simp] theorem State.modCell_isRoot (k : NodeSel) (i : Nat) (f : Cell → Cell) (j : NodeSel) : (s.modCell k i f).isRoot j = s.isRoot j := by cases k <;> cases j <;> rfl
@[simp] theorem State.modDly_isRoot (k : NodeSel) (i : Nat) (f : Delay → Delay) (j : NodeSel) : (s.modDly k i f).isRoot j = s.isRoot j := by cases k <;> cases j <;> rfl
@[simp] theorem State.modRetry_isRoot (k : NodeSel) (i : Nat) (f : Retry → Retry) (j : NodeSel) : (s.modRetry k i f).isRoot j = s.isRoot j := by cases k <;> cases j <;> rfl
@[simp] theorem State.bump_isRoot (k : NodeSel) (off : Nat) (j : NodeSel) : (s.bump k off).isRoot j = s.isRoot j := by cases k <;> cases j <;> rfl
@[simp] theorem State.refuse_isRoot (k : NodeSel) (off : Nat) (j : NodeSel) : (s.refuse k off).isRoot j = s.isRoot j := by cases k <;> cases j <;> rfl
@[simp] theorem State.raiseIrq_isRoot (k : NodeSel) (bit : Nat) (j : NodeSel) : (s.raiseIrq k bit).isRoot j = s.isRoot j := by cases k <;> cases j <;> rfl
@[simp] theorem State.raiseTime_isRoot (k : NodeSel) (bit : Nat) (j : NodeSel) : (s.raiseTime k bit).isRoot j = s.isRoot j := by cases k <;> cases j <;> rfl
@[simp] theorem State.advTo_isRoot (k : NodeSel) (rc : W64) (j : NodeSel) : (s.advTo k rc).isRoot j = s.isRoot j := by cases k <;> cases j <;> rfl
@[simp] theorem State.advAfter_isRoot (k : NodeSel) (mark : W64) (n : Nat) (j : NodeSel) : (s.advAfter k mark n).isRoot j = s.isRoot j := by cases k <;> cases j <;> rfl
@[simp] theorem State.advHt_isRoot (k : NodeSel) (u : Tu) (j : NodeSel) : (s.advHt k u).isRoot j = s.isRoot j := by cases k <;> cases j <;> rfl
@[simp] theorem State.clearRefused_isRoot (k : NodeSel) (j : NodeSel) : (s.clearRefused k).isRoot j = s.isRoot j := by cases k <;> cases j <;> rfl
@[simp] theorem State.markRefused_isRoot (k : NodeSel) (j : NodeSel) : (s.markRefused k).isRoot j = s.isRoot j := by cases k <;> cases j <;> rfl
@[simp] theorem State.modLeaf_isRoot (f : LeafOnly → LeafOnly) (j : NodeSel) : (s.modLeaf f).isRoot j = s.isRoot j := by cases j <;> rfl
@[simp] theorem State.modPrick_isRoot (f : Prick → Prick) (j : NodeSel) : (s.modPrick f).isRoot j = s.isRoot j := by cases j <;> rfl
@[simp] theorem State.modRegion_isRoot (i : Nat) (f : Region → Region) (j : NodeSel) : (s.modRegion i f).isRoot j = s.isRoot j := by cases j <;> rfl
@[simp] theorem State.modSlot_isRoot (i : Nat) (f : Slot → Slot) (j : NodeSel) : (s.modSlot i f).isRoot j = s.isRoot j := by cases j <;> rfl
@[simp] theorem State.modMary_isRoot (f : MaryOnly → MaryOnly) (j : NodeSel) : (s.modMary f).isRoot j = s.isRoot j := by cases j <;> rfl
@[simp] theorem State.modSel_isRoot (f : Selector → Selector) (j : NodeSel) : (s.modSel f).isRoot j = s.isRoot j := by cases j <;> rfl
@[simp] theorem State.modGroup_isRoot (i : Nat) (f : Group → Group) (j : NodeSel) : (s.modGroup i f).isRoot j = s.isRoot j := by cases j <;> rfl
@[simp] theorem State.modQuad_isRoot (i : Nat) (f : Quad → Quad) (j : NodeSel) : (s.modQuad i f).isRoot j = s.isRoot j := by cases j <;> rfl
@[simp] theorem State.modEnt_isRoot (i : Nat) (f : RefEnt → RefEnt) (j : NodeSel) : (s.modEnt i f).isRoot j = s.isRoot j := by cases j <;> rfl
@[simp] theorem State.modPtp_isRoot (i : Nat) (f : PtpPort → PtpPort) (j : NodeSel) : (s.modPtp i f).isRoot j = s.isRoot j := by cases j <;> rfl
@[simp] theorem State.cancelKey_isRoot (src : Src) (j : NodeSel) : (s.cancelKey src).isRoot j = s.isRoot j := by cases j <;> rfl
@[simp] theorem State.modCellar_isRoot (f : Cellar → Cellar) (j : NodeSel) : (s.modCellar f).isRoot j = s.isRoot j := by cases j <;> rfl
@[simp] theorem State.modTime_reg (k : NodeSel) (f : TimeCore → TimeCore) (j : NodeSel) (o : Nat) : (s.modTime k f).reg j o = s.reg j o := by cases k <;> cases j <;> rfl
@[simp] theorem State.modDom_reg (k : NodeSel) (d : Dom) (f : DomCore → DomCore) (j : NodeSel) (o : Nat) : (s.modDom k d f).reg j o = s.reg j o := by cases k <;> cases j <;> rfl
@[simp] theorem State.modBs_reg (k : NodeSel) (f : BsPort → BsPort) (j : NodeSel) (o : Nat) : (s.modBs k f).reg j o = s.reg j o := by cases k <;> cases j <;> rfl
@[simp] theorem State.modRoot_reg (k : NodeSel) (f : Root → Root) (j : NodeSel) (o : Nat) : (s.modRoot k f).reg j o = s.reg j o := by cases k <;> cases j <;> rfl
@[simp] theorem State.modSrcBuf_reg (k : NodeSel) (src : Src) (f : SrcBuf → SrcBuf) (j : NodeSel) (o : Nat) : (s.modSrcBuf k src f).reg j o = s.reg j o := by cases k <;> cases j <;> rfl
@[simp] theorem State.modCell_reg (k : NodeSel) (i : Nat) (f : Cell → Cell) (j : NodeSel) (o : Nat) : (s.modCell k i f).reg j o = s.reg j o := by cases k <;> cases j <;> rfl
@[simp] theorem State.modDly_reg (k : NodeSel) (i : Nat) (f : Delay → Delay) (j : NodeSel) (o : Nat) : (s.modDly k i f).reg j o = s.reg j o := by cases k <;> cases j <;> rfl
@[simp] theorem State.modRetry_reg (k : NodeSel) (i : Nat) (f : Retry → Retry) (j : NodeSel) (o : Nat) : (s.modRetry k i f).reg j o = s.reg j o := by cases k <;> cases j <;> rfl
@[simp] theorem State.bump_reg (k : NodeSel) (off : Nat) (j : NodeSel) (o : Nat) : (s.bump k off).reg j o = s.reg j o := by cases k <;> cases j <;> rfl
@[simp] theorem State.refuse_reg (k : NodeSel) (off : Nat) (j : NodeSel) (o : Nat) : (s.refuse k off).reg j o = s.reg j o := by cases k <;> cases j <;> rfl
@[simp] theorem State.raiseIrq_reg (k : NodeSel) (bit : Nat) (j : NodeSel) (o : Nat) : (s.raiseIrq k bit).reg j o = s.reg j o := by cases k <;> cases j <;> rfl
@[simp] theorem State.raiseTime_reg (k : NodeSel) (bit : Nat) (j : NodeSel) (o : Nat) : (s.raiseTime k bit).reg j o = s.reg j o := by cases k <;> cases j <;> rfl
@[simp] theorem State.advTo_reg (k : NodeSel) (rc : W64) (j : NodeSel) (o : Nat) : (s.advTo k rc).reg j o = s.reg j o := by cases k <;> cases j <;> rfl
@[simp] theorem State.advAfter_reg (k : NodeSel) (mark : W64) (n : Nat) (j : NodeSel) (o : Nat) : (s.advAfter k mark n).reg j o = s.reg j o := by cases k <;> cases j <;> rfl
@[simp] theorem State.advHt_reg (k : NodeSel) (u : Tu) (j : NodeSel) (o : Nat) : (s.advHt k u).reg j o = s.reg j o := by cases k <;> cases j <;> rfl
@[simp] theorem State.clearRefused_reg (k : NodeSel) (j : NodeSel) (o : Nat) : (s.clearRefused k).reg j o = s.reg j o := by cases k <;> cases j <;> rfl
@[simp] theorem State.markRefused_reg (k : NodeSel) (j : NodeSel) (o : Nat) : (s.markRefused k).reg j o = s.reg j o := by cases k <;> cases j <;> rfl
@[simp] theorem State.modLeaf_reg (f : LeafOnly → LeafOnly) (j : NodeSel) (o : Nat) : (s.modLeaf f).reg j o = s.reg j o := by cases j <;> rfl
@[simp] theorem State.modPrick_reg (f : Prick → Prick) (j : NodeSel) (o : Nat) : (s.modPrick f).reg j o = s.reg j o := by cases j <;> rfl
@[simp] theorem State.modRegion_reg (i : Nat) (f : Region → Region) (j : NodeSel) (o : Nat) : (s.modRegion i f).reg j o = s.reg j o := by cases j <;> rfl
@[simp] theorem State.modSlot_reg (i : Nat) (f : Slot → Slot) (j : NodeSel) (o : Nat) : (s.modSlot i f).reg j o = s.reg j o := by cases j <;> rfl
@[simp] theorem State.modMary_reg (f : MaryOnly → MaryOnly) (j : NodeSel) (o : Nat) : (s.modMary f).reg j o = s.reg j o := by cases j <;> rfl
@[simp] theorem State.modSel_reg (f : Selector → Selector) (j : NodeSel) (o : Nat) : (s.modSel f).reg j o = s.reg j o := by cases j <;> rfl
@[simp] theorem State.modGroup_reg (i : Nat) (f : Group → Group) (j : NodeSel) (o : Nat) : (s.modGroup i f).reg j o = s.reg j o := by cases j <;> rfl
@[simp] theorem State.modQuad_reg (i : Nat) (f : Quad → Quad) (j : NodeSel) (o : Nat) : (s.modQuad i f).reg j o = s.reg j o := by cases j <;> rfl
@[simp] theorem State.modEnt_reg (i : Nat) (f : RefEnt → RefEnt) (j : NodeSel) (o : Nat) : (s.modEnt i f).reg j o = s.reg j o := by cases j <;> rfl
@[simp] theorem State.modPtp_reg (i : Nat) (f : PtpPort → PtpPort) (j : NodeSel) (o : Nat) : (s.modPtp i f).reg j o = s.reg j o := by cases j <;> rfl
@[simp] theorem State.cancelKey_reg (src : Src) (j : NodeSel) (o : Nat) : (s.cancelKey src).reg j o = s.reg j o := by cases j <;> rfl
@[simp] theorem State.modCellar_reg (f : Cellar → Cellar) (j : NodeSel) (o : Nat) : (s.modCellar f).reg j o = s.reg j o := by cases j <;> rfl
@[simp] theorem State.modTime_effReg (k : NodeSel) (f : TimeCore → TimeCore) (j : NodeSel) (o : Nat) : (s.modTime k f).effReg j o = s.effReg j o := by cases k <;> cases j <;> rfl
@[simp] theorem State.modDom_effReg (k : NodeSel) (d : Dom) (f : DomCore → DomCore) (j : NodeSel) (o : Nat) : (s.modDom k d f).effReg j o = s.effReg j o := by cases k <;> cases j <;> rfl
@[simp] theorem State.modBs_effReg (k : NodeSel) (f : BsPort → BsPort) (j : NodeSel) (o : Nat) : (s.modBs k f).effReg j o = s.effReg j o := by cases k <;> cases j <;> rfl
@[simp] theorem State.modRoot_effReg (k : NodeSel) (f : Root → Root) (j : NodeSel) (o : Nat) : (s.modRoot k f).effReg j o = s.effReg j o := by cases k <;> cases j <;> rfl
@[simp] theorem State.modSrcBuf_effReg (k : NodeSel) (src : Src) (f : SrcBuf → SrcBuf) (j : NodeSel) (o : Nat) : (s.modSrcBuf k src f).effReg j o = s.effReg j o := by cases k <;> cases j <;> rfl
@[simp] theorem State.modCell_effReg (k : NodeSel) (i : Nat) (f : Cell → Cell) (j : NodeSel) (o : Nat) : (s.modCell k i f).effReg j o = s.effReg j o := by cases k <;> cases j <;> rfl
@[simp] theorem State.modDly_effReg (k : NodeSel) (i : Nat) (f : Delay → Delay) (j : NodeSel) (o : Nat) : (s.modDly k i f).effReg j o = s.effReg j o := by cases k <;> cases j <;> rfl
@[simp] theorem State.modRetry_effReg (k : NodeSel) (i : Nat) (f : Retry → Retry) (j : NodeSel) (o : Nat) : (s.modRetry k i f).effReg j o = s.effReg j o := by cases k <;> cases j <;> rfl
@[simp] theorem State.bump_effReg (k : NodeSel) (off : Nat) (j : NodeSel) (o : Nat) : (s.bump k off).effReg j o = s.effReg j o := by cases k <;> cases j <;> rfl
@[simp] theorem State.refuse_effReg (k : NodeSel) (off : Nat) (j : NodeSel) (o : Nat) : (s.refuse k off).effReg j o = s.effReg j o := by cases k <;> cases j <;> rfl
@[simp] theorem State.raiseIrq_effReg (k : NodeSel) (bit : Nat) (j : NodeSel) (o : Nat) : (s.raiseIrq k bit).effReg j o = s.effReg j o := by cases k <;> cases j <;> rfl
@[simp] theorem State.raiseTime_effReg (k : NodeSel) (bit : Nat) (j : NodeSel) (o : Nat) : (s.raiseTime k bit).effReg j o = s.effReg j o := by cases k <;> cases j <;> rfl
@[simp] theorem State.advTo_effReg (k : NodeSel) (rc : W64) (j : NodeSel) (o : Nat) : (s.advTo k rc).effReg j o = s.effReg j o := by cases k <;> cases j <;> rfl
@[simp] theorem State.advAfter_effReg (k : NodeSel) (mark : W64) (n : Nat) (j : NodeSel) (o : Nat) : (s.advAfter k mark n).effReg j o = s.effReg j o := by cases k <;> cases j <;> rfl
@[simp] theorem State.advHt_effReg (k : NodeSel) (u : Tu) (j : NodeSel) (o : Nat) : (s.advHt k u).effReg j o = s.effReg j o := by cases k <;> cases j <;> rfl
@[simp] theorem State.clearRefused_effReg (k : NodeSel) (j : NodeSel) (o : Nat) : (s.clearRefused k).effReg j o = s.effReg j o := by cases k <;> cases j <;> rfl
@[simp] theorem State.markRefused_effReg (k : NodeSel) (j : NodeSel) (o : Nat) : (s.markRefused k).effReg j o = s.effReg j o := by cases k <;> cases j <;> rfl
@[simp] theorem State.modLeaf_effReg (f : LeafOnly → LeafOnly) (j : NodeSel) (o : Nat) : (s.modLeaf f).effReg j o = s.effReg j o := by cases j <;> rfl
@[simp] theorem State.modPrick_effReg (f : Prick → Prick) (j : NodeSel) (o : Nat) : (s.modPrick f).effReg j o = s.effReg j o := by cases j <;> rfl
@[simp] theorem State.modRegion_effReg (i : Nat) (f : Region → Region) (j : NodeSel) (o : Nat) : (s.modRegion i f).effReg j o = s.effReg j o := by cases j <;> rfl
@[simp] theorem State.modSlot_effReg (i : Nat) (f : Slot → Slot) (j : NodeSel) (o : Nat) : (s.modSlot i f).effReg j o = s.effReg j o := by cases j <;> rfl
@[simp] theorem State.modMary_effReg (f : MaryOnly → MaryOnly) (j : NodeSel) (o : Nat) : (s.modMary f).effReg j o = s.effReg j o := by cases j <;> rfl
@[simp] theorem State.modSel_effReg (f : Selector → Selector) (j : NodeSel) (o : Nat) : (s.modSel f).effReg j o = s.effReg j o := by cases j <;> rfl
@[simp] theorem State.modGroup_effReg (i : Nat) (f : Group → Group) (j : NodeSel) (o : Nat) : (s.modGroup i f).effReg j o = s.effReg j o := by cases j <;> rfl
@[simp] theorem State.modQuad_effReg (i : Nat) (f : Quad → Quad) (j : NodeSel) (o : Nat) : (s.modQuad i f).effReg j o = s.effReg j o := by cases j <;> rfl
@[simp] theorem State.modEnt_effReg (i : Nat) (f : RefEnt → RefEnt) (j : NodeSel) (o : Nat) : (s.modEnt i f).effReg j o = s.effReg j o := by cases j <;> rfl
@[simp] theorem State.modPtp_effReg (i : Nat) (f : PtpPort → PtpPort) (j : NodeSel) (o : Nat) : (s.modPtp i f).effReg j o = s.effReg j o := by cases j <;> rfl
@[simp] theorem State.cancelKey_effReg (src : Src) (j : NodeSel) (o : Nat) : (s.cancelKey src).effReg j o = s.effReg j o := by cases j <;> rfl
@[simp] theorem State.modCellar_effReg (f : Cellar → Cellar) (j : NodeSel) (o : Nat) : (s.modCellar f).effReg j o = s.effReg j o := by cases j <;> rfl

/-! What stays the same, in steps. -/
theorem SameMary.refl (s : State) : SameMary s s := ⟨rfl, rfl, rfl⟩
theorem SameMary.trans {a b c : State} (h : SameMary a b) (g : SameMary b c) : SameMary a c := ⟨g.1.trans h.1, g.2.1.trans h.2.1, g.2.2.trans h.2.2⟩
theorem SameLeaf.refl (s : State) : SameLeaf s s := ⟨rfl, rfl⟩
theorem SameLeaf.trans {a b c : State} (h : SameLeaf a b) (g : SameLeaf b c) : SameLeaf a c := ⟨g.1.trans h.1, g.2.trans h.2⟩

end Sys2Proof.Machine
end

