-- ==== Sys2Proof/Laws/Access.lean ====
section
/-! SUPPORT. What a register access and a live event do, said once: the access that reaches the register's rule, the one that does not, and what
the refresh of CONV and the note of a refusal leave alone. -/

namespace Sys2Proof.Machine

/-! ## The note of a refusal in a host's STATUS byte -/

@[simp] theorem State.hostStat_leafN (s : State) (src : Src) (b : Nat) : (s.hostStat src b).leafN = s.leafN := by cases src <;> rfl
@[simp] theorem State.hostStat_maryN (s : State) (src : Src) (b : Nat) : (s.hostStat src b).maryN = s.maryN := by cases src <;> rfl
@[simp] theorem State.hostStat_leaf (s : State) (src : Src) (b : Nat) : (s.hostStat src b).leaf = s.leaf := by cases src <;> rfl
@[simp] theorem State.hostStat_cellar (s : State) (src : Src) (b : Nat) : (s.hostStat src b).cellar = s.cellar := by cases src <;> rfl
@[simp] theorem State.hostStat_pending (s : State) (src : Src) (b : Nat) : (s.hostStat src b).pending = s.pending := by cases src <;> rfl

/-- The host ports are all of the Maryel's own parts that the note touches. -/
theorem State.hostStat_mary (s : State) (src : Src) (b : Nat) : (s.hostStat src b).mary = { s.mary with ports := (s.hostStat src b).mary.ports } := by
  cases src <;> rfl

@[simp] theorem State.noteRefused_leafN (s : State) (k : NodeSel) (src : Src) : (s.noteRefused k src).leafN = s.leafN := by
  unfold State.noteRefused; split <;> simp
@[simp] theorem State.noteRefused_maryN (s : State) (k : NodeSel) (src : Src) : (s.noteRefused k src).maryN = s.maryN := by
  unfold State.noteRefused; split <;> simp
@[simp] theorem State.noteRefused_leaf (s : State) (k : NodeSel) (src : Src) : (s.noteRefused k src).leaf = s.leaf := by
  unfold State.noteRefused; split <;> simp
@[simp] theorem State.noteRefused_cellar (s : State) (k : NodeSel) (src : Src) : (s.noteRefused k src).cellar = s.cellar := by
  unfold State.noteRefused; split <;> simp
@[simp] theorem State.noteRefused_pending (s : State) (k : NodeSel) (src : Src) : (s.noteRefused k src).pending = s.pending := by
  unfold State.noteRefused; split <;> simp

theorem State.noteRefused_mary (s : State) (k : NodeSel) (src : Src) :
    (s.noteRefused k src).mary = { s.mary with ports := (s.noteRefused k src).mary.ports } := by
  unfold State.noteRefused
  split
  · exact s.hostStat_mary src 0
  · rfl

@[simp] theorem State.noteRefused_time (s : State) (k : NodeSel) (src : Src) (j : NodeSel) : (s.noteRefused k src).time j = s.time j := by
  cases j <;> simp [State.time, State.onNode]
@[simp] theorem State.hostStat_time (s : State) (src : Src) (n : Nat) (j : NodeSel) : (s.hostStat src n).time j = s.time j := by
  cases j <;> simp [State.time, State.onNode]
@[simp] theorem State.noteRefused_rc (s : State) (k : NodeSel) (src : Src) (j : NodeSel) : (s.noteRefused k src).rc j = s.rc j := by simp [State.rc]
@[simp] theorem State.hostStat_rc (s : State) (src : Src) (n : Nat) (j : NodeSel) : (s.hostStat src n).rc j = s.rc j := by simp [State.rc]
@[simp] theorem State.noteRefused_cfg (s : State) (k : NodeSel) (src : Src) (j : NodeSel) : (s.noteRefused k src).cfg j = s.cfg j := by
  cases j <;> simp [State.cfg, State.onNode]
@[simp] theorem State.hostStat_cfg (s : State) (src : Src) (n : Nat) (j : NodeSel) : (s.hostStat src n).cfg j = s.cfg j := by
  cases j <;> simp [State.cfg, State.onNode]
@[simp] theorem State.noteRefused_root (s : State) (k : NodeSel) (src : Src) (j : NodeSel) : (s.noteRefused k src).root j = s.root j := by
  cases j <;> simp [State.root, State.onNode]
@[simp] theorem State.hostStat_root (s : State) (src : Src) (n : Nat) (j : NodeSel) : (s.hostStat src n).root j = s.root j := by
  cases j <;> simp [State.root, State.onNode]
@[simp] theorem State.noteRefused_bs (s : State) (k : NodeSel) (src : Src) (j : NodeSel) : (s.noteRefused k src).bs j = s.bs j := by
  cases j <;> simp [State.bs, State.onNode]
@[simp] theorem State.hostStat_bs (s : State) (src : Src) (n : Nat) (j : NodeSel) : (s.hostStat src n).bs j = s.bs j := by
  cases j <;> simp [State.bs, State.onNode]
@[simp] theorem State.noteRefused_held (s : State) (k : NodeSel) (src : Src) (j : NodeSel) : (s.noteRefused k src).held j = s.held j := by
  cases j <;> simp [State.held, State.onNode]
@[simp] theorem State.hostStat_held (s : State) (src : Src) (n : Nat) (j : NodeSel) : (s.hostStat src n).held j = s.held j := by
  cases j <;> simp [State.held, State.onNode]
@[simp] theorem State.noteRefused_isRoot (s : State) (k : NodeSel) (src : Src) (j : NodeSel) : (s.noteRefused k src).isRoot j = s.isRoot j := by
  cases j <;> simp [State.isRoot]
@[simp] theorem State.hostStat_isRoot (s : State) (src : Src) (n : Nat) (j : NodeSel) : (s.hostStat src n).isRoot j = s.isRoot j := by
  cases j <;> simp [State.isRoot]
@[simp] theorem State.noteRefused_cell (s : State) (k : NodeSel) (src : Src) (j : NodeSel) (i : Nat) : (s.noteRefused k src).cell j i = s.cell j i := by
  cases j <;> simp [State.cell, State.onNode]
@[simp] theorem State.hostStat_cell (s : State) (src : Src) (n : Nat) (j : NodeSel) (i : Nat) : (s.hostStat src n).cell j i = s.cell j i := by
  cases j <;> simp [State.cell, State.onNode]
@[simp] theorem State.noteRefused_reg (s : State) (k : NodeSel) (src : Src) (j : NodeSel) (o : Nat) : (s.noteRefused k src).reg j o = s.reg j o := by
  cases j <;> simp [State.reg, State.onNode]
@[simp] theorem State.hostStat_reg (s : State) (src : Src) (n : Nat) (j : NodeSel) (o : Nat) : (s.hostStat src n).reg j o = s.reg j o := by
  cases j <;> simp [State.reg, State.onNode]
@[simp] theorem State.noteRefused_effReg (s : State) (k : NodeSel) (src : Src) (j : NodeSel) (o : Nat) : (s.noteRefused k src).effReg j o = s.effReg j o := by
  cases j <;> simp [State.effReg, State.onNode]
@[simp] theorem State.hostStat_effReg (s : State) (src : Src) (n : Nat) (j : NodeSel) (o : Nat) : (s.hostStat src n).effReg j o = s.effReg j o := by
  cases j <;> simp [State.effReg, State.onNode]
@[simp] theorem State.noteRefused_count (s : State) (k : NodeSel) (src : Src) (j : NodeSel) (o : Nat) : (s.noteRefused k src).count j o = s.count j o := by
  cases j <;> simp [State.count, State.onNode]
@[simp] theorem State.hostStat_count (s : State) (src : Src) (n : Nat) (j : NodeSel) (o : Nat) : (s.hostStat src n).count j o = s.count j o := by
  cases j <;> simp [State.count, State.onNode]
@[simp] theorem State.noteRefused_cellsWith (s : State) (k : NodeSel) (src : Src) (j : NodeSel) (p : Cell → Bool) :
    (s.noteRefused k src).cellsWith j p = s.cellsWith j p := by simp [State.cellsWith]
@[simp] theorem State.noteRefused_sel (s : State) (k : NodeSel) (src : Src) : (s.noteRefused k src).mary.sel = s.mary.sel := by
  rw [s.noteRefused_mary k src]

/-- With no refusal there is nothing to note. -/
theorem State.noteRefused_of_not (s : State) (k : NodeSel) (src : Src) (h : s.wasRefused k = false) : s.noteRefused k src = s := by
  simp [State.noteRefused, h]

/-! ## The refresh of CONV -/

@[simp] theorem State.dropConv_leaf (s : State) (k : NodeSel) : (s.dropConv k).leaf = s.leaf := by unfold State.dropConv; split <;> simp
@[simp] theorem State.dropConv_mary (s : State) (k : NodeSel) : (s.dropConv k).mary = s.mary := by unfold State.dropConv; split <;> simp
@[simp] theorem State.dropConv_cellar (s : State) (k : NodeSel) : (s.dropConv k).cellar = s.cellar := by unfold State.dropConv; split <;> simp
@[simp] theorem State.dropConv_pending (s : State) (k : NodeSel) : (s.dropConv k).pending = s.pending := by unfold State.dropConv; split <;> simp

/-- What the refresh of CONV can be: it does nothing, sets CONV, or clears it and counts that. -/
theorem State.convRefresh_cases (s : State) (k : NodeSel) :
    s.convRefresh k = s ∨ s.convRefresh k = s.modTime k (fun t => { t with conv := true }) ∨
      s.convRefresh k = (s.modTime k (fun t => { t with conv := false })).bump k (tOff k 0x1214) := by
  unfold State.convRefresh State.dropConv
  split
  · exact .inr (.inl rfl)
  · split
    · exact .inr (.inr rfl)
    · exact .inl rfl
  · exact .inl rfl

@[simp] theorem State.convRefresh_leaf (s : State) (k : NodeSel) : (s.convRefresh k).leaf = s.leaf := by
  rcases s.convRefresh_cases k with h | h | h <;> simp [h]
@[simp] theorem State.convRefresh_mary (s : State) (k : NodeSel) : (s.convRefresh k).mary = s.mary := by
  rcases s.convRefresh_cases k with h | h | h <;> simp [h]
@[simp] theorem State.convRefresh_cellar (s : State) (k : NodeSel) : (s.convRefresh k).cellar = s.cellar := by
  rcases s.convRefresh_cases k with h | h | h <;> simp [h]
@[simp] theorem State.convRefresh_pending (s : State) (k : NodeSel) : (s.convRefresh k).pending = s.pending := by
  rcases s.convRefresh_cases k with h | h | h <;> simp [h]
@[simp] theorem State.convRefresh_freeCtr (s : State) (k : NodeSel) : (s.convRefresh k).freeCtr = s.freeCtr := by
  rcases s.convRefresh_cases k with h | h | h <;> simp [h]
@[simp] theorem State.convRefresh_maryN (s : State) : (s.convRefresh .leaf).maryN = s.maryN := by
  rcases s.convRefresh_cases .leaf with h | h | h <;> simp [h]
@[simp] theorem State.convRefresh_leafN (s : State) : (s.convRefresh .mary).leafN = s.leafN := by
  rcases s.convRefresh_cases .mary with h | h | h <;> simp [h]

/-- Of a node, the refresh of CONV touches CONV and the counter of its clears alone. -/
theorem State.convRefresh_node (s : State) (k j : NodeSel) {α : Type} (f : {n : Nat} → Node n → α)
    (hf : ∀ {n : Nat} (N : Node n) (b : Bool) (m : Sparse W32), f { N with time := { N.time with conv := b }, ctr := m } = f N) :
    (s.convRefresh k).onNode j f = s.onNode j f := by
  have e : ∀ {n : Nat} (N : Node n) (b : Bool), f { N with time := { N.time with conv := b } } = f N := fun N b => hf N b N.ctr
  rcases s.convRefresh_cases k with h | h | h <;> rw [h] <;> cases k <;> cases j <;> first
    | rfl | exact e _ _ | exact hf s.leafN false _ | exact hf s.maryN false _

@[simp] theorem State.convRefresh_cell (s : State) (k j : NodeSel) (i : Nat) : (s.convRefresh k).cell j i = s.cell j i :=
  s.convRefresh_node k j _ (fun _ _ _ => rfl)
@[simp] theorem State.convRefresh_held (s : State) (k j : NodeSel) : (s.convRefresh k).held j = s.held j :=
  s.convRefresh_node k j _ (fun _ _ _ => rfl)
@[simp] theorem State.convRefresh_cfg (s : State) (k j : NodeSel) : (s.convRefresh k).cfg j = s.cfg j :=
  s.convRefresh_node k j _ (fun _ _ _ => rfl)
@[simp] theorem State.convRefresh_root (s : State) (k j : NodeSel) : (s.convRefresh k).root j = s.root j :=
  s.convRefresh_node k j _ (fun _ _ _ => rfl)
@[simp] theorem State.convRefresh_bs (s : State) (k j : NodeSel) : (s.convRefresh k).bs j = s.bs j :=
  s.convRefresh_node k j _ (fun _ _ _ => rfl)
@[simp] theorem State.convRefresh_reg (s : State) (k j : NodeSel) (off : Nat) : (s.convRefresh k).reg j off = s.reg j off :=
  s.convRefresh_node k j _ (fun _ _ _ => rfl)
@[simp] theorem State.convRefresh_effReg (s : State) (k j : NodeSel) (off : Nat) : (s.convRefresh k).effReg j off = s.effReg j off :=
  s.convRefresh_node k j _ (fun _ _ _ => rfl)
/-- Of a time core, the refresh of CONV touches CONV alone. -/
theorem State.convRefresh_time (s : State) (k j : NodeSel) : ∃ b, (s.convRefresh k).time j = { s.time j with conv := b } := by
  rcases s.convRefresh_cases k with h | h | h
  · exact ⟨(s.time j).conv, by rw [h]⟩
  · rw [h]; cases k <;> cases j <;> first | exact ⟨true, rfl⟩ | exact ⟨_, rfl⟩
  · rw [h]; cases k <;> cases j <;> first | exact ⟨false, rfl⟩ | exact ⟨_, rfl⟩
@[simp] theorem State.convRefresh_dom (s : State) (k j : NodeSel) (d : Dom) : ((s.convRefresh k).time j).dom d = (s.time j).dom d := by
  obtain ⟨b, h⟩ := s.convRefresh_time k j; rw [h]; cases d <;> rfl
@[simp] theorem State.convRefresh_domA (s : State) (k j : NodeSel) : ((s.convRefresh k).time j).domA = (s.time j).domA := by
  obtain ⟨b, h⟩ := s.convRefresh_time k j; rw [h]
@[simp] theorem State.convRefresh_domB (s : State) (k j : NodeSel) : ((s.convRefresh k).time j).domB = (s.time j).domB := by
  obtain ⟨b, h⟩ := s.convRefresh_time k j; rw [h]
@[simp] theorem State.convRefresh_holdover (s : State) (k j : NodeSel) : ((s.convRefresh k).time j).holdover = (s.time j).holdover := by
  obtain ⟨b, h⟩ := s.convRefresh_time k j; rw [h]
@[simp] theorem State.convRefresh_noht (s : State) (k j : NodeSel) : ((s.convRefresh k).time j).noht = (s.time j).noht := by
  obtain ⟨b, h⟩ := s.convRefresh_time k j; rw [h]
@[simp] theorem State.convRefresh_pll (s : State) (k j : NodeSel) : ((s.convRefresh k).time j).pll = (s.time j).pll := by
  obtain ⟨b, h⟩ := s.convRefresh_time k j; rw [h]
@[simp] theorem State.convRefresh_snap (s : State) (k j : NodeSel) : ((s.convRefresh k).time j).snap = (s.time j).snap := by
  obtain ⟨b, h⟩ := s.convRefresh_time k j; rw [h]
@[simp] theorem State.convRefresh_snapUnread (s : State) (k j : NodeSel) : ((s.convRefresh k).time j).snapUnread = (s.time j).snapUnread := by
  obtain ⟨b, h⟩ := s.convRefresh_time k j; rw [h]
@[simp] theorem State.convRefresh_htSetDone (s : State) (k j : NodeSel) : ((s.convRefresh k).time j).htSetDone = (s.time j).htSetDone := by
  obtain ⟨b, h⟩ := s.convRefresh_time k j; rw [h]
@[simp] theorem State.convRefresh_refclk (s : State) (k j : NodeSel) : ((s.convRefresh k).time j).refclk = (s.time j).refclk := by
  obtain ⟨b, h⟩ := s.convRefresh_time k j; rw [h]
@[simp] theorem State.convRefresh_rackHt (s : State) (k j : NodeSel) : ((s.convRefresh k).time j).rackHt = (s.time j).rackHt := by
  obtain ⟨b, h⟩ := s.convRefresh_time k j; rw [h]
@[simp] theorem State.convRefresh_frozen (s : State) (k j : NodeSel) : ((s.convRefresh k).time j).frozen = (s.time j).frozen := by
  obtain ⟨b, h⟩ := s.convRefresh_time k j; rw [h]
@[simp] theorem State.convRefresh_holdNs (s : State) (k j : NodeSel) : ((s.convRefresh k).time j).holdNs = (s.time j).holdNs := by
  obtain ⟨b, h⟩ := s.convRefresh_time k j; rw [h]
@[simp] theorem State.convRefresh_active (s : State) (k j : NodeSel) : ((s.convRefresh k).time j).active = (s.time j).active := by
  obtain ⟨b, h⟩ := s.convRefresh_time k j; rw [h]
@[simp] theorem State.convRefresh_fold (s : State) (k j : NodeSel) : ((s.convRefresh k).time j).fold = (s.time j).fold := by
  obtain ⟨b, h⟩ := s.convRefresh_time k j; rw [h]
@[simp] theorem State.convRefresh_read (s : State) (k j : NodeSel) : ((s.convRefresh k).time j).read = (s.time j).read := by
  obtain ⟨b, h⟩ := s.convRefresh_time k j; rw [h]
@[simp] theorem State.convRefresh_rackReq (s : State) (k j : NodeSel) : ((s.convRefresh k).time j).rackReq = (s.time j).rackReq := by
  obtain ⟨b, h⟩ := s.convRefresh_time k j; rw [h]
@[simp] theorem State.convRefresh_rackDue (s : State) (k j : NodeSel) : ((s.convRefresh k).time j).rackDue = (s.time j).rackDue := by
  obtain ⟨b, h⟩ := s.convRefresh_time k j; rw [h]
@[simp] theorem State.convRefresh_evt (s : State) (k j : NodeSel) : ((s.convRefresh k).time j).evt = (s.time j).evt := by
  obtain ⟨b, h⟩ := s.convRefresh_time k j; rw [h]
@[simp] theorem State.convRefresh_tclk (s : State) (k j : NodeSel) : ((s.convRefresh k).time j).tclk = (s.time j).tclk := by
  obtain ⟨b, h⟩ := s.convRefresh_time k j; rw [h]
@[simp] theorem State.convRefresh_rc (s : State) (k j : NodeSel) : (s.convRefresh k).rc j = s.rc j := by
  have h := s.convRefresh_node k j (fun N => N.time.rc) (fun _ _ _ => rfl)
  cases j <;> exact h

/-! ## The access -/

/-- An access that reaches the register's rule at the leaf runs it on the opened state. -/
theorem State.access_leaf (s : State) (src : Src) (off : Nat) (f : State → State) (h : s.takes .leaf src off = true) :
    s.access .leaf src off f = f (s.opened .leaf src) := by
  simp only [State.takes, Bool.and_eq_true, Bool.or_eq_true, decide_eq_true_eq, Bool.not_eq_true'] at h
  obtain ⟨⟨h1, h2⟩, h3⟩ := h
  simp only [State.access, State.opened, h1, h2]
  rcases h3 with h3 | h3 <;> simp [h3]

/-- An access that reaches the register's rule at the Maryel runs it on the opened state, and a refusal is noted. -/
theorem State.access_mary (s : State) (src : Src) (off : Nat) (f : State → State) (h : s.takes .mary src off = true) :
    s.access .mary src off f = (f (s.opened .mary src)).noteRefused .mary src := by
  simp only [State.takes, Bool.and_eq_true, Bool.or_eq_true, Bool.not_eq_true', decide_eq_false_iff_not] at h
  obtain ⟨⟨h1, h2⟩, ⟨h0, h3⟩, h4⟩ := h
  have h5 : (rootPage off && !s.isRoot .mary) = false := by
    rcases h4 with h4 | h4 <;> simp [h4]
  simp [State.access, State.opened, h0, h1, h2, h3, h5]

theorem State.accessC_leaf (s : State) (src : Src) (off : Nat) (f : State → State) (h : s.takes .leaf src off = true) :
    s.accessC .leaf src off f = (f (s.opened .leaf src)).convRefresh .leaf := s.access_leaf src off _ h

theorem State.accessC_mary (s : State) (src : Src) (off : Nat) (f : State → State) (h : s.takes .mary src off = true) :
    s.accessC .mary src off f = ((f (s.opened .mary src)).convRefresh .mary).noteRefused .mary src := s.access_mary src off _ h

/-- An event at a node that is not held in reset acts. -/
theorem State.live_of (s : State) (k : NodeSel) (f : State → State) (h : s.held k = false) : s.live k f = f s := by
  simp [State.live, h]
/-- A node held in reset lets the event pass. -/
theorem State.live_held (s : State) (k : NodeSel) (f : State → State) (h : s.held k = true) : s.live k f = s := by
  simp [State.live, h]
theorem State.liveC_of (s : State) (k : NodeSel) (f : State → State) (h : s.held k = false) : s.liveC k f = (f s).convRefresh k := by
  simp [State.liveC, State.live, h]
theorem State.liveC_held (s : State) (k : NodeSel) (f : State → State) (h : s.held k = true) : s.liveC k f = s := by
  simp [State.liveC, State.live, h]

/-! ## The opened state -/

@[simp] theorem State.opened_leaf (s : State) (k : NodeSel) (src : Src) : (s.opened k src).leaf = s.leaf := by cases k <;> rfl
@[simp] theorem State.opened_cellar (s : State) (k : NodeSel) (src : Src) : (s.opened k src).cellar = s.cellar := by cases k <;> rfl
@[simp] theorem State.opened_pending (s : State) (k : NodeSel) (src : Src) : (s.opened k src).pending = s.pending := by cases k <;> rfl
@[simp] theorem State.opened_freeCtr (s : State) (k : NodeSel) (src : Src) : (s.opened k src).freeCtr = s.freeCtr := by cases k <;> rfl
@[simp] theorem State.opened_maryN (s : State) (src : Src) : (s.opened .leaf src).maryN = s.maryN := rfl
@[simp] theorem State.opened_mary (s : State) (src : Src) : (s.opened .leaf src).mary = s.mary := rfl
@[simp] theorem State.opened_leafN (s : State) (src : Src) : (s.opened .mary src).leafN = s.leafN := rfl
@[simp] theorem State.opened_sel (s : State) (k : NodeSel) (src : Src) : (s.opened k src).mary.sel = s.mary.sel := by cases k <;> rfl

/-- Of a node, opening touches the result of the last access alone. -/
theorem State.opened_node (s : State) (k j : NodeSel) (src : Src) {α : Type} (f : {n : Nat} → Node n → α)
    (hf : ∀ {n : Nat} (N : Node n) (x : W32 × Bool), f { N with rdata := x } = f N) : (s.opened k src).onNode j f = s.onNode j f := by
  cases k <;> cases j <;> first | rfl | exact hf _ _

@[simp] theorem State.opened_time (s : State) (k j : NodeSel) (src : Src) : (s.opened k src).time j = s.time j := by
  cases k <;> cases j <;> rfl
@[simp] theorem State.opened_rc (s : State) (k j : NodeSel) (src : Src) : (s.opened k src).rc j = s.rc j := by cases k <;> cases j <;> rfl
@[simp] theorem State.opened_cell (s : State) (k j : NodeSel) (src : Src) (i : Nat) : (s.opened k src).cell j i = s.cell j i := by
  cases k <;> cases j <;> rfl
@[simp] theorem State.opened_held (s : State) (k j : NodeSel) (src : Src) : (s.opened k src).held j = s.held j := by cases k <;> cases j <;> rfl
@[simp] theorem State.opened_cfg (s : State) (k j : NodeSel) (src : Src) : (s.opened k src).cfg j = s.cfg j := by cases k <;> cases j <;> rfl
@[simp] theorem State.opened_root (s : State) (k j : NodeSel) (src : Src) : (s.opened k src).root j = s.root j := by cases k <;> cases j <;> rfl
@[simp] theorem State.opened_bs (s : State) (k j : NodeSel) (src : Src) : (s.opened k src).bs j = s.bs j := by cases k <;> cases j <;> rfl
@[simp] theorem State.opened_isRoot (s : State) (k j : NodeSel) (src : Src) : (s.opened k src).isRoot j = s.isRoot j := by cases k <;> cases j <;> rfl
@[simp] theorem State.opened_reg (s : State) (k j : NodeSel) (src : Src) (off : Nat) : (s.opened k src).reg j off = s.reg j off := by
  cases k <;> cases j <;> rfl
@[simp] theorem State.opened_count (s : State) (k j : NodeSel) (src : Src) (off : Nat) : (s.opened k src).count j off = s.count j off := by
  cases k <;> cases j <;> rfl

@[simp] theorem State.opened_effReg (s : State) (k j : NodeSel) (src : Src) (off : Nat) : (s.opened k src).effReg j off = s.effReg j off := by
  cases k <;> cases j <;> rfl
@[simp] theorem State.opened_effFld (s : State) (k j : NodeSel) (src : Src) (off hi lo : Nat) :
    (s.opened k src).effFld j off hi lo = s.effFld j off hi lo := by simp [State.effFld]
@[simp] theorem State.opened_fld (s : State) (k j : NodeSel) (src : Src) (off hi lo : Nat) :
    (s.opened k src).fld j off hi lo = s.fld j off hi lo := by simp [State.fld]
@[simp] theorem State.opened_cellsWith (s : State) (k j : NodeSel) (src : Src) (p : Cell → Bool) :
    (s.opened k src).cellsWith j p = s.cellsWith j p := by simp [State.cellsWith]

end Sys2Proof.Machine
end

