-- ==== Sys2Proof/Laws/Maps.lean ====
section
/-! SUPPORT. The finite maps, vectors, bits and registers of a node: what is read back after a write. -/

namespace Sys2Proof.Machine

/-! ## Sparse maps -/

theorem sget_cons {β : Type} (a : Nat) (b : β) (m : Sparse β) (k : Nat) : sget ((a, b) :: m) k = if a = k then some b else sget m k := by
  by_cases h : a = k <;> simp [sget, h]

/-- What a map holds after a write of one key. -/
theorem sget_sput {β : Type} (m : Sparse β) (k j : Nat) (v : β) : sget (sput m k v) j = if j = k then some v else sget m j := by
  induction m with
  | nil =>
    simp only [sput, sget_cons]
    by_cases h : k = j
    · simp [h]
    · simp [h, Ne.symm h]
  | cons p m ih =>
    obtain ⟨a, b⟩ := p
    unfold sput
    split
    · simp only [sget_cons]
      by_cases h : k = j
      · simp [h]
      · simp [h, Ne.symm h]
    · split
      · rename_i h1 h2
        subst h2
        simp only [sget_cons]
        by_cases h : k = j
        · simp [h]
        · simp [h, Ne.symm h]
      · rename_i h1 h2
        simp only [sget_cons, ih]
        by_cases h : a = j
        · have : j ≠ k := by omega
          simp [h, this]
        · simp [h]

@[simp] theorem sget_sput_same {β : Type} (m : Sparse β) (k : Nat) (v : β) : sget (sput m k v) k = some v := by simp [sget_sput]
theorem sget_sput_other {β : Type} (m : Sparse β) (k j : Nat) (v : β) (h : j ≠ k) : sget (sput m k v) j = sget m j := by simp [sget_sput, h]

/-! ## Vectors -/

@[simp] theorem vget_vmod_same {α : Type} {n : Nat} (v : Vector α n) (i : Nat) (f : α → α) (d : α) (h : i < n) :
    vget (vmod v i f) i d = f (vget v i d) := by simp [vget, vmod, h]
theorem vget_vmod_other {α : Type} {n : Nat} (v : Vector α n) (i j : Nat) (f : α → α) (d : α) (h : i ≠ j) :
    vget (vmod v i f) j d = vget v j d := by
  unfold vget vmod
  split
  · simp [h]
  · rfl

/-! ## Bits -/

theorem setBit_getLsbD {w : Nat} (v : BitVec w) (i j : Nat) : (setBit v i).getLsbD j = (v.getLsbD j || decide (i = j ∧ j < w)) := by
  simp only [setBit, BitVec.getLsbD_or, BitVec.getLsbD_ofNat, Nat.testBit_two_pow]
  by_cases h : i = j <;> simp [h]
theorem clrBit_getLsbD {w : Nat} (v : BitVec w) (i j : Nat) : (clrBit v i).getLsbD j = (v.getLsbD j && !decide (i = j)) := by
  simp only [clrBit, BitVec.getLsbD_and, BitVec.getLsbD_not, BitVec.getLsbD_ofNat, Nat.testBit_two_pow]
  by_cases hj : j < w
  · by_cases h : i = j <;> simp [h, hj]
  · simp [BitVec.getLsbD_of_ge v j (by omega)]

/-! ## Cells, counters and registers of a node -/

@[simp] theorem State.modCell_cell_same (s : State) (k : NodeSel) (i : Nat) (f : Cell → Cell) (h : i < cellCount k) :
    (s.modCell k i f).cell k i = f (s.cell k i) := by
  cases k <;> simp [State.modCell, State.modNode, State.cell, State.onNode] <;> simp [cellCount] at h <;> simp [h]
theorem State.modCell_cell_other (s : State) (k : NodeSel) (i j : Nat) (f : Cell → Cell) (h : i ≠ j) : (s.modCell k i f).cell k j = s.cell k j := by
  cases k <;> simp [State.modCell, State.modNode, State.cell, State.onNode, vget_vmod_other, h]
@[simp] theorem State.modDly_cell_same (s : State) (k : NodeSel) (i : Nat) (f : Delay → Delay) (h : i < cellCount k) :
    (s.modDly k i f).cell k i = { s.cell k i with dly := f (s.cell k i).dly } := by simp [State.modDly, h]
@[simp] theorem State.modRetry_cell_same (s : State) (k : NodeSel) (i : Nat) (f : Retry → Retry) (h : i < cellCount k) :
    (s.modRetry k i f).cell k i = { s.cell k i with retry := f (s.cell k i).retry } := by simp [State.modRetry, h]

@[simp] theorem State.bump_count_same (s : State) (k : NodeSel) (off : Nat) : (s.bump k off).count k off = satInc (s.count k off) := by
  cases k <;> simp [State.bump, State.count, State.modNode, State.onNode]
theorem State.bump_count_other (s : State) (k : NodeSel) (off o : Nat) (h : o ≠ off) : (s.bump k off).count k o = s.count k o := by
  cases k <;> simp [State.bump, State.count, State.modNode, State.onNode, sget_sput_other, h]
@[simp] theorem State.refuse_count_same (s : State) (k : NodeSel) (off : Nat) : (s.refuse k off).count k off = satInc (s.count k off) := by
  cases k <;> simp [State.refuse, State.bump, State.count, State.modNode, State.onNode]

@[simp] theorem State.setReg_reg_same (s : State) (k : NodeSel) (off : Nat) (v : W32) : (s.setReg k off v).reg k off = v := by
  cases k <;> simp [State.setReg, State.reg, State.modNode, State.onNode]
theorem State.setReg_reg_other (s : State) (k : NodeSel) (off o : Nat) (v : W32) (h : o ≠ off) : (s.setReg k off v).reg k o = s.reg k o := by
  cases k <;> simp [State.setReg, State.reg, State.modNode, State.onNode, sget_sput_other, h]
@[simp] theorem State.setReg_time (s : State) (k j : NodeSel) (off : Nat) (v : W32) : (s.setReg k off v).time j = s.time j := by
  cases k <;> cases j <;> rfl
@[simp] theorem State.setReg_cell (s : State) (k j : NodeSel) (off i : Nat) (v : W32) : (s.setReg k off v).cell j i = s.cell j i := by
  cases k <;> cases j <;> rfl
@[simp] theorem State.setReg_leaf (s : State) (k : NodeSel) (off : Nat) (v : W32) : (s.setReg k off v).leaf = s.leaf := by cases k <;> rfl
@[simp] theorem State.setReg_mary (s : State) (k : NodeSel) (off : Nat) (v : W32) : (s.setReg k off v).mary = s.mary := by cases k <;> rfl
@[simp] theorem State.setReg_cellar (s : State) (k : NodeSel) (off : Nat) (v : W32) : (s.setReg k off v).cellar = s.cellar := by cases k <;> rfl
@[simp] theorem State.setReg_pending (s : State) (k : NodeSel) (off : Nat) (v : W32) : (s.setReg k off v).pending = s.pending := by cases k <;> rfl
@[simp] theorem State.setReg_maryN (s : State) (off : Nat) (v : W32) : (s.setReg .leaf off v).maryN = s.maryN := rfl
@[simp] theorem State.setReg_leafN (s : State) (off : Nat) (v : W32) : (s.setReg .mary off v).leafN = s.leafN := rfl
@[simp] theorem State.modTime_cell (s : State) (k j : NodeSel) (f : TimeCore → TimeCore) (i : Nat) : (s.modTime k f).cell j i = s.cell j i := by
  cases k <;> cases j <;> rfl
@[simp] theorem State.modDom_cell (s : State) (k j : NodeSel) (d : Dom) (f : DomCore → DomCore) (i : Nat) : (s.modDom k d f).cell j i = s.cell j i := by
  cases k <;> cases j <;> rfl
@[simp] theorem State.bump_time (s : State) (k j : NodeSel) (off : Nat) : (s.bump k off).time j = s.time j := by cases k <;> cases j <;> rfl
@[simp] theorem State.bump_cell (s : State) (k j : NodeSel) (off i : Nat) : (s.bump k off).cell j i = s.cell j i := by cases k <;> cases j <;> rfl
@[simp] theorem State.refuse_time (s : State) (k j : NodeSel) (off : Nat) : (s.refuse k off).time j = s.time j := by cases k <;> cases j <;> rfl
@[simp] theorem State.modCell_time (s : State) (k j : NodeSel) (i : Nat) (f : Cell → Cell) : (s.modCell k i f).time j = s.time j := by
  cases k <;> cases j <;> rfl
@[simp] theorem State.raiseIrq_time (s : State) (k j : NodeSel) (b : Nat) : (s.raiseIrq k b).time j = s.time j := by cases k <;> cases j <;> rfl
@[simp] theorem State.raiseIrq_cell (s : State) (k j : NodeSel) (b i : Nat) : (s.raiseIrq k b).cell j i = s.cell j i := by cases k <;> cases j <;> rfl
@[simp] theorem State.raiseTime_cell (s : State) (k j : NodeSel) (b i : Nat) : (s.raiseTime k b).cell j i = s.cell j i := by
  cases k <;> cases j <;> rfl
theorem State.modDom_time (s : State) (k : NodeSel) (d : Dom) (f : DomCore → DomCore) : (s.modDom k d f).time k = (s.time k).modDom d f := by
  cases k <;> rfl

/-- The other domain's core is as it was. -/
@[simp] theorem TimeCore.modDom_same (t : TimeCore) (d : Dom) (f : DomCore → DomCore) : (t.modDom d f).dom d = f (t.dom d) := by cases d <;> rfl
theorem TimeCore.modDom_other (t : TimeCore) (d e : Dom) (f : DomCore → DomCore) (h : e ≠ d) : (t.modDom d f).dom e = t.dom e := by
  cases d <;> cases e <;> first | rfl | exact absurd rfl h
@[simp] theorem TimeCore.modDom_rc (t : TimeCore) (d : Dom) (f : DomCore → DomCore) : (t.modDom d f).rc = t.rc := by cases d <;> rfl
@[simp] theorem TimeCore.modDom_read (t : TimeCore) (d : Dom) (f : DomCore → DomCore) : (t.modDom d f).read = t.read := by cases d <;> rfl
@[simp] theorem TimeCore.modDom_active (t : TimeCore) (d : Dom) (f : DomCore → DomCore) : (t.modDom d f).active = t.active := by cases d <;> rfl
@[simp] theorem TimeCore.modDom_noht (t : TimeCore) (d : Dom) (f : DomCore → DomCore) : (t.modDom d f).noht = t.noht := by cases d <;> rfl
@[simp] theorem TimeCore.modDom_evt (t : TimeCore) (d : Dom) (f : DomCore → DomCore) : (t.modDom d f).evt = t.evt := by cases d <;> rfl
@[simp] theorem TimeCore.modDom_isActive (t : TimeCore) (d e : Dom) (f : DomCore → DomCore) : (t.modDom d f).isActive e = t.isActive e := by
  cases d <;> rfl

/-! ## Region ports and slots -/

@[simp] theorem State.modRegion_region_same (s : State) (p : Nat) (f : Region → Region) (h : p < 16) : (s.modRegion p f).region p = f (s.region p) := by
  simp [State.modRegion, State.modLeaf, State.region, h]
theorem State.modRegion_region_other (s : State) (p q : Nat) (f : Region → Region) (h : p ≠ q) : (s.modRegion p f).region q = s.region q := by
  simp [State.modRegion, State.modLeaf, State.region, vget_vmod_other, h]
@[simp] theorem State.modSlot_slot_same (s : State) (i : Nat) (f : Slot → Slot) (h : i < 32) : (s.modSlot i f).slot i = f (s.slot i) := by
  simp [State.modSlot, State.modLeaf, State.slot, h]
theorem State.modSlot_slot_other (s : State) (i j : Nat) (f : Slot → Slot) (h : i ≠ j) : (s.modSlot i f).slot j = s.slot j := by
  simp [State.modSlot, State.modLeaf, State.slot, vget_vmod_other, h]
@[simp] theorem State.modSlot_region (s : State) (i p : Nat) (f : Slot → Slot) : (s.modSlot i f).region p = s.region p := rfl
@[simp] theorem State.modRegion_slot (s : State) (i p : Nat) (f : Region → Region) : (s.modRegion p f).slot i = s.slot i := rfl
@[simp] theorem State.modRegion_prick (s : State) (p : Nat) (f : Region → Region) : (s.modRegion p f).leaf.prick = s.leaf.prick := rfl
@[simp] theorem State.modSlot_prick (s : State) (p : Nat) (f : Slot → Slot) : (s.modSlot p f).leaf.prick = s.leaf.prick := rfl
@[simp] theorem State.bump_region (s : State) (k : NodeSel) (off p : Nat) : (s.bump k off).region p = s.region p := by cases k <;> rfl
@[simp] theorem State.bump_slot (s : State) (k : NodeSel) (off p : Nat) : (s.bump k off).slot p = s.slot p := by cases k <;> rfl
@[simp] theorem State.modTime_region (s : State) (k : NodeSel) (f : TimeCore → TimeCore) (p : Nat) : (s.modTime k f).region p = s.region p := by
  cases k <;> rfl
@[simp] theorem State.modTime_slot (s : State) (k : NodeSel) (f : TimeCore → TimeCore) (p : Nat) : (s.modTime k f).slot p = s.slot p := by
  cases k <;> rfl
@[simp] theorem State.advTo_region (s : State) (k : NodeSel) (rc : W64) (p : Nat) : (s.advTo k rc).region p = s.region p := by cases k <;> rfl
@[simp] theorem State.advTo_slot (s : State) (k : NodeSel) (rc : W64) (p : Nat) : (s.advTo k rc).slot p = s.slot p := by cases k <;> rfl
@[simp] theorem State.advTo_cell (s : State) (k j : NodeSel) (rc : W64) (i : Nat) : (s.advTo k rc).cell j i = s.cell j i := by
  simp [State.advTo]
@[simp] theorem State.advTo_count (s : State) (k j : NodeSel) (rc : W64) (o : Nat) : (s.advTo k rc).count j o = s.count j o := by
  cases k <;> cases j <;> rfl
@[simp] theorem State.modRegion_count (s : State) (p : Nat) (f : Region → Region) (j : NodeSel) (o : Nat) : (s.modRegion p f).count j o = s.count j o := by
  cases j <;> rfl
@[simp] theorem State.modLeaf_count (s : State) (f : LeafOnly → LeafOnly) (j : NodeSel) (o : Nat) : (s.modLeaf f).count j o = s.count j o := by
  cases j <;> rfl
@[simp] theorem State.modPrick_count (s : State) (f : Prick → Prick) (j : NodeSel) (o : Nat) : (s.modPrick f).count j o = s.count j o := by
  cases j <;> rfl
@[simp] theorem State.modMary_count (s : State) (f : MaryOnly → MaryOnly) (j : NodeSel) (o : Nat) : (s.modMary f).count j o = s.count j o := by
  cases j <;> rfl
@[simp] theorem State.modCellar_count (s : State) (f : Cellar → Cellar) (j : NodeSel) (o : Nat) : (s.modCellar f).count j o = s.count j o := by
  cases j <;> rfl
@[simp] theorem State.raiseIrq_count (s : State) (k j : NodeSel) (b o : Nat) : (s.raiseIrq k b).count j o = s.count j o := by
  cases k <;> cases j <;> rfl
@[simp] theorem State.modCell_count (s : State) (k j : NodeSel) (i o : Nat) (f : Cell → Cell) : (s.modCell k i f).count j o = s.count j o := by
  cases k <;> cases j <;> rfl
@[simp] theorem State.modDly_count (s : State) (k j : NodeSel) (i o : Nat) (f : Delay → Delay) : (s.modDly k i f).count j o = s.count j o := by
  cases k <;> cases j <;> rfl
@[simp] theorem State.modTime_count (s : State) (k j : NodeSel) (f : TimeCore → TimeCore) (o : Nat) : (s.modTime k f).count j o = s.count j o := by
  cases k <;> cases j <;> rfl
@[simp] theorem State.modRoot_count (s : State) (k j : NodeSel) (f : Root → Root) (o : Nat) : (s.modRoot k f).count j o = s.count j o := by
  cases k <;> cases j <;> rfl
@[simp] theorem State.modLeaf_cell (s : State) (f : LeafOnly → LeafOnly) (j : NodeSel) (i : Nat) : (s.modLeaf f).cell j i = s.cell j i := by
  cases j <;> rfl
@[simp] theorem State.modPrick_cell (s : State) (f : Prick → Prick) (j : NodeSel) (i : Nat) : (s.modPrick f).cell j i = s.cell j i := by
  cases j <;> rfl
@[simp] theorem State.modMary_cell (s : State) (f : MaryOnly → MaryOnly) (j : NodeSel) (i : Nat) : (s.modMary f).cell j i = s.cell j i := by
  cases j <;> rfl
@[simp] theorem State.modRoot_cell (s : State) (k j : NodeSel) (f : Root → Root) (i : Nat) : (s.modRoot k f).cell j i = s.cell j i := by
  cases k <;> cases j <;> rfl
@[simp] theorem State.modLeaf_time (s : State) (f : LeafOnly → LeafOnly) (j : NodeSel) : (s.modLeaf f).time j = s.time j := by cases j <;> rfl
@[simp] theorem State.modPrick_time (s : State) (f : Prick → Prick) (j : NodeSel) : (s.modPrick f).time j = s.time j := by cases j <;> rfl
@[simp] theorem State.modMary_time (s : State) (f : MaryOnly → MaryOnly) (j : NodeSel) : (s.modMary f).time j = s.time j := by cases j <;> rfl
@[simp] theorem State.modCellar_time (s : State) (f : Cellar → Cellar) (j : NodeSel) : (s.modCellar f).time j = s.time j := by cases j <;> rfl
@[simp] theorem State.modRoot_time (s : State) (k j : NodeSel) (f : Root → Root) : (s.modRoot k f).time j = s.time j := by cases k <;> cases j <;> rfl
@[simp] theorem State.modDly_time (s : State) (k j : NodeSel) (i : Nat) (f : Delay → Delay) : (s.modDly k i f).time j = s.time j := by
  cases k <;> cases j <;> rfl
@[simp] theorem State.modRegion_time (s : State) (p : Nat) (f : Region → Region) (j : NodeSel) : (s.modRegion p f).time j = s.time j := by cases j <;> rfl

/-- What each step of a fold keeps, the fold keeps. -/
theorem State.each_keeps {α : Type} (P : State → Prop) (l : List α) (f : State → α → State) (h : ∀ s a, P s → P (f s a)) (s : State) (hs : P s) :
    P (s.each l f) := by
  unfold State.each
  induction l generalizing s with
  | nil => exact hs
  | cons a l ih => exact ih (f s a) (h s a hs)
/-- A fold's projection where each step leaves it. -/
theorem State.each_same {α β : Type} (g : State → β) (l : List α) (f : State → α → State) (h : ∀ s a, g (f s a) = g s) (s : State) :
    g (s.each l f) = g s := s.each_keeps (fun t => g t = g s) l f (fun t a ht => (h t a).trans ht) rfl

end Sys2Proof.Machine
end

