-- ==== Sys2Proof/Laws/Memory.lean ====
section
/-! SUPPORT. The cellar's medium: what a read gives after a write, and that every operation on the medium keeps its canonical form. The operations
of the model change the medium only through the operations named here. -/

namespace Sys2Proof.Machine

/-! ## The canonical form, said of a head and a rest -/

/-- Every listed address lies above `a`. -/
def Memory.above (a : Nat) (m : List Host.Cell) : Prop := ∀ c ∈ m, a < c.1

theorem Memory.wf_cons (c : Host.Cell) (m : List Host.Cell) :
    Memory.wf (c :: m) = true ↔ c.2 ≠ 0 ∧ Memory.above c.1 m ∧ Memory.wf m = true := by
  induction m generalizing c with
  | nil => simp [Memory.wf, Memory.above]
  | cons d m ih =>
    simp only [Memory.wf, Bool.and_eq_true, decide_eq_true_eq]
    constructor
    · rintro ⟨⟨h1, h2⟩, h3⟩
      refine ⟨h1, ?_, h3⟩
      intro e he
      rcases List.mem_cons.1 he with rfl | he
      · exact h2
      · exact lt_trans h2 (((ih d).1 h3).2.1 e he)
    · rintro ⟨h1, h2, h3⟩
      exact ⟨⟨h1, h2 d (by simp)⟩, h3⟩

theorem mput_above (m : List Host.Cell) (x a : Nat) (b : Byte) (h : Memory.above x m) (ha : x < a) : Memory.above x (mput m a b) := by
  induction m with
  | nil => unfold mput; split <;> simp [Memory.above, ha]
  | cons c m ih =>
    have hm : Memory.above x m := fun e he => h e (List.mem_cons_of_mem _ he)
    have hc : x < c.1 := h c (by simp)
    unfold mput
    split
    · split
      · exact h
      · intro e he
        rcases List.mem_cons.1 he with rfl | he
        · exact ha
        · exact h e he
    · split
      · split
        · exact hm
        · intro e he
          rcases List.mem_cons.1 he with rfl | he
          · exact ha
          · exact hm e he
      · intro e he
        rcases List.mem_cons.1 he with rfl | he
        · exact hc
        · exact ih hm e he

/-! ## Every write keeps it -/

theorem mput_wf (m : List Host.Cell) (a : Nat) (b : Byte) (h : Memory.wf m = true) : Memory.wf (mput m a b) = true := by
  induction m with
  | nil => unfold mput; split <;> simp_all [Memory.wf]
  | cons c m ih =>
    have hc := (Memory.wf_cons c m).1 h
    unfold mput
    split
    · split
      · exact h
      · rw [Memory.wf_cons]
        refine ⟨by assumption, ?_, h⟩
        intro e he
        rcases List.mem_cons.1 he with rfl | he
        · assumption
        · exact lt_trans (by assumption) (hc.2.1 e he)
    · split
      · split
        · exact hc.2.2
        · rw [Memory.wf_cons]
          rename_i ha hb
          subst ha
          exact ⟨hb, hc.2.1, hc.2.2⟩
      · rw [Memory.wf_cons]
        exact ⟨hc.1, mput_above _ _ _ _ hc.2.1 (by omega), ih hc.2.2⟩

theorem mputs_wf (m : List Host.Cell) (a : Nat) (l : List Byte) (h : Memory.wf m = true) : Memory.wf (mputs m a l) = true := by
  induction l generalizing m a with
  | nil => exact h
  | cons b l ih => exact ih _ _ (mput_wf _ _ _ h)

theorem Memory.wf_filter (m : List Host.Cell) (p : Host.Cell → Bool) (h : Memory.wf m = true) : Memory.wf (m.filter p) = true := by
  induction m with
  | nil => rfl
  | cons c m ih =>
    have hc := (Memory.wf_cons c m).1 h
    rw [List.filter_cons]
    split
    · rw [Memory.wf_cons]
      exact ⟨hc.1, fun e he => hc.2.1 e (List.mem_filter.1 he).1, ih hc.2.2⟩
    · exact ih hc.2.2

/-! ## A read after a write -/

theorem mget_above (m : List Host.Cell) (a : Nat) (h : Memory.above a m) : mget m a = 0 := by
  induction m with
  | nil => rfl
  | cons c m ih =>
    have hc : a < c.1 := h c (by simp)
    rw [mget, if_neg (by omega)]
    exact ih (fun e he => h e (List.mem_cons_of_mem _ he))

/-- The byte written is read back. -/
theorem mget_mput_same (m : List Host.Cell) (a : Nat) (b : Byte) (h : Memory.wf m = true) : mget (mput m a b) a = b := by
  induction m with
  | nil => unfold mput; split <;> simp_all [mget]
  | cons c m ih =>
    have hc := (Memory.wf_cons c m).1 h
    unfold mput
    split
    · rename_i ha
      split
      · rename_i hb
        rw [hb]
        exact mget_above _ _ (fun e he => by
          rcases List.mem_cons.1 he with rfl | he
          · exact ha
          · exact lt_trans ha (hc.2.1 e he))
      · simp [mget]
    · split
      · rename_i ha
        split
        · rename_i hb
          rw [hb, ha]
          exact mget_above _ _ hc.2.1
        · simp [mget]
      · rename_i h1 h2
        rw [mget, if_neg (fun h => h2 h.symm)]
        exact ih hc.2.2

/-- Every other byte is read as before. -/
theorem mget_mput_other (m : List Host.Cell) (a x : Nat) (b : Byte) (hx : x ≠ a) : mget (mput m a b) x = mget m x := by
  induction m with
  | nil => unfold mput; split <;> simp [mget, hx.symm]
  | cons c m ih =>
    unfold mput
    split
    · split
      · rfl
      · simp [mget, hx.symm]
    · split
      · rename_i ha
        split
        · rw [mget, if_neg (by omega)]
        · rw [mget, mget, if_neg (by exact hx.symm), if_neg (by omega)]
      · simp only [mget, ih]

/-- A run of bytes written leaves every byte outside the run as before. -/
theorem mget_mputs_outside (m : List Host.Cell) (a x : Nat) (l : List Byte) (h : x < a ∨ a + l.length ≤ x) : mget (mputs m a l) x = mget m x := by
  induction l generalizing m a with
  | nil => rfl
  | cons b l ih =>
    simp only [List.length_cons] at h
    rw [mputs, ih _ _ (by omega), mget_mput_other _ _ _ _ (by omega)]

/-- A run of bytes written is read back. -/
theorem mget_mputs_inside (m : List Host.Cell) (a i : Nat) (l : List Byte) (hw : Memory.wf m = true) (h : i < l.length) :
    mget (mputs m a l) (a + i) = l[i] := by
  induction l generalizing m a i with
  | nil => exact absurd h (Nat.not_lt_zero _)
  | cons b l ih =>
    cases i with
    | zero => rw [mputs, mget_mputs_outside _ _ _ _ (by omega)]; exact mget_mput_same _ _ _ hw
    | succ j =>
      have hj : j < l.length := by simpa using h
      have := ih (mput m a b) (a + 1) j (mput_wf _ _ _ hw) hj
      rw [mputs, show a + (j + 1) = a + 1 + j by omega, this]
      rfl

/-- A word written leaves every other word of the medium as before (R334). -/
theorem memWord_mputs_other (m : List Host.Cell) (w x : Nat) (v : W64) (h : x ≠ w) : memWord (mputs m (8 * w) (wordLe v)) x = memWord m x := by
  have hl : (wordLe v).length = 8 := by simp [wordLe]
  unfold memWord
  congr 1
  apply List.map_congr_left
  intro i hi
  have := List.mem_range.1 hi
  exact mget_mputs_outside _ _ _ _ (by omega)

/-! ## The operations on the state -/

/-- A loop keeps the canonical form where each of its rounds does. -/
theorem State.each_canonical {α : Type} (l : List α) (f : State → α → State) (h : ∀ s a, s.canonical → (f s a).canonical) (s : State)
    (hs : s.canonical) : (s.each l f).canonical := by
  unfold State.each
  induction l generalizing s with
  | nil => exact hs
  | cons a l ih => exact ih _ (h _ _ hs)

theorem State.reset_canonical : State.reset.canonical := rfl

theorem State.celRaw_canonical (s : State) (w : Nat) (v : W64) (h : s.canonical) : (s.celRaw w v).canonical := by
  unfold State.celRaw
  split
  · exact h
  · exact mputs_wf _ _ _ h

theorem State.celEnqueue_canonical (s : State) (w : Nat) (v : W64) (r : Option Nat) (h : s.canonical) : (s.celEnqueue w v r).canonical := h

theorem State.celWrite_canonical (s : State) (w : Nat) (v : W64) (put : State → Nat → W64 → State)
    (hp : ∀ s w v, s.canonical → (put s w v).canonical) (h : s.canonical) : (s.celWrite w v put).canonical := by
  unfold State.celWrite
  dsimp only
  split
  · exact hp _ _ _ (State.celRaw_canonical _ _ _ h)
  · exact State.celRaw_canonical _ _ _ h

theorem State.celWearPut_canonical (s : State) (w : Nat) (v : W64) (h : s.canonical) : (s.celWearPut w v).canonical := by
  unfold State.celWearPut
  dsimp only
  split
  · refine State.celWrite_canonical _ _ _ _ (fun s w v h => ?_) h
    split
    · exact State.celRaw_canonical _ _ _ h
    · exact State.celEnqueue_canonical _ _ _ _ h
  · exact State.celEnqueue_canonical _ _ _ _ h

theorem State.celNow_canonical (s : State) (w : Nat) (v : W64) (h : s.canonical) : (s.celNow w v).canonical :=
  State.celWrite_canonical _ _ _ _ State.celWearPut_canonical h

theorem State.celPut_canonical (s : State) (w : Nat) (v : W64) (h : s.canonical) : (s.celPut w v).canonical := by
  unfold State.celPut
  split
  · exact State.celNow_canonical _ _ _ h
  · exact State.celEnqueue_canonical _ _ _ _ h

theorem State.celPuts_canonical (s : State) (l : List (Nat × W64)) (h : s.canonical) : (s.celPuts l).canonical :=
  State.each_canonical l (fun s p => s.celPut p.1 p.2) (fun s p h => State.celPut_canonical s p.1 p.2 h) s h

/-- A series of word writes, as the end of an erase makes it. -/
theorem mputs_fold_wf (l : List (Nat × W64)) (m : List Host.Cell) (h : Memory.wf m = true) :
    Memory.wf (l.foldl (fun m p => mputs m (8 * p.1) (wordLe p.2)) m) = true := by
  induction l generalizing m with
  | nil => exact h
  | cons p l ih => exact ih _ (mputs_wf _ _ _ h)

theorem opCelEraseDone_canonical (s : State) (h : s.canonical) : (opCelEraseDone s).canonical := by
  unfold opCelEraseDone
  split
  · exact h
  · unfold State.canonical State.modCellar
    dsimp only
    exact mputs_fold_wf _ _ (Memory.wf_filter _ _ h)

theorem State.powerCut_canonical (s : State) (h : s.canonical) : s.powerCut.canonical := by
  unfold State.powerCut
  dsimp only
  split
  · exact h
  · exact Memory.wf_filter _ _ h

end Sys2Proof.Machine
end

