-- ==== Sys2Proof/Laws/Time.lean ====
section
/-! SUPPORT. The time core: DOM_EN's bits, correction sets after a change of K, racking and folds. -/

namespace Sys2Proof.Machine

@[simp] theorem State.setDomEn_time (s : State) (k j : NodeSel) (d : Dom) (b : Bool) : (s.setDomEn k d b).time j = s.time j := by
  simp [State.setDomEn]
@[simp] theorem State.setDomEn_cell (s : State) (k j : NodeSel) (d : Dom) (b : Bool) (i : Nat) : (s.setDomEn k d b).cell j i = s.cell j i := by
  simp [State.setDomEn]
@[simp] theorem State.setDomEn_leaf (s : State) (k : NodeSel) (d : Dom) (b : Bool) : (s.setDomEn k d b).leaf = s.leaf := by simp [State.setDomEn]
@[simp] theorem State.setDomEn_mary (s : State) (k : NodeSel) (d : Dom) (b : Bool) : (s.setDomEn k d b).mary = s.mary := by simp [State.setDomEn]
@[simp] theorem State.setDomEn_cellar (s : State) (k : NodeSel) (d : Dom) (b : Bool) : (s.setDomEn k d b).cellar = s.cellar := by
  simp [State.setDomEn]
@[simp] theorem State.setDomEn_maryN (s : State) (d : Dom) (b : Bool) : (s.setDomEn .leaf d b).maryN = s.maryN := by simp [State.setDomEn]
@[simp] theorem State.setDomEn_enabled_other (s : State) (k : NodeSel) (b : Bool) : (s.setDomEn k .a b).domEnabled k .b = s.domEnabled k .b := by
  cases b <;> simp [State.setDomEn, State.domEnabled, domIdx, -BitVec.getLsbD_eq_getElem, setBit_getLsbD, clrBit_getLsbD]
@[simp] theorem State.modDom_enabled (s : State) (k j : NodeSel) (d e : Dom) (f : DomCore → DomCore) : (s.modDom k d f).domEnabled j e = s.domEnabled j e := by
  simp [State.domEnabled]
@[simp] theorem State.opened_enabled (s : State) (k j : NodeSel) (src : Src) (e : Dom) : (s.opened k src).domEnabled j e = s.domEnabled j e := by
  simp [State.domEnabled]
@[simp] theorem State.setDomEn_hasUp (s : State) (k j : NodeSel) (d : Dom) (b : Bool) (e : Dom) : (s.setDomEn k d b).hasUpRole j e = s.hasUpRole j e := by
  simp [State.hasUpRole, State.cellsWith]
@[simp] theorem State.setDomEn_acq (s : State) (k j : NodeSel) (d : Dom) (b : Bool) (e : Dom) : (s.setDomEn k d b).acqOrSeek j e = s.acqOrSeek j e := by
  simp [State.acqOrSeek, State.domAligned, State.cellsWith]
@[simp] theorem State.modDom_hasUp (s : State) (k j : NodeSel) (d : Dom) (f : DomCore → DomCore) (e : Dom) : (s.modDom k d f).hasUpRole j e = s.hasUpRole j e := by
  simp [State.hasUpRole, State.cellsWith]
@[simp] theorem State.modDom_acq (s : State) (k j : NodeSel) (d : Dom) (f : DomCore → DomCore) (e : Dom) : (s.modDom k d f).acqOrSeek j e = s.acqOrSeek j e := by
  simp [State.acqOrSeek, State.domAligned, State.cellsWith]
@[simp] theorem State.modTime_hasUp (s : State) (k j : NodeSel) (f : TimeCore → TimeCore) (e : Dom) : (s.modTime k f).hasUpRole j e = s.hasUpRole j e := by
  simp [State.hasUpRole, State.cellsWith]
@[simp] theorem State.modTime_acq (s : State) (k j : NodeSel) (f : TimeCore → TimeCore) (e : Dom) : (s.modTime k f).acqOrSeek j e = s.acqOrSeek j e := by
  simp [State.acqOrSeek, State.domAligned, State.cellsWith]
@[simp] theorem State.opened_hasUp (s : State) (k j : NodeSel) (src : Src) (e : Dom) : (s.opened k src).hasUpRole j e = s.hasUpRole j e := by
  simp [State.hasUpRole, State.cellsWith]
@[simp] theorem State.opened_acq (s : State) (k j : NodeSel) (src : Src) (e : Dom) : (s.opened k src).acqOrSeek j e = s.acqOrSeek j e := by
  simp [State.acqOrSeek, State.domAligned, State.cellsWith]

@[simp] theorem TimeCore.putSet_rc (t : TimeCore) (d : Dom) (c : CorrSet) : (t.putSet d c).rc = t.rc := by
  unfold TimeCore.putSet
  split
  · simp
  · split <;> simp
theorem TimeCore.putSet_dom (t : TimeCore) (d e : Dom) (c : CorrSet) :
    (t.putSet d c).dom e = (t.modDom d (fun x => x.stepTo t.rc c)).dom e := by
  unfold TimeCore.putSet
  split
  · rfl
  · split <;> cases e <;> rfl
/-- A change of K re-anchors the domain's set at the present edge and leaves all else of the domain but the line kept for earlier edges (R24). -/
theorem TimeCore.putK_dom_same (t : TimeCore) (d : Dom) (k : BitVec 48) :
    ∃ p a, (t.putK d k).dom d = { t.dom d with set := (t.dom d).set.reanchor t.rc k, prev := p, kAt := a } := by
  refine ⟨((t.putK d k).dom d).prev, ((t.putK d k).dom d).kAt, ?_⟩
  simp only [TimeCore.putK, TimeCore.modDom_same, TimeCore.putSet_dom, DomCore.stepTo]
  split <;> rfl
theorem TimeCore.putK_dom_other (t : TimeCore) (d e : Dom) (k : BitVec 48) (h : e ≠ d) : (t.putK d k).dom e = t.dom e := by
  simp [TimeCore.putK, TimeCore.putSet_dom, TimeCore.modDom_other _ _ _ _ h]
@[simp] theorem TimeCore.putK_rc (t : TimeCore) (d : Dom) (k : BitVec 48) : (t.putK d k).rc = t.rc := by simp [TimeCore.putK]
/-- HT read at the edge of a re-anchoring is the same before and after (R24). -/
@[simp] theorem CorrSet.reanchor_at (c : CorrSet) (rc : W64) (k : BitVec 48) : (c.reanchor rc k).at_ rc = c.at_ rc := by
  simp [CorrSet.reanchor, CorrSet.at_]

/-- RC is all that an advance changes. -/
theorem State.advTo_time (s : State) (k : NodeSel) (rc : W64) : ∃ x, (s.advTo k rc).time k = { s.time k with rc := x } := by
  simp only [State.advTo, State.modTime_time]
  split
  · exact ⟨_, rfl⟩
  · exact ⟨(s.time k).rc, rfl⟩

end Sys2Proof.Machine
end

