-- ==== Sys2Proof/WellFormed.lean ====
section
/-! DEFINITION. What makes a command well formed: its source exists at its node, and its operands lie in the ranges the spec gives what
they carry. A command that fails a check names nothing the spec describes; the machine still has a meaning for it. -/

namespace Sys2Proof

/-- A source of register accesses that a node has: QHP and REG-TUNNEL at the leaf (R369), the hosts, REG-TUNNEL and
the management engine at the Maryel (R300, R390). -/
def srcFits : NodeSel → Src → Bool
  | .leaf, .host _ => false
  | .leaf, .engine => false
  | .mary, .qhp => false
  | _, _ => true

/-- The node of a cell. -/
def cellNode : CellRef → NodeSel
  | .leaf _ => .leaf
  | .mary _ => .mary

/-- The register access of a command: its node and its source. -/
def accessOf : Instr → Option (NodeSel × Src)
  | .chipRstKey s _ | .chipRst s _ | .cellRst s _ | .grpRst s _ | .quadRst (.write s) _ | .thrCmd s _ | .hoopDecider s _
  | .hostPerm s _ _ | .profBsData s _ | .profClr s | .profCheck s | .profCommit s _ | .profApply s _ | .meClr s | .meLoad s _
  | .meStart s | .licInstall s | .licRemove s _ | .refApply s | .selMode s _ | .softK s _ | .rootStep s | .rootHtSet s _
  | .rootSecNext s _ | .rwpSync s | .celErase s _ => some (.mary, s)
  | .rackCmd s _ | .htSet s _ | .islandK s _ | .statGo s | .statStop s | .fcGo s | .fcMinRst s _ | .gateCtl s _ | .prkFatalClr s
  | .hcCommit s | .stepHwm s _ | .stitchGo s | .fpHash s _ | .sdLeave s | .rootData s _ | .wideReadSnapshot s _ => some (.leaf, s)
  | .registerWrite n s _ _ | .expertUnlock n s _ | .errCntClr n s _ | .fifoPop n s _ | .domEn n s _ | .domReacq n s _ | .snapGo n s
  | .planCmd n s | .instData n s _ | .instClr n s | .instGo n s _ _ | .rcpData n s _ | .rcpClr n s | .rcpGo n s _ _
  | .hoopAbort n s _ _ | .stepWinSet n s _ | .stepWinAdopt n s _ | .keySend n s _ | .bindData n s _ | .bindClr n s | .bindGo n s _
  | .sdTeardown n s _ | .membWr n s | .membValid n s _ | .bsStart n s | .bsData n s _ | .bsApply n s | .resFloor n s _
  | .vintIssue n s _ => some (n, s)
  | .portEn c s _ | .test c s _ | .asymSwap c s _ => some (cellNode c, s)
  | _ => none

/-- An in-cycle position lies within one TCLK cycle of 2 ns, in 2^-16 ns (R28). -/
def posFits (p : Nat) : Bool := decide (p < 2 * 2 ^ 16)

/-- A time's nanoseconds stay below a second (R373). -/
def htFits (v : Ht96) : Bool := decide (bitsOf v 47 16 < 1000000000)

/-- The operands of a command that its type leaves too wide. -/
def operandsFit : Instr → Bool
  | .frameRx _ _ pos => posFits pos
  | .timeAnnounceRx _ _ t => posFits t.pos
  | .htSet _ v => htFits v
  | .rootHtSet _ v => htFits v
  | .hoopRecipeRx _ m => decide (m.lanes.length ≤ 39)
  | .hoopUpRx _ m _ => !(m.missed || m.incomplete) || m.lanes.isEmpty
  | .telemetryRx _ r => decide (r.data.length ≤ 8)
  | _ => true

/-- A command is well formed. -/
def Instr.wellFormed (i : Instr) : Bool :=
  (match accessOf i with | some p => srcFits p.1 p.2 | none => true) && operandsFit i

end Sys2Proof
end

