-- ==== Sys2Proof/Tests/Slice0.lean ====
section
/-! SUPPORT. The model's own tests: an ill-formed command for each check, the spec's worked examples, single steps, and for every statement of
Obligations.lean with hypotheses a state and operands that meet them (one witness a clause, named after the clause). Expected values of the
examples are the spec's own numbers. -/

namespace Sys2Proof.Tests

open Sys2Proof.Machine

set_option maxRecDepth 1000000
set_option Elab.async false

/-! ## Small states -/

/-- The block after reset. -/
abbrev R : State := State.reset
/-- Cell 0 of the leaf. -/
abbrev l0 : CellRef := .leaf 0
/-- Cell `i` of a node ACTIVE as an UP cell. -/
def up (k : NodeSel) (i : Nat) (d : Dom) : State :=
  R.modCell k i (fun c => { c with ts := .active, cfg := { c.cfg with role := 1, dom := d } })
/-- Cell `i` of a node ACTIVE as a DOWN cell. -/
def down (k : NodeSel) (i : Nat) (d : Dom) : State :=
  R.modCell k i (fun c => { c with ts := .active, cfg := { c.cfg with role := 2, dom := d } })
/-- Cell 0 of the leaf in a state of Table 3.11. -/
def inSt (t : TState) : State := R.modCell .leaf 0 (fun c => { c with ts := t })
/-- The leaf in TRACK in both domains. -/
def trk : State :=
  R.modTime .leaf (fun t =>
    { t with noht := false, domA := { t.domA with st := .track, set := .reset }, domB := { t.domB with st := .track, set := .reset } })
/-- The same of the Maryel. -/
def trkM : State :=
  R.modTime .mary (fun t =>
    { t with noht := false, domA := { t.domA with st := .track, set := .reset }, domB := { t.domB with st := .track, set := .reset } })
/-- An island root. -/
def island : State := R.modNode .leaf (fun N => { N with cfg := { N.cfg with island := true } })
/-- A root Maryel. -/
def rootM : State := R.modNode .mary (fun N => { N with cfg := { N.cfg with root := true } })
/-- The leaf with snapshots. -/
def snaps (l : List (Src × Nat × List W32)) : State := R.modNode .leaf (fun N => { N with snaps := l })
/-- A fold to domain A. -/
def fold0 : Fold := { dFold := 0, n := 65536, b := 0, start := 0, dom := .a }
/-- A HELLO of a DOWN cell. -/
def hello0 : LinkCtl := { role := 1, dom := .a, kind := .mary, nodeId := 9, bar := 6, rseqExp := 0, fixlat := false, ack := false }
/-- A form X frame as received of symbols that are no code. -/
def line0 : LineFrame := .x (Vector.replicate 64 0)
/-- A form X frame as sent: FSEQ 0, seven NULL tokens and its FCRC. -/
def lineGood : LineFrame :=
  let syms := (encFrame false (frameWords 0 (List.replicate 7 nullTok))).1
  .x (Vector.ofFn (fun i : Fin 64 => syms.getD i.val 0))
/-- A C2 message for cell 0. -/
def c2m : C2Out := { sd := 5, toks := [1], ports := [0], debited := false, inst := none }
/-- A binding. -/
def bind0 : Binding := { sd := 5, rank := 0, gen := 3 }
/-- A bound leaf with an ACTIVE UP cell. -/
def bound : State := (up .leaf 0 .a).modLeaf (fun l => { l with binding := some bind0 })
/-- A STEP image of SD 5. -/
def image0 : BitVec 256 := BitVec.ofNat 256 (2 ^ 252 + 5 * 2 ^ 238)
/-- An install message. -/
def inst0 : InstallMsg := { head := { sd := 5, dest := 0, all := true, gen := 3 }, batch := 9, image := image0 }
/-- An entry of that image. -/
def ent0 : Entry := { image := image0, batch := 9, gen := 3, tick0 := 4096, fired := 0, armA := false, armB := false, judged := false, pos := 0 }
/-- That entry armed and judged. -/
def flipE : Entry := { ent0 with armA := true, armB := true, judged := true }
/-- A HOOP_OPEN entry for port 3, armed and judged. -/
def openE : Entry := { flipE with image := BitVec.ofNat 256 (5 * 2 ^ 252 + 2 ^ 225 + 5 * 2 ^ 238) }
/-- A STEP entry for port 3, armed and judged. -/
def seedE : Entry := { flipE with image := BitVec.ofNat 256 (2 ^ 225 + 5 * 2 ^ 238) }
/-- A bound leaf whose HT is 10 ms. -/
def boundHt : State :=
  bound.modTime .leaf (fun t => { t with noht := false, read := { anchor := 0, off := 10000000 * nsTu, rate := nominalK } })
/-- A bound leaf with one entry. -/
def withEntry (e : Entry) : State := bound.modPrick (fun p => { p with entries := [e] })
/-- No slot of the leaf has taken an outcome. -/
theorem noTaken (s : State) (h : s.leaf.slots = LeafOnly.reset.slots) : ∀ i, (s.slot i).taken = none := by
  intro i
  unfold State.slot
  rw [h]
  simp only [vget, LeafOnly.reset, Vector.getElem?_replicate]
  split <;> rfl
/-- A slot of SD 5. -/
def slot0 : Slot := { Slot.reset with sd := 5, hoopId := 0x20, gen := 3 }
/-- A state with a hoop slot. -/
def withSlot (s : State) (x : Slot) : State := s.modSlot 0 (fun _ => x)
/-- A strobe in a crossing. -/
def strobe0 : Strobe := { kind := 2, arg := 7, step := 0, seed := 0, ready := true, tick := 4096, batch := 9, eidx := 0, entered := 0 }
/-- An outcome for a port. -/
def out0 : PortOut := { slot := 3, outcome := 1, verdict := 2, lanes := [9], lflag := 0, at_ := 0 }
/-- A recipe message. -/
def recm0 : RecipeMsg := { head := { sd := 5, dest := 0, all := true, gen := 3 }, hoopId := 0x20, common := 0, lanes := [0] }
/-- A recipe of one hoop in ALL mode. -/
def rec0 : Recipe := { sd := 5, gen := 3, hoopId := 0x20, common := 0, lanes := [0], ended := [], seen := (true, true) }
/-- A HOOP-UP of that hoop. -/
def up0 : HoopUp := { sd := 5, hoopId := 0x20, gen := 3, missed := false, incomplete := false, xtree := false, win := none, lanes := [7] }
/-- A HOOP-DOWN of that hoop. -/
def down0 : HoopDown :=
  { sd := 5, hoopId := 0x20, gen := 3, outcome := 0, aligned := false, verdict := 0, dest := 0, all := true, relNs := 0, cut := none, lanes := [7],
    lflag := 0 }
/-- A combine context of that hoop. -/
def ctx0 : Ctx := { sd := 5, hoopId := 0x20, dom := .a, gen := 3, openAt := 0, got := [], acc := [] }
/-- A tree of which nothing has arrived. -/
def tree0 : TreeSt := { total := none, incAll := false, incWin := [], wins := [] }
/-- That hoop at its root. -/
def rh0 : RHoop :=
  { sd := 5, hoopId := 0x20, gen := 3, openTick := none, firstHead := some 0, own := tree0, other := tree0, missed := false, lastWin := none,
    running := none, crossLost := false, soloWin := none, decided := none, common := 0, lanes := [0] }
/-- The same in QUORUM mode. -/
def rhq : RHoop :=
  { rh0 with common := BitVec.ofNat 288 (2 ^ 283 + 1000 * 2 ^ 215), own := { tree0 with incAll := true }, other := { tree0 with incAll := true } }
/-- A root context of SD 5. -/
def sd0 : SdCtx := { SdCtx.new 5 0 with batch := 4 }
/-- An island root with that context. -/
def withSd : State := island.modRoot .leaf (fun r => { r with sds := [sd0] })
/-- The same with a window of the deciding root's own tree. -/
def rhw : RHoop := { rhq with own := tree0 }
/-- A batch of that SD that installs nothing. -/
def bat0 : BatchRec :=
  { sd := 5, batch := 4, hoopId := 0xF000, expected := 0, earliest := none, flips := [], opens := [], lastTick := 0, armMargin := 10000, ended := none, st := .pending }
/-- A recipe image without lanes: FMT 3, DEADLINE 1 microsecond. -/
def rcpWords : List W32 := [0x30000000, 0x000003E8, 0, 0, 0, 0, 0, 0, 0]
/-- A patch that changes nothing. -/
def patch0 : Patch := { serial := 3, cells := [], routes := [], accepted := 0 }
/-- A commit in progress. -/
def prof0 : ProfPend := { slot := 1, bytes := [1, 2, 3] }
/-- A patch bitstream for a Maryel without sections. -/
def patchBits : List Byte :=
  ([1364480595, 196866, 0, 0, 0, 1, 64, 0, 0, 0, 0, 0, 0, 0, 0, 1683583655] : List Nat).flatMap (beBytes 4)
/-- A full bitstream for a Maryel: cell 0 UP in domain A, SHORT; every other cell OFF. -/
def fullWords : List W32 :=
  ([1364480595, 196864, 0, 0, 77, 1, 492, 131072, 0, 0, 0, 0, 0, 0, 0, 501009831, 65536, 4, 0, 1874844495, 196608, 400, 671088640] : List W32) ++
    List.replicate 99 0 ++ [3941623894]
/-- Its bytes. -/
def fullBits : List Byte := fullWords.flatMap (fun w => beBytes 4 w.toNat)
/-- Its sections. -/
def fullSecs : List BsSec := match bsSections fullBits 2 64 [] with | .ok l => l | .error _ => []
/-- An entry word: PHASE, 1PPS input 0, FREQ_WIN 46, PHASE_WIN 1,000. -/
def phaseWord : W64 := BitVec.ofNat 64 (2 ^ 63 + 2 ^ 58 + 46 * 2 ^ 48 + 1000 * 2 ^ 36)
/-- An entry word whose source is the ESMC port 1. -/
def esmcWord : W64 := BitVec.ofNat 64 (2 ^ 63 + 7 * 2 ^ 59 + 46 * 2 ^ 48 + 1000 * 2 ^ 36)
/-- A root whose HT runs. -/
def rootHt : State := rootM.modTime .mary (fun t => { t with noht := false, domA := { t.domA with st := .track } })
/-- A root that serves its outputs. -/
def live : State :=
  ((rootHt.modSel fun x => { x with st := .locked }).modMary fun m => { m with lic := { m.lic with gm := true } }).setReg .mary 0x98200 0x1F
/-- A root with 1588 port 0 on. -/
def ptpM : State := rootM.setReg .mary (tReg 0 0) 1
/-- A PTP message that a port cannot read. -/
def ptp0 : PtpMsg :=
  { kind := .malformed, domainNum := 0, source := 8, seqId := 1, twoStep := false, origin := 0, correction := 0, rx := 0, requester := 0,
    priority1 := 128, clockClass := 6, accuracy := 0x21, variance := 0, priority2 := 128, gmIdentity := 8, steps := 0 }
/-- The last beat of that outcome. -/
def beat0 : Beat := { slot := 3, outcome := 1, verdict := 2, lane := 0, data := 9, lflag := 0, last := true }
/-- A reference table of disabled entries with their least windows. -/
def refTab (s : State) : State := (List.range 8).foldl (fun s i => s.setReg .mary (0x9800C + 8 * i) 0x00010010) s
/-- A root with a 1588 port that is slave to another clock. -/
def ptpS : State := ptpM.modPtp 0 (fun p => { p with state := 9, master := some { ptp0 with kind := .announce } })
/-- A cellar medium with a vintage ceiling of 64 in both copies. -/
def vintMem : List Host.Cell := [(8 * (celCeilA + 1), 64), (8 * (celCeilB + 1), 64)]
/-- A tunnel request to leaf 9. -/
def tun0 : TunnelMsg := { maryel := false, write := false, status := 0, nodeId := 9, addr := 0, data := 0, tag := 1 }
/-- A cellar medium with a licence in slot 0. -/
def licMem : List Host.Cell := [(8 * licWord 0 0, 0x4C), (8 * licWord 0 0 + 1, 0x49)]
/-- A leaf that owes an echo. -/
def echoS : State :=
  (up .leaf 0 .a).modTime .leaf (fun t => { t with domA := { t.domA with seed := some .reset } }) |>.modDly .leaf 0
    fun d => { d with echoes := [{ id := 4, t2 := { rc := 0, pos := Config.txLat .leaf 0 } }] }

/-! ## Well-formedness: an ill-formed command for each check -/

/-- QHP is no source at a Maryel (R390). -/
theorem test_illformed_source_mary : (Instr.chipRstKey .qhp 0).wellFormed = false := by decide
/-- A host port is no source at a leaf (R369). -/
theorem test_illformed_source_leaf : (Instr.statGo (.host 0)).wellFormed = false := by decide
/-- A cell names its node, and the node its sources (R369, R390). -/
theorem test_illformed_source_cell : (Instr.portEn (.mary 3) .qhp true).wellFormed = false := by decide
/-- The comma of a frame lies within its cycle of 2 ns (R28). -/
theorem test_illformed_frame : (Instr.frameRx l0 line0 131072).wellFormed = false := by decide
/-- The same of a TIME-ANNOUNCE. -/
theorem test_illformed_announce : (Instr.timeAnnounceRx l0 0 { rc := 0, pos := 131072 }).wellFormed = false := by decide
/-- Nanoseconds stay below a second (R373). -/
theorem test_illformed_time : (Instr.htSet .qhp (BitVec.ofNat 96 (1000000000 * 2 ^ 16))).wellFormed = false := by decide
/-- The same of ROOT_HT_SET. -/
theorem test_illformed_root_time : (Instr.rootHtSet (.host 0) (BitVec.ofNat 96 (1000000000 * 2 ^ 16))).wellFormed = false := by decide
/-- A recipe has at most 39 lane descriptors in its message (Table 3.8). -/
theorem test_illformed_recipe : (Instr.hoopRecipeRx l0 { recm0 with lanes := List.replicate 40 0 }).wellFormed = false := by decide
/-- A head-only HOOP-UP carries no lanes (R180). -/
theorem test_illformed_up : (Instr.hoopUpRx l0 { up0 with missed := true } false).wellFormed = false := by decide
/-- A TELEMETRY record has at most 8 data tokens (Table 3.8). -/
theorem test_illformed_telemetry : (Instr.telemetryRx l0 { kind := 1, src := 0, maryel := false, data := List.replicate 9 0 }).wellFormed = false := by
  decide
/-- A command within its ranges is well formed. -/
theorem test_wellformed : (Instr.frameRx l0 line0 131071).wellFormed = true := by decide

/-! ## The spec's worked examples -/

/-- The set of the read example (02_hall_time.md). -/
def set0 : CorrSet :=
  { anchor := 0x10000000, off := (1893456000 * 1000000000 + 250000) * 2 ^ 40 + 0x8000 * 2 ^ 24, rate := 0x020000100000 }
/-- One read of HT: 1,893,456,000 s + 2,250,001 ns + fraction 0x7424. -/
theorem test_read_ht : htOf (set0.at_ (0x10000000 + 1000000)) = BitVec.ofNat 96 (1893456000 * 2 ^ 48 + 2250001 * 2 ^ 16 + 0x7424) := by
  decide +kernel

/-- The NULL token 0x0000_0000_0000_0095 carries its TCRC (R53). -/
theorem test_null_token : crc8 0 = 0x95 ∧ tokGood nullTok = true := by decide +kernel

/-- Test vector 1 of the stitch generator (Table 9.4). -/
theorem test_stitch_1 : stitch 0 0 0 0 = 0x1286EE8B4D998C018E21C3A8D4A64696#128 := by decide +kernel
/-- Test vector 2. -/
theorem test_stitch_2 : stitch 0x0123456789ABCDEFFEDCBA9876543210#128 0x70000A 10833 5 = 0xF63A57EEC0C74310FA2487B492E1E5DE#128 := by
  decide +kernel

/-- Two orders of the same hoop (10_determinism.md): FAST gives 0 in run 1. -/
theorem test_fast_run_1 : (laneResult 0xC0000000 (laneCombine 0xC0000000 (laneCombine 0xC0000000 (laneInput 0xC0000000 0x5D800000)
    (laneInput 0xC0000000 0x3F800000)) (laneInput 0xC0000000 0xDD800000))).1 = 0 := by decide +kernel
/-- FAST gives 1.0 in run 2. -/
theorem test_fast_run_2 : (laneResult 0xC0000000 (laneCombine 0xC0000000 (laneCombine 0xC0000000 (laneInput 0xC0000000 0x5D800000)
    (laneInput 0xC0000000 0xDD800000)) (laneInput 0xC0000000 0x3F800000))).1 = 0x3FF0000000000000 := by decide +kernel
/-- EXACT gives 0x0000_0000_3F80_0000 in run 1. -/
theorem test_exact_run_1 : (laneResult 0xD0000000 (laneCombine 0xD0000000 (laneCombine 0xD0000000 (laneInput 0xD0000000 0x5D800000)
    (laneInput 0xD0000000 0x3F800000)) (laneInput 0xD0000000 0xDD800000))).1 = 0x3F800000 := by decide +kernel
/-- EXACT gives the same in run 2. -/
theorem test_exact_run_2 : (laneResult 0xD0000000 (laneCombine 0xD0000000 (laneCombine 0xD0000000 (laneInput 0xD0000000 0x5D800000)
    (laneInput 0xD0000000 0xDD800000)) (laneInput 0xD0000000 0x3F800000))).1 = 0x3F800000 := by decide +kernel

/-- One sample through the delay filter (05_path_delay.md): sf 38,551,552 becomes 38,551,548. -/
theorem test_delay_filter : (Delay.sample { Delay.reset with sf32 := 38551552 * 2 ^ 16, n := 5000 } 10 200 38547456).1.sf = 38551548 := by
  decide +kernel

/-- One ToD sentence (14_references_and_holdover.md): $AVTOD,1893456001,37,N,L,6,0*4D CR LF. -/
theorem test_tod : todBytes 1893456001 37 78 76 6 0 =
    [0x24, 0x41, 0x56, 0x54, 0x4F, 0x44, 0x2C, 0x31, 0x38, 0x39, 0x33, 0x34, 0x35, 0x36, 0x30, 0x30, 0x31, 0x2C, 0x33, 0x37, 0x2C, 0x4E, 0x2C, 0x4C,
     0x2C, 0x36, 0x2C, 0x30, 0x2A, 0x34, 0x44, 0x0D, 0x0A] := by decide +kernel

/-- Cell 0 of the tray Maryel's bitstream (13_maryel.md): UP, FULL, form 2, class 0. -/
theorem test_cell_record_up : cellRec 0x22000000 = { role := 1, dom := .a, short := false, form := 2, lclass := 0 } := by decide
/-- Cells 1 to 8: DOWN, SHORT, form 2, class 1. -/
theorem test_cell_record_down : cellRec 0x4A400000 = { role := 2, dom := .a, short := true, form := 2, lclass := 1 } := by decide
/-- The route of cell 1: leaf IDs 0x0_5A00 to 0x0_5A08. -/
theorem test_route_record : routeRec [0x00, 0x5A, 0x00, 0x00, 0x5A, 0x08, 0x01, 0x00] = { lo := 0x5A00, hi := 0x5A08, cell := 1, mary := false } := by
  decide

/-- A landing record (17_leaf_registers.md) as its five words. -/
theorem test_landing_record :
    LandRec.num { stamp := BitVec.ofNat 96 (1893456000 * 2 ^ 48 + 524390 * 2 ^ 16 + 0x6000), kind := 1, tally := 5000100, folding := false } =
      0x00666000 + 0xD8800008 * 2 ^ 32 + 0x000070DB * 2 ^ 64 + 0x004C4BA4 * 2 ^ 96 + 0x80010000 * 2 ^ 128 := by decide +kernel

/-- The common image of the verdict example (09_numerics_and_seeds.md): VERD, NF_THR 0, SAT_THR 65,536. -/
def verdCommon : BitVec 288 := BitVec.ofNat 288 (2 ^ 278 + 65536)
/-- Its lanes: SCALE_E8 with EMAX 2; COUNT, WEIGHTED, role NONFINITE; SUM_U64, role SATURATE; SUM_F32_EXACT. -/
def verdLanes : List W32 := [0xE0020000, 0x96010000, 0x08000000, 0xD0000000]
/-- Rule 3 gives REPLAY_WIDE. -/
theorem test_verdict_wide : verdictOf verdCommon verdLanes [0x4150000000000080, 0, 91402, 0x44792000] = 3 := by decide +kernel
/-- The replay gives COMMIT. -/
theorem test_verdict_commit : verdictOf verdCommon verdLanes [0x4150000000000080, 0, 0, 0x44792000] = 1 := by decide +kernel
/-- Rule 2 comes before rule 3: SKIP. -/
theorem test_verdict_skip : verdictOf verdCommon verdLanes [0x4150000000000080, 3, 120000, 0x44792000] = 2 := by decide +kernel
/-- A loss that is not finite gives SKIP too. -/
theorem test_verdict_infinite : verdictOf verdCommon verdLanes [0x4150000000000080, 0, 120000, 0x7F800000] = 2 := by decide +kernel

/-- Amax to scale (08_hoops_and_harvest.md): 3.75, -5.5 and 13.0 give 0x4150_0000_0000_0080. -/
theorem test_scale : laneResult 0xE0020000 (laneCombine 0xE0020000 (laneCombine 0xE0020000 (laneInput 0xE0020000 0x40700000)
    (laneInput 0xE0020000 0xC0B00000)) (laneInput 0xE0020000 0x41500000)) = (0x4150000000000080, false) := by decide +kernel
/-- With MARGIN 1 the code is 0x81. -/
theorem test_scale_margin : laneResult 0xE0120000 (laneInput 0xE0120000 0x41500000) = (0x4150000000000081, false) := by decide +kernel

/-- The interval of the delay example (05_path_delay.md): 345 cycles, 69,632 and 98,304 in their cycles. -/
theorem test_interval : R.interval .leaf .a { rc := 4000000, pos := 98304 } { rc := 4000345, pos := 69632 } = 45191168 := by decide +kernel

/-- Channel 1 of the capture example (04_interpolator.md): 16 pairs, P[c] = 52,000 and CAL_SKEW as written over the fused one. -/
def captS : State :=
  (R.modLeaf (fun l => { l with ch1 := { l.ch1 with table := some [52000], pairs := List.replicate 16 (0, 13107, 144834) } })).putReg .leaf
    (skewReg .leaf 1) (BitVec.ofNat 32 (2 ^ 31 + (2 ^ 18 - 24576)))
/-- f is 145,195. -/
theorem test_capture : captS.convertKnown .leaf 1 100 0 = some 145195 := by decide +kernel

/-! ## One step -/

/-- With an empty queue RC goes up by one at each node. -/
theorem test_tick : (match step R with | .next t => decide (t.rc .leaf = 1 ∧ t.rc .mary = 1) | _ => false) = true := by decide +kernel
/-- The command at the front runs and leaves the queue. -/
theorem test_front : (match step { R with pending := [.leafResetAssert, .refclkLost] } with
    | .next t => t.held .leaf && decide (t.pending = [.refclkLost]) | _ => false) = true := by decide +kernel
/-- The table gives no word bits, so none spells a command. -/
theorem test_no_words : decodeTableWord 32 0 = none ∧ R.withFetchWord 32 0 = R := ⟨rfl, rfl⟩
/-- An event passes a node that is held in reset (R359). -/
theorem test_held : (match exec .leafFatal (R.modNode .leaf (fun N => { N with inReset := true })) with | .next t => t.leaf.fatal | _ => true) = false := by
  decide +kernel
/-- A read of the low word of SNAP_RC takes a snapshot of the whole (R9). -/
theorem test_wide_read : (match exec (.wideReadSnapshot .qhp 0x1030) (R.modTime .leaf (fun t => { t with snap := { t.snap with rc := 0x500000007 } })) with
    | .next t => decide (t.leafN.rdata = (7, false)) | _ => false) = true := by decide +kernel
/-- A host write of one word waits for the core (R295). -/
theorem test_host_write : (match exec (.hostWrite 2 0x7F000 [20] false) R with | .next t => decide ((t.port 2).queue = [.write 0x7F000 20]) | _ => false)
    = true := by decide +kernel
/-- The core serves it: the register holds the word (R296). -/
theorem test_host_serve : (match exec .hostAccessServe (R.modMary (fun m =>
    { m with ports := vmod m.ports 0 (fun p => { p with queue := [.write 0x7C02C 5] }) })) with
    | .next t => decide (t.reg .mary 0x7C02C = 5 ∧ (t.port 0).queue = []) | _ => false) = true := by decide +kernel
/-- A source without the permission is refused and counted (R297). -/
theorem test_denied : (match exec (.registerWrite .mary .tunnel 0x7C02C 5) (R.setReg .mary 0x7D010 0) with
    | .next t => decide (t.reg .mary 0x7C02C = 7 ∧ t.count .mary 0x7D080 = 1) | _ => false) = true := by decide +kernel
/-- A value outside a field's range is refused and counted (R10). -/
theorem test_range : (match exec (.registerWrite .leaf .qhp 0x1000 49999) R with
    | .next t => decide (t.reg .leaf 0x1000 = 100000 ∧ t.count .leaf (offTimeRefused .leaf) = 1) | _ => false) = true := by decide +kernel
/-- An expert register needs the unlock (R369). -/
theorem test_locked : (match exec (.registerWrite .leaf .qhp 0xA010 7) R with
    | .next t => decide (t.reg .leaf 0xA010 = 8) | _ => false) = true := by decide +kernel
/-- A counter saturates (R272). -/
theorem test_saturates : satInc 0xFFFFFFFF = 0xFFFFFFFF := by decide
/-- The two reset pins do not touch each other's node. -/
theorem test_reset_pins : (match exec .powerOnResetAssert R with | .next t => t.held .mary && !t.held .leaf | _ => false) = true := by decide +kernel
/-- A HOOP-UP whose hoop is closed is dropped and counted in DROP_DONE (R185). -/
theorem test_drop_done : (match exec (.hoopUpRx (.mary 7) up0 false) ((down .mary 7 .a).modNode .mary (fun N =>
    { N with curGen := [(5, 3)], membValid := true, closed := [(5, 0x20, .a)] })) with
    | .next t => decide (t.count .mary (offDropDone .mary) = 1) | _ => false) = true := by decide +kernel
/-- LINK-ACK with a value outside the unacknowledged range releases nothing (R71). -/
theorem test_ack_outside : ({ Retry.reset with unacked := [(254, [1]), (255, [2])] } : Retry).ack 2 0 = { Retry.reset with unacked := [(254, [1]), (255, [2])] } := by
  decide +kernel

/-! ## Witnesses for the statements about the whole block -/

/-- StepRunsFrontCommand, EveryCommandCompletes: no hypothesis. EmptyQueueTicks. -/
theorem wit_empty_queue : ∃ s : State, s.pending = [] := ⟨R, rfl⟩
/-- QueueIsLeftAlone. -/
theorem wit_queue : ∃ (c : Instr) (s t : State), exec c s = .next t := ⟨.refclkLost, R, _, rfl⟩
/-- StepKeepsCellarCanonical, with a medium that lists bytes. -/
theorem wit_canonical : ∃ s t : State, s.canonical ∧ step s = .next t :=
  ⟨{ R.modCellar (fun c => { c with mem := licMem }) with pending := [.celEraseDone] }, _, by unfold State.canonical; decide +kernel, rfl⟩
/-- HeldNodeLetsEventsPass. -/
theorem wit_held : ∃ (c : Instr) (s : State) (k : NodeSel), actsAt c = some k ∧ s.held k = true :=
  ⟨.leafFatal, R.modNode .leaf (fun N => { N with inReset := true }), .leaf, rfl, rfl⟩
/-- OnlyBindingCommandsBind. -/
theorem wit_only_bind : ∃ (c : Instr) (s t : State), exec c s = .next t ∧ mayBind c = false := ⟨.leafFatal, bound, _, rfl, rfl⟩
/-- OnlyResetCommandsHold. -/
theorem wit_only_hold : ∃ (c : Instr) (s t : State), exec c s = .next t ∧ mayHold c = false := ⟨.supplyMonitorTrip, R, _, rfl, rfl⟩
/-- SumS64AnyOrder: three inputs, two orders and shapes. -/
theorem wit_sum_s64 : ∃ (d : W32) (t u : LaneTree), laneOp d = 1 ∧ (laneTreeInputs t).length ≤ 2 ^ 24 ∧
    (laneTreeInputs t).Perm (laneTreeInputs u) ∧ t ≠ u :=
  ⟨0x10000000, .join (.input 1) (.join (.input 2) (.input 3)), .join (.join (.input 1) (.input 2)) (.input 3), by decide, by decide, by decide, by decide⟩
/-- ScrubCorrectsInPlace. -/
theorem wit_scrub : ∃ s : State, s.held .leaf = false := ⟨R, rfl⟩

/-! Witnesses for Obligations.TimeRacks -/

theorem wit_time_rackCmd : ∃ (s : State) (src : Src) (d : Dom), s.takes .leaf src 0x1008 = true ∧
    ((s.time .leaf).dom d).st = .track ∧
    (s.time .leaf).isActive d = false ∧
    ((s.time .leaf).foldTo d).dFold.natAbs ≤ s.abLimit .leaf :=
  ⟨trk, .qhp, .b, by decide +kernel⟩

theorem wit_time_rackCmd_refused : ∃ (s : State) (src : Src) (d : Dom), s.takes .leaf src 0x1008 = true ∧
    (((s.time .leaf).dom d).st ≠ .track ∨ (s.time .leaf).isActive d = true ∨ s.abLimit .leaf < ((s.time .leaf).foldTo d).dFold.natAbs) :=
  ⟨R, .qhp, .a, by decide +kernel⟩

theorem wit_time_foldComplete : ∃ (s : State) (f : Fold), s.held .leaf = false ∧
    (s.time .leaf).fold = some f :=
  ⟨R.modTime .leaf fun t => { t with fold := some fold0 }, fold0, by decide +kernel⟩

theorem wit_time_plannedRack : ∃ (s : State) (d : Dom), s.held .leaf = false ∧
    (s.time .leaf).tclk = true ∧
    (s.time .leaf).rackReq = some d ∧
    (s.time .leaf).rackHt ≤ s.ht .leaf ∧
    s.rackBad d = false ∧
    ((s.time .leaf).dom (s.time .leaf).active).st ≠ .lost ∧
    ((s.time .leaf).fold.isSome = true ∨ ((s.time .leaf).dom (s.time .leaf).active).picotAt = some (s.rc .leaf)) :=
  ⟨trk.modTime .leaf fun t => { t with rackReq := some .b, fold := some fold0 }, .b, by decide +kernel⟩

theorem wit_time_plannedRack_refused : ∃ (s : State) (d : Dom), s.held .leaf = false ∧
    (s.time .leaf).tclk = true ∧
    (s.time .leaf).rackReq = some d ∧
    (s.time .leaf).rackHt ≤ s.ht .leaf ∧
    s.rackBad d = true ∧
    ((s.time .leaf).fold.isSome = true ∨ ((s.time .leaf).dom (s.time .leaf).active).picotAt = some (s.rc .leaf)) :=
  ⟨trk.modTime .leaf fun t => { t with rackReq := some .a, fold := some fold0 }, .a, by decide +kernel⟩

theorem wit_time_unplannedRack : ∃ (s : State), s.held .leaf = false ∧
    (s.time .leaf).tclk = true ∧
    (s.time .leaf).rackDue = true ∧
    (s.time .leaf).noht = false ∧
    ((s.time .leaf).dom (otherDom (s.time .leaf).active)).st = .track ∧
    ((s.time .leaf).dom (s.time .leaf).active).st ≠ .lost :=
  ⟨trk.modTime .leaf fun t => { t with rackDue := true }, by decide +kernel⟩

theorem wit_time_unplannedRack_none : ∃ (s : State), s.held .leaf = false ∧
    (s.time .leaf).rackDue = true ∧
    ((s.time .leaf).noht = true ∨ ((s.time .leaf).dom (otherDom (s.time .leaf).active)).st ≠ .track) :=
  ⟨R.modTime .leaf fun t => { t with rackDue := true }, by decide +kernel⟩

theorem wit_time_reanchor : ∃ (s : State) (n : NodeSel), s.held n = false :=
  ⟨R, .leaf, by decide +kernel⟩

theorem wit_time_reanchor_ht : ∃ (s : State) (n : NodeSel), s.held n = false :=
  ⟨R, .mary, by decide +kernel⟩

/-! Witnesses for Obligations.TimeDomains -/

theorem wit_time_snapGo : ∃ (s : State) (n : NodeSel) (src : Src), s.takes n src (tOff n 0x1018) = true ∧
    s.snapsPicots n = false :=
  ⟨R, .mary, (.host 0), by decide +kernel⟩

theorem wit_time_snapGo_picots : ∃ (s : State) (n : NodeSel) (src : Src), s.takes n src (tOff n 0x1018) = true ∧
    s.snapsPicots n = true :=
  ⟨R.setReg .leaf 0x1018 2, .leaf, .qhp, by decide +kernel⟩

theorem wit_time_domEn_off : ∃ (s : State) (src : Src), s.takes .leaf src 0x1004 = true ∧
    (s.time .leaf).isActive .a = false ∧
    (s.time .leaf).isActive .b = false ∧
    s.domEnabled .leaf .a = true ∧
    s.domEnabled .leaf .b = true :=
  ⟨R.setReg .leaf 0x1004 3, .qhp, by decide +kernel⟩

theorem wit_time_domEn_seek : ∃ (s : State) (src : Src), s.takes .leaf src 0x1004 = true ∧
    (s.time .leaf).domA.st = .off ∧
    (s.time .leaf).domB.st = .off ∧
    s.hasUpRole .leaf .a = true ∧
    s.hasUpRole .leaf .b = true :=
  ⟨(up .leaf 0 .a).modCell .leaf 1 fun c => { c with cfg := { c.cfg with role := 1, dom := .b } }, .qhp, by decide +kernel⟩

theorem wit_time_domEn_root : ∃ (s : State) (src : Src), s.takes .mary src (tOff .mary 0x1004) = true ∧
    (s.cfg .mary).root = true :=
  ⟨rootM, (.host 0), by decide +kernel⟩

theorem wit_time_domReacq : ∃ (s : State) (n : NodeSel) (src : Src) (d : Dom), s.takes n src (tOff n 0x100C) = true ∧
    (s.time n).isActive d = true ∧
    ((s.time n).dom d).st = .lost ∧
    (n = .mary → (s.cfg .mary).root = false) :=
  ⟨R.modTime .leaf fun t => { t with noht := false, domA := { t.domA with st := .lost } }, .leaf, .qhp, .a, by decide +kernel⟩

theorem wit_time_domReacq_refused : ∃ (s : State) (n : NodeSel) (src : Src) (d : Dom), s.takes n src (tOff n 0x100C) = true ∧
    ((s.time n).isActive d = false ∨ ((s.time n).dom d).st ≠ .lost ∨ n = .mary ∧ (s.cfg .mary).root = true) :=
  ⟨R, .leaf, .qhp, .b, by decide +kernel⟩

theorem wit_time_htSet_first : ∃ (s : State) (src : Src) (v : Ht96), s.takes .leaf src 0x1068 = true ∧
    (s.cfg .leaf).island = true ∧
    htNs v ≤ 999999999 ∧
    tuNs (tuOfHt v) < 2 ^ 68 ∧
    (s.time .leaf).htSetDone = false ∧
    s.leaf.binding = none :=
  ⟨island, .qhp, 0x12345#96, by decide +kernel⟩

theorem wit_time_islandK : ∃ (s : State) (src : Src) (kk : BitVec 48), s.takes .leaf src 0x1074 = true ∧
    (s.cfg .leaf).island = true ∧
    kMin ≤ kk.toNat ∧
    kk.toNat ≤ kMax :=
  ⟨island, .qhp, nominalK, by decide +kernel⟩

theorem wit_time_islandK_refused : ∃ (s : State) (src : Src) (kk : BitVec 48), s.takes .leaf src 0x1074 = true ∧
    ((s.cfg .leaf).island = false ∨ kk.toNat < kMin ∨ kMax < kk.toNat) :=
  ⟨R, .qhp, nominalK, by decide +kernel⟩

theorem wit_time_holdLimitExpiry : ∃ (s : State) (n : NodeSel) (d : Dom), s.held n = false ∧
    ((s.time n).dom d).st = .hold ∧
    (s.time n).isActive d = true :=
  ⟨R.modTime .leaf fun t => { t with noht := false, domA := { t.domA with st := .hold } }, .leaf, .a, by decide +kernel⟩

/-! Witnesses for Obligations.PicotEdge -/

theorem wit_picot_picot : ∃ (s : State) (d : Dom) (c : CorrSet), s.held .leaf = false ∧
    (s.time .leaf).tclk = true ∧
    s.picotSet .leaf d = some c ∧
    (s.time .leaf).rackReq = none :=
  ⟨trk, .a, .reset, by decide +kernel⟩

theorem wit_picot_picot_none : ∃ (s : State) (n : NodeSel) (d : Dom), s.held n = false ∧
    (s.time n).tclk = true ∧
    s.picotSet n d = none :=
  ⟨R, .leaf, .b, by decide +kernel⟩

theorem wit_picot_picot_mary : ∃ (s : State) (d : Dom) (c : CorrSet), s.held .mary = false ∧
    (s.time .mary).tclk = true ∧
    s.picotSet .mary d = some c ∧
    s.isRoot .mary = false :=
  ⟨trkM, .b, .reset, by decide +kernel⟩

theorem wit_picot_picot_root : ∃ (s : State), s.held .mary = false ∧
    s.isRoot .mary = true :=
  ⟨rootM, by decide +kernel⟩

/-! Witnesses for Obligations.RegisterWrites -/

theorem wit_registers_registerWrite : ∃ (s : State) (src : Src), s.takes .leaf src 0x20 = true :=
  ⟨R, .tunnel, by decide +kernel⟩

theorem wit_registers_registerWrite_stored : ∃ (s : State) (src : Src) (v : W32), s.takes .leaf src 0x8104 = true ∧
    0 < v.toNat ∧
    v.toNat ≤ 0x1000000 :=
  ⟨R, .qhp, 0x1000000#32, by decide +kernel⟩

theorem wit_registers_registerWrite_refused : ∃ (s : State) (src : Src) (v : W32), s.takes .leaf src 0x8104 = true ∧
    (v.toNat % 2 ^ 25 = 0 ∨ 0x1000000 < v.toNat % 2 ^ 25) :=
  ⟨R, .qhp, 0#32, by decide +kernel⟩

theorem wit_registers_registerWrite_unassigned : ∃ (s : State) (n : NodeSel) (src : Src) (off : BitVec 20), s.takes n src off.toNat = true ∧
    assignedAt n src off.toNat = false ∧
    beyond n off.toNat = false ∧
    off.toNat ≠ 0xE054 :=
  ⟨R, .mary, (.host 0), 0xFFFFC#20, by decide +kernel⟩

theorem wit_registers_registerWrite_denied : ∃ (s : State) (src : Src) (off : BitVec 20), srcAt .mary src = true ∧
    src ≠ .engine ∧
    s.held .mary = false ∧
    beyond .mary off.toNat = false ∧
    s.mayWrite src off.toNat = false :=
  ⟨R.setReg .mary 0x7D000 0, (.host 0), 0x7C02C#20, by decide +kernel⟩

theorem wit_registers_registerWrite_engine : ∃ (s : State) (off : BitVec 20), s.held .mary = false ∧
    s.mary.me.state = 1 ∧
    beyond .mary off.toNat = false ∧
    engineMay off.toNat = true :=
  ⟨R.modMary fun m => { m with me := { m.me with state := 1 } }, 0xB1000#20, by decide +kernel⟩

theorem wit_registers_registerWrite_engine_blocked : ∃ (s : State) (off : BitVec 20), s.held .mary = false ∧
    s.mary.me.state = 1 ∧
    beyond .mary off.toNat = false ∧
    engineMay off.toNat = false :=
  ⟨R.modMary fun m => { m with me := { m.me with state := 1 } }, 0x7C02C#20, by decide +kernel⟩

theorem wit_registers_expertUnlock : ∃ (s : State) (n : NodeSel) (src : Src), s.takes n src (match n with | .leaf => 0x0010 | .mary => 0x7D020) = true :=
  ⟨R, .mary, (.host 0), by decide +kernel⟩

theorem wit_registers_errCntClr : ∃ (s : State) (src : Src), s.takes .leaf src 0x1C = true :=
  ⟨R, .qhp, by decide +kernel⟩

/-! Witnesses for Obligations.RegisterReads -/

theorem wit_registers_fifoPop : ∃ (s : State) (src : Src) (f : FifoId) (l : List W32), srcAt .leaf src = true ∧
    s.held .leaf = false ∧
    (f = .evt 0 ∨ f = .evt 1 ∨ f = .intv ∨ f = .miss ∨ ∃ p, f = .land p) ∧
    s.snapWord .leaf src (fifoAt f).1 = some l ∧
    (s.snapWord .leaf src ((fifoAt f).1 + 1)).isSome = true :=
  ⟨snaps [(.qhp, 0x8040, [1, 2, 3]), (.qhp, 0x8041, [])], .qhp, .intv, [1, 2, 3], by decide +kernel⟩

theorem wit_registers_fifoPop_unread : ∃ (s : State) (src : Src) (f : FifoId) (l : List W32), srcAt .leaf src = true ∧
    s.held .leaf = false ∧
    (f = .evt 0 ∨ f = .evt 1 ∨ f = .intv ∨ f = .miss ∨ ∃ p, f = .land p) ∧
    s.snapWord .leaf src (fifoAt f).1 = some l ∧
    s.snapWord .leaf src ((fifoAt f).1 + 1) = none :=
  ⟨snaps [(.qhp, 0x8040, [1, 2, 3])], .qhp, .intv, [1, 2, 3], by decide +kernel⟩

theorem wit_registers_fifoPop_root : ∃ (s : State) (src : Src) (f : FifoId) (l : List W32), srcAt .mary src = true ∧
    src ≠ .engine ∧
    s.held .mary = false ∧
    (f = .exc ∨ f = .alarm) ∧
    s.isRoot .mary = true ∧
    s.mayRead src ((fifoAt f).1 + 4 * ((fifoAt f).2 - 1)) = true ∧
    s.snapWord .mary src (fifoAt f).1 = some l ∧
    (s.snapWord .mary src ((fifoAt f).1 + 1)).isSome = true :=
  ⟨(R.modNode .mary fun N => { N with snaps := [(.host 0, 0xA0000, [1, 2]), (.host 0, 0xA0001, [])] }).modNode .mary fun N => { N with cfg := { N.cfg with root := true } }, (.host 0), .exc, [1, 2], by decide +kernel⟩

theorem wit_registers_fifoPop_telemetry : ∃ (s : State) (src : Src) (l : List W32), srcAt .mary src = true ∧
    src ≠ .engine ∧
    s.held .mary = false ∧
    s.mayRead src 0xA0240 = true ∧
    s.snapWord .mary src 0xA0200 = some l ∧
    (s.snapWord .mary src 0xA0201).isSome = true :=
  ⟨R.modNode .mary fun N => { N with snaps := [(.host 0, 0xA0200, [1, 2]), (.host 0, 0xA0201, [])] }, (.host 0), [1, 2], by decide +kernel⟩

theorem wit_registers_wideReadSnapshot : ∃ (s : State) (src : Src), srcAt .leaf src = true ∧
    s.held .leaf = false :=
  ⟨R, .tunnel, by decide +kernel⟩

theorem wit_registers_wideReadSnapshot_any : ∃ (s : State) (src : Src) (off : BitVec 16) (w : WideView), srcAt .leaf src = true ∧ s.held .leaf = false ∧
    off.toNat % 4 = 0 ∧ off.toNat ≠ 0xE054 ∧ wideAt .leaf src off.toNat = some w ∧ w.1 = off.toNat ∧ fifoOf .leaf w.1 = none ∧
    (∀ i, cellAt .leaf off.toNat = some i → (s.cell .leaf i).ts ≠ .test) := by
  obtain ⟨w, hw⟩ := Option.isSome_iff_exists.1 (show (wideAt .leaf .tunnel (0x1030#16).toNat).isSome = true by decide +kernel)
  have h : w.1 = (0x1030#16).toNat := by
    have e : (wideAt .leaf .tunnel (0x1030#16).toNat).map (fun w => w.1) = some (0x1030#16).toNat := by decide +kernel
    rw [hw] at e
    exact Option.some.inj e
  refine ⟨R, .tunnel, 0x1030#16, w, by decide +kernel, by decide +kernel, by decide +kernel, by decide +kernel, hw, h, ?_, ?_⟩
  · rw [h]
    decide +kernel
  · intro i hi
    have e : cellAt .leaf (0x1030#16).toNat = none := by decide +kernel
    rw [e] at hi
    cases hi

/-! Witnesses for Obligations.RootPageWindow -/

theorem wit_rootdata_rootData : ∃ (s : State) (src : Src) (o : Nat), s.takes .leaf src 0xE054 = true ∧
    s.isRoot .leaf = true ∧
    imageOff (s.fld .leaf 0xE050 15 0) = some o :=
  ⟨island, .qhp, 0x80000, by decide +kernel⟩

theorem wit_rootdata_rootData_read : ∃ (s : State) (src : Src) (o : Nat), srcAt .leaf src = true ∧
    s.held .leaf = false ∧
    s.isRoot .leaf = true ∧
    imageOff (s.fld .leaf 0xE050 15 0) = some o :=
  ⟨island, .qhp, 0x80000, by decide +kernel⟩

theorem wit_rootdata_rootData_elsewhere : ∃ (s : State) (src : Src), s.takes .leaf src 0xE054 = true ∧
    s.isRoot .leaf = false :=
  ⟨R, .qhp, by decide +kernel⟩

theorem wit_rootdata_rootData_elsewhere_read : ∃ (s : State) (src : Src), srcAt .leaf src = true ∧
    s.held .leaf = false ∧
    s.isRoot .leaf = false :=
  ⟨R, .qhp, by decide +kernel⟩

theorem wit_rootdata_rootData_stored : ∃ (s : State) (src : Src), s.takes .leaf src 0xE054 = true ∧
    s.isRoot .leaf = true ∧
    imageOff (s.fld .leaf 0xE050 15 0) = some 0x8010C :=
  ⟨island.setReg .leaf 0xE050 0x10C, .qhp, by decide +kernel⟩

/-! Witnesses for Obligations.LinkTraining -/

theorem wit_link_cdrLock : ∃ (s : State) (c : CellRef), s.held c.node = false ∧
    (s.cell c.node c.idx).ts = .cdr :=
  ⟨inSt .cdr, l0, by decide +kernel⟩

theorem wit_link_cdrTimeout : ∃ (s : State) (c : CellRef), s.held c.node = false ∧
    (s.cell c.node c.idx).ts = .cdr :=
  ⟨inSt .cdr, l0, by decide +kernel⟩

theorem wit_link_portEn : ∃ (s : State) (c : CellRef) (src : Src), s.takes c.node src (cOff c.node c.idx 0) = true ∧
    (s.cell c.node c.idx).ts = .off ∧
    (c.node = .leaf → (s.cell c.node c.idx).portEn = true) ∧
    (s.cell c.node c.idx).mute = 0 ∧
    (s.cell c.node c.idx).dark = false ∧
    (s.cell c.node c.idx).cfg.role ≠ 0 :=
  ⟨(inSt .off).modCell .leaf 0 fun c => { c with portEn := true, cfg := { c.cfg with role := 1 } }, l0, .qhp, by decide +kernel⟩

theorem wit_link_test : ∃ (s : State) (c : CellRef) (src : Src), s.takes c.node src (cOff c.node c.idx 0) = true ∧
    (s.cell c.node c.idx).ts = .off ∧
    (s.cell c.node c.idx).mute = 0 ∧
    (s.cell c.node c.idx).dark = false :=
  ⟨R, l0, .qhp, by decide +kernel⟩

theorem wit_link_test_end : ∃ (s : State) (c : CellRef) (src : Src), s.takes c.node src (cOff c.node c.idx 0) = true ∧
    (s.cell c.node c.idx).ts = .test ∧
    (s.cell c.node c.idx).portEn = false :=
  ⟨inSt .test, l0, .qhp, by decide +kernel⟩

theorem wit_link_lossOfSignal : ∃ (s : State) (c : CellRef), s.held c.node = false ∧
    (s.cell c.node c.idx).ts = .word :=
  ⟨inSt .word, l0, by decide +kernel⟩

/-! Witnesses for Obligations.LinkGreetings -/

theorem wit_link_helloSend : ∃ (s : State) (c : CellRef), s.held c.node = false ∧
    (s.cell c.node c.idx).aligned = true :=
  ⟨inSt .hello, l0, by decide +kernel⟩

theorem wit_link_helloRx_mismatch : ∃ (s : State) (c : CellRef) (h : LinkCtl), s.held c.node = false ∧
    (s.cell c.node c.idx).ts = .hello ∧
    rolesMatch (s.cell c.node c.idx).cfg h = false :=
  ⟨inSt .hello, l0, hello0, by decide +kernel⟩

theorem wit_link_helloRx : ∃ (s : State) (c : CellRef) (h : LinkCtl), s.held c.node = false ∧
    (s.cell c.node c.idx).ts = .hello ∧
    rolesMatch (s.cell c.node c.idx).cfg h = true :=
  ⟨up .leaf 0 .a |>.modCell .leaf 0 fun c => { c with ts := .hello }, l0, hello0, by decide +kernel⟩

theorem wit_link_barRx : ∃ (s : State) (c : CellRef) (bar : BitVec 3), s.held c.node = false ∧
    (s.cell c.node c.idx).aligned = true ∧
    bar.toNat ≤ 6 :=
  ⟨inSt .delay, l0, 6#3, by decide +kernel⟩

theorem wit_link_barApply : ∃ (s : State) (c : CellRef) (bar : BitVec 3) (rc : W64), s.held c.node = false ∧
    (s.cell c.node c.idx).barPend = some (bar, rc) :=
  ⟨R.modCell .leaf 0 fun c => { c with barPend := some (3, 8) }, l0, 3#3, 8#64, by decide +kernel⟩

/-! Witnesses for Obligations.LinkRetry -/

theorem wit_link_linkAckRx : ∃ (s : State) (c : CellRef) (rseq : Byte) (o : Byte) (w : List W64) (l : List (Byte × List W64)), s.held c.node = false ∧
    (s.cell c.node c.idx).aligned = true ∧
    (s.cell c.node c.idx).retry.unacked = (o, w) :: l ∧
    (rseq - o).toNat ≠ 0 ∧
    (rseq - o).toNat ≤ l.length + 1 :=
  ⟨(inSt .active).modRetry .leaf 0 fun r => { r with unacked := [(254, [1]), (255, [2])] }, l0, 0#8, 254#8, [1], [(255, [2])], by decide +kernel⟩

theorem wit_link_linkAckTimer : ∃ (s : State) (c : CellRef) (rc : W64), s.held c.node = false ∧
    (s.cell c.node c.idx).aligned = true ∧
    (s.cell c.node c.idx).retry.firstAcc = some rc :=
  ⟨(inSt .active).modRetry .leaf 0 fun r => { r with firstAcc := some 0 }, l0, 0#64, by decide +kernel⟩

theorem wit_link_retryTimeoutExpiry : ∃ (s : State) (c : CellRef), s.held c.node = false ∧
    (s.cell c.node c.idx).ts = .active ∧
    (s.cell c.node c.idx).retry.unacked ≠ [] :=
  ⟨(inSt .active).modRetry .leaf 0 fun r => { r with unacked := [(0, [1])] }, l0, by decide +kernel⟩

theorem wit_link_retryResend : ∃ (s : State) (c : CellRef), s.held c.node = false ∧
    (s.cell c.node c.idx).ts = .active ∧
    (s.cell c.node c.idx).retry.unacked ≠ [] ∧
    (s.cell c.node c.idx).retry.resendDue = true ∧
    (s.cell c.node c.idx).retry.resends < 16 :=
  ⟨(inSt .active).modRetry .leaf 0 fun r => { r with unacked := [(0, [1])], resendDue := true, resends := 15 }, l0, by decide +kernel⟩

theorem wit_link_retryStateDiscard : ∃ (s : State) (c : CellRef) (rc : W64), s.held c.node = false ∧
    (s.cell c.node c.idx).ts ≠ .active ∧
    (s.cell c.node c.idx).retry.lossAt = some rc :=
  ⟨R.modRetry .leaf 0 fun r => { r with lossAt := some 0 }, l0, 0#64, by decide +kernel⟩

/-! Witnesses for Obligations.LinkFrames -/

theorem wit_link_frameRx : ∃ (s : State) (c : CellRef) (f : LineFrame) (pos : Nat), s.held c.node = false ∧
    (s.cell c.node c.idx).ts = .word ∧
    (f.decode (s.cell c.node c.idx).rxRd pos).1.comma = true ∧
    (s.cell c.node c.idx).commaRun = 7 :=
  ⟨(inSt .word).modCell .leaf 0 fun c => { c with commaRun := 7 }, l0, lineGood, 5, by decide +kernel⟩

theorem wit_link_frameRx_word : ∃ (s : State) (c : CellRef) (f : LineFrame) (pos : Nat), s.held c.node = false ∧
    (s.cell c.node c.idx).ts = .word ∧
    ((f.decode (s.cell c.node c.idx).rxRd pos).1.comma = true → (s.cell c.node c.idx).commaRun < 7) :=
  ⟨inSt .word, l0, line0, 5, by decide +kernel⟩

theorem wit_link_frameRx_bad : ∃ (s : State) (c : CellRef) (f : LineFrame) (pos : Nat), s.held c.node = false ∧
    (s.cell c.node c.idx).ts = .frame ∧
    (f.decode (s.cell c.node c.idx).rxRd pos).1.good (s.cell c.node c.idx).fseqRx = false ∧
    (s.cell c.node c.idx).badRun < 2 :=
  ⟨inSt .frame, l0, line0, 5, by decide +kernel⟩

theorem wit_link_frameRx_good : ∃ (s : State) (c : CellRef) (f : LineFrame) (pos : Nat), s.held c.node = false ∧
    (s.cell c.node c.idx).ts = .frame ∧
    (f.decode (s.cell c.node c.idx).rxRd pos).1.good (s.cell c.node c.idx).fseqRx = true ∧
    (s.cell c.node c.idx).goodRun < 3 :=
  ⟨inSt .frame, l0, lineGood, 5, by decide +kernel⟩

theorem wit_link_frameStart : ∃ (s : State) (c : CellRef), s.held c.node = false ∧
    (s.cell c.node c.idx).sends = true :=
  ⟨inSt .hello, l0, by decide +kernel⟩

theorem wit_link2_timeAnnounceRx : ∃ (s : State) (c : Fin 6), s.held .leaf = false ∧
    (s.cell .leaf c.val).aligned = true ∧
    (s.cell .leaf c.val).cfg.role = 1 ∧
    ((s.time .leaf).dom (s.cell .leaf c.val).cfg.dom).st ≠ .acquire ∧
    s.leaf.binding = none :=
  ⟨up .leaf 0 .a, 0, by decide +kernel⟩

theorem wit_link2_timeAnnounceRx_acquire : ∃ (s : State) (c : Fin 6), s.held .leaf = false ∧
    (s.cell .leaf c.val).ts = .active ∧
    (s.cell .leaf c.val).cfg.role = 1 ∧
    ((s.time .leaf).dom (s.cell .leaf c.val).cfg.dom).st = .acquire :=
  ⟨(up .leaf 0 .a).modTime .leaf fun t => { t with domA := { t.domA with st := .acquire } }, 0, by decide +kernel⟩

theorem wit_link2_c2MessageSend : ∃ (s : State) (c : CellRef) (m : C2Out), s.held c.node = false ∧
    (s.root c.node).c2out = [m] ∧
    c.idx ∈ m.ports ∧
    (s.root c.node).readyMsg (s.rc c.node) c.idx m.sd = some m ∧
    (s.cell c.node c.idx).refuses = false :=
  ⟨(inSt .active).modRoot .leaf fun r => { r with c2out := [c2m] }, l0, c2m, by decide +kernel⟩

/-! Witnesses for Obligations.IntervalCounters -/

theorem wit_interp_statGo : ∃ (s : State) (src : Src), s.takes .leaf src 0x8108 = true :=
  ⟨R, .qhp, by decide +kernel⟩

theorem wit_interp_statStop : ∃ (s : State) (src : Src), s.takes .leaf src 0x8108 = true ∧
    s.leaf.stat.run = true ∧
    s.leaf.stat.n = 0 :=
  ⟨R.modLeaf fun l => { l with stat := { l.stat with run := true } }, .qhp, by decide +kernel⟩

theorem wit_interp_statStop_any : ∃ (s : State) (src : Src), s.takes .leaf src 0x8108 = true :=
  ⟨R, .qhp, by decide +kernel⟩

theorem wit_interp_fcGo_busy : ∃ (s : State) (src : Src), s.takes .leaf src 0x9004 = true :=
  ⟨R, .qhp, by decide +kernel⟩

theorem wit_interp_fcMinRst : ∃ (s : State) (src : Src), s.takes .leaf src 0x9020 = true :=
  ⟨R, .qhp, by decide +kernel⟩

theorem wit_interp_fcGateEnd : ∃ (s : State), s.held .leaf = false ∧
    s.leaf.freq.busy = true ∧
    s.leaf.gate.off.getLsbD 23 = false ∧
    s.leaf.freq.change = false ∧
    s.leaf.freq.mode = 0 ∧
    s.leaf.freq.go = false ∧
    s.leaf.freq.sel ≠ 0 :=
  ⟨R.modLeaf fun l => { l with freq := { l.freq with busy := true, sel := 3 } }, by decide +kernel⟩

theorem wit_interp_holdGateEnd : ∃ (s : State), s.held .leaf = false ∧
    ¬ ((s.time .leaf).domA.st = .off ∧ (s.time .leaf).domB.st = .off) ∧
    s.leaf.gate.off.getLsbD 23 = false ∧
    ((s.advTo .leaf (s.time .leaf).holdStop).time .leaf).holdValid = false :=
  ⟨trk.modTime .leaf fun t => { t with frozen := true }, by decide +kernel⟩

theorem wit_interp_holdGateEnd_valid : ∃ (s : State), s.held .leaf = false ∧
    ¬ ((s.time .leaf).domA.st = .off ∧ (s.time .leaf).domB.st = .off) ∧
    s.leaf.gate.off.getLsbD 23 = false ∧
    ((s.advTo .leaf (s.time .leaf).holdStop).time .leaf).holdValid = true ∧
    (s.leaf.freq.valid + 1) % 1024 ≠ 0 :=
  ⟨trk.modTime .leaf fun t => { t with pll := .up .a, frozen := false }, by decide +kernel⟩

theorem wit_interp_holdGateEnd_mary : ∃ (s : State), s.held .mary = false ∧
    ¬ ((s.time .mary).domA.st = .off ∧ (s.time .mary).domB.st = .off) ∧
    s.isRoot .mary = false :=
  ⟨trkM, by decide +kernel⟩

theorem wit_interp_eventEdge : ∃ (s : State) (i : Fin 2) (rise : Bool), s.held .leaf = false ∧
    s.ch1Off = false ∧
    (if rise then (s.fld .leaf 0x8004 (4 * i.val + 1) (4 * i.val) = 1 ∨ s.fld .leaf 0x8004 (4 * i.val + 1) (4 * i.val) = 3) else (s.fld .leaf 0x8004 (4 * i.val + 1) (4 * i.val) = 2 ∨ s.fld .leaf 0x8004 (4 * i.val + 1) (4 * i.val) = 3)) ∧
    s.leaf.evt.open_ = none ∧
    s.effFld .leaf 0x8000 1 0 = 0 ∧
    (if i = 0 then s.leaf.evt.fifo0 else s.leaf.evt.fifo1).length < 16 :=
  ⟨R.setReg .leaf 0x8004 3, 0, true, by decide +kernel⟩

theorem wit_interp_intvTimeout : ∃ (s : State) (x : Int × Bool × Bool × W64), s.held .leaf = false ∧
    s.leaf.evt.open_ = some x ∧
    s.leaf.evt.intv.length < 16 ∧
    s.leaf.stat.run = false :=
  ⟨R.modLeaf fun l => { l with evt := { l.evt with open_ := some (0, false, false, 0) } }, (0, false, false, 0), by decide +kernel⟩

/-! Witnesses for Obligations.InterpolatorCalibration -/

theorem wit_interp_channel0Shot : ∃ (s : State) (c : CellRef), s.held c.node = false ∧
    (s.cell c.node c.idx).aligned = true ∧
    (c.node = .leaf → s.leaf.gate.off.getLsbD 21 = false) ∧
    (c.node = .mary → (s.chan c.node (chanOf c.node c.idx)).badShots < 3) ∧
    (s.cell c.node c.idx).stampReq = [] :=
  ⟨inSt .active, l0, by decide +kernel⟩

theorem wit_interp_phVoid : ∃ (s : State) (c : CellRef) (r : StampReq) (l : List StampReq), s.held c.node = false ∧
    (s.cell c.node c.idx).stampReq = r :: l :=
  ⟨R.modCell .leaf 0 fun c => { c with stampReq := [{ rc := 0, pos := 0, p := none, d := 0, tok := none }] }, l0, { rc := 0, pos := 0, p := none, d := 0, tok := none }, [], by decide +kernel⟩

theorem wit_interp_cal1PairSlot : ∃ (s : State) (ch : SlotChan), s.held (slotAt ch).1 = false ∧
    s.slotOff ch = false :=
  ⟨R, .leaf, by decide +kernel⟩

theorem wit_interp_cal1DensitySlot : ∃ (s : State) (ch : SlotChan), s.held (slotAt ch).1 = false ∧
    s.slotOff ch = false ∧
    s.slotDensity ch = true :=
  ⟨R, .leaf, by decide +kernel⟩

theorem wit_interp_densityHitCh0 : ∃ (s : State) (ch : Ch0Ref), s.held (ch0Node ch) = false ∧
    (ch = .leaf → s.leaf.gate.off.getLsbD 21 = false) :=
  ⟨R, .group 19, by decide +kernel⟩

/-! Witnesses for Obligations.DelayProbes -/

theorem wit_delay_probeSend : ∃ (s : State) (c : CellRef) (cs : CorrSet) (h : Nat), s.held c.node = false ∧
    s.portSet c.node c.idx = some cs ∧
    (s.nextFrame c.node c.idx).2 = some h ∧
    ((s.cell c.node c.idx).ts = .delay ∨ (s.cell c.node c.idx).ts = .active) ∧
    (s.cell c.node c.idx).sends = true ∧
    (s.cell c.node c.idx).dly.outst.length + b01 (s.cell c.node c.idx).dly.probeDue.isSome < 8 :=
  ⟨(up .leaf 0 .a).modTime .leaf fun t => { t with domA := { t.domA with seed := some .reset } }, l0, .reset, 0, by decide +kernel⟩

theorem wit_delay_probeSend_full : ∃ (s : State) (c : CellRef) (cs : CorrSet) (h : Nat), s.held c.node = false ∧
    s.portSet c.node c.idx = some cs ∧
    (s.nextFrame c.node c.idx).2 = some h ∧
    ((s.cell c.node c.idx).ts = .delay ∨ (s.cell c.node c.idx).ts = .active) ∧
    (s.cell c.node c.idx).sends = true ∧
    (s.cell c.node c.idx).dly.outst.length + b01 (s.cell c.node c.idx).dly.probeDue.isSome ≥ 8 :=
  ⟨((up .leaf 0 .a).modTime .leaf fun t => { t with domA := { t.domA with seed := some .reset } }).modDly .leaf 0 fun d => { d with outst := List.replicate 8 { id := 0, t1 := { rc := 0, pos := 0 } } }, l0, .reset, 0, by decide +kernel⟩

theorem wit_delay_delayProbeRx : ∃ (s : State) (c : CellRef) (t2 : Stamp), s.held c.node = false ∧
    (s.cell c.node c.idx).aligned = true ∧
    (s.cell c.node c.idx).stampFor false = some (some t2) ∧
    (s.cell c.node c.idx).dly.echoes.length < 4 :=
  ⟨(inSt .delay).modCell .leaf 0 fun c => { c with stamps := [(false, some { rc := 0, pos := 0 })] }, l0, { rc := 0, pos := 0 }, by decide +kernel⟩

theorem wit_delay_delayProbeRx_full : ∃ (s : State) (c : CellRef) (st : Option Stamp), s.held c.node = false ∧
    (s.cell c.node c.idx).aligned = true ∧
    (s.cell c.node c.idx).stampFor false = some st ∧
    (st = none ∨ (s.cell c.node c.idx).dly.echoes.length ≥ 4) :=
  ⟨(inSt .active).modCell .leaf 0 fun c => { c with stamps := [(false, none)] }, l0, none, by decide +kernel⟩

theorem echoS_turn : echoS.turnOf .leaf 0 { id := 4, t2 := { rc := 0, pos := Config.txLat .leaf 0 } } 0 = some 0 := by
  have h : echoS.interval .leaf (echoS.cell .leaf 0).cfg.dom { rc := 0, pos := Config.txLat .leaf 0 } (txStamp .leaf 0 0) = 0 := by
    simp only [State.interval, txStamp, sub_self, add_zero]
    decide +kernel
  simp only [State.turnOf, h]
  decide +kernel

theorem wit_delay_echoTx : ∃ (s : State) (c : CellRef) (e : Echo) (es : List Echo) (b n : Nat), s.held c.node = false ∧
    (s.cell c.node c.idx).aligned = true ∧ (s.cell c.node c.idx).sends = true ∧ (s.cell c.node c.idx).dly.echoes = e :: es ∧
    (s.nextFrame c.node c.idx).2 = some b ∧ ((s.cell c.node c.idx).announce (some b)).isSome = false ∧ s.barC3 c.node c.idx b = false ∧
    s.turnOf c.node c.idx e (s.nextFrame c.node c.idx).1 = some n := by
  refine ⟨echoS, l0, { id := 4, t2 := { rc := 0, pos := Config.txLat .leaf 0 } }, [], 0, 0, by decide +kernel, by decide +kernel,
    by decide +kernel, rfl, by decide +kernel, by decide +kernel, by decide +kernel, ?_⟩
  have h : (echoS.nextFrame l0.node l0.idx).1 = 0 := by decide +kernel
  rw [h]
  exact echoS_turn

/-- An echo whose turn would be negative. -/
def echoL : Echo := { id := 4, t2 := { rc := 0, pos := Config.txLat .leaf 0 + 1 } }
/-- The leaf that owes it. -/
def echoLate : State := echoS.modDly .leaf 0 fun d => { d with echoes := [echoL] }
theorem echoLate_turn : echoLate.turnOf .leaf 0 echoL 0 = none := by
  have h : echoLate.interval .leaf (echoLate.cell .leaf 0).cfg.dom echoL.t2 (txStamp .leaf 0 0) = -1 := by
    have e : signedOf 64 ((txStamp .leaf 0 0).rc - echoL.t2.rc).toNat = 0 := by decide +kernel
    simp only [State.interval, e, zero_mul, zero_add]
    simp only [txStamp, echoL]
    omega
  simp only [State.turnOf, h]
  decide +kernel

theorem wit_delay_echoTx_late : ∃ (s : State) (c : CellRef) (e : Echo) (es : List Echo) (b : Nat), s.held c.node = false ∧
    (s.cell c.node c.idx).aligned = true ∧ (s.cell c.node c.idx).sends = true ∧ (s.cell c.node c.idx).dly.echoes = e :: es ∧
    (s.nextFrame c.node c.idx).2 = some b ∧ ((s.cell c.node c.idx).announce (some b)).isSome = false ∧ s.barC3 c.node c.idx b = false ∧
    s.turnOf c.node c.idx e (s.nextFrame c.node c.idx).1 = none := by
  refine ⟨echoLate, l0, echoL, [], 0, by decide +kernel, by decide +kernel, by decide +kernel, rfl, by decide +kernel, by decide +kernel,
    by decide +kernel, ?_⟩
  have h : (echoLate.nextFrame l0.node l0.idx).1 = 0 := by decide +kernel
  rw [h]
  exact echoLate_turn

theorem wit_delay_delayEchoRx : ∃ (s : State) (c : CellRef) (id : Byte) (t4 : Stamp) (p : Probe), s.held c.node = false ∧
    (s.cell c.node c.idx).aligned = true ∧
    (s.cell c.node c.idx).dly.outst.find? (fun p => decide (p.id = id)) = some p ∧
    (s.cell c.node c.idx).stampFor true = some (some t4) ∧
    (s.cell c.node c.idx).dly.n = 0 :=
  ⟨((inSt .active).modDly .leaf 0 fun d => { d with outst := [{ id := 4, t1 := { rc := 0, pos := 0 } }] }).modCell .leaf 0 fun c => { c with stamps := [(true, some { rc := 100, pos := 0 })] }, l0, 4#8, { rc := 100, pos := 0 }, { id := 4, t1 := { rc := 0, pos := 0 } }, by decide +kernel⟩

theorem wit_delay_delayEchoRx_void : ∃ (s : State) (c : CellRef) (id : Byte) (turn : W32) (t4 : Option Stamp) (p : Probe), s.held c.node = false ∧
    (s.cell c.node c.idx).aligned = true ∧
    (s.cell c.node c.idx).dly.outst.find? (fun p => decide (p.id = id)) = some p ∧
    (s.cell c.node c.idx).stampFor true = some t4 ∧
    (∀ t, t4 = some t → let σ := s.interval c.node (s.cell c.node c.idx).cfg.dom p.t1 t - (turn.toNat : Int); σ ≤ 0 ∨ σ > ((s.effFldD c.node (s.cell c.node c.idx).cfg.dom (tOff c.node 0x1128) 9 0 * 1000 * 65536 : Nat) : Int)) :=
  ⟨((inSt .active).modDly .leaf 0 fun d => { d with outst := [{ id := 4, t1 := { rc := 0, pos := 0 } }] }).modCell .leaf 0 fun c => { c with stamps := [(true, none)] }, l0, 4#8, 0#32, none, { id := 4, t1 := { rc := 0, pos := 0 } }, by decide +kernel⟩

theorem wit_delay_delayEchoRx_unmatched : ∃ (s : State) (c : CellRef) (id : Byte), s.held c.node = false ∧
    (s.cell c.node c.idx).aligned = true ∧
    (s.cell c.node c.idx).dly.outst.find? (fun p => decide (p.id = id)) = none :=
  ⟨inSt .active, l0, 4#8, by decide +kernel⟩

theorem wit_delay_probeTmoExpiry : ∃ (s : State) (c : CellRef) (id : Byte) (p : Probe), s.held c.node = false ∧
    (s.cell c.node c.idx).dly.outst.find? (fun p => decide (p.id = id)) = some p :=
  ⟨(inSt .active).modDly .leaf 0 fun d => { d with outst := [{ id := 4, t1 := { rc := 0, pos := 0 } }] }, l0, 4#8, { id := 4, t1 := { rc := 0, pos := 0 } }, by decide +kernel⟩

/-! Witnesses for Obligations.DelayRecords -/

theorem wit_delay_asymSwap : ∃ (s : State) (c : Fin 6) (src : Src), s.takes .leaf src (cOff .leaf c.val 0x40) = true :=
  ⟨R, 5, .qhp, by decide +kernel⟩

theorem wit_delay_delayTrendSend : ∃ (s : State) (c : Fin 6), s.held .leaf = false ∧
    ((s.cell .leaf c.val).cfg.role = 1 ∨ (s.cell .leaf c.val).cfg.role = 3) ∧
    (s.cell .leaf c.val).dly.trendDue = true ∧
    s.isRoot .leaf = false :=
  ⟨(up .leaf 0 .a).modDly .leaf 0 fun d => { d with trendDue := true }, 0, by decide +kernel⟩

theorem wit_delay_telemetryRx : ∃ (s : State) (c : Fin 6) (r : TeleRec), s.held .leaf = false ∧
    (s.cell .leaf c.val).ts = .active ∧
    (s.cell .leaf c.val).cfg.role = 2 ∧
    (r.kind = 1 ∨ r.kind = 3 ∨ r.kind = 4) ∧
    s.isRoot .leaf = false :=
  ⟨down .leaf 1 .a, 1, { kind := 3, src := 5, maryel := false, data := [1, 2, 3] }, by decide +kernel⟩

theorem wit_delay_planCmd : ∃ (s : State) (n : NodeSel) (src : Src), s.takes n src 0x7F020 = true ∧
    s.isRoot n = true :=
  ⟨rootM, .mary, (.host 0), by decide +kernel⟩

/-! Witnesses for Obligations.PortResets -/

theorem wit_region_computeResetAssert : ∃ (s : State) (p : Fin 16), s.held .leaf = false ∧
    (s.region p.val).crN = true ∧
    (s.region p.val).queue = [] ∧
    (s.region p.val).wait = [] :=
  ⟨R, 15, by decide +kernel⟩

theorem wit_region_computeResetRelease : ∃ (s : State), s.held .leaf = false :=
  ⟨R, by decide +kernel⟩

theorem wit_region_gateCtl : ∃ (s : State) (src : Src), s.takes .leaf src 0xD000 = true ∧
    s.gateWhy 0 = 0 ∧
    s.leaf.gate.off.getLsbD 0 = false :=
  ⟨R, .qhp, by decide +kernel⟩

theorem wit_region_gateCtl_refused : ∃ (s : State) (src : Src), s.takes .leaf src 0xD000 = true ∧
    s.gateWhy 0 ≠ 0 ∧
    s.leaf.gate.off.getLsbD 0 = false :=
  ⟨R.modRegion 0 fun r => { r with queue := [strobe0] }, .qhp, by decide +kernel⟩

theorem wit_region_refclkLost : ∃ (s : State), s.held .leaf = false :=
  ⟨R, by decide +kernel⟩

theorem wit_region_refclkLost_held : ∃ (s : State), s.held .leaf = true :=
  ⟨R.modNode .leaf fun N => { N with inReset := true }, by decide +kernel⟩

/-! Witnesses for Obligations.PortLandings -/

theorem wit_region_strobeLanding : ∃ (s : State) (p : Fin 16) (e : RpEdge) (x : Strobe) (q : List Strobe), s.held .leaf = false ∧
    (s.time .leaf).tclk = true ∧
    (s.region p.val).queue = x :: q ∧
    s.portQuiet p.val = false ∧
    x.expired (s.rc .leaf) = false ∧
    (s.region p.val).landTally ≠ some ((s.region p.val).tally + e.edges) :=
  ⟨R.modRegion 0 fun r => { r with queue := [strobe0] }, 0, { edges := 1, pos := 0 }, strobe0, [], by decide +kernel⟩

theorem wit_region_rpLandTmo : ∃ (s : State) (p : Fin 16) (x : Strobe) (q : List Strobe), s.held .leaf = false ∧
    (s.region p.val).queue = x :: q ∧
    x.kind ≠ 4 :=
  ⟨R.modRegion 0 fun r => { r with queue := [strobe0] }, 0, strobe0, [], by decide +kernel⟩

theorem wit_region_picotLanding : ∃ (s : State) (p : Fin 16) (g : W64), s.held .leaf = false ∧
    (s.time .leaf).tclk = true ∧
    s.portQuiet p.val = false ∧
    (s.region p.val).picotDue = some g :=
  ⟨R.modRegion 2 fun r => { r with picotDue := some 5 }, 2, 5, by decide +kernel⟩

theorem wit_region_tallyCorrection : ∃ (s : State) (p : Fin 16) (a : BitVec 48) (a0 : BitVec 48) (h : Nat) (h0 : Nat), s.held .leaf = false ∧
    (s.time .leaf).tclk = true ∧
    s.portQuiet p.val = false ∧
    (s.region p.val).corrOpen = some (a, h, a0, h0) ∧
    a ≠ a0 :=
  ⟨R.modRegion 1 fun r => { r with corrOpen := some (7, 4096, 5, 0) }, 1, 7#48, 5#48, 4096, 0, by decide +kernel⟩

theorem wit_region_throttleEffect : ∃ (s : State) (p : Fin 16), s.held .leaf = false ∧
    s.gated p.val = false :=
  ⟨R, 3, by decide +kernel⟩

theorem wit_region_outcomeDelivery : ∃ (s : State) (p : Fin 16) (o : PortOut) (q : List PortOut) (b : Beat) (l : List Beat), s.held .leaf = false ∧
    (s.region p.val).hoq = o :: q ∧
    o.beats = b :: l ∧
    s.portQuiet p.val = false ∧
    (s.region p.val).hoVld = false :=
  ⟨R.modRegion 4 fun r => { r with hoq := [out0] }, 4, out0, [], beat0, [], by decide +kernel⟩

theorem wit_region_outcomeDelivery_goesOn : ∃ (s : State) (p : Fin 16) (b : Beat) (l : List Beat), s.held .leaf = false ∧
    (s.region p.val).hoq = [] ∧
    s.gated p.val = false ∧
    s.leaf.fatal = false ∧
    (s.region p.val).hoVld = true ∧
    (s.region p.val).beats = b :: l :=
  ⟨R.modRegion 4 fun r => { r with hoVld := true, beats := [beat0] }, 4, beat0, [], by decide +kernel⟩

theorem wit_region_outcomeDelivery_lost : ∃ (s : State) (p : Fin 16) (o : PortOut) (q : List PortOut), s.held .leaf = false ∧
    (s.region p.val).hoq = o :: q ∧
    s.gated p.val = false ∧
    s.leaf.fatal = false ∧
    (s.region p.val).crN = false :=
  ⟨R.modRegion 4 fun r => { r with hoq := [out0], crN := false }, 4, out0, [], by decide +kernel⟩

/-! Witnesses for Obligations.PrickingInstallAndFire -/

theorem wit_prick_prickInstallRx : ∃ (s : State) (c : Fin 6) (m : InstallMsg) (b : Binding), s.held .leaf = false ∧
    (s.cell .leaf c.val).ts = .active ∧
    (s.cell .leaf c.val).cfg.role = 1 ∧
    s.leaf.binding = some b ∧
    b.sd = m.head.sd ∧
    b.gen = m.head.gen ∧
    (m.head.all = true ∨ m.head.dest = s.nodeId .leaf) ∧
    imgOp m.image = false ∧
    imgSd m.image = m.head.sd ∧
    (m.head.gen, m.batch, imgEidx m.image) ∉ s.leaf.prick.taken :=
  ⟨bound, 0, inst0, bind0, by decide +kernel⟩

theorem wit_prick_prickInstallRx_mary : ∃ (s : State) (c : Fin 100), s.held .mary = false ∧
    (s.cell .mary c.val).ts = .active ∧
    (s.cell .mary c.val).cfg.role = 1 :=
  ⟨up .mary 99 .a, 99, by decide +kernel⟩

theorem wit_prick_armRx : ∃ (s : State) (c : Fin 6) (sd : Sd) (g : Gen) (b : Batch) (x : Binding), s.held .leaf = false ∧
    (s.cell .leaf c.val).ts = .active ∧
    (s.cell .leaf c.val).cfg.role = 1 ∧
    s.leaf.binding = some x ∧
    x.sd = sd ∧
    x.gen = g ∧
    b ∉ s.leaf.prick.lateBatch ∧
    s.leaf.prick.marks = [] ∧
    s.leaf.prick.pending = false :=
  ⟨bound, 0, 5#12, 3#16, 9#16, bind0, by decide +kernel⟩

theorem wit_prick_armRx_late : ∃ (s : State) (c : Fin 6) (sd : Sd) (g : Gen) (b : Batch) (x : Binding), s.held .leaf = false ∧
    (s.cell .leaf c.val).ts = .active ∧
    (s.cell .leaf c.val).cfg.role = 1 ∧
    s.leaf.binding = some x ∧
    x.sd = sd ∧
    x.gen = g ∧
    b ∈ s.leaf.prick.lateBatch :=
  ⟨bound.modPrick fun p => { p with lateBatch := [9] }, 0, 5#12, 3#16, 9#16, bind0, by decide +kernel⟩

theorem wit_prick_armRx_mary : ∃ (s : State) (c : Fin 100), s.held .mary = false ∧
    (s.cell .mary c.val).ts = .active ∧
    (s.cell .mary c.val).cfg.role = 1 :=
  ⟨up .mary 0 .a, 0, by decide +kernel⟩

theorem wit_prick_guardCheck : ∃ (s : State) (e : Entry), s.held .leaf = false ∧
    s.leaf.prick.entries = [e] ∧
    e.judged = false ∧
    e.armA = true ∧
    e.armB = true ∧
    e.guardAt * nsTu ≤ (s.advHt .leaf (e.guardAt * nsTu)).ht .leaf ∧
    s.leaf.prick.marks = [] ∧
    s.leaf.prick.pending = false ∧
    (∀ i, (s.slot i).taken = none) ∧
    s.leaf.prick.halts = [] :=
  ⟨boundHt.modPrick fun p => { p with entries := [{ ent0 with armA := true, armB := true }] }, { ent0 with armA := true, armB := true }, by and_intros <;> first | exact noTaken _ rfl | decide +kernel⟩

theorem wit_prick_guardCheck_late : ∃ (s : State) (e : Entry), s.held .leaf = false ∧
    s.leaf.prick.entries = [e] ∧
    e.judged = false ∧
    e.armA = false ∧
    e.armB = false ∧
    imgKind e.image ≠ 4 ∧
    e.guardAt * nsTu ≤ (s.advHt .leaf (e.guardAt * nsTu)).ht .leaf ∧
    s.leaf.prick.marks = [] ∧
    s.leaf.prick.miss.length < 16 ∧
    s.leaf.binding = none ∧
    (∀ i, (s.slot i).taken = none) ∧
    s.leaf.prick.halts = [] :=
  ⟨(R.modTime .leaf fun t => { t with noht := false, read := { anchor := 0, off := 10000000 * nsTu, rate := nominalK } }).modPrick fun p => { p with entries := [ent0] }, ent0, by and_intros <;> first | exact noTaken _ rfl | decide +kernel⟩

theorem wit_prick_missMarkSend : ∃ (s : State) (b : Binding) (i : Nat), s.held .leaf = false ∧
    s.leaf.prick.marks = [] ∧
    s.leaf.prick.pending = true ∧
    s.leaf.fatal = false ∧
    s.leaf.binding = some b ∧
    s.firstOwed b.sd = some i :=
  ⟨withSlot bound { slot0 with st := .open_ } |>.modPrick fun p => { p with pending := true }, bind0, 0, by decide +kernel⟩

theorem wit_prick_missMarkSend_none : ∃ (s : State), s.held .leaf = false ∧
    s.leaf.prick.marks = [] ∧
    s.leaf.prick.pending = false :=
  ⟨R, by decide +kernel⟩

theorem wit_prick_firing_flip : ∃ (s : State) (b : Binding) (e : Entry), s.held .leaf = false ∧
    s.leaf.binding = some b ∧
    s.leaf.prick.entries = [e] ∧
    e.armed = true ∧
    e.judged = true ∧
    e.tick * nsTu ≤ (s.advHt .leaf (e.tick * nsTu)).ht .leaf ∧
    imgKind e.image = 1 ∧
    imgRepCnt e.image = 0 ∧
    e.fired = 0 ∧
    s.leaf.prick.marks = [] ∧
    s.leaf.prick.pending = false ∧
    (∀ i, (s.slot i).taken = none) ∧
    s.leaf.prick.halts = [] :=
  ⟨boundHt.modPrick fun p => { p with entries := [flipE] }, bind0, flipE, by and_intros <;> first | exact noTaken _ rfl | decide +kernel⟩

theorem wit_prick_firing_strobe : ∃ (s : State) (b : Binding) (e : Entry) (p : Fin 16), s.held .leaf = false ∧
    s.leaf.binding = some b ∧
    s.leaf.prick.entries = [e] ∧
    e.armed = true ∧
    e.judged = true ∧
    e.tick * nsTu ≤ (s.advHt .leaf (e.tick * nsTu)).ht .leaf ∧
    imgKind e.image = 5 ∧
    bitsSet (imgPorts e.image) = [p.val] ∧
    (s.region p.val).crN = true ∧
    s.leaf.prick.marks = [] ∧
    s.leaf.prick.pending = false ∧
    (∀ i, (s.slot i).taken = none) ∧
    s.leaf.prick.halts = [] :=
  ⟨(boundHt.modRegion 3 fun r => { r with crN := true }).modPrick fun p => { p with entries := [openE] }, bind0, openE, 3, by and_intros <;> first | exact noTaken _ rfl | decide +kernel⟩

/-! Witnesses for Obligations.PrickingCare -/

theorem wit_prick_throttleRx : ∃ (s : State) (c : Fin 6) (ns : W32), s.held .leaf = false ∧
    (s.cell .leaf c.val).ts = .active ∧
    (s.cell .leaf c.val).cfg.role = 1 ∧
    resolveMod 32 (s.htNs .leaf) ns.toNat - s.htNs .leaf ≤ 2 ^ 31 :=
  ⟨up .leaf 0 .a, 0, 0#32, by decide +kernel⟩

theorem wit_prick_throttleRx_mary : ∃ (s : State) (c : Fin 100), s.held .mary = false ∧
    (s.cell .mary c.val).ts = .active ∧
    (s.cell .mary c.val).cfg.role = 1 :=
  ⟨up .mary 0 .a, 0, by decide +kernel⟩

theorem wit_prick_capreqEdge : ∃ (s : State), s.held .mary = false ∧
    s.mary.capPin = true ∧
    s.capEn = true ∧
    (s.time .mary).noht = false :=
  ⟨(R.modTime .mary fun t => { t with noht := false }).setReg .mary 0x7F030 1, by decide +kernel⟩

theorem wit_prick_capRelease : ∃ (s : State) (n : Nat), s.held .mary = false ∧
    s.mary.capPin = true ∧
    s.capEn = true ∧
    (s.time .mary).noht = false ∧
    s.mary.capEff = some n :=
  ⟨((R.modTime .mary fun t => { t with noht := false }).setReg .mary 0x7F030 1).modMary fun m => { m with capEff := some 50 }, 50, by decide +kernel⟩

theorem wit_prick_thrCmd : ∃ (s : State) (src : Src), s.takes .mary src 0x7F03C = true ∧
    (s.time .mary).noht = false ∧
    s.wasRefused .mary = false :=
  ⟨R.modTime .mary fun t => { t with noht := false }, (.host 0), by decide +kernel⟩

theorem wit_prick_prkScrub_clean : ∃ (s : State), s.held .leaf = false :=
  ⟨R, by decide +kernel⟩

theorem wit_prick_prkScrub_corrected : ∃ (s : State), s.held .leaf = false :=
  ⟨R, by decide +kernel⟩

theorem wit_prick_prkScrub_uncorrectable : ∃ (s : State) (e : Entry), s.held .leaf = false ∧
    s.leaf.prick.entries = [e] ∧
    e.pos = s.leaf.prick.scrubPtr / 4 ∧
    imgKind e.image ≠ 4 ∧
    s.leaf.prick.marks = [] ∧
    s.leaf.binding = none ∧
    s.leaf.prick.miss.length < 16 :=
  ⟨R.modPrick fun p => { p with entries := [ent0] }, ent0, by decide +kernel⟩

theorem wit_prick_prkScrub_read : ∃ (s : State) (e : Entry), s.held .leaf = false ∧
    s.leaf.prick.entries = [e] ∧
    imgKind e.image ≠ 4 ∧
    s.leaf.prick.marks = [] ∧
    s.leaf.binding = none ∧
    s.leaf.prick.miss.length < 16 :=
  ⟨R.modPrick fun p => { p with entries := [ent0] }, ent0, by decide +kernel⟩

theorem wit_prick_prkScrub_tag : ∃ (s : State), s.held .leaf = false ∧
    s.leaf.binding = none ∧
    s.leaf.prick.marks = [] :=
  ⟨R, by decide +kernel⟩

theorem wit_prick_prkFatalClr : ∃ (s : State) (src : Src), s.takes .leaf src 0xA008 = true :=
  ⟨R, .qhp, by decide +kernel⟩

/-! Witnesses for Obligations.HoopContributions -/

theorem wit_hoop_regionContribution : ∃ (s : State) (p : Fin 16) (e : RpEdge), s.held .leaf = false ∧
    s.gated p.val = false ∧
    s.leaf.fatal = false ∧
    ((s.regionEdge p.val e).region p.val).hcRdy = true :=
  ⟨R, 2, { edges := 1, pos := 0 }, by decide +kernel⟩

theorem wit_hoop_regionContribution_taken : ∃ (s : State) (p : Fin 16) (e : RpEdge) (i : Fin 32), s.held .leaf = false ∧
    s.gated p.val = false ∧
    s.leaf.fatal = false ∧
    ((s.regionEdge p.val e).region p.val).hcRdy = true ∧
    (s.slot i.val).st = .open_ ∧
    (s.slot i.val).taken = none ∧
    (s.slot i.val).ports.getLsbD p.val = true ∧
    (s.slot i.val).landed.getLsbD p.val = true ∧
    (s.slot i.val).contributed.getLsbD p.val = false :=
  ⟨withSlot R { slot0 with st := .open_, common := BitVec.ofNat 288 (2 ^ 280), ports := 4, landed := 4 }, 2, { edges := 1, pos := 0 }, 0, by decide +kernel⟩

theorem wit_hoop_regionContribution_window : ∃ (s : State) (p : Fin 16) (e : RpEdge) (i : Fin 32), s.held .leaf = false ∧
    s.gated p.val = false ∧
    s.leaf.fatal = false ∧
    ((s.regionEdge p.val e).region p.val).hcRdy = true ∧
    (s.slot i.val).st = .open_ ∧
    (s.slot i.val).taken = none ∧
    (s.slot i.val).ports.getLsbD p.val = true ∧
    (s.slot i.val).landed.getLsbD p.val = true ∧
    (s.slot i.val).contributed.getLsbD p.val = false ∧
    rcQuorum (s.slot i.val).common = true ∧
    (∀ c, s.recipeOf .leaf (s.slot i.val).sd (s.slot i.val).hoopId = some c → rcQuorum c.common = true) :=
  ⟨withSlot R { slot0 with st := .open_, common := BitVec.ofNat 288 (2 ^ 283), ports := 4, landed := 4 }, 2, { edges := 1, pos := 0 }, 0, by decide +kernel⟩

theorem wit_hoop_regionContribution_refused : ∃ (s : State) (p : Fin 16) (e : RpEdge) (i : Fin 32), s.held .leaf = false ∧
    s.gated p.val = false ∧
    s.leaf.fatal = false ∧
    ((s.regionEdge p.val e).region p.val).hcRdy = true ∧
    (s.slot i.val).taken = none ∧
    ((s.slot i.val).st = .free ∨ (s.slot i.val).ports.getLsbD p.val = false ∨ (s.slot i.val).landed.getLsbD p.val = false) :=
  ⟨R, 2, { edges := 1, pos := 0 }, 0, by decide +kernel⟩

theorem wit_hoop_regionContribution_not_ready : ∃ (s : State) (p : Fin 16) (e : RpEdge), s.held .leaf = false ∧
    s.gated p.val = false ∧
    s.leaf.fatal = false ∧
    ((s.regionEdge p.val e).region p.val).hcRdy = false :=
  ⟨R.modRegion 2 fun r => { r with crN := false }, 2, { edges := 1, pos := 0 }, by decide +kernel⟩

theorem wit_hoop_hcCommit : ∃ (s : State) (src : Src), s.takes .leaf src 0xB004 = true ∧
    (s.slot (s.fld .leaf 0xB000 4 0)).st = .closed ∧
    rcHost (s.slot (s.fld .leaf 0xB000 4 0)).common = true ∧
    (s.slot (s.fld .leaf 0xB000 4 0)).hostDone = false ∧
    (∀ j, j < (s.slot (s.fld .leaf 0xB000 4 0)).lanes.length → s.leaf.hcWritten.getLsbD j = true) :=
  ⟨withSlot R { slot0 with st := .closed, common := BitVec.ofNat 288 (2 ^ 280) }, .qhp, by decide +kernel⟩

theorem wit_hoop_hcCommit_refused : ∃ (s : State) (src : Src), s.takes .leaf src 0xB004 = true ∧
    (s.slot (s.fld .leaf 0xB000 4 0)).st = .free :=
  ⟨R, .qhp, by decide +kernel⟩

theorem wit_hoop_quorumWindowSend : ∃ (s : State) (i : Fin 32) (w : WinLeft), s.held .leaf = false ∧
    s.leaf.winq.find? (fun q => decide (q.slot = i.val)) = none ∧
    ((s.slot i.val).unsent i.val).head? = some w ∧
    s.isRoot .leaf = false :=
  ⟨withSlot R { slot0 with st := .open_, common := BitVec.ofNat 288 (2 ^ 283), wins := [{ win := 3, acc := [], sent := false }] }, 0, { slot := 0, sd := 5, hoopId := 0x20, gen := 3, common := BitVec.ofNat 288 (2 ^ 283), lanes := [], win := 3, acc := [] }, by decide +kernel⟩

theorem wit_hoop_quorumWindowSend_left : ∃ (s : State) (i : Fin 32) (w : WinLeft), s.held .leaf = false ∧
    s.leaf.winq.find? (fun q => decide (q.slot = i.val)) = some w ∧
    s.isRoot .leaf = false :=
  ⟨R.modLeaf fun l => { l with winq := [{ slot := 0, sd := 5, hoopId := 0x20, gen := 3, common := 0, lanes := [0], win := 3, acc := [] }] }, 0, { slot := 0, sd := 5, hoopId := 0x20, gen := 3, common := 0, lanes := [0], win := 3, acc := [] }, by decide +kernel⟩

/-! Witnesses for Obligations.HoopOutcomes -/

theorem wit_hoop_outcomeTakeEffect : ∃ (s : State) (i : Fin 32) (m : HoopDown) (n : Nat), s.held .leaf = false ∧
    (s.slot i.val).taken = some m ∧
    (s.slot i.val).relNs = some n ∧
    (s.slot i.val).st = .open_ ∧
    rcHost (s.slot i.val).common = true :=
  ⟨withSlot R { slot0 with st := .open_, common := BitVec.ofNat 288 (2 ^ 280), taken := some down0, relNs := some 4096 }, 0, down0, 4096, by decide +kernel⟩

theorem wit_hoop_outcomeTakeEffect_inst : ∃ (s : State) (k : Fin 4) (m : HoopDown), s.held .leaf = false ∧
    (s.instCtx k.val).taken = some m ∧
    (s.instCtx k.val).busy = true :=
  ⟨R.modLeaf fun l => { l with insts := vmod l.insts 3 (fun x => { x with busy := true, taken := some down0 }) }, 3, down0, by decide +kernel⟩

theorem wit_hoop_outcomeTakeEffect_none : ∃ (s : State) (i : Fin 32), s.held .leaf = false ∧
    (s.slot i.val).taken = none :=
  ⟨R, 0, by decide +kernel⟩

theorem wit_hoop_outcomeTakeEffect_halt : ∃ (s : State) (sd : Sd) (n : Nat), s.held .leaf = false ∧
    s.leaf.prick.halts = [(sd, n)] ∧
    n * nsTu ≤ (s.advHt .leaf (n * nsTu)).ht .leaf :=
  ⟨(R.modTime .leaf fun t => { t with noht := false, read := { anchor := 0, off := 10000000 * nsTu, rate := nominalK } }).modPrick fun p => { p with halts := [(5, 100)] }, 5, 100, by decide +kernel⟩

theorem wit_hoop_slotHoldExpiry : ∃ (s : State) (i : Fin 32), s.held .leaf = false ∧
    (s.slot i.val).st = .closed :=
  ⟨withSlot R { slot0 with st := .closed }, 0, by decide +kernel⟩

theorem wit_hoop_slotHoldExpiry_open : ∃ (s : State) (i : Fin 32), s.held .leaf = false ∧
    (s.slot i.val).st ≠ .closed :=
  ⟨R, 0, by decide +kernel⟩

theorem wit_hoop_outcomeLimitExpiry : ∃ (s : State) (i : Fin 32), s.held .leaf = false ∧
    (s.slot i.val).st = .open_ ∧
    (s.slot i.val).taken = none ∧
    rcHost (s.slot i.val).common = true :=
  ⟨withSlot R { slot0 with st := .open_, common := BitVec.ofNat 288 (2 ^ 280) }, 0, by decide +kernel⟩

theorem wit_hoop_outcomeLimitExpiry_taken : ∃ (s : State) (i : Fin 32) (m : HoopDown), s.held .leaf = false ∧
    (s.slot i.val).taken = some m :=
  ⟨withSlot R { slot0 with taken := some down0 }, 0, down0, by decide +kernel⟩

theorem wit_hoop_installContextExpiry : ∃ (s : State) (k : Fin 4), s.held .leaf = false ∧
    (s.instCtx k.val).busy = true :=
  ⟨R.modLeaf fun l => { l with insts := vmod l.insts 3 (fun x => { x with busy := true }) }, 3, by decide +kernel⟩

theorem wit_hoop_installContextExpiry_idle : ∃ (s : State) (k : Fin 4), s.held .leaf = false ∧
    (s.instCtx k.val).busy = false :=
  ⟨R, 3, by decide +kernel⟩

/-! Witnesses for Obligations.HoopTraffic -/

theorem wit_hoop_hoopRecipeRx : ∃ (s : State) (c : Fin 100) (m : RecipeMsg), s.held .mary = false ∧
    (s.cell .mary c.val).ts = .active ∧
    (s.cell .mary c.val).cfg.role = 1 ∧
    (m.head.sd, m.hoopId, m.head.gen, (s.cell .mary c.val).cfg.dom) ∉ s.maryN.freed ∧
    s.maryN.recipes.length < 1024 ∧
    (∀ r ∈ s.maryN.recipes, r.sd ≠ m.head.sd ∨ r.hoopId ≠ m.hoopId ∨ r.gen ≠ m.head.gen) :=
  ⟨(up .mary 0 .a).modCell .mary 7 fun c => { c with cfg := { c.cfg with role := 2 } }, 0, recm0, by decide +kernel⟩

theorem wit_hoop_hoopUpRx : ∃ (s : State) (c : Fin 100) (m : HoopUp) (r : Recipe), s.held .mary = false ∧
    (s.cell .mary c.val).ts = .active ∧
    (s.cell .mary c.val).cfg.role = 2 ∧
    s.isRoot .mary = false ∧
    s.curGenOf .mary m.sd = some m.gen ∧
    s.membOk .mary = true ∧
    s.membOver .mary m.sd = false ∧
    s.upClosed .mary m.sd m.hoopId (s.cell .mary c.val).cfg.dom = false ∧
    s.combRecipe .mary m.sd m.hoopId m.gen = some r ∧
    rcQuorum r.common = false ∧
    (m.sd, m.hoopId, (s.cell .mary c.val).cfg.dom) ∉ s.maryN.noCtx ∧
    m.missed = false ∧
    m.incomplete = false ∧
    s.ctxOf .mary m.sd m.hoopId (s.cell .mary c.val).cfg.dom = none ∧
    s.ctxFull .mary (s.cell .mary c.val).cfg.dom = false ∧
    (s.memberPorts .mary (s.cell .mary c.val).cfg.dom m.sd).all (fun p => decide (p ∈ [c.val])) = false :=
  ⟨((down .mary 7 .a).modCell .mary 8 (fun c => { c with cfg := { c.cfg with role := 2 } })).modNode .mary fun N => { N with curGen := [(5, 3)], membValid := true, memb := [((5, 7), 1), ((5, 8), 1)], recipes := [rec0] }, 7, up0, rec0, by decide +kernel⟩

theorem wit_hoop_hoopUpRx_window : ∃ (s : State) (c : Fin 100) (m : HoopUp) (r : Recipe), s.held .mary = false ∧
    (s.cell .mary c.val).ts = .active ∧
    (s.cell .mary c.val).cfg.role = 2 ∧
    s.isRoot .mary = false ∧
    s.curGenOf .mary m.sd = some m.gen ∧
    s.membOk .mary = true ∧
    s.membOver .mary m.sd = false ∧
    s.upClosed .mary m.sd m.hoopId (s.cell .mary c.val).cfg.dom = false ∧
    s.combRecipe .mary m.sd m.hoopId m.gen = some r ∧
    rcQuorum r.common = true :=
  ⟨((down .mary 7 .a).modCell .mary 8 (fun c => { c with cfg := { c.cfg with role := 2 } })).modNode .mary fun N => { N with curGen := [(5, 3)], membValid := true, memb := [((5, 7), 1), ((5, 8), 1)], recipes := [{ rec0 with common := BitVec.ofNat 288 (2 ^ 283) }] }, 7, { up0 with win := some 3 }, { rec0 with common := BitVec.ofNat 288 (2 ^ 283) }, by decide +kernel⟩

theorem wit_hoop_hoopUpRx_stale : ∃ (s : State) (c : Fin 100) (m : HoopUp) (g : Gen), s.held .mary = false ∧
    (s.cell .mary c.val).ts = .active ∧
    (s.cell .mary c.val).cfg.role = 2 ∧
    s.curGenOf .mary m.sd = some g ∧
    m.gen.toNat < g.toNat :=
  ⟨((down .mary 7 .a).modCell .mary 8 (fun c => { c with cfg := { c.cfg with role := 2 } })).modNode .mary fun N => { N with curGen := [(5, 3)], membValid := true, memb := [((5, 7), 1), ((5, 8), 1)], recipes := [rec0] }, 7, { up0 with gen := 2 }, 3#16, by decide +kernel⟩

theorem wit_hoop_hoopUpRx_error : ∃ (s : State) (c : Fin 100) (m : HoopUp) (r : Recipe), s.held .mary = false ∧
    (s.cell .mary c.val).ts = .active ∧
    (s.cell .mary c.val).cfg.role = 2 ∧
    s.isRoot .mary = false ∧
    s.curGenOf .mary m.sd = some m.gen ∧
    s.membOk .mary = true ∧
    s.membOver .mary m.sd = false ∧
    s.upClosed .mary m.sd m.hoopId (s.cell .mary c.val).cfg.dom = false ∧
    s.combRecipe .mary m.sd m.hoopId m.gen = some r ∧
    rcQuorum r.common = false ∧
    s.holdsPart .mary (s.cell .mary c.val).cfg.dom m.sd m.hoopId = true :=
  ⟨((down .mary 7 .a).modCell .mary 8 (fun c => { c with cfg := { c.cfg with role := 2 } })).modNode .mary fun N => { N with curGen := [(5, 3)], membValid := true, memb := [((5, 7), 1), ((5, 8), 1)], recipes := [rec0], ctxs := [ctx0] }, 7, up0, rec0, by decide +kernel⟩

theorem wit_hoop_hoopUpRx_done : ∃ (s : State) (c : Fin 100) (m : HoopUp), s.held .mary = false ∧
    (s.cell .mary c.val).ts = .active ∧
    (s.cell .mary c.val).cfg.role = 2 ∧
    s.isRoot .mary = false ∧
    s.curGenOf .mary m.sd = some m.gen ∧
    s.membOk .mary = true ∧
    s.membOver .mary m.sd = false ∧
    s.upClosed .mary m.sd m.hoopId (s.cell .mary c.val).cfg.dom = true :=
  ⟨(down .mary 7 .a).modNode .mary fun N => { N with curGen := [(5, 3)], membValid := true, closed := [(5, 0x20, .a)] }, 7, up0, by decide +kernel⟩

theorem wit_hoop_contextDeadline : ∃ (s : State) (d : Dom) (sd : Sd) (h : HoopId) (x : Ctx) (r : Recipe), s.held .mary = false ∧
    s.isRoot .mary = false ∧
    s.ctxOf .mary sd h d = some x ∧
    s.combRecipe .mary sd h 0 = some r ∧
    rcQuorum r.common = false :=
  ⟨R.modNode .mary fun N => { N with ctxs := [ctx0], recipes := [rec0] }, .a, 5#12, 0x20#16, ctx0, rec0, by decide +kernel⟩

theorem wit_hoop_contextDeadline_none : ∃ (s : State) (k : NodeSel) (d : Dom) (sd : Sd) (h : HoopId), s.held k = false ∧
    s.ctxOf k sd h d = none :=
  ⟨R, .mary, .a, 5#12, 0x20#16, by decide +kernel⟩

theorem wit_hoop_hoopDownRx : ∃ (s : State) (c : Fin 100) (m : HoopDown), s.held .mary = false ∧
    (s.cell .mary c.val).ts = .active ∧
    (s.cell .mary c.val).cfg.role = 1 ∧
    m.all = true :=
  ⟨up .mary 0 .a, 0, down0, by decide +kernel⟩

theorem wit_hoop_hoopDownRx_leaf : ∃ (s : State) (c : Fin 6) (m : HoopDown), s.held .leaf = false ∧
    (s.cell .leaf c.val).ts = .active ∧
    (s.cell .leaf c.val).cfg.role = 1 ∧
    (m.all = true ∨ m.dest = s.nodeId .leaf) :=
  ⟨up .leaf 0 .a, 0, down0, by decide +kernel⟩

/-! Witnesses for Obligations.HoopAtRoot -/

theorem wit_hoop_hoopAbort : ∃ (s : State) (src : Src) (sd : Sd) (h : HoopId) (c : Recipe), s.takes .mary src 0x80214 = true ∧
    s.isDecider .mary = true ∧
    s.recipeOf .mary sd h = some c ∧
    h ∉ c.ended ∧
    s.rhoop .mary sd h = none :=
  ⟨rootM.modNode .mary fun N => { N with recipes := [rec0] }, (.host 0), 5#12, 0x20#16, rec0, by decide +kernel⟩

theorem wit_hoop_hoopDeadline : ∃ (s : State) (sd : Sd) (h : HoopId) (r : RHoop), s.held .mary = false ∧
    s.isDecider .mary = true ∧
    s.rhoop .mary sd h = some r ∧
    r.decided = none ∧
    r.begun = true ∧
    rcQuorum r.common = false :=
  ⟨rootM.modRoot .mary fun r => { r with hoops := [rh0] }, 5#12, 0x20#16, rh0, by decide +kernel⟩

theorem wit_hoop_hoopDeadline_not_begun : ∃ (s : State) (k : NodeSel) (sd : Sd) (h : HoopId) (r : RHoop), s.held k = false ∧
    s.rhoop k sd h = some r ∧
    r.begun = false :=
  ⟨rootM.modRoot .mary fun r => { r with hoops := [{ rh0 with firstHead := none }] }, .mary, 5#12, 0x20#16, { rh0 with firstHead := none }, by decide +kernel⟩

theorem wit_hoop_quorumWindowProcess : ∃ (s : State) (sd : Sd) (h : HoopId) (r : RHoop), s.held .mary = false ∧
    s.isDecider .mary = true ∧
    s.rhoop .mary sd h = some r ∧
    r.decided = none ∧
    rcQuorum r.common = true ∧
    r.begun = true ∧
    s.winInTime .mary r = true ∧
    r.own.clean r.nextWin = false ∧
    r.other.clean r.nextWin = false :=
  ⟨rootM.modRoot .mary fun r => { r with hoops := [rhq] }, 5#12, 0x20#16, rhq, by decide +kernel⟩

theorem wit_hoop_quorumWindowProcess_adds : ∃ (s : State) (sd : Sd) (h : HoopId) (r : RHoop), s.held .mary = false ∧
    s.isDecider .mary = true ∧
    s.rhoop .mary sd h = some r ∧
    r.decided = none ∧
    rcQuorum r.common = true ∧
    r.begun = true ∧
    s.winInTime .mary r = true ∧
    r.own.clean r.nextWin = true ∧
    r.other.clean r.nextWin = false :=
  ⟨rootM.modRoot .mary fun r => { r with hoops := [rhw] }, 5#12, 0x20#16, rhw, by decide +kernel⟩

theorem wit_hoop_quorumWindowProcess_waits : ∃ (s : State) (k : NodeSel) (sd : Sd) (h : HoopId) (r : RHoop), s.held k = false ∧
    s.rhoop k sd h = some r ∧
    (rcQuorum r.common = false ∨ r.begun = false ∨ s.winInTime k r = false) :=
  ⟨rootM.modRoot .mary fun r => { r with hoops := [rh0] }, .mary, 5#12, 0x20#16, rh0, by decide +kernel⟩

theorem wit_hoop_hoopDecider : ∃ (s : State) (src : Src), s.takes .mary src 0x7F044 = true ∧
    (∀ r ∈ (s.root .mary).hoops, r.decided.isSome = true) :=
  ⟨rootM, (.host 0), by decide +kernel⟩

/-! Witnesses for Obligations.LeafKeys -/

theorem wit_seed_keyRx : ∃ (s : State) (c : Fin 6) (m : KeyMsg) (b : Binding), s.held .leaf = false ∧
    (s.cell .leaf c.val).ts = .active ∧
    (s.cell .leaf c.val).cfg.role = 1 ∧
    s.leaf.binding = some b ∧
    b.sd = m.head.sd ∧
    b.gen = m.head.gen ∧
    m.head.all = true :=
  ⟨bound, 0, { head := { sd := 5, dest := 0, all := true, gen := 3 }, key := 77 }, bind0, by decide +kernel⟩

theorem wit_seed_keyRx_not_mine : ∃ (s : State) (c : Fin 6) (m : KeyMsg), s.held .leaf = false ∧
    (s.cell .leaf c.val).ts = .active ∧
    (s.cell .leaf c.val).cfg.role = 1 ∧
    (∀ b, s.leaf.binding = some b → b.sd ≠ m.head.sd ∨ b.gen ≠ m.head.gen) :=
  ⟨bound, 0, { head := { sd := 5, dest := 0, all := true, gen := 2 }, key := 77 }, by decide +kernel⟩

theorem wit_seed_keyRx_mary : ∃ (s : State) (c : Fin 100), s.held .mary = false ∧
    (s.cell .mary c.val).ts = .active ∧
    (s.cell .mary c.val).cfg.role = 1 :=
  ⟨up .mary 0 .a, 0, by decide +kernel⟩

theorem wit_prick_seedCompute_keyUe : ∃ (s : State) (k : BitVec 128), s.held .leaf = false ∧
    s.leaf.seed.key = some k :=
  ⟨R.modLeaf fun l => { l with seed := { l.seed with key := some 5 } }, 5#128, by decide +kernel⟩

theorem wit_prick_seedCompute : ∃ (s : State) (x : Strobe), s.held .leaf = false ∧
    s.firstWaiting = some x :=
  ⟨(bound.modLeaf fun l => { l with seed := { l.seed with key := some 5 } }).modRegion 2 fun r => { r with wait := [{ strobe0 with ready := false }] }, { strobe0 with ready := false }, by decide +kernel⟩

theorem wit_prick_seedCompute_ahead : ∃ (s : State) (e : Entry) (k : Nat) (recs : List SeedRec), s.held .leaf = false ∧
    s.firstWaiting = none ∧
    s.seedsAhead = some (e, k, recs) :=
  ⟨(bound.modLeaf fun l => { l with seed := { l.seed with key := some 5 } }).modPrick fun p => { p with entries := [seedE] }, seedE, 0, seedE.seedRecs 0 5 0, by decide +kernel⟩

theorem wit_prick_seedCompute_differ : ∃ (s : State) (p : Fin 16) (second : BitVec 128), s.held .leaf = false ∧
    (∃ v, (p.val, v) ∈ s.seedsNext ∧ v ≠ second) :=
  ⟨R.modRegion 2 fun r => { r with wait := [{ strobe0 with ready := false }] }, 2, 1#128, by decide +kernel, 0, by decide +kernel⟩

theorem wit_prick_seedCompute_keyCe : ∃ (s : State) (k : BitVec 128), s.held .leaf = false ∧
    s.leaf.seed.key = some k :=
  ⟨R.modLeaf fun l => { l with seed := { l.seed with key := some 5 } }, 5#128, by decide +kernel⟩

/-! Witnesses for Obligations.LeafFingerprint -/

theorem wit_seed_stitchGo : ∃ (s : State) (src : Src) (key : BitVec 128), s.takes .leaf src 0xC024 = true ∧
    (if s.fld .leaf 0xC020 0 0 = 0 then s.leaf.seed.key else some s.leaf.seed.stitchKey) = some key :=
  ⟨R.modLeaf fun l => { l with seed := { l.seed with key := some 5 } }, .qhp, 5#128, by decide +kernel⟩

theorem wit_seed_stitchGo_nokey : ∃ (s : State) (src : Src), s.takes .leaf src 0xC024 = true ∧
    s.fld .leaf 0xC020 0 0 = 0 ∧
    s.leaf.seed.key = none :=
  ⟨R, .qhp, by decide +kernel⟩

theorem wit_seed_stitchDone : ∃ (s : State) (r : BitVec 128 × W64), s.held .leaf = false ∧
    s.leaf.seed.busy = some r :=
  ⟨R.modLeaf fun l => { l with seed := { l.seed with busy := some (9, 0) } }, (9, 0), by decide +kernel⟩

theorem wit_seed_fpHash : ∃ (s : State) (src : Src), s.takes .leaf src 0xC054 = true ∧
    s.leaf.binding = none :=
  ⟨R, .qhp, by decide +kernel⟩

theorem wit_seed_fpHash_bound : ∃ (s : State) (src : Src), s.takes .leaf src 0xC054 = true ∧
    s.leaf.binding.isSome = true :=
  ⟨bound, .qhp, by decide +kernel⟩

theorem wit_seed_fpValid : ∃ (s : State), s.held .leaf = false ∧
    s.leaf.seed.fpPend = true :=
  ⟨R.modLeaf fun l => { l with seed := { l.seed with fpPend := true } }, by decide +kernel⟩

theorem wit_seed_stepHwm : ∃ (s : State) (src : Src) (v : W64), s.takes .leaf src 0xC06C = true ∧
    (s.cfg .leaf).island = true ∧
    (s.root .leaf).stepHwm.toNat < v.toNat :=
  ⟨island, .qhp, 5#64, by decide +kernel⟩

theorem wit_seed_stepHwm_refused : ∃ (s : State) (src : Src) (v : W64), s.takes .leaf src 0xC06C = true ∧
    ((s.cfg .leaf).island = false ∨ v.toNat ≤ (s.root .leaf).stepHwm.toNat) :=
  ⟨R, .qhp, 0#64, by decide +kernel⟩

/-! Witnesses for Obligations.StagingBuffers -/

theorem wit_root_instData : ∃ (s : State) (n : NodeSel) (src : Src), s.takes n src 0x80004 = true ∧
    (s.srcBuf n src).inst.length < bufCap n .inst :=
  ⟨rootM, .mary, (.host 0), by decide +kernel⟩

theorem wit_root_instData_full : ∃ (s : State) (n : NodeSel) (src : Src), s.takes n src 0x80004 = true ∧
    bufCap n .inst ≤ (s.srcBuf n src).inst.length :=
  ⟨island.modSrcBuf .leaf .qhp fun b => { b with inst := List.replicate 1280 0 }, .leaf, .qhp, by decide +kernel⟩

theorem wit_root_rcpData : ∃ (s : State) (n : NodeSel) (src : Src), s.takes n src 0x80204 = true ∧
    (s.srcBuf n src).rcp.length < bufCap n .rcp :=
  ⟨rootM, .mary, (.host 0), by decide +kernel⟩

theorem wit_root_bindData : ∃ (s : State) (n : NodeSel) (src : Src), s.takes n src 0x80104 = true ∧
    (s.srcBuf n src).bind.length < bufCap n .bind :=
  ⟨rootM, .mary, (.host 0), by decide +kernel⟩

theorem wit_root_instClr : ∃ (s : State) (n : NodeSel) (src : Src), s.takes n src 0x80000 = true :=
  ⟨rootM, .mary, (.host 0), by decide +kernel⟩

theorem wit_root_rcpClr : ∃ (s : State) (n : NodeSel) (src : Src), s.takes n src 0x80200 = true :=
  ⟨rootM, .mary, (.host 0), by decide +kernel⟩

theorem wit_root_bindClr : ∃ (s : State) (n : NodeSel) (src : Src), s.takes n src 0x80100 = true :=
  ⟨rootM, .mary, (.host 0), by decide +kernel⟩

/-! Witnesses for Obligations.RootInstallAndRecipe -/

theorem wit_root_instGo : ∃ (s : State) (n : NodeSel) (src : Src) (sd : Sd) (batch : Batch) (c : SdCtx), s.takes n src 0x80008 = true ∧
    (s.opened n src).instWhyOf n src sd batch = none ∧
    (s.root n).ctxOf sd = some c :=
  ⟨withSd, .leaf, .qhp, 5#12, 4#16, sd0, by decide +kernel⟩

theorem wit_root_instGo_refused : ∃ (s : State) (n : NodeSel) (src : Src) (sd : Sd) (batch : Batch) (w : Nat × Nat × Nat), s.takes n src 0x80008 = true ∧
    (s.opened n src).instWhyOf n src sd batch = some w :=
  ⟨island, .leaf, .qhp, 5#12, 4#16, (9, 0, 0), by decide +kernel⟩

theorem wit_root_rcpGo : ∃ (s : State) (n : NodeSel) (src : Src) (sd : Sd) (h : HoopId), s.takes n src 0x8020C = true ∧
    (s.opened n src).rcpWhy n src sd h = none :=
  ⟨(withSd.modSrcBuf .leaf .qhp fun b => { b with rcp := rcpWords }).setReg .leaf 0x80208 6, .leaf, .qhp, 5#12, 0x20#16, by decide +kernel⟩

theorem wit_root_rcpGo_refused : ∃ (s : State) (n : NodeSel) (src : Src) (sd : Sd) (h : HoopId) (w : Nat), s.takes n src 0x8020C = true ∧
    (s.opened n src).rcpWhy n src sd h = some w :=
  ⟨withSd, .leaf, .qhp, 5#12, 0x20#16, 1, by decide +kernel⟩

/-! Witnesses for Obligations.RootBindKeyArm -/

theorem wit_root_bindGo : ∃ (s : State) (n : NodeSel) (src : Src), s.takes n src 0x80110 = true :=
  ⟨island, .leaf, .qhp, by decide +kernel⟩

theorem wit_root_bindGo_held : ∃ (s : State) (src : Src), s.takes .mary src 0x80110 = true :=
  ⟨rootM, (.host 0), by decide +kernel⟩

theorem wit_root_bindGo_refused : ∃ (s : State) (n : NodeSel) (src : Src) (sd : Sd) (w : Nat × Nat), s.takes n src 0x80110 = true ∧
    ((s.opened n src).modSrcBuf n src (fun b => b.setFull .bind false)).bindWhyOf n sd (s.srcBuf n src).bind ((s.srcBuf n src).full .bind) (s.fld n 0x80108 14 0) ((s.reg n 0x8010C).extractLsb' 0 16) = some w :=
  ⟨island.setReg .leaf 0x80108 1, .leaf, .qhp, 5#12, (10, 0), by decide +kernel⟩

theorem wit_root_keySend : ∃ (s : State) (src : Src) (sd : Sd) (c : SdCtx), s.takes .leaf src 0x80310 = true ∧
    (s.opened .leaf src).sdRefused .leaf sd = false ∧
    (s.root .leaf).ctxOf sd = some c ∧
    c.fpState = 1 ∧
    (c.key = none ∨ c.key = some (s.srcBuf .leaf src).keyBuf) ∧
    (s.root .leaf).batches.any (fun b => decide (b.sd = sd ∧ b.st = .armed)) = false ∧
    s.leaf.binding = none :=
  ⟨withSd.modRoot .leaf fun r => { r with sds := [{ sd0 with fpState := 1 }] }, .qhp, 5#12, { sd0 with fpState := 1 }, by decide +kernel⟩

theorem wit_root_keySend_refused : ∃ (s : State) (n : NodeSel) (src : Src) (sd : Sd), s.takes n src 0x80310 = true ∧
    ((s.opened n src).sdRefused n sd = true ∨ (s.root n).ctxOf sd = none) :=
  ⟨island, .leaf, .qhp, 5#12, by decide +kernel⟩

theorem wit_root_keySend_mary : ∃ (s : State) (src : Src) (sd : Sd) (c : SdCtx), s.takes .mary src 0x80310 = true ∧
    (s.opened .mary src).sdRefused .mary sd = false ∧
    (s.root .mary).ctxOf sd = some c ∧
    c.fpState = 1 ∧
    c.key = none ∧
    (s.root .mary).batches.any (fun b => decide (b.sd = sd ∧ b.st = .armed)) = false :=
  ⟨rootM.modRoot .mary fun r => { r with sds := [{ sd0 with fpState := 1 }] }, (.host 0), 5#12, { sd0 with fpState := 1 }, by decide +kernel⟩

theorem wit_root_armSend : ∃ (s : State) (n : NodeSel) (sd : Sd) (batch : Batch) (b : BatchRec), s.held n = false ∧
    (s.root n).batches.find? (fun b => decide (b.sd = sd ∧ b.batch = batch ∧ b.st = .pending)) = some b ∧
    s.armReady n b = true ∧
    s.armInTime n b = true :=
  ⟨withSd.modRoot .leaf fun r => { r with batches := [{ bat0 with ended := some (0, 0, 0) }] }, .leaf, 5#12, 4#16, { bat0 with ended := some (0, 0, 0) }, by decide +kernel⟩

theorem wit_root_armSend_waits : ∃ (s : State) (n : NodeSel) (sd : Sd) (batch : Batch) (b : BatchRec), s.held n = false ∧
    (s.root n).batches.find? (fun b => decide (b.sd = sd ∧ b.batch = batch ∧ b.st = .pending)) = some b ∧
    s.armReady n b = false ∧
    b.earliest = none :=
  ⟨withSd.modRoot .leaf fun r => { r with batches := [bat0] }, .leaf, 5#12, 4#16, bat0, by decide +kernel⟩

theorem wit_root_armSend_late : ∃ (s : State) (n : NodeSel) (sd : Sd) (batch : Batch) (b : BatchRec) (t : Nat), s.held n = false ∧
    (s.root n).batches.find? (fun b => decide (b.sd = sd ∧ b.batch = batch ∧ b.st = .pending)) = some b ∧
    s.armReady n b = false ∧
    b.earliest = some t ∧
    (s.advHt n (t * nsTu - s.flightMax n * 2 ^ 24 - b.armMargin * nsTu + 1)).armInTime n b = false :=
  ⟨withSd.modRoot .leaf fun r => { r with batches := [{ bat0 with earliest := some 5 }] }, .leaf, 5#12, 4#16, { bat0 with earliest := some 5 }, 5, by decide +kernel⟩

/-! Witnesses for Obligations.RootCounters -/

theorem wit_root_stepWinSet : ∃ (s : State) (src : Src) (sd : Sd), s.takes .leaf src 0x80410 = true ∧
    s.sdRefused .leaf sd = false ∧
    ((s.root .leaf).ctxOf sd).isSome = true ∧
    (s.root .leaf).stepHwm.toNat < (s.reg64 .leaf 0x80400).toNat ∧
    (s.reg64 .leaf 0x80400).toNat ≤ (s.reg64 .leaf 0x80408).toNat ∧
    s.reg64 .leaf 0x80408 ≠ 0xFFFFFFFFFFFFFFFF#64 :=
  ⟨(withSd.setReg .leaf 0x80400 1).setReg .leaf 0x80408 0xFFFFFFFE, .qhp, 5#12, by decide +kernel⟩

theorem wit_root_stepWinSet_mary : ∃ (s : State) (src : Src) (sd : Sd), s.takes .mary src 0x80410 = true ∧
    s.sdRefused .mary sd = false ∧
    s.jrnlLost .mary .step = false ∧
    ((s.root .mary).ctxOf sd).isSome = true ∧
    (s.root .mary).stepHwm.toNat < (s.reg64 .mary 0x80400).toNat ∧
    (s.reg64 .mary 0x80400).toNat ≤ (s.reg64 .mary 0x80408).toNat ∧
    s.reg64 .mary 0x80408 ≠ 0xFFFFFFFFFFFFFFFF#64 :=
  ⟨((rootM.modRoot .mary fun r => { r with sds := [sd0] }).setReg .mary 0x80400 1).setReg .mary 0x80408 0xFFFFFFFE, (.host 0), 5#12, by decide +kernel⟩

theorem wit_root_stepWinSet_refused : ∃ (s : State) (n : NodeSel) (src : Src) (sd : Sd), s.takes n src 0x80410 = true ∧
    (s.sdRefused n sd = true ∨ s.jrnlLost n .step = true ∨ (s.root n).ctxOf sd = none ∨ (s.reg64 n 0x80400).toNat ≤ (s.root n).stepHwm.toNat ∨ (s.reg64 n 0x80408).toNat < (s.reg64 n 0x80400).toNat ∨ s.reg64 n 0x80408 = 0xFFFFFFFFFFFFFFFF#64) :=
  ⟨island, .leaf, .qhp, 5#12, by decide +kernel⟩

theorem wit_root_stepWinAdopt : ∃ (s : State) (n : NodeSel) (src : Src) (sd : Sd), s.takes n src 0x80414 = true ∧
    s.sdRefused n sd = false ∧
    s.jrnlLost n .step = false ∧
    ((s.root n).ctxOf sd).isSome = true ∧
    (match n with | .leaf => (s.reg64 .leaf 0x80400, s.reg64 .leaf 0x80408) ∈ (s.root .leaf).grants | .mary => ∃ q, (q, s.reg64 .mary 0x80400, s.reg64 .mary 0x80408) ∈ s.grantRecs) ∧
    (∀ c ∈ (s.root n).sds, c.win ≠ some (s.reg64 n 0x80400, s.reg64 n 0x80408)) :=
  ⟨((withSd.setReg .leaf 0x80400 1).setReg .leaf 0x80408 9).modRoot .leaf fun r => { r with grants := [(1, 9)] }, .leaf, .qhp, 5#12, by decide +kernel⟩

theorem wit_root_vintIssue : ∃ (s : State) (src : Src) (v : W32), s.takes .leaf src 0x80420 = true ∧
    (s.root .leaf).vintHwm.toNat < v.toNat ∧
    v ≠ 0xFFFFFFFF#32 :=
  ⟨island, .qhp, 0xFFFFFFFE#32, by decide +kernel⟩

theorem wit_root_vintIssue_mary : ∃ (s : State) (src : Src) (v : W32), s.takes .mary src 0x80420 = true ∧
    s.jrnlLost .mary .vint = false ∧
    (s.root .mary).vintHwm.toNat < v.toNat ∧
    v ≠ 0xFFFFFFFF#32 :=
  ⟨rootM, (.host 0), 7#32, by decide +kernel⟩

theorem wit_root_vintIssue_refused : ∃ (s : State) (n : NodeSel) (src : Src) (v : W32), s.takes n src 0x80420 = true ∧
    v.toNat ≤ (s.root n).vintHwm.toNat :=
  ⟨rootM, .mary, (.host 0), 0#32, by decide +kernel⟩

theorem wit_root_resFloor : ∃ (s : State) (src : Src) (v : W64), s.takes .leaf src 0x8043C = true ∧
    s.ctrOf .leaf (s.resFamily .leaf) < v.toNat ∧
    v.toNat ≤ (s.resFamily .leaf).cap :=
  ⟨island, .qhp, 8#64, by decide +kernel⟩

theorem wit_root_resFloor_mary : ∃ (s : State) (src : Src) (v : W64), s.takes .mary src 0x8043C = true ∧
    s.ctrOf .mary (s.resFamily .mary) < v.toNat ∧
    v.toNat ≤ (s.resFamily .mary).cap :=
  ⟨rootM, (.host 0), 8#64, by decide +kernel⟩

theorem wit_root_resFloor_refused : ∃ (s : State) (n : NodeSel) (src : Src) (v : W64), s.takes n src 0x8043C = true ∧
    (v.toNat ≤ s.ctrOf n (s.resFamily n) ∨ v.toNat > (s.resFamily n).cap) :=
  ⟨island, .leaf, .qhp, 0#64, by decide +kernel⟩

/-! Witnesses for Obligations.BindingCommands -/

theorem wit_bind_bindRx : ∃ (s : State) (c : Fin 6) (m : BindMsg), s.held .leaf = false ∧
    (s.cell .leaf c.val).ts = .active ∧
    (s.cell .leaf c.val).cfg.role = 1 ∧
    s.leaf.binding = none ∧
    m.head.all = false ∧
    m.unbind = false ∧
    m.head.dest = s.nodeId .leaf :=
  ⟨up .leaf 0 .a, 0, { head := { sd := 5, dest := 0, all := false, gen := 3 }, rank := 9, unbind := false, cnt := false }, by decide +kernel⟩

theorem wit_bind_bindRx_stale : ∃ (s : State) (c : Fin 6) (m : BindMsg) (b : Binding), s.held .leaf = false ∧
    (s.cell .leaf c.val).ts = .active ∧
    (s.cell .leaf c.val).cfg.role = 1 ∧
    s.leaf.binding = some b ∧
    b.sd = m.head.sd ∧
    m.head.gen.toNat ≤ b.gen.toNat :=
  ⟨bound, 0, { head := { sd := 5, dest := 0, all := false, gen := 3 }, rank := 9, unbind := true, cnt := false }, bind0, by decide +kernel⟩

theorem wit_bind_bindRx_unbind : ∃ (s : State) (c : Fin 6) (m : BindMsg) (b : Binding), s.held .leaf = false ∧
    (s.cell .leaf c.val).ts = .active ∧
    (s.cell .leaf c.val).cfg.role = 1 ∧
    s.leaf.binding = some b ∧
    b.sd = m.head.sd ∧
    b.gen.toNat < m.head.gen.toNat ∧
    m.unbind = true ∧
    (m.head.all = true ∨ m.head.dest = s.nodeId .leaf) :=
  ⟨bound, 0, { head := { sd := 5, dest := 0, all := true, gen := 4 }, rank := 9, unbind := true, cnt := false }, bind0, by decide +kernel⟩

theorem wit_bind_bindRx_other : ∃ (s : State) (c : Fin 6) (m : BindMsg) (b : Binding), s.held .leaf = false ∧
    (s.cell .leaf c.val).ts = .active ∧
    (s.cell .leaf c.val).cfg.role = 1 ∧
    s.leaf.binding = some b ∧
    b.sd ≠ m.head.sd ∧
    m.head.all = false ∧
    m.head.dest = s.nodeId .leaf :=
  ⟨bound, 0, { head := { sd := 6, dest := 0, all := false, gen := 4 }, rank := 9, unbind := false, cnt := false }, bind0, by decide +kernel⟩

theorem wit_bind_bindRx_mary : ∃ (s : State) (c : Fin 100), s.held .mary = false ∧
    (s.cell .mary c.val).ts = .active ∧
    (s.cell .mary c.val).cfg.role = 1 :=
  ⟨up .mary 0 .a, 0, by decide +kernel⟩

theorem wit_bind_sdLeave : ∃ (s : State) (src : Src) (b : Binding), s.takes .leaf src 0xE008 = true ∧
    s.leaf.binding = some b :=
  ⟨bound, .qhp, bind0, by decide +kernel⟩

theorem wit_bind_leaveLimitExpiry : ∃ (s : State) (b : Binding), s.held .leaf = false ∧
    s.leaf.binding = some b ∧
    (s.cfg .leaf).island = false ∧
    s.domAligned .leaf .a = false ∧
    s.domAligned .leaf .b = false :=
  ⟨R.modLeaf fun l => { l with binding := some bind0 }, bind0, by decide +kernel⟩

theorem wit_bind_leaveLimitExpiry_aligned : ∃ (s : State), s.held .leaf = false ∧
    (s.domAligned .leaf .a = true ∨ s.domAligned .leaf .b = true ∨ s.leaf.binding = none) :=
  ⟨R, by decide +kernel⟩

theorem wit_bind_membWr : ∃ (s : State) (src : Src), s.takes .leaf src 0xE020 = true ∧
    (s.cell .leaf (s.fld .leaf 0xE014 2 0)).cfg.role = 2 ∧
    s.memb65 .leaf ((s.reg .leaf 0xE010).extractLsb' 0 12) = false ∧
    s.fld .leaf 0xE018 19 0 ≠ 0 :=
  ⟨(down .leaf 0 .a).setReg .leaf 0xE018 4, .qhp, by decide +kernel⟩

theorem wit_bind_membWr_full : ∃ (s : State) (src : Src), s.takes .leaf src 0xE020 = true ∧
    (s.cell .leaf (s.fld .leaf 0xE014 2 0)).cfg.role = 2 ∧
    s.memb65 .leaf ((s.reg .leaf 0xE010).extractLsb' 0 12) = true :=
  ⟨((down .leaf 0 .a).modNode .leaf fun N => { N with curGen := [(5, 3)], memb := (List.range 64).map fun i => ((BitVec.ofNat 12 (100 + i), 0), 1) }).setReg .leaf 0xE010 5, .qhp, by decide +kernel⟩

theorem wit_bind_membWr_no_port : ∃ (s : State) (src : Src), s.takes .leaf src 0xE020 = true ∧
    (s.cell .leaf (s.fld .leaf 0xE014 2 0)).cfg.role ≠ 2 :=
  ⟨R, .qhp, by decide +kernel⟩

theorem wit_bind_membValid : ∃ (s : State) (src : Src), s.takes .leaf src 0xE00C = true :=
  ⟨R, .qhp, by decide +kernel⟩

theorem wit_bind_sdTeardown : ∃ (s : State) (n : NodeSel) (src : Src) (sd : Sd), s.takes n src 0x80118 = true ∧
    s.jrnlLost n (.gen sd) = false ∧
    (s.root n).hwmOf sd < 0xFFFF ∧
    s.needsRaise n (.gen sd) ((s.root n).hwmOf sd + 1) = false :=
  ⟨rootM.modCellar fun c => { c with genCeil := [(5, 64)] }, .mary, (.host 0), 5#12, by decide +kernel⟩

/-! Witnesses for Obligations.NodeResets -/

theorem wit_reset_powerOnResetAssert : ∃ (s : State), s.held .mary = false ∧
    s.cellar.supply = true :=
  ⟨R, by decide +kernel⟩

theorem wit_reset_powerOnResetAssert_cut : ∃ (s : State), s.held .mary = false ∧
    s.cellar.supply = false :=
  ⟨R.modCellar fun c => { c with supply := false }, by decide +kernel⟩

theorem wit_reset_powerOnResetAssert_held : ∃ (s : State), s.held .mary = true :=
  ⟨R.modNode .mary fun N => { N with inReset := true }, by decide +kernel⟩

theorem wit_reset_powerOnResetRelease : ∃ (s : State), s.held .mary = true :=
  ⟨R.modNode .mary fun N => { N with inReset := true }, by decide +kernel⟩

theorem wit_reset_powerOnResetRelease_not_held : ∃ (s : State), s.held .mary = false :=
  ⟨R, by decide +kernel⟩

theorem wit_reset_leafResetRelease : ∃ (s : State), s.held .leaf = true :=
  ⟨R.modNode .leaf fun N => { N with inReset := true }, by decide +kernel⟩

theorem wit_reset_leafResetRelease_not_held : ∃ (s : State), s.held .leaf = false :=
  ⟨R, by decide +kernel⟩

theorem wit_reset_chipRstKey : ∃ (s : State) (src : Src), s.takes .mary src 0x7C030 = true :=
  ⟨R, (.host 0), by decide +kernel⟩

theorem wit_reset_chipRst_refused : ∃ (s : State) (src : Src), s.takes .mary src 0x7C034 = true ∧
    src ∉ s.mary.rstKeys :=
  ⟨R, (.host 0), by decide +kernel⟩

theorem wit_reset_chipRst : ∃ (s : State) (src : Src), s.takes .mary src 0x7C034 = true ∧
    src ∈ s.mary.rstKeys :=
  ⟨R.modMary fun m => { m with rstKeys := [.host 0] }, (.host 0), by decide +kernel⟩

/-! Witnesses for Obligations.PartResets -/

theorem wit_reset_cellRst : ∃ (s : State) (src : Src) (c : Fin 100), s.takes .mary src (cOff .mary c.val 0xC) = true ∧
    clrBit (s.cell .mary c.val).mute 0 = 0 ∧
    (s.cell .mary c.val).portEn = true ∧
    (s.cell .mary c.val).cfg.role ≠ 0 ∧
    (s.cell .mary c.val).dark = false ∧
    (s.cell .mary c.val).aligned = false ∧
    (s.cell .mary c.val).ts ≠ .active :=
  ⟨R.modCell .mary 50 fun c => { c with portEn := true, ts := .word, cfg := { c.cfg with role := 2 } }, (.host 0), 50, by decide +kernel⟩

theorem wit_reset_grpRst : ∃ (s : State) (src : Src) (g : Fin 20), s.takes .mary src (0x64000 + 0x1000 * g.val) = true :=
  ⟨R, (.host 0), 19, by decide +kernel⟩

theorem wit_reset_quadRst : ∃ (s : State) (src : Src) (q : Fin 4), s.takes .mary src (0x78000 + 0x1000 * q.val) = true :=
  ⟨R, (.host 0), 3, by decide +kernel⟩

theorem wit_reset_quadrantResetRelease : ∃ (s : State) (q : Fin 4), (s.quad q.val).held = true :=
  ⟨R.modMary fun m => { m with quads := vmod m.quads 2 (fun q => { q with held := true }) }, 2, by decide +kernel⟩

/-! Witnesses for Obligations.FaultsSilence -/

theorem wit_reset_leafCellFault : ∃ (s : State), s.held .leaf = false :=
  ⟨R, by decide +kernel⟩

theorem wit_reset_cellFault : ∃ (s : State), s.held .mary = false :=
  ⟨R, by decide +kernel⟩

theorem wit_reset_groupFault : ∃ (s : State), s.held .mary = false :=
  ⟨R, by decide +kernel⟩

theorem wit_reset_quadrantFault : ∃ (s : State), s.held .mary = false :=
  ⟨R, by decide +kernel⟩

theorem wit_reset_chipFault : ∃ (s : State), s.held .mary = false :=
  ⟨R, by decide +kernel⟩

theorem wit_reset_leafFatal : ∃ (s : State), s.held .leaf = false :=
  ⟨R, by decide +kernel⟩

theorem wit_reset_darkCellReturn : ∃ (s : State) (k : NodeSel) (d : Dom), s.held k = false ∧
    s.upActive k d = true ∧
    ((s.time k).dom d).st = .track :=
  ⟨(up .leaf 0 .a).modTime .leaf fun t => { t with domA := { t.domA with st := .track } }, .leaf, .a, by decide +kernel⟩

/-! Witnesses for Obligations.HostFrames -/

theorem wit_hosts_hostWrite : ∃ (s : State) (h : Fin 4) (a : BitVec 24) (ws : List W32), s.held .mary = false ∧
    addrOk a = true ∧
    (s.port h).writes + ws.length ≤ 64 :=
  ⟨R, 1, 0xFFFFC#24, [1, 2], by decide +kernel⟩

theorem wit_hosts_hostWrite_overrun : ∃ (s : State) (h : Fin 4) (a : BitVec 24), s.held .mary = false ∧
    addrOk a = true ∧
    64 ≤ (s.port h).writes :=
  ⟨R.modMary fun m => { m with ports := vmod m.ports 2 (fun p => { p with queue := List.replicate 64 (.write 0 0) }) }, 2, 0#24, by decide +kernel⟩

theorem wit_hosts_hostWrite_address : ∃ (s : State) (a : BitVec 24), s.held .mary = false ∧
    addrOk a = false :=
  ⟨R, 0x100000#24, by decide +kernel⟩

theorem wit_hosts_hostWrite4 : ∃ (s : State) (h : Fin 4) (a : BitVec 24) (ws : List W32), s.held .mary = false ∧
    addrOk a = true ∧
    (s.port h).writes + ws.length ≤ 64 :=
  ⟨R, 3, 8#24, [7], by decide +kernel⟩

theorem wit_hosts_hostRead : ∃ (s : State) (a : BitVec 24), s.held .mary = false ∧
    addrOk a = true :=
  ⟨R, 0x7C000#24, by decide +kernel⟩

theorem wit_hosts_hostRead_timed_out : ∃ (s : State) (a : BitVec 24), s.held .mary = false ∧
    addrOk a = true :=
  ⟨R, 0x7C000#24, by decide +kernel⟩

theorem wit_hosts_hostRead_address : ∃ (s : State) (a : BitVec 24), s.held .mary = false ∧
    addrOk a = false :=
  ⟨R, 0x7C001#24, by decide +kernel⟩

theorem wit_hosts_hostRead4 : ∃ (s : State) (a : BitVec 24), s.held .mary = false ∧
    addrOk a = true :=
  ⟨R, 4#24, by decide +kernel⟩

theorem wit_hosts_hostStatus : ∃ (s : State), s.held .mary = false :=
  ⟨R, by decide +kernel⟩

theorem wit_hosts_hostStatus_unknown : ∃ (s : State) (op : Byte), s.held .mary = false ∧
    op ≠ 0x05 ∧
    op ∉ addrOps :=
  ⟨R, 0x99#8, by decide +kernel⟩

/-! Witnesses for Obligations.HostServing -/

theorem wit_hosts_hostAccessServe : ∃ (s : State) (h : Fin 4) (off : Nat) (rest : List HostAcc), s.held .mary = false ∧
    s.nextHost = some h ∧
    (s.port h).queue = .read off :: rest :=
  ⟨R.modMary fun m => { m with ports := vmod m.ports 1 (fun p => { p with queue := [.read 0x7C000] }) }, 1, 0x7C000, [], by decide +kernel⟩

theorem wit_hosts_hostAccessServe_write : ∃ (s : State) (h : Fin 4) (off : Nat) (v : W32) (rest : List HostAcc), s.held .mary = false ∧
    s.nextHost = some h ∧
    (s.port h).queue = .write off v :: rest :=
  ⟨R.modMary fun m => { m with ports := vmod m.ports 1 (fun p => { p with queue := [.write 0x7C02C 9] }) }, 1, 0x7C02C, 9#32, [], by decide +kernel⟩

theorem wit_hosts_hostAccessServe_none : ∃ (s : State), s.held .mary = false ∧
    s.nextHost = none :=
  ⟨R, by decide +kernel⟩

theorem wit_hosts_regTunnelRequestRx : ∃ (s : State) (c : CellRef) (m : TunnelMsg) (p : Nat) (ps : List Nat), s.held c.node = false ∧
    (s.cell c.node c.idx).ts = .active ∧
    (s.cell c.node c.idx).cfg.role = 1 ∧
    s.tunMine c.node m = false ∧
    (s.routePorts c.node m.maryel m.nodeId).filter (fun p => decide (p ∈ s.downCells c.node (s.cell c.node c.idx).cfg.dom)) = p :: ps :=
  ⟨((up .leaf 0 .a).modCell .leaf 1 (fun c => { c with ts := .active, cfg := { c.cfg with role := 2 } })).modNode .leaf fun N => { N with cfg := { N.cfg with routes := [{ lo := 9, hi := 9, cell := 1, mary := false }] } }, l0, tun0, 1, [], by decide +kernel⟩

theorem wit_hosts_regTunnelRequestRx_dropped : ∃ (s : State) (c : CellRef), s.held c.node = false ∧
    (s.cell c.node c.idx).ts = .active ∧
    (s.cell c.node c.idx).cfg.role ≠ 1 :=
  ⟨down .leaf 0 .a, l0, by decide +kernel⟩

theorem wit_hosts_regTunnelResponseRx : ∃ (s : State) (c : CellRef) (m : TunnelMsg) (t : W16 × Fin 4), s.held .mary = false ∧
    c.node = .mary ∧
    (s.cell .mary c.idx).ts = .active ∧
    (s.cell .mary c.idx).cfg.role = 2 ∧
    s.mary.tags.find? (fun u => decide (u.1 = m.tag)) = some t :=
  ⟨(down .mary 0 .a).modMary fun m => { m with tags := [(6, 2)] }, (.mary 0), { tun0 with tag := 6 }, (6, 2), by decide +kernel⟩

theorem wit_hosts_regTunnelResponseRx_passed : ∃ (s : State) (c : CellRef) (m : TunnelMsg), s.held c.node = false ∧
    (s.cell c.node c.idx).ts = .active ∧
    (s.cell c.node c.idx).cfg.role = 2 ∧
    (c.node = .mary → s.mary.tags.find? (fun u => decide (u.1 = m.tag)) = none) :=
  ⟨down .mary 0 .a, (.mary 0), tun0, by decide +kernel⟩

theorem wit_hosts_hostPerm : ∃ (s : State) (src : Src) (i : Fin 4) (v : BitVec 20), s.takes .mary src (0x7D000 + 4 * i.val) = true ∧
    ((List.range 4).any (fun j => if j = i.val then v.getLsbD 5 else (s.reg .mary (0x7D000 + 4 * j)).getLsbD 5)) = true :=
  ⟨R, (.host 0), 1, 0#20, by decide +kernel⟩

theorem wit_hosts_hostPerm_refused : ∃ (s : State) (src : Src) (i : Fin 4) (v : BitVec 20), s.takes .mary src (0x7D000 + 4 * i.val) = true ∧
    ((List.range 4).any (fun j => if j = i.val then v.getLsbD 5 else (s.reg .mary (0x7D000 + 4 * j)).getLsbD 5)) = false :=
  ⟨R, (.host 0), 0, 3#20, by decide +kernel⟩

/-! Witnesses for Obligations.BitstreamPort -/

theorem wit_mgmt_bsStart : ∃ (s : State) (n : NodeSel) (src : Src), s.takes n src (bsOff n 0) = true ∧
    ((s.bs n).owner = none ∨ (s.bs n).owner = some src) :=
  ⟨R, .mary, (.host 0), by decide +kernel⟩

theorem wit_mgmt_bsStart_refused : ∃ (s : State) (n : NodeSel) (src : Src) (x : Src), s.takes n src (bsOff n 0) = true ∧
    (s.bs n).owner = some x ∧
    x ≠ src :=
  ⟨R.modBs .leaf fun b => { b with owner := some .tunnel, buf := [] }, .leaf, .qhp, .tunnel, by decide +kernel⟩

theorem wit_mgmt_bsData : ∃ (s : State) (n : NodeSel) (src : Src), s.takes n src (bsOff n 4) = true ∧
    (s.bs n).owner = some src ∧
    (s.bs n).buf.length + 4 ≤ bsCap n :=
  ⟨R.modBs .leaf fun b => { b with owner := some .qhp, buf := List.replicate 4 0 }, .leaf, .qhp, by decide +kernel⟩

theorem wit_mgmt_bsData_too_many : ∃ (s : State) (n : NodeSel) (src : Src), s.takes n src (bsOff n 4) = true ∧
    (s.bs n).owner = some src ∧
    bsCap n < (s.bs n).buf.length + 4 :=
  ⟨R.modBs .leaf fun b => { b with owner := some .qhp, buf := List.replicate 2048 0 }, .leaf, .qhp, by decide +kernel⟩

theorem wit_mgmt_bsApply_refused : ∃ (s : State) (src : Src) (e : BsFail), s.takes .leaf src (bsOff .leaf 0) = true ∧
    (s.bs .leaf).owner = some src ∧
    (s.opened .leaf src).bsCheck (s.bs .leaf).buf (s.bs .leaf).tooMany { node := .leaf, full := false, sign := none } = .error e :=
  ⟨R.modBs .leaf fun b => { b with owner := some .qhp, buf := [] }, .qhp, (1, 0), by decide +kernel⟩

theorem wit_mgmt_bsApply_patch : ∃ (s : State) (src : Src) (secs : List BsSec), s.takes .mary src (bsOff .mary 0) = true ∧
    (s.bs .mary).owner = some src ∧
    bsFlag (s.bs .mary).buf 1 = true ∧
    (s.opened .mary src).bsCheck (s.bs .mary).buf (s.bs .mary).tooMany { node := .mary, full := false, sign := (s.opened .mary src).signRule } = .ok secs :=
  ⟨(R.modBs .mary fun b => { b with owner := some (.host 0), buf := patchBits }).modCell .mary 0 fun c => { c with cfg := { c.cfg with role := 1, short := true } }, (.host 0), [], by decide +kernel⟩

theorem wit_mgmt_bsApply : ∃ (s : State) (src : Src) (secs : List BsSec), s.takes .mary src (bsOff .mary 0) = true ∧
    (s.bs .mary).owner = some src ∧
    bsFlag (s.bs .mary).buf 1 = false ∧
    s.allOff .mary = true ∧
    (s.opened .mary src).bsCheck (s.bs .mary).buf (s.bs .mary).tooMany { node := .mary, full := false, sign := (s.opened .mary src).signRule } = .ok secs :=
  ⟨R.modBs .mary fun b => { b with owner := some (.host 0), buf := fullBits }, (.host 0), fullSecs, by decide +kernel⟩

theorem wit_mgmt_patchApply : ∃ (s : State), s.held .mary = false ∧
    (s.bs .mary).patches = [] :=
  ⟨R, by decide +kernel⟩

theorem wit_mgmt_patchApply_applied : ∃ (s : State) (n : NodeSel) (p : Patch) (rest : List Patch) (e : W64), s.held n = false ∧
    (s.bs n).patches = p :: rest ∧
    s.patchEdge n p.accepted = some e :=
  ⟨R.modBs .leaf fun b => { b with patches := [patch0] }, .leaf, patch0, [], 1024#64, by decide +kernel⟩

/-! Witnesses for Obligations.Profiles -/

theorem wit_mgmt_profBsData : ∃ (s : State) (src : Src), s.takes .mary src 0xC0004 = true ∧
    (s.srcBuf .mary src).prof.length < bufCap .mary .prof :=
  ⟨R, (.host 0), by decide +kernel⟩

theorem wit_mgmt_profClr : ∃ (s : State) (src : Src), s.takes .mary src 0xC0000 = true :=
  ⟨R, (.host 0), by decide +kernel⟩

theorem wit_mgmt_profCheck : ∃ (s : State) (src : Src) (e : BsFail), s.takes .mary src 0xC00C0 = true ∧
    (s.opened .mary src).bsCheck ((s.opened .mary src).srcBuf .mary src |>.profOf 0).bits (((s.opened .mary src).srcBuf .mary src).full .prof) { node := .mary, full := true, sign := some (((s.opened .mary src).srcBuf .mary src |>.profOf 0).sign, ((s.opened .mary src).srcBuf .mary src |>.profOf 0).hash) } = .error e :=
  ⟨R, (.host 0), (1, 0), by decide +kernel⟩

theorem wit_mgmt_profCheck_passes : ∃ (s : State) (src : Src) (secs : List BsSec), s.takes .mary src 0xC00C0 = true ∧
    (s.opened .mary src).bsCheck ((s.opened .mary src).srcBuf .mary src |>.profOf 0).bits (((s.opened .mary src).srcBuf .mary src).full .prof) { node := .mary, full := true, sign := some (((s.opened .mary src).srcBuf .mary src |>.profOf 0).sign, ((s.opened .mary src).srcBuf .mary src |>.profOf 0).hash) } = .ok secs :=
  ⟨R.modSrcBuf .mary (.host 0) fun b => { b with prof := fullWords }, (.host 0), fullSecs, by decide +kernel⟩

theorem wit_mgmt_profCommit : ∃ (s : State) (src : Src), s.takes .mary src 0xC00C4 = true ∧
    ((s.opened .mary src).srcBuf .mary src).full .prof = false ∧
    s.mary.profPend = none :=
  ⟨R, (.host 0), by decide +kernel⟩

theorem wit_mgmt_profCommit_refused : ∃ (s : State) (src : Src) (p : ProfPend), s.takes .mary src 0xC00C4 = true ∧
    ((s.opened .mary src).srcBuf .mary src).full .prof = false ∧
    s.mary.profPend = some p :=
  ⟨R.modMary fun m => { m with profPend := some prof0 }, (.host 0), prof0, by decide +kernel⟩

theorem wit_mgmt_profCommitDone : ∃ (s : State) (p : ProfPend), s.held .mary = false ∧
    s.mary.profPend = some p ∧
    s.cellar.supply = true ∧
    s.celClosed = false :=
  ⟨R.modMary fun m => { m with profPend := some prof0 }, prof0, by decide +kernel⟩

theorem wit_mgmt_profApply : ∃ (s : State) (src : Src), s.takes .mary src 0xC00C8 = true ∧
    s.allOff .mary = true :=
  ⟨R, (.host 0), by decide +kernel⟩

theorem wit_mgmt_profApply_refused : ∃ (s : State) (src : Src), s.takes .mary src 0xC00C8 = true ∧
    s.allOff .mary = false :=
  ⟨R.modCell .mary 4 fun c => { c with ts := .word }, (.host 0), by decide +kernel⟩

/-! Witnesses for Obligations.EngineAndLicences -/

theorem wit_mgmt_meClr : ∃ (s : State) (src : Src), s.takes .mary src 0xB0000 = true :=
  ⟨R, (.host 0), by decide +kernel⟩

theorem wit_mgmt_meLoad : ∃ (s : State) (src : Src), s.takes .mary src 0xB0004 = true ∧
    s.mary.me.state ≠ 1 :=
  ⟨R, (.host 0), by decide +kernel⟩

theorem wit_mgmt_meLoad_refused : ∃ (s : State) (src : Src), s.takes .mary src 0xB0004 = true ∧
    s.mary.me.state = 1 :=
  ⟨R.modMary fun m => { m with me := { m.me with state := 1 } }, (.host 0), by decide +kernel⟩

/-- An image of 100 zero bytes starts the engine where its signature verifies, which no one can know of the opaque check. -/
theorem wit_mgmt_meStart (h : Config.signatureOk (List.replicate 4 0) (List.replicate 96 0) 1 = true) :
    ∃ (s : State) (src : Src), s.takes .mary src 0xB0008 = true ∧ s.mary.me.state ≠ 1 ∧
      96 < (s.mary.me.buf.flatMap (fun w => beBytes 4 w.toNat)).length ∧
      Config.signatureOk ((s.mary.me.buf.flatMap (fun w => beBytes 4 w.toNat)).take ((s.mary.me.buf.flatMap (fun w => beBytes 4 w.toNat)).length - 96))
        ((s.mary.me.buf.flatMap (fun w => beBytes 4 w.toNat)).drop ((s.mary.me.buf.flatMap (fun w => beBytes 4 w.toNat)).length - 96)) 1 = true := by
  refine ⟨R.modMary fun m => { m with me := { m.me with buf := List.replicate 25 0 } }, .host 0, by decide +kernel, by decide +kernel,
    by decide +kernel, ?_⟩
  have e : ((R.modMary fun m => { m with me := { m.me with buf := List.replicate 25 0 } }).mary.me.buf.flatMap (fun w => beBytes 4 w.toNat))
      = List.replicate 100 0 := by decide +kernel
  rw [e]
  exact h

theorem wit_mgmt_meStart_refused : ∃ (s : State) (src : Src), s.takes .mary src 0xB0008 = true ∧
    s.mary.me.state ≠ 1 ∧
    (s.mary.me.buf.flatMap (fun w => beBytes 4 w.toNat)).length ≤ 96 :=
  ⟨R, (.host 0), by decide +kernel⟩

theorem wit_mgmt_meWdog : ∃ (s : State), s.held .mary = false ∧
    s.mary.me.state = 1 :=
  ⟨R.modMary fun m => { m with me := { m.me with state := 1 } }, by decide +kernel⟩

/-- A source's buffer with a licence of 64 ports for this chip. -/
def licS : State :=
  R.modSrcBuf .mary (.host 0) fun b =>
    { b with sel := [(0xD0000, 0x4C490101), (0xD0004, 0x00400000), (0xD0008, Config.chipUid.extractLsb' 32 32),
      (0xD000C, Config.chipUid.extractLsb' 0 32)] }

theorem licS_uid : beField (((licS.opened .mary (.host 0)).srcBuf .mary (.host 0)).licOf) 8 8 = Config.chipUid.toNat := by
  have h : ((((licS.opened .mary (.host 0)).srcBuf .mary (.host 0)).licOf).drop 8).take 8
      = beBytes 4 (Config.chipUid.extractLsb' 32 32).toNat ++ beBytes 4 (Config.chipUid.extractLsb' 0 32).toNat := by rfl
  have e : ∀ u : W64, beNat (beBytes 4 (u.extractLsb' 32 32).toNat ++ beBytes 4 (u.extractLsb' 0 32).toNat) = u.toNat := by
    intro u
    have hu := u.isLt
    simp [beNat, beBytes, List.range, List.range.loop, Nat.shiftRight_eq_div_pow]
    omega
  rw [beField, h]
  exact e Config.chipUid

/-- That licence is taken where its signature verifies, which no one can know of the opaque check. -/
theorem wit_mgmt_licInstall (h : licSigned (((licS.opened .mary (.host 0)).srcBuf .mary (.host 0)).licOf) = true) :
    ∃ (s : State) (src : Src), s.takes .mary src 0xD0080 = true ∧
      (s.opened .mary src).licWhyOf ((s.opened .mary src).srcBuf .mary src).licOf = 0 := by
  refine ⟨licS, .host 0, by decide +kernel, ?_⟩
  have m : licMalformed (((licS.opened .mary (.host 0)).srcBuf .mary (.host 0)).licOf) = false := by decide +kernel
  have f : (licS.opened .mary (.host 0)).licFree.isNone = false := by decide +kernel
  simp [State.licWhyOf, h, m, f, licS_uid]

theorem wit_mgmt_licInstall_refused : ∃ (s : State) (src : Src), s.takes .mary src 0xD0080 = true ∧
    (s.opened .mary src).licWhyOf ((s.opened .mary src).srcBuf .mary src).licOf ≠ 0 := by
  refine ⟨R, .host 0, by decide +kernel, ?_⟩
  have m : licMalformed (((R.opened .mary (.host 0)).srcBuf .mary (.host 0)).licOf) = true := by decide +kernel
  simp only [State.licWhyOf, m]
  split
  · decide
  · split <;> simp

theorem wit_mgmt_licRemove : ∃ (s : State) (src : Src) (k : Fin 16), s.takes .mary src 0xD0084 = true ∧
    (s.licSlot k.val).isSome = true :=
  ⟨R.modCellar fun c => { c with mem := licMem }, (.host 0), 0, by decide +kernel⟩

/-! Witnesses for Obligations.ReferenceEntries -/

theorem wit_refs_refApply : ∃ (s : State) (src : Src), s.takes .mary src 0x98048 = true ∧
    refCheck (s.reg .mary 0x98000) ((List.range 8).map (fun i => s.reg64 .mary (0x98008 + 8 * i))) = 0 ∧
    s.rootHasHt = true :=
  ⟨refTab rootHt, (.host 0), by decide +kernel⟩

theorem wit_refs_refApply_no_time : ∃ (s : State) (src : Src), s.takes .mary src 0x98048 = true ∧
    refCheck (s.reg .mary 0x98000) ((List.range 8).map (fun i => s.reg64 .mary (0x98008 + 8 * i))) = 0 ∧
    s.rootHasHt = false :=
  ⟨refTab rootM, (.host 0), by decide +kernel⟩

theorem wit_refs_refApply_refused : ∃ (s : State) (src : Src), s.takes .mary src 0x98048 = true ∧
    refCheck (s.reg .mary 0x98000) ((List.range 8).map (fun i => s.reg64 .mary (0x98008 + 8 * i))) ≠ 0 :=
  ⟨rootM.setReg .mary 0x98000 0x012C0A01, (.host 0), by decide +kernel⟩

theorem wit_refs_refMeasurement : ∃ (s : State) (i : Fin 8), s.held .mary = false ∧
    s.isRoot .mary = true ∧
    ((s.ent i.val).stat = .lost ∨ (s.ent i.val).stat = .disabled) :=
  ⟨rootM.modEnt 0 fun e => { e with stat := .lost }, 0, by decide +kernel⟩

theorem wit_refs_refMeasurement_gate : ∃ (s : State) (i : Fin 8) (n : Nat), s.held .mary = false ∧
    s.isRoot .mary = true ∧
    (s.ent i.val).stat ≠ .lost ∧
    (s.ent i.val).stat ≠ .disabled ∧
    gateOk (s.ent i.val).word n s.rootK = true :=
  ⟨(rootM.modEnt 0 fun e => { e with stat := .qualified, word := phaseWord }).modTime .mary fun t => { t with domA := { t.domA with set := { t.domA.set with rate := nominalK } } }, 0, 500000000, by decide +kernel⟩

theorem wit_refs_refMeasurement_gate_fails : ∃ (s : State) (i : Fin 8) (n : Nat), s.held .mary = false ∧
    s.isRoot .mary = true ∧
    (s.ent i.val).stat ≠ .lost ∧
    (s.ent i.val).stat ≠ .disabled ∧
    gateOk (s.ent i.val).word n s.rootK = false :=
  ⟨rootM.modEnt 0 fun e => { e with stat := .qualified, word := phaseWord }, 0, 1, by decide +kernel⟩

theorem wit_refs_refMeasurement_pulse : ∃ (s : State) (i : Fin 8) (j : Nat), s.held .mary = false ∧
    s.isRoot .mary = true ∧
    (s.ent i.val).stat ≠ .lost ∧
    (s.ent i.val).stat ≠ .disabled ∧
    refChan (refSrc (s.ent i.val).word) = some j ∧
    refPhase (s.ent i.val).word = true :=
  ⟨rootM.modEnt 0 fun e => { e with stat := .qualified, word := phaseWord }, 0, 20, by decide +kernel⟩

theorem wit_refs_refMeasurement_edge : ∃ (s : State) (i : Fin 8) (j : Nat), s.held .mary = false ∧
    s.isRoot .mary = true ∧
    (s.ent i.val).stat ≠ .lost ∧
    (s.ent i.val).stat ≠ .disabled ∧
    refChan (refSrc (s.ent i.val).word) = some j ∧
    refPhase (s.ent i.val).word = false :=
  ⟨rootM.modEnt 0 fun e => { e with stat := .qualified, word := phaseWord - 2 ^ 58 }, 0, 20, by decide +kernel⟩

theorem wit_refs_refLoss : ∃ (s : State) (i : Fin 8) (tmo : Bool), s.held .mary = false ∧
    s.isRoot .mary = true ∧
    refEn (s.ent i.val).word = true ∧
    (tmo = false ∨ (refSrc (s.ent i.val).word ≠ 4 ∧ refSrc (s.ent i.val).word ≠ 5)) ∧
    (s.ent i.val).stat ≠ .lost ∧
    (s.ent i.val).stat ≠ .disabled :=
  ⟨rootM.modEnt 0 fun e => { e with stat := .qualified, word := phaseWord }, 0, false, by decide +kernel⟩

theorem wit_refs_refQualified : ∃ (s : State) (i : Fin 8), s.held .mary = false ∧
    s.isRoot .mary = true ∧
    (s.ent i.val).stat = .qualifying ∧
    (refSrc (s.ent i.val).word < 6 ∨ 7 < refSrc (s.ent i.val).word) :=
  ⟨rootM.modEnt 0 fun e => { e with stat := .qualifying, mustWtr := true, word := phaseWord }, 0, by decide +kernel⟩

theorem wit_refs_refQualified_waits : ∃ (s : State) (i : Fin 8), s.held .mary = false ∧
    (s.ent i.val).stat ≠ .qualifying :=
  ⟨rootM, 0, by decide +kernel⟩

theorem wit_refs_refWtrEnd : ∃ (s : State) (i : Fin 8), s.held .mary = false ∧
    s.isRoot .mary = true ∧
    (s.ent i.val).stat = .wtr :=
  ⟨rootM.modEnt 0 fun e => { e with stat := .wtr }, 0, by decide +kernel⟩

theorem wit_refs_refSignalPresent : ∃ (s : State) (i : Fin 8), s.held .mary = false ∧
    s.isRoot .mary = true ∧
    (s.ent i.val).stat = .lost :=
  ⟨rootM.modEnt 0 fun e => { e with stat := .lost }, 0, by decide +kernel⟩

/-! Witnesses for Obligations.SelectorSteering -/

theorem wit_refs_holdoverKUpdate : ∃ (s : State), s.held .mary = false ∧
    s.isRoot .mary = true ∧
    s.mary.sel.st = .holdover :=
  ⟨rootM.modSel fun x => { x with st := .holdover }, by decide +kernel⟩

theorem wit_refs_selMode : ∃ (s : State) (src : Src), s.takes .mary src 0x980C4 = true ∧
    (s.mary.sel.st = .locked ∨ s.mary.sel.st = .holdover) :=
  ⟨rootM.modSel fun x => { x with st := .locked }, (.host 0), by decide +kernel⟩

theorem wit_refs_selMode_stays : ∃ (s : State) (src : Src), s.takes .mary src 0x980C4 = true ∧
    s.mary.sel.st = .acquire :=
  ⟨rootM.modSel fun x => { x with st := .acquire }, (.host 0), by decide +kernel⟩

theorem wit_refs_selMode_auto : ∃ (s : State) (src : Src), s.takes .mary src 0x980C4 = true ∧
    s.mary.sel.st = .softloop ∧
    s.mary.sel.selected = none ∧
    (∀ i, i < 8 → s.eligible i = false) :=
  ⟨rootM.modSel fun x => { x with st := .softloop }, (.host 0), by decide +kernel⟩

theorem wit_refs_softK : ∃ (s : State) (src : Src), s.takes .mary src 0x980CC = true ∧
    s.mary.sel.st = .softloop :=
  ⟨rootM.modSel fun x => { x with st := .softloop }, (.host 0), by decide +kernel⟩

theorem wit_refs_softK_ignored : ∃ (s : State) (src : Src), s.takes .mary src 0x980CC = true ∧
    s.mary.sel.st ≠ .softloop :=
  ⟨rootM, (.host 0), by decide +kernel⟩

theorem wit_refs_softTmo : ∃ (s : State), s.held .mary = false ∧
    s.isRoot .mary = true ∧
    s.mary.sel.st = .softloop :=
  ⟨rootM.modSel fun x => { x with st := .softloop }, by decide +kernel⟩

theorem wit_refs_softTmo_elsewhere : ∃ (s : State), s.held .mary = false ∧
    s.mary.sel.st ≠ .softloop :=
  ⟨rootM, by decide +kernel⟩

theorem wit_refs_ocxoWarmChange : ∃ (s : State), s.held .mary = false ∧
    s.isRoot .mary = true ∧
    s.mary.sel.warm = true :=
  ⟨rootM.modSel fun x => { x with warm := true }, by decide +kernel⟩

theorem wit_refs_ocxoWarmChange_high : ∃ (s : State), s.held .mary = false ∧
    s.isRoot .mary = true :=
  ⟨rootM, by decide +kernel⟩

theorem wit_refs_ocxoWarmChange_held : ∃ (s : State), s.held .mary = true :=
  ⟨R.modNode .mary fun N => { N with inReset := true }, by decide +kernel⟩

theorem wit_refs_ocxoWaitExpiry : ∃ (s : State), s.held .mary = false ∧
    s.isRoot .mary = true ∧
    s.mary.sel.warmOk = false :=
  ⟨rootM, by decide +kernel⟩

theorem wit_refs_kDayEnd : ∃ (s : State), s.held .mary = false ∧
    s.isRoot .mary = true ∧
    s.rootHasHt = true ∧
    s.mary.sel.phaseAt = none :=
  ⟨rootHt, by decide +kernel⟩

theorem wit_refs_kDayEnd_whole : ∃ (s : State) (p : Nat), s.held .mary = false ∧
    s.isRoot .mary = true ∧
    s.rootHasHt = true ∧
    s.mary.sel.phaseAt = some p ∧
    s.mary.sel.st = .locked ∧
    s.mary.sel.daySum.2 ≠ 0 ∧
    p * 2 ^ 24 ≤ (s.htDom .mary s.rootDom / (86400 * 1000000000 * nsTu)) * (86400 * 1000000000 * nsTu) :=
  ⟨rootHt.modSel fun x => { x with st := .locked, daySum := (4, 2), phaseAt := some 0 }, 0, by decide +kernel⟩

/-! Witnesses for Obligations.RootTimeSet -/

theorem wit_refs_rootStep_refused : ∃ (s : State) (src : Src), s.takes .mary src 0x980D0 = true ∧
    s.anyMembers = true :=
  ⟨rootM.modRoot .mary fun r => { r with binds := [{ leaf := 1, sd := 5, rank := 0 }] }, (.host 0), by decide +kernel⟩

theorem wit_refs_rootStep : ∃ (s : State) (src : Src), s.takes .mary src 0x980D0 = true ∧
    s.anyMembers = false ∧
    s.rootHasHt = true ∧
    (∀ i, i < 8 → s.eligible i = false) :=
  ⟨rootHt, (.host 0), by decide +kernel⟩

theorem wit_refs_rootStep_no_time : ∃ (s : State) (src : Src), s.takes .mary src 0x980D0 = true ∧
    s.anyMembers = false ∧
    s.rootHasHt = false :=
  ⟨rootM, (.host 0), by decide +kernel⟩

theorem wit_refs_rootHtSet : ∃ (s : State) (src : Src) (v : Ht96), s.takes .mary src 0x980E0 = true ∧
    s.anyMembers = false ∧
    htNs v ≤ 999999999 ∧
    tuNs (tuOfHt v) < htBound ∧
    s.mary.sel.st = .freerun ∧
    s.rootHasHt = false :=
  ⟨rootM, (.host 0), 0x12345#96, by decide +kernel⟩

theorem wit_refs_rootHtSet_refused : ∃ (s : State) (src : Src) (v : Ht96), s.takes .mary src 0x980E0 = true ∧
    (s.anyMembers = true ∨ 999999999 < htNs v ∨ htBound ≤ tuNs (tuOfHt v)) :=
  ⟨rootM, (.host 0), BitVec.ofNat 96 (1000000000 * 2 ^ 16), by decide +kernel⟩

theorem wit_refs_rootSecNext : ∃ (s : State) (src : Src), s.takes .mary src 0x980EC = true ∧
    (s.isRoot .mary = false ∨ s.mary.sel.st = .softloop) :=
  ⟨rootM.modSel fun x => { x with st := .softloop }, (.host 0), by decide +kernel⟩

theorem wit_refs_rootSecNext_root : ∃ (s : State) (src : Src), s.takes .mary src 0x980EC = true ∧
    s.isRoot .mary = true :=
  ⟨rootM, (.host 0), by decide +kernel⟩

/-! Witnesses for Obligations.SiteOutputs -/

theorem wit_refs_ppsOut : ∃ (s : State), s.held .mary = false ∧
    s.isRoot .mary = true ∧
    s.rootHasHt = true :=
  ⟨live, by decide +kernel⟩

theorem wit_refs_ppsOut_squelched : ∃ (s : State), s.held .mary = false ∧
    s.isRoot .mary = true ∧
    s.rootHasHt = true :=
  ⟨rootHt, by decide +kernel⟩

theorem wit_refs_ppsOut_no_time : ∃ (s : State), s.held .mary = false ∧
    (s.isRoot .mary = false ∨ s.rootHasHt = false) :=
  ⟨R, by decide +kernel⟩

theorem wit_refs_todSentence : ∃ (s : State), s.held .mary = false :=
  ⟨live, by decide +kernel⟩

theorem wit_refs_todSentence_squelched : ∃ (s : State), s.held .mary = false ∧
    s.outLive 4 (nextPulse (tu16 (s.ht .mary)) (10000000 * 65536) / sec16) = false :=
  ⟨R, by decide +kernel⟩

theorem wit_refs_esmcRx : ∃ (s : State) (k : Fin 2) (q : BitVec 4), s.held .mary = false ∧
    s.isRoot .mary = true ∧
    (s.reg .mary (tReg k.val 0x20)).getLsbD (16 + q.toNat) = true :=
  ⟨rootM, 1, 2#4, by decide +kernel⟩

theorem wit_refs_esmcSend : ∃ (s : State), s.held .mary = false ∧
    s.isRoot .mary = true :=
  ⟨rootM, by decide +kernel⟩

theorem wit_refs_esmcTimeout : ∃ (s : State) (k : Fin 2) (i : Fin 8), s.held .mary = false ∧
    s.isRoot .mary = true ∧
    refEn (s.ent i.val).word = true ∧
    refSrc (s.ent i.val).word = 6 + k.val ∧
    (s.ent i.val).stat ≠ .disabled :=
  ⟨rootM.modEnt 0 fun e => { e with stat := .qualified, word := esmcWord }, 1, 0, by decide +kernel⟩

/-! Witnesses for Obligations.PtpPorts -/

theorem wit_refs_ptpMessageRx : ∃ (s : State) (k : Fin 2) (m : PtpMsg), s.held .mary = false ∧
    s.ptpOn k.val = true ∧
    m.kind = .malformed :=
  ⟨ptpM, 0, ptp0, by decide +kernel⟩

theorem wit_refs_ptpMessageRx_delayReq : ∃ (s : State) (k : Fin 2) (m : PtpMsg), s.held .mary = false ∧
    s.ptpOn k.val = true ∧
    m.kind = .delayReq ∧
    m.domainNum.toNat = s.effFld .mary (tReg k.val 4) 6 0 ∧
    (s.ptpPort k.val).state = 6 :=
  ⟨ptpM.modPtp 0 fun p => { p with state := 6 }, 0, { ptp0 with kind := .delayReq }, by decide +kernel⟩

theorem wit_refs_ptpMessageRx_announce : ∃ (s : State) (k : Fin 2) (m : PtpMsg), s.held .mary = false ∧
    s.ptpOn k.val = true ∧
    m.kind = .announce ∧
    m.domainNum.toNat = s.effFld .mary (tReg k.val 4) 6 0 ∧
    (s.ptpPort k.val).master = none :=
  ⟨ptpM, 0, { ptp0 with kind := .announce }, by decide +kernel⟩

theorem wit_refs_ptpMessageRx_sync : ∃ (s : State) (k : Fin 2) (m : PtpMsg), s.held .mary = false ∧
    s.ptpOn k.val = true ∧
    m.kind = .sync ∧
    m.twoStep = true ∧
    m.domainNum.toNat = s.effFld .mary (tReg k.val 4) 6 0 ∧
    s.ptpFrom k.val m = true :=
  ⟨ptpM.modPtp 0 fun p => { p with state := 9, master := some { ptp0 with kind := .announce } }, 0, { ptp0 with kind := .sync, twoStep := true }, by decide +kernel⟩

theorem wit_refs_ptpMessageRx_other_domain : ∃ (s : State) (k : Fin 2) (m : PtpMsg), s.held .mary = false ∧
    (s.ptpOn k.val = false ∨ (m.kind ≠ .malformed ∧ m.domainNum.toNat ≠ s.effFld .mary (tReg k.val 4) 6 0)) :=
  ⟨ptpM, 0, { ptp0 with kind := .sync, domainNum := 5 }, by decide +kernel⟩

theorem wit_refs_ptpMessageSend : ∃ (s : State) (k : Fin 2), s.held .mary = false ∧
    s.ptpOn k.val = true ∧
    s.ptpDecide k.val = 6 :=
  ⟨(ptpM.modMary fun m => { m with lic := { m.lic with gm := true } }), 0, by decide +kernel⟩

theorem wit_refs_ptpMessageSend_announce : ∃ (s : State) (k : Fin 2), s.held .mary = false ∧
    s.ptpOn k.val = true :=
  ⟨ptpM, 0, by decide +kernel⟩

theorem wit_refs_ptpMessageSend_delayReq : ∃ (s : State) (k : Fin 2), s.held .mary = false ∧
    s.ptpOn k.val = true ∧
    s.ptpDecide k.val = 9 :=
  ⟨ptpS, 0, by decide +kernel⟩

theorem wit_refs_ptpMessageSend_off : ∃ (s : State) (k : Fin 2), s.held .mary = false ∧
    s.ptpOn k.val = false :=
  ⟨R, 0, by decide +kernel⟩

/-! Witnesses for Obligations.CellarWrites -/

theorem wit_cellar_cellarWrite : ∃ (s : State) (q : CelWord) (rest : List CelWord), s.held .mary = false ∧
    s.cellar.queue = q :: rest ∧
    s.cellar.supply = true ∧
    s.celClosed = false ∧
    ¬ (celGrant ≤ q.word ∧ q.word < celRwp ∧ q.word % 4 = 3) ∧
    ((sget s.cellar.wear (celBlock q.word)).getD 0 + 1) % 4096 ≠ 0 ∧
    s.canonical :=
  ⟨R.modCellar fun c => { c with queue := [{ word := 5, val := 9, rwp := none }] }, { word := 5, val := 9, rwp := none }, [], by unfold State.canonical; decide +kernel⟩

theorem wit_cellar_cellarWrite_grant : ∃ (s : State) (q : CelWord) (rest : List CelWord) (sd : Sd) (lo : W64) (hi : W64) (hs : List (Family × HeldOp)), s.held .mary = false ∧
    s.cellar.queue = q :: rest ∧
    s.cellar.supply = true ∧
    s.celClosed = false ∧
    celGrant ≤ q.word ∧ q.word < celRwp ∧ q.word % 4 = 3 ∧
    ((sget s.cellar.wear (celBlock q.word)).getD 0 + 1) % 4096 ≠ 0 ∧
    s.canonical ∧
    s.cellar.held = (.step, .grant sd lo hi) :: hs :=
  ⟨R.modCellar fun c => { c with queue := [{ word := celGrant + 3, val := 9, rwp := none }], held := [(.step, .grant 5 1 9)] }, { word := celGrant + 3, val := 9, rwp := none }, [], 5#12, 1#64, 9#64, [], by unfold State.canonical; decide +kernel⟩

theorem wit_cellar_cellarWrite_trip : ∃ (s : State), s.held .mary = false ∧
    s.cellar.supply = false :=
  ⟨R.modCellar fun c => { c with supply := false }, by decide +kernel⟩

theorem wit_cellar_cellarWrite_closed : ∃ (s : State), s.held .mary = false ∧
    (s.cellar.queue = [] ∨ s.celClosed = true) :=
  ⟨R, by decide +kernel⟩

theorem wit_cellar_rwpSync : ∃ (s : State) (h : Fin 4), s.takes .mary (.host h) 0xF0010 = true ∧
    s.rwpPend = true :=
  ⟨R.modCellar fun c => { c with queue := [{ word := 5, val := 9, rwp := some 0x7F000 }] }, 0, by decide +kernel⟩

theorem wit_cellar_rwpSync_nothing_waits : ∃ (s : State) (h : Fin 4), s.takes .mary (.host h) 0xF0010 = true ∧
    s.rwpPend = false :=
  ⟨R, 0, by decide +kernel⟩

theorem wit_cellar_ceilingRaise : ∃ (s : State) (r : Raise) (rest : List Raise), s.held .mary = false ∧
    s.cellar.raises = r :: rest ∧
    s.cellar.raising = none ∧
    s.cellar.supply = true ∧
    s.celClosed = false ∧
    s.ceilWaits = false ∧
    s.famCtr r.fam ≤ r.ceil ∧
    s.canonical ∧
    ((sget s.cellar.wear (celBlock (celCeilA + r.fam.word))).getD 0 + 1) % 4096 ≠ 0 ∧
    ((sget s.cellar.wear (celBlock (celCeilB + r.fam.word))).getD 0 + 1) % 4096 ≠ 0 :=
  ⟨R.modCellar fun c => { c with raises := [{ fam := .vint, ceil := 64 }] }, { fam := .vint, ceil := 64 }, [], by unfold State.canonical; decide +kernel⟩

theorem wit_cellar_ceilingRaise_passed : ∃ (s : State) (r : Raise) (rest : List Raise), s.held .mary = false ∧
    s.cellar.raises = r :: rest ∧
    s.cellar.raising = none ∧
    s.cellar.supply = true ∧
    s.celClosed = false ∧
    s.ceilWaits = false ∧
    r.ceil < s.famCtr r.fam ∧
    s.cellar.held.filter (heldFor r) = [] :=
  ⟨(R.modCellar fun c => { c with raises := [{ fam := .vint, ceil := 64 }] }).modRoot .mary fun r => { r with vintHwm := 100 }, { fam := .vint, ceil := 64 }, [], by decide +kernel⟩

theorem wit_cellar_ceilingRaiseDone : ∃ (s : State) (r : Raise), s.held .mary = false ∧
    s.cellar.raising = some r ∧
    s.ceilCopies r.fam = [r.ceil, r.ceil] ∧
    s.cellar.held.filter (heldFor r) = [] :=
  ⟨R.modCellar fun c => { c with raising := some { fam := .vint, ceil := 0 } }, { fam := .vint, ceil := 0 }, by decide +kernel⟩

theorem wit_cellar_ceilingRaiseDone_releases : ∃ (s : State) (r : Raise) (v : W64) (src : Src), s.held .mary = false ∧
    s.cellar.raising = some r ∧
    s.ceilCopies r.fam = [r.ceil, r.ceil] ∧
    s.cellar.held = [(r.fam, .floor src v)] ∧
    v.toNat = r.ceil ∧
    v.toNat ≤ r.fam.cap ∧
    (s.ctrOf .mary r.fam) < v.toNat :=
  ⟨R.modCellar fun c => { c with raising := some { fam := .vint, ceil := 64 }, held := [(.vint, .floor (.host 0) 64)], mem := vintMem }, { fam := .vint, ceil := 64 }, 64#64, (.host 0), by decide +kernel⟩

theorem wit_cellar_kaAnchor : ∃ (s : State), s.held .mary = false ∧
    s.isRoot .mary = true ∧
    s.lockedPhase = true :=
  ⟨(rootM.modEnt 0 fun e => { e with stat := .qualified, word := phaseWord }).modSel fun x => { x with st := .locked, selected := some 0 }, by decide +kernel⟩

theorem wit_cellar_kaAnchor_not_locked : ∃ (s : State), s.held .mary = false ∧
    (s.isRoot .mary = false ∨ s.lockedPhase = false) :=
  ⟨R, by decide +kernel⟩

/-! Witnesses for Obligations.CellarCare -/

theorem wit_cellar_cellarScrub_clean : ∃ (s : State), s.held .mary = false :=
  ⟨R, by decide +kernel⟩

theorem wit_cellar_cellarScrub : ∃ (s : State) (w : BitVec 20), s.held .mary = false ∧
    s.cellar.queue.any (fun q => q.word == w.toNat) = true :=
  ⟨R.modCellar fun c => { c with queue := [{ word := 5, val := 9, rwp := none }] }, 5#20, by decide +kernel⟩

theorem wit_cellar_cellarScrub_rewritten : ∃ (s : State) (w : BitVec 20), s.held .mary = false ∧
    s.cellar.queue.any (fun q => q.word == w.toNat) = false :=
  ⟨R, 5#20, by decide +kernel⟩

theorem wit_cellar_cellarScrub_uncorrectable : ∃ (s : State) (w : BitVec 20), s.held .mary = false ∧
    celRwp ≤ w.toNat ∧
    (w.toNat < celWear ∨ celProf ≤ w.toNat) :=
  ⟨R, 0xE000#20, by decide +kernel⟩

theorem wit_cellar_cellarScrub_ceiling_lost : ∃ (s : State) (w : BitVec 20) (f : Family), s.held .mary = false ∧
    s.isRoot .mary = true ∧
    celCeilA ≤ w.toNat ∧
    w.toNat < celCeilB ∧
    famOfWord (w.toNat - celCeilA) = some f ∧
    s.celOk (w.toNat + 0x2000) = false ∧
    f ∉ s.cellar.lost :=
  ⟨rootM.modCellar fun c => { c with bad := [celCeilA + 0x2000] }, BitVec.ofNat 20 celCeilA, .step, by decide +kernel⟩

theorem wit_cellar_histFile : ∃ (s : State), s.held .mary = false ∧
    s.mary.me.state ≠ 1 :=
  ⟨R, by decide +kernel⟩

theorem wit_cellar_histFile_filed : ∃ (s : State) (n : Nat), s.held .mary = false ∧
    s.mary.me.state = 1 ∧
    s.histSec = some n :=
  ⟨(R.modMary fun m => { m with me := { m.me with state := 1 } }).modTime .mary fun t => { t with domA := { t.domA with st := .track } }, 0, by decide +kernel⟩

theorem wit_cellar_histFile_first : ∃ (s : State) (n : Nat), s.held .mary = false ∧
    s.mary.me.state = 1 ∧
    s.histSec = some n ∧
    s.cellar.histAt = none :=
  ⟨rootHt.modMary fun m => { m with me := { m.me with state := 1 } }, 0, by decide +kernel⟩

theorem wit_cellar_celErase : ∃ (s : State) (src : Src), s.takes .mary src 0xF0008 = true ∧
    s.celClosed = false ∧
    src ∈ s.cellar.eraseKey ∧
    s.cellsWith .mary (fun c => decide (c.ts ≠ .off)) = [] ∧
    (s.root .mary).binds = [] ∧
    s.reservationQueued = false :=
  ⟨R.modCellar fun c => { c with eraseKey := [.host 0] }, (.host 0), by decide +kernel⟩

theorem wit_cellar_celErase_refused : ∃ (s : State) (src : Src), s.takes .mary src 0xF0008 = true ∧
    s.celClosed = false ∧
    src ∈ s.cellar.eraseKey ∧
    (s.cellsWith .mary (fun c => decide (c.ts ≠ .off)) ≠ [] ∨ (s.root .mary).binds ≠ [] ∨ s.reservationQueued = true) :=
  ⟨(R.modCellar fun c => { c with eraseKey := [.host 0] }).modCell .mary 4 fun c => { c with ts := .word }, (.host 0), by decide +kernel⟩

theorem wit_cellar_celErase_without_key : ∃ (s : State) (src : Src), s.takes .mary src 0xF0008 = true ∧
    src ∉ s.cellar.eraseKey :=
  ⟨R, (.host 0), by decide +kernel⟩

theorem wit_cellar_celEraseDone : ∃ (s : State), s.held .mary = false ∧
    s.cellar.busy = true ∧
    s.cellar.supply = true :=
  ⟨R.modCellar fun c => { c with busy := true }, by decide +kernel⟩

end Sys2Proof.Tests
end

section
/-! TCRC as a remainder (R53). The shift register of `crc8Step` and the long division of `polyRem` are run side by side: with `n` message
bits to come, the dividend is those bits above eight zeros, plus the register shifted to the bits that come next. -/

namespace Sys2Proof.Machine

/-- The register shifted up by one, with the incoming bit added at x^8, leaves `crc8Step` after at most one subtraction of the polynomial. -/
theorem crc8Step_toNat : ∀ (c : Byte) (b : Bool),
    (crc8Step c b).toNat = (c.toNat <<< 1 ^^^ b.toNat <<< 8) ^^^ (if c.msb != b then 0x12F else 0) := by
  decide +kernel

/-- The bit that the division looks at is the difference of the register's top bit and the incoming one. -/
theorem testBit_eight_shifted_register (c : Byte) (b : Bool) : (c.toNat <<< 1 ^^^ b.toNat <<< 8).testBit 8 = (c.msb != b) := by
  rw [Nat.testBit_xor, Nat.testBit_shiftLeft, Nat.testBit_shiftLeft, Nat.testBit_bool_toNat]
  simp [BitVec.msb_eq_getLsbD_last, BitVec.getLsbD]

/-- The low `n + 1` bits are the low `n` bits and, apart from them, bit `n`. -/
theorem mod_two_pow_succ_eq_xor (m n : Nat) : m % 2 ^ (n + 1) = m % 2 ^ n ^^^ (m.testBit n).toNat <<< n := by
  refine Nat.eq_of_testBit_eq fun i => ?_
  simp only [Nat.testBit_xor, Nat.testBit_mod_two_pow, Nat.testBit_shiftLeft, Nat.testBit_bool_toNat]
  obtain hlt | rfl | hgt := Nat.lt_trichotomy i n
  · simp [hlt, Nat.lt_succ_of_lt hlt, Nat.not_le.2 hlt]
  · simp
  · simp [Nat.not_lt.2 hgt.le, Nat.not_lt.2 (Nat.succ_le_of_lt hgt), Nat.sub_ne_zero_of_lt hgt]

/-- One division step on `n + 1` message bits followed by eight zeros, with the register `c` added at the top: the next bit goes into the
register. -/
theorem polyRem_succ_register (m n : Nat) (c : Byte) :
    polyRem (n + 1) ((m % 2 ^ (n + 1)) <<< 8 ^^^ c.toNat <<< (n + 1)) =
      polyRem n ((m % 2 ^ n) <<< 8 ^^^ (crc8Step c (m.testBit n)).toNat <<< n) := by
  generalize hb : m.testBit n = b
  have hsplit : (m % 2 ^ (n + 1)) <<< 8 ^^^ c.toNat <<< (n + 1) =
      (m % 2 ^ n) <<< 8 ^^^ (c.toNat <<< 1 ^^^ b.toNat <<< 8) <<< n := by
    rw [mod_two_pow_succ_eq_xor, hb]
    simp only [Nat.shiftLeft_xor_distrib, ← Nat.shiftLeft_add, Nat.add_comm n]
    ac_rfl
  have htop : ((m % 2 ^ n) <<< 8 ^^^ (c.toNat <<< 1 ^^^ b.toNat <<< 8) <<< n).testBit (n + 8) = (c.msb != b) := by
    rw [← testBit_eight_shifted_register, Nat.testBit_xor, Nat.testBit_shiftLeft, Nat.testBit_shiftLeft, Nat.testBit_mod_two_pow]
    simp
  rw [hsplit, polyRem, htop, crc8Step_toNat]
  cases c.msb != b <;> simp [Nat.shiftLeft_xor_distrib, Nat.xor_assoc]

/-- Bit `k` of a token from the top is bit `55 - k` of its bits [63:8]. -/
theorem getMsbD_eq_testBit_div (t : W64) {k n : Nat} (h : k + n = 55) : t.getMsbD k = (t.toNat / 256).testBit n := by
  have h256 : 256 = 2 ^ 8 := rfl
  rw [h256, Nat.testBit_div_two_pow, BitVec.testBit_toNat, BitVec.getMsbD]
  have : 64 - 1 - k = n + 8 := by omega
  simp [this]; omega

/-- The register after the token's bits from `k` on is the remainder of those bits with the register's present value added at the top. -/
theorem foldl_crc8Step_toNat (t : W64) (n k : Nat) (h : k + n = 56) (c : Byte) :
    ((List.range' k n).foldl (fun c i => crc8Step c (t.getMsbD i)) c).toNat =
      polyRem n ((t.toNat / 256 % 2 ^ n) <<< 8 ^^^ c.toNat <<< n) := by
  induction n generalizing k c with
  | zero => simp [polyRem, Nat.mod_one]
  | succ n ih =>
    rw [List.range'_succ, List.foldl_cons, ih (k + 1) (by omega), getMsbD_eq_testBit_div t (n := n) (by omega), polyRem_succ_register]

/-- TCRC is the remainder of bits [63:8] followed by eight zeros, the first eight bits inverted (R53). -/
theorem crc8_toNat (t : W64) : (crc8 t).toNat = polyRem 56 ((t.toNat / 256 * 256) ^^^ (0xFF <<< 56)) := by
  have hlt : t.toNat / 256 < 2 ^ 56 := by omega
  rw [crc8, List.range_eq_range', foldl_crc8Step_toNat t 56 0 rfl, Nat.mod_eq_of_lt hlt, Nat.shiftLeft_eq]
  rfl

/-- The NULL token carries its own TCRC: the check value of R53. -/
theorem tokGood_nullTok : tokGood nullTok = true := by decide +kernel

/-- Settles O12: each step of the shift register is one step of the long division; the NULL token is evaluated. -/
theorem tcrcIsPolynomialRemainder : Obligations.TcrcIsPolynomialRemainder :=
  ⟨crc8_toNat, rfl, tokGood_nullTok⟩

end Sys2Proof.Machine
end

section
/-! PRK_SCRUB (R163, R164). Every scrub reads the word the pointer names; a corrected error adds its count to that and nothing else. -/

namespace Sys2Proof.Machine

/-- At a leaf that is not held the scrub is performed. -/
theorem exec_prkScrub_of_not_held (r : ScrubResult) (s : State) (h : s.held .leaf = false) :
    exec (.prkScrub r) s = .next (opPrkScrub r s) :=
  congrArg Host.Outcome.next (s.live_of .leaf (opPrkScrub r) h)

/-- RC advanced past a mark leaves the counters. -/
@[simp] theorem State.advAfter_count (s : State) (k j : NodeSel) (mark : W64) (n o : Nat) :
    (s.advAfter k mark n).count j o = s.count j o :=
  s.advTo_count k j _ o

/-- The correcting scrub is the clean one with PRK_CE counted after it. -/
theorem opPrkScrub_corrected (s : State) : opPrkScrub .corrected s = (opPrkScrub .clean s).bump .leaf 0xA11C := rfl

/-- The clean scrub leaves every counter. -/
theorem opPrkScrub_clean_count (s : State) (j : NodeSel) (o : Nat) : (opPrkScrub .clean s).count j o = s.count j o := by
  simp only [opPrkScrub, State.modPrick_count, State.advAfter_count]

/-- The clean scrub moves the pointer and the mark of its read; the entries stay. -/
theorem opPrkScrub_clean_entries (s : State) : (opPrkScrub .clean s).leaf.prick.entries = s.leaf.prick.entries := by
  simp only [opPrkScrub, State.modPrick_leaf, State.advAfter_leaf]

/-- Settles O13: the correcting scrub is the clean scrub and one count of PRK_CE, and the clean scrub leaves the counters and the entries. -/
theorem scrubCorrectsInPlace : Obligations.ScrubCorrectsInPlace := by
  intro s hlive
  refine ⟨opPrkScrub .clean s, exec_prkScrub_of_not_held .clean s hlive, ?corrected, ?counted, opPrkScrub_clean_entries s⟩
  case corrected => rw [exec_prkScrub_of_not_held .corrected s hlive, opPrkScrub_corrected]
  case counted => rw [State.bump_count_same, opPrkScrub_clean_count]

end Sys2Proof.Machine
end

section
/-! SUM_S64 (R174). A carried value of such a lane is a flag and a sum modulo 2^63. Clamping makes an input into such a pair, combining adds
the sums and joins the flags, and neither depends on order or grouping; the bound on the number of inputs is needed only to read the exact
sum back. -/

namespace Sys2Proof.Machine

/-- The carried value of a SUM_S64 lane: the clamp flag in bit 63 and the sum in bits [62:0], as Table 8.3 lays them out. -/
def sumS64Carried (flag : Bool) (sum : Int) : BitVec 240 := (BitVec.ofBool flag ++ BitVec.ofInt 63 sum).zeroExtend 240

/-- The low 64 bits of the carried value are the flag and the sum. -/
theorem sumS64Carried_word (f : Bool) (x : Int) : (sumS64Carried f x).extractLsb' 0 64 = (BitVec.ofBool f ++ BitVec.ofInt 63 x : W64) := by
  rw [sumS64Carried, ← BitVec.setWidth_eq_extractLsb' (by decide), BitVec.setWidth_setWidth_of_le _ (by decide), BitVec.setWidth_eq]

/-- A flag put before `w` bits stands for 2^w. -/
theorem toNat_ofBool_append {w : Nat} (f : Bool) (b : BitVec w) : (BitVec.ofBool f ++ b).toNat = f.toNat * 2 ^ w + b.toNat := by
  rw [BitVec.toNat_append, ← Nat.shiftLeft_add_eq_or_of_lt b.isLt, Nat.shiftLeft_eq, BitVec.toNat_ofBool]

/-- The top bit of a flag put before a word is the flag. -/
theorem msb_ofBool_append {w : Nat} (f : Bool) (b : BitVec w) : (BitVec.ofBool f ++ b).msb = f := by
  rw [BitVec.msb_append, if_neg one_ne_zero, BitVec.msb_ofBool]

/-- The number that Table 8.3 puts together from flag and sum is that word. -/
theorem ofNat_flag_add_sum (n : Nat) (f : Bool) (x : Int) :
    BitVec.ofNat n ((if f then 2 ^ 63 else 0) + (BitVec.ofInt 63 x).toNat) = (BitVec.ofBool f ++ BitVec.ofInt 63 x).setWidth n := by
  have hflag : (if f then 2 ^ 63 else 0) = f.toNat * 2 ^ 63 := by cases f <;> rfl
  rw [hflag, ← toNat_ofBool_append, BitVec.ofNat_toNat]

/-- `signedOf` reads the number of a word as the word's signed value. -/
theorem signedOf_toNat {w : Nat} (h : 0 < w) (v : BitVec w) : signedOf w v.toNat = v.toInt := by
  have hhalf : 2 ^ w = 2 * 2 ^ (w - 1) := by rw [← pow_succ', Nat.sub_add_cancel h]
  rw [signedOf, BitVec.toInt_eq_toNat_cond, Nat.mod_eq_of_lt v.isLt]
  exact if_congr (by omega) rfl rfl

/-- The clamp of Table 8.3, from below and then from above, is `s64Clamp`. -/
theorem s64Clamp_eq_ite (v : W64) :
    (if v.toInt < -(2 ^ 38) then -(2 ^ 38) else if v.toInt > 2 ^ 38 - 1 then 2 ^ 38 - 1 else v.toInt) = s64Clamp v := by
  unfold s64Clamp
  split_ifs <;> omega

/-- A SUM_S64 input enters as its clamped value, flagged when the clamp changed it (R174). -/
theorem laneInput_sumS64 {d : W32} (hop : laneOp d = 1) (v : W64) :
    laneInput d v = sumS64Carried (decide (s64Clamp v ≠ v.toInt)) (s64Clamp v) := by
  have hflag : (if s64Clamp v = v.toInt then 0 else 2 ^ 63) = if decide (s64Clamp v ≠ v.toInt) then 2 ^ 63 else 0 := by
    simp only [decide_eq_true_eq, ite_not]
  simp only [laneInput, hop, signedOf_toNat (w := 64) (by decide), s64Clamp_eq_ite]
  rw [hflag]
  exact ofNat_flag_add_sum 240 _ (s64Clamp v)

/-- Combining two SUM_S64 values adds the sums modulo 2^63 and joins the flags (Table 8.3). -/
theorem laneCombine_sumS64 {d : W32} (hop : laneOp d = 1) (f g : Bool) (x y : Int) :
    laneCombine d (sumS64Carried f x) (sumS64Carried g y) = sumS64Carried (f || g) (x + y) := by
  have hmod (h : Bool) (z : Int) : (BitVec.ofBool h ++ BitVec.ofInt 63 z).toNat % 2 ^ 63 = (BitVec.ofInt 63 z).toNat := by
    rw [toNat_ofBool_append, Nat.mul_add_mod_of_lt (BitVec.ofInt 63 z).isLt]
  simp only [laneCombine, hop, sumS64Carried_word, msb_ofBool_append, hmod, ← BitVec.toNat_add, ← BitVec.ofInt_add,
    ofNat_flag_add_sum, BitVec.setWidth_eq]
  rfl

/-- A lane's result is the carried sum and flag, while the sum fits 63 bits. -/
theorem laneResult_sumS64 {d : W32} (hop : laneOp d = 1) (f : Bool) {x : Int} (hlo : -(2 ^ 62) ≤ x) (hhi : x ≤ 2 ^ 62 - 1) :
    laneResult d (sumS64Carried f x) = (BitVec.ofInt 64 x, f) := by
  have hfits : (BitVec.ofInt 63 x).toInt = x := BitVec.toInt_ofInt_eq_self (by decide) hlo (by omega)
  simp only [laneResult, hop, sumS64Carried_word, msb_ofBool_append, BitVec.extractLsb'_append_eq_right, BitVec.signExtend, hfits]

/-- A tree carries the sum of its clamped inputs, flagged when one of them was clamped. -/
theorem laneTreeValue_sumS64 {d : W32} (hop : laneOp d = 1) (t : LaneTree) :
    laneTreeValue d t =
      sumS64Carried ((laneTreeInputs t).any fun v => decide (s64Clamp v ≠ v.toInt)) ((laneTreeInputs t).map s64Clamp).sum := by
  induction t with
  | input v => simp [laneTreeValue, laneTreeInputs, laneInput_sumS64 hop]
  | join a b iha ihb =>
    simp only [laneTreeValue, laneTreeInputs, iha, ihb, laneCombine_sumS64 hop, List.any_append, List.map_append, List.sum_append]

/-- A clamped input lies within -2^38 .. 2^38 - 1. -/
theorem s64Clamp_bounds (v : W64) : -(2 ^ 38) ≤ s64Clamp v ∧ s64Clamp v ≤ 2 ^ 38 - 1 := by
  unfold s64Clamp; omega

/-- The sum of `n` clamped inputs lies within -n 2^38 .. n (2^38 - 1). -/
theorem sum_s64Clamp_bounds (vs : List W64) :
    -(2 ^ 38) * (vs.length : Int) ≤ (vs.map s64Clamp).sum ∧ (vs.map s64Clamp).sum ≤ (2 ^ 38 - 1) * vs.length := by
  induction vs with
  | nil => simp
  | cons v vs ih =>
    have hv := s64Clamp_bounds v
    simp only [List.map_cons, List.sum_cons, List.length_cons]
    omega

/-- At most 2^24 clamped inputs sum to a 63-bit signed number (R174). -/
theorem sum_s64Clamp_fits (vs : List W64) (h : vs.length ≤ 2 ^ 24) :
    -(2 ^ 62) ≤ (vs.map s64Clamp).sum ∧ (vs.map s64Clamp).sum ≤ 2 ^ 62 - 1 := by
  have := sum_s64Clamp_bounds vs
  omega

/-- Settles O11: every tree carries the clamped sum and the joined flags, which a permutation of the inputs keeps and 2^24 inputs keep in range. -/
theorem sumS64AnyOrder : Obligations.SumS64AnyOrder := by
  intro d hop
  refine ⟨fun v => ?input, fun t hlen => ?tree, fun t u hperm _ => ?order⟩
  case input =>
    obtain ⟨hlo, hhi⟩ := s64Clamp_bounds v
    rw [laneInput_sumS64 hop, laneResult_sumS64 hop _ (by omega) (by omega)]
  case tree =>
    obtain ⟨hlo, hhi⟩ := sum_s64Clamp_fits _ hlen
    exact ⟨hlo, hhi, by rw [laneTreeValue_sumS64 hop, laneResult_sumS64 hop _ hlo hhi]⟩
  case order => rw [laneTreeValue_sumS64 hop, laneTreeValue_sumS64 hop, hperm.any_eq, (hperm.map s64Clamp).sum_eq]

end Sys2Proof.Machine
end

section
/-! The parts of the state, and what every operation of the model does not touch: its lemma names the parts that the operation may change, and says
that it keeps every other part. One lemma an operation, in the order of the model's files. -/

namespace Sys2Proof.Machine

/-- The parts of the state that operations leave alone or change: the queue, the hold of the two reset pins, the leaf's own parts and four of
them, the Maryel's own parts, the cellar and its medium, a node, and of both nodes the clocks, cells, configuration, bitstream ports, written
registers, roots, every cell's silences and fault bits, and the fault
registers of the leaf and of the Maryel. -/
inductive Part
  | queue | hold | leaf | binding | regions | slots | prick | mary | cellar | medium | node
    (j : NodeSel) | time | cells | cfg | bs | regs | root | faults
  | leafErr | maryErr
  deriving DecidableEq

/-- What a part holds. -/
abbrev Part.Val : Part → Type
  | .queue => List Instr
  | .hold => Bool × Bool
  | .leaf => LeafOnly
  | .binding => Option Binding
  | .regions => Vector Region 16
  | .slots => Vector Slot 32
  | .prick => Prick
  | .mary => MaryOnly
  | .cellar => Cellar
  | .medium => List Host.Cell
  | .node .leaf => Node 6
  | .node .mary => Node 100
  | .time => TimeCore × TimeCore
  | .cells => Vector Cell 6 × Vector Cell 100
  | .cfg => NodeCfg × NodeCfg
  | .bs => BsPort × BsPort
  | .regs => Sparse W32 × Sparse W32
  | .root => Root × Root
  | .faults => NodeSel → Nat → BitVec 5 × BitVec 3
  | .leafErr => BitVec 9 × Bool
  | .maryErr => Vector Group 20 × Vector Quad 4 × BitVec 6 × Bool

/-- A part of a state. -/
def State.part (s : State) : (pt : Part) → pt.Val
  | .queue => s.pending
  | .hold => (s.held .leaf, s.held .mary)
  | .leaf => s.leaf
  | .binding => s.leaf.binding
  | .regions => s.leaf.regions
  | .slots => s.leaf.slots
  | .prick => s.leaf.prick
  | .mary => s.mary
  | .cellar => s.cellar
  | .medium => s.cellar.mem
  | .node .leaf => s.leafN
  | .node .mary => s.maryN
  | .time => (s.leafN.time, s.maryN.time)
  | .cells => (s.leafN.cells, s.maryN.cells)
  | .cfg => (s.leafN.cfg, s.maryN.cfg)
  | .bs => (s.leafN.bs, s.maryN.bs)
  | .regs => (s.leafN.regs, s.maryN.regs)
  | .root => (s.leafN.root, s.maryN.root)
  | .faults => fun j i => ((s.cell j i).mute, (s.cell j i).err)
  | .leafErr => (s.leaf.err, s.leaf.fatal)
  | .maryErr => (s.mary.groups, s.mary.quads, s.mary.chipErr, s.mary.silent)

section
variable (pt : Part)

/-- A branch keeps a part that both sides keep. -/
@[simp] theorem State.ite_part (c : Prop) [Decidable c] (s t : State) : (if c then s else t).part pt = if c then s.part pt else t.part pt :=
  apply_ite (fun u : State => u.part pt) c s t

@[simp] theorem State.modNode_part (s : State) (k : NodeSel) (f : {n : Nat} → Node n → Node n) (hn : pt ≠ .node k)
    (hh : pt = .hold → ∀ {n : Nat} (N : Node n), (f N).inReset = N.inReset) (ht : pt = .time → ∀ {n : Nat} (N : Node n), (f N).time = N.time)
    (hcl : pt = .cells ∨ pt = .faults → ∀ {n : Nat} (N : Node n), (f N).cells = N.cells) (hcf : pt = .cfg → ∀ {n : Nat} (N : Node n),
    (f N).cfg = N.cfg)
    (hbs : pt = .bs → ∀ {n : Nat} (N : Node n), (f N).bs = N.bs) (hr : pt = .regs → ∀ {n : Nat} (N : Node n), (f N).regs = N.regs)
    (hrt : pt = .root → ∀ {n : Nat} (N : Node n), (f N).root = N.root) : (s.modNode k f).part pt = s.part pt := by
  cases pt with
  | node j => cases j <;> cases k <;> simp_all [State.part]
  | _ => cases k <;> simp_all [State.part, State.held, State.onNode, State.modNode, State.cell]

/-- An update of a node that keeps each of its parts, branch by branch. -/
theorem State.modNode_part_same (s : State) (k : NodeSel) (f : {n : Nat} → Node n → Node n) (hn : pt ≠ .node k)
    (hf : ∀ {n : Nat} (N : Node n), (f N).inReset = N.inReset ∧ (f N).time = N.time ∧ (f N).cells = N.cells ∧ (f N).cfg = N.cfg ∧
      (f N).bs = N.bs ∧ (f N).regs = N.regs ∧ (f N).root = N.root) : (s.modNode k f).part pt = s.part pt := by
  simp [hn, hf]

@[simp] theorem State.modLeaf_part (s : State) (f : LeafOnly → LeafOnly) (hl : pt ≠ .leaf) (hb : pt = .binding → ∀ l, (f l).binding = l.binding)
    (hrg : pt = .regions → ∀ l, (f l).regions = l.regions) (hsl : pt = .slots → ∀ l, (f l).slots = l.slots)
    (hpk : pt = .prick → ∀ l, (f l).prick = l.prick) (hle : pt = .leafErr → ∀ l, (f l).err = l.err ∧ (f l).fatal = l.fatal) :
    (s.modLeaf f).part pt = s.part pt := by
  cases pt with
  | node j => cases j <;> rfl
  | faults => rfl
  | _ => simp_all [State.part, State.held, State.onNode]
/-- An update of the leaf's own parts that keeps the named ones, branch by branch. -/
theorem State.modLeaf_part_same (s : State) (f : LeafOnly → LeafOnly) (hl : pt ≠ .leaf)
    (hf : ∀ l, (f l).binding = l.binding ∧ (f l).regions = l.regions ∧ (f l).slots = l.slots ∧ (f l).prick = l.prick ∧
      (f l).err = l.err ∧ (f l).fatal = l.fatal) :
    (s.modLeaf f).part pt = s.part pt := by simp [hl, hf]
@[simp] theorem State.modCellar_part (s : State) (f : Cellar → Cellar) (hc : pt ≠ .cellar) (hm : pt = .medium → ∀ c, (f c).mem = c.mem) :
    (s.modCellar f).part pt = s.part pt := by
  cases pt with
  | node j => cases j <;> rfl
  | faults => rfl
  | _ => simp_all [State.part, State.held, State.onNode]
@[simp] theorem State.modMary_part (s : State) (f : MaryOnly → MaryOnly) (hy : pt ≠ .mary)
    (hme : pt = .maryErr → ∀ m, (f m).groups = m.groups ∧ (f m).quads = m.quads ∧ (f m).chipErr = m.chipErr ∧ (f m).silent = m.silent) :
    (s.modMary f).part pt = s.part pt := by
  cases pt with
  | node j => cases j <;> rfl
  | mary => exact absurd rfl hy
  | maryErr => simp [State.part, hme]
  | _ => rfl
/-- Every outcome of an optional operation keeps a part of `s`. -/
def State.SomePart (s : State) (o : Option State) : Prop := ∀ t, o = some t → t.part pt = s.part pt
@[simp] theorem State.somePart_none (s : State) : s.SomePart pt none := fun _ h => nomatch h
@[simp] theorem State.somePart_some (s t : State) : s.SomePart pt (some t) ↔ t.part pt = s.part pt :=
  ⟨fun h => h t rfl, fun h _ e => Option.some.inj e ▸ h⟩
@[simp] theorem State.somePart_ite (s : State) (c : Prop) [Decidable c] (o p : Option State) :
    s.SomePart pt (if c then o else p) ↔ (c → s.SomePart pt o) ∧ (¬c → s.SomePart pt p) := by split <;> simp [*]
theorem State.somePart_or {s : State} {o p : Option State} (ho : s.SomePart pt o) (hp : s.SomePart pt p) : s.SomePart pt (o.or p) := by
  cases o <;> assumption
/-- A slot that is filled keeps a part of `s`. -/
def State.SlotPart (s : State) (o : Option (State × W64)) : Prop := ∀ p, o = some p → p.1.part pt = s.part pt
@[simp] theorem State.slotPart_none (s : State) : s.SlotPart pt none := fun _ h => nomatch h
@[simp] theorem State.slotPart_some (s t : State) (w : W64) : s.SlotPart pt (some (t, w)) ↔ t.part pt = s.part pt :=
  ⟨fun h => h (t, w) rfl, fun h _ e => Option.some.inj e ▸ h⟩
@[simp] theorem State.slotPart_map {α : Type} {s : State} (o : Option α) (f : α → State × W64) (h : ∀ a, (f a).1.part pt = s.part pt) :
    s.SlotPart pt (o.map f) := fun p e => by
  obtain ⟨a, -, rfl⟩ := Option.map_eq_some_iff.1 e
  exact h a
/-- A loop keeps what each of its rounds keeps. -/
@[simp] theorem State.each_part {α : Type} (s : State) (l : List α) (f : State → α → State) (h : ∀ s a, (f s a).part pt = s.part pt) :
    (s.each l f).part pt = s.part pt := s.each_same (fun u => u.part pt) l f h
/-! `Ops` -/
@[simp] theorem State.modTime_part (s : State) (k : NodeSel) (f : TimeCore → TimeCore) (hn : pt ≠ .node k) (ht : pt ≠ .time) :
    (s.modTime k f).part pt = s.part pt := by
  simp [State.modTime, hn, ht]
@[simp] theorem State.modBs_part (s : State) (k : NodeSel) (f : BsPort → BsPort) (hn : pt ≠ .node k) (hbs : pt ≠ .bs) :
    (s.modBs k f).part pt = s.part pt := by simp [State.modBs, hn, hbs]
@[simp] theorem State.modRoot_part (s : State) (k : NodeSel) (f : Root → Root) (hn : pt ≠ .node k) (hrt : pt ≠ .root) :
    (s.modRoot k f).part pt = s.part pt := by simp [State.modRoot, hn, hrt]
@[simp] theorem State.modCell_part (s : State) (k : NodeSel) (i : Nat) (f : Cell → Cell) (hn : pt ≠ .node k) (hcl : pt ≠ .cells)
    (hft : pt = .faults → ∀ c, (f c).mute = c.mute ∧ (f c).err = c.err) : (s.modCell k i f).part pt = s.part pt := by
  by_cases hp : pt = .faults
  · subst hp
    funext j l
    show (((s.modCell k i f).cell j l).mute, ((s.modCell k i f).cell j l).err) = ((s.cell j l).mute, (s.cell j l).err)
    have hv : ∀ {n : Nat} (v : Vector Cell n), (vget (vmod v i f) l .reset).mute = (vget v l .reset).mute ∧
        (vget (vmod v i f) l .reset).err = (vget v l .reset).err := fun {n} v => by
      by_cases h : i = l
      · subst h
        by_cases hi : i < n
        · rw [vget_vmod_same v i f _ hi]; exact hft rfl _
        · simp [vget, vmod, hi]
      · rw [vget_vmod_other v i l f _ h]; exact ⟨rfl, rfl⟩
    cases k <;> cases j
    case leaf.leaf | mary.mary => exact Prod.ext (hv _).1 (hv _).2
    all_goals rfl
  · simp [State.modCell, hn, hcl, hp]
@[simp] theorem State.modDly_part (s : State) (k : NodeSel) (i : Nat) (f : Delay → Delay) (hn : pt ≠ .node k) (hcl : pt ≠ .cells) :
    (s.modDly k i f).part pt = s.part pt := by
  simp [State.modDly, hn, hcl]
@[simp] theorem State.modRetry_part (s : State) (k : NodeSel) (i : Nat) (f : Retry → Retry) (hn : pt ≠ .node k) (hcl : pt ≠ .cells) :
    (s.modRetry k i f).part pt = s.part pt := by
  simp [State.modRetry, hn, hcl]
@[simp] theorem State.modPrick_part (s : State) (f : Prick → Prick) (hl : pt ≠ .leaf) (hpk : pt ≠ .prick) : (s.modPrick f).part pt = s.part pt := by
  simp [State.modPrick, hl, hpk]
@[simp] theorem State.modRegion_part (s : State) (i : Nat) (f : Region → Region) (hl : pt ≠ .leaf) (hrg : pt ≠ .regions) :
    (s.modRegion i f).part pt = s.part pt := by simp [State.modRegion, hl, hrg]
@[simp] theorem State.modSlot_part (s : State) (i : Nat) (f : Slot → Slot) (hl : pt ≠ .leaf) (hsl : pt ≠ .slots) :
    (s.modSlot i f).part pt = s.part pt := by simp [State.modSlot, hl, hsl]
@[simp] theorem State.modSel_part (s : State) (f : Selector → Selector) (hy : pt ≠ .mary) : (s.modSel f).part pt = s.part pt := by
  simp [State.modSel, hy]
@[simp] theorem State.bump_part (s : State) (k : NodeSel) (off : Nat) (hn : pt ≠ .node k) : (s.bump k off).part pt = s.part pt := by
  simp [State.bump, hn]
@[simp] theorem State.bumpBy_part (s : State) (k : NodeSel) (off n : Nat) (hn : pt ≠ .node k) : (s.bumpBy k off n).part pt = s.part pt := by
  simp [State.bumpBy, hn]
@[simp] theorem State.bumpIf_part (s : State) (c : Bool) (k : NodeSel) (off : Nat) (hn : pt ≠ .node k) : (s.bumpIf c k off).part pt = s.part pt :=
  by simp [State.bumpIf, hn]
@[simp] theorem State.refuse_part (s : State) (k : NodeSel) (off : Nat) (hn : pt ≠ .node k) : (s.refuse k off).part pt = s.part pt := by
  simp [State.refuse, hn]
@[simp] theorem State.raiseIrq_part (s : State) (k : NodeSel) (bit : Nat) (hn : pt ≠ .node k) : (s.raiseIrq k bit).part pt = s.part pt := by
  simp [State.raiseIrq, hn]
@[simp] theorem State.raiseTime_part (s : State) (k : NodeSel) (bit : Nat) (hn : pt ≠ .node k) (ht : pt ≠ .time) :
    (s.raiseTime k bit).part pt = s.part pt := by simp [State.raiseTime, hn, ht]
@[simp] theorem State.modDom_part (s : State) (k : NodeSel) (d : Dom) (f : DomCore → DomCore) (hn : pt ≠ .node k) (ht : pt ≠ .time) :
    (s.modDom k d f).part pt = s.part pt := by
  simp [State.modDom, hn, ht]
@[simp] theorem State.advTo_part (s : State) (k : NodeSel) (rc : W64) (hn : pt ≠ .node k) (ht : pt ≠ .time) : (s.advTo k rc).part pt = s.part pt :=
  by simp [State.advTo, hn, ht]
@[simp] theorem State.advAfter_part (s : State) (k : NodeSel) (mark : W64) (n : Nat) (hn : pt ≠ .node k) (ht : pt ≠ .time) :
    (s.advAfter k mark n).part pt = s.part pt := by
  simp [State.advAfter, hn, ht]
@[simp] theorem State.advHt_part (s : State) (k : NodeSel) (t : Tu) (hn : pt ≠ .node k) (ht : pt ≠ .time) : (s.advHt k t).part pt = s.part pt := by
  simp [State.advHt, hn, ht]
@[simp] theorem State.takeFree_part (s : State) : (s.takeFree).2.part pt = s.part pt := by cases pt <;> rfl
@[simp] theorem State.live_part (s : State) (k : NodeSel) (f : State → State) (hf : ∀ s, (f s).part pt = s.part pt) :
    (s.live k f).part pt = s.part pt := by
  simp [State.live, *]
@[simp] theorem State.timed_part (s : State) (k : NodeSel) (f : State → State) (hf : ∀ s, (f s).part pt = s.part pt) :
    (s.timed k f).part pt = s.part pt := by
  simp [State.timed, *]
@[simp] theorem State.liveT_part (s : State) (k : NodeSel) (f : State → State) (hf : ∀ s, (f s).part pt = s.part pt) :
    (s.liveT k f).part pt = s.part pt := by
  simp [State.liveT, *]

/-! `Operands` -/
@[simp] theorem State.setReg_part (s : State) (k : NodeSel) (off : Nat) (v : W32) (hn : pt ≠ .node k) (hr : pt ≠ .regs) :
    (s.setReg k off v).part pt = s.part pt := by simp [State.setReg, hn, hr]
@[simp] theorem State.setReg64_part (s : State) (k : NodeSel) (off : Nat) (v : W64) (hn : pt ≠ .node k) (hr : pt ≠ .regs) :
    (s.setReg64 k off v).part pt = s.part pt := by
  simp [State.setReg64, hn, hr]
@[simp] theorem State.commitPicot_part (s : State) (k : NodeSel) (d : Dom) (hn : pt ≠ .node k) : (s.commitPicot k d).part pt = s.part pt := by
  unfold State.commitPicot; split <;> simp [hn]
@[simp] theorem State.commitSecond_part (s : State) (k : NodeSel) (hn : pt ≠ .node k) : (s.commitSecond k).part pt = s.part pt := by
  simp [State.commitSecond, hn]
@[simp] theorem State.commitAnnounce_part (s : State) (k : Nat) (hnm : pt ≠ .node .mary) : (s.commitAnnounce k).part pt = s.part pt :=
  s.modNode_part_same pt .mary _ hnm (fun N => by split <;> simp)
/-! `PrickBase` -/
@[simp] theorem State.recordMiss_part (s : State) (m : MissRec) (hl : pt ≠ .leaf) (hpk : pt ≠ .prick) (hnl : pt ≠ .node .leaf) :
    (s.recordMiss m).part pt = s.part pt := by simp [State.recordMiss, hl, hpk, hnl]
@[simp] theorem State.missEntry_part (s : State) (cause : BitVec 2) (e : Entry) (hl : pt ≠ .leaf) (hpk : pt ≠ .prick) (hnl : pt ≠ .node .leaf) :
    (s.missEntry cause e).part pt = s.part pt := by
  simp [State.missEntry, hl, hpk, hnl]
@[simp] theorem State.dropEntries_part (s : State) (p : Entry → Bool) (hl : pt ≠ .leaf) (hpk : pt ≠ .prick) :
    (s.dropEntries p).part pt = s.part pt := by simp [State.dropEntries, hl, hpk]
@[simp] theorem State.dropConv_part (s : State) (k : NodeSel) (hn : pt ≠ .node k) (ht : pt ≠ .time) : (s.dropConv k).part pt = s.part pt := by
  simp [State.dropConv, hn, ht]
@[simp] theorem State.readStep_part (s : State) (hl : pt ≠ .leaf) (hpk : pt ≠ .prick) (hnl : pt ≠ .node .leaf) (ht : pt ≠ .time) :
    (s.readStep).part pt = s.part pt := by simp [State.readStep, hl, hpk, hnl, ht]
@[simp] theorem State.withdraw_part (s : State) (i : BitVec 256) (hl : pt ≠ .leaf) (hpk : pt ≠ .prick) (hnl : pt ≠ .node .leaf) :
    (s.withdraw i).part pt = s.part pt := by simp [State.withdraw, hl, hpk, hnl]

/-! `Access` -/
@[simp] theorem State.hostStat_part (s : State) (src : Src) (bit : Nat) (hy : pt ≠ .mary) : (s.hostStat src bit).part pt = s.part pt := by
  unfold State.hostStat; split <;> simp [hy]
@[simp] theorem State.cancelKey_part (s : State) (src : Src) (hy : pt ≠ .mary) : (s.cancelKey src).part pt = s.part pt := by
  simp [State.cancelKey,
    hy]
@[simp] theorem State.clearRefused_part (s : State) (k : NodeSel) (hn : pt ≠ .node k) : (s.clearRefused k).part pt = s.part pt := by
  simp [State.clearRefused, hn]
@[simp] theorem State.markRefused_part (s : State) (k : NodeSel) (hn : pt ≠ .node k) : (s.markRefused k).part pt = s.part pt := by
  simp [State.markRefused, hn]
@[simp] theorem State.noteRefused_part (s : State) (k : NodeSel) (src : Src) (hy : pt ≠ .mary) : (s.noteRefused k src).part pt = s.part pt := by
  simp [State.noteRefused, hy]
@[simp] theorem State.engineAccess_part (s : State) (off : Nat) (f : State → State) (hf : ∀ s, (f s).part pt = s.part pt) (hnm : pt ≠ .node .mary) :
    (s.engineAccess off f).part pt = s.part pt := by
  simp [State.engineAccess, *]
@[simp] theorem State.access_part (s : State) (k : NodeSel) (src : Src) (off : Nat) (f : State → State) (hf : ∀ s, (f s).part pt = s.part pt)
    (hy : pt ≠ .mary) (hn : pt ≠ .node k) (hnl : pt ≠ .node .leaf) (hnm : pt ≠ .node .mary) :
    (s.access k src off f).part pt = s.part pt := by
  unfold State.access; dsimp only; (repeat' split) <;> simp [*]
@[simp] theorem State.convRefresh_part (s : State) (k : NodeSel) (hn : pt ≠ .node k) (ht : pt ≠ .time) : (s.convRefresh k).part pt = s.part pt := by
  unfold State.convRefresh; split <;> simp [hn, ht]
@[simp] theorem State.liveC_part (s : State) (k : NodeSel) (f : State → State) (hf : ∀ s, (f s).part pt = s.part pt) (hn : pt ≠ .node k)
    (ht : pt ≠ .time) :
    (s.liveC k f).part pt = s.part pt := by
  simp [State.liveC, *]
@[simp] theorem State.accessC_part (s : State) (k : NodeSel) (src : Src) (off : Nat) (f : State → State) (hf : ∀ s, (f s).part pt = s.part pt)
    (hy : pt ≠ .mary) (hn : pt ≠ .node k) (hnl : pt ≠ .node .leaf) (hnm : pt ≠ .node .mary) (ht : pt ≠ .time) :
    (s.accessC k src off f).part pt = s.part pt := by
  simp [State.accessC, *]

/-! `Time` -/
@[simp] theorem State.reacquire_part (s : State) (k : NodeSel) (d : Dom) (hn : pt ≠ .node k) (ht : pt ≠ .time) :
    (s.reacquire k d).part pt = s.part pt := by simp [State.reacquire, hn, ht]
@[simp] theorem State.rack_part (s : State) (k : NodeSel) (y : Dom) (hn : pt ≠ .node k) (ht : pt ≠ .time) : (s.rack k y).part pt = s.part pt := by
  simp [State.rack, hn, ht]
@[simp] theorem State.loseDomain_part (s : State) (k : NodeSel) (d : Dom) (hn : pt ≠ .node k) (ht : pt ≠ .time) :
    (s.loseDomain k d).part pt = s.part pt := by simp [State.loseDomain, hn, ht]
@[simp] theorem State.enterTrack_part (s : State) (k : NodeSel) (d : Dom) (hn : pt ≠ .node k) (ht : pt ≠ .time) :
    (s.enterTrack k d).part pt = s.part pt := by simp [State.enterTrack, hn, ht]
@[simp] theorem State.domGained_part (s : State) (k : NodeSel) (d : Dom) (hn : pt ≠ .node k) (ht : pt ≠ .time) :
    (s.domGained k d).part pt = s.part pt := by simp [State.domGained, hn, ht]
@[simp] theorem State.domLostAlign_part (s : State) (k : NodeSel) (d : Dom) (hn : pt ≠ .node k) (ht : pt ≠ .time) :
    (s.domLostAlign k d).part pt = s.part pt := by simp [State.domLostAlign, hn, ht]
@[simp] theorem State.loopUpdate_part (s : State) (k : NodeSel) (d : Dom) (e : Int) (hn : pt ≠ .node k) (ht : pt ≠ .time) :
    (s.loopUpdate k d e).part pt = s.part pt := by
  simp [State.loopUpdate, hn, ht]
@[simp] theorem State.measured_part (s : State) (k : NodeSel) (d : Dom) (e : Int) (hn : pt ≠ .node k) (ht : pt ≠ .time) :
    (s.measured k d e).part pt = s.part pt := by
  unfold State.measured; dsimp only; split <;> simp [hn, ht]
@[simp] theorem State.acquireStep_part (s : State) (k : NodeSel) (d : Dom) (edge : W64) (off : Tu) (hl : pt ≠ .leaf) (hpk : pt ≠ .prick)
    (hn : pt ≠ .node k) (hnl : pt ≠ .node .leaf) (ht : pt ≠ .time) :
    (s.acquireStep k d edge off).part pt = s.part pt := by
  simp [State.acquireStep, hl, hpk, hn, hnl, ht]
@[simp] theorem State.seedDomain_part (s : State) (k : NodeSel) (d : Dom) (edge : W64) (off : Tu) (hn : pt ≠ .node k) (ht : pt ≠ .time) :
    (s.seedDomain k d edge off).part pt = s.part pt := by
  simp [State.seedDomain, hn, ht]
@[simp] theorem State.takeSnap_part (s : State) (k : NodeSel) (hn : pt ≠ .node k) (ht : pt ≠ .time) : (s.takeSnap k).part pt = s.part pt := by
  simp [State.takeSnap, hn, ht]
@[simp] theorem State.snapPicot_part (s : State) (k : NodeSel) (hn : pt ≠ .node k) (ht : pt ≠ .time) : (s.snapPicot k).part pt = s.part pt := by
  simp [State.snapPicot, hn, ht]
@[simp] theorem State.portsPicot_part (s : State) (hl : pt ≠ .leaf) (hrg : pt ≠ .regions) : (s.portsPicot).part pt = s.part pt := by
  simp [State.portsPicot, hl, hrg]
@[simp] theorem State.readPicot_part (s : State) (k : NodeSel) (hl : pt ≠ .leaf) (hrg : pt ≠ .regions) (hn : pt ≠ .node k) (ht : pt ≠ .time) :
    (s.readPicot k).part pt = s.part pt := by unfold State.readPicot; split <;> simp [hl, hrg, hn, ht]
@[simp] theorem opSnapGo_part (k : NodeSel) (s : State) (hn : pt ≠ .node k) (ht : pt ≠ .time) : (opSnapGo k s).part pt = s.part pt := by
  simp [opSnapGo, hn, ht]
@[simp] theorem opReanchor_part (k : NodeSel) (s : State) (hn : pt ≠ .node k) (ht : pt ≠ .time) : (opReanchor k s).part pt = s.part pt := by
  simp [opReanchor, hn, ht]
@[simp] theorem State.domStart_part (s : State) (k : NodeSel) (d : Dom) (hn : pt ≠ .node k) (ht : pt ≠ .time) :
    (s.domStart k d).part pt = s.part pt := by simp [State.domStart, hn, ht]
@[simp] theorem State.setDomEn_part (s : State) (k : NodeSel) (d : Dom) (b : Bool) (hn : pt ≠ .node k) (hr : pt ≠ .regs) :
    (s.setDomEn k d b).part pt = s.part pt := by
  simp [State.setDomEn, hn, hr]
@[simp] theorem opDomEn1_part (k : NodeSel) (d : Dom) (b : Bool) (s : State) (hn : pt ≠ .node k) (ht : pt ≠ .time) (hr : pt ≠ .regs) :
    (opDomEn1 k d b s).part pt = s.part pt := by simp [opDomEn1, hn, ht, hr]
@[simp] theorem opDomEn_part (k : NodeSel) (v : BitVec 2) (s : State) (hn : pt ≠ .node k) (ht : pt ≠ .time) (hr : pt ≠ .regs) :
    (opDomEn k v s).part pt = s.part pt := by unfold opDomEn; split <;> simp [hn, ht, hr]
@[simp] theorem opRackCmd_part (d : Dom) (s : State) (hnl : pt ≠ .node .leaf) (ht : pt ≠ .time) : (opRackCmd d s).part pt = s.part pt := by
  simp [opRackCmd, hnl, ht]
@[simp] theorem State.rackDueNow_part (s : State) (hnl : pt ≠ .node .leaf) (ht : pt ≠ .time) : (s.rackDueNow).part pt = s.part pt := by
  unfold State.rackDueNow; split <;> simp [hnl, ht]
@[simp] theorem opUnplannedRack_part (s : State) (hnl : pt ≠ .node .leaf) (ht : pt ≠ .time) : (opUnplannedRack s).part pt = s.part pt := by
  simp [opUnplannedRack, hnl, ht]
@[simp] theorem opFoldComplete_part (s : State) (hnl : pt ≠ .node .leaf) (ht : pt ≠ .time) : (opFoldComplete s).part pt = s.part pt := by
  unfold opFoldComplete; split <;> simp [hnl, ht]
@[simp] theorem opDomReacq_part (k : NodeSel) (d : Dom) (s : State) (hn : pt ≠ .node k) (ht : pt ≠ .time) :
    (opDomReacq k d s).part pt = s.part pt := by simp [opDomReacq, hn, ht]
@[simp] theorem opHtSet_part (v : Ht96) (s : State) (hl : pt ≠ .leaf) (hpk : pt ≠ .prick) (hnl : pt ≠ .node .leaf) (ht : pt ≠ .time) :
    (opHtSet v s).part pt = s.part pt := by simp [opHtSet, hl, hpk, hnl, ht]
@[simp] theorem opIslandK_part (kk : BitVec 48) (s : State) (hnl : pt ≠ .node .leaf) (ht : pt ≠ .time) : (opIslandK kk s).part pt = s.part pt := by
  simp [opIslandK, hnl, ht]
@[simp] theorem opHoldLimit_part (k : NodeSel) (d : Dom) (s : State) (hn : pt ≠ .node k) (ht : pt ≠ .time) :
    (opHoldLimit k d s).part pt = s.part pt := by simp [opHoldLimit, hn, ht]

/-! `Route` -/
@[simp] theorem State.dropRoute_part (s : State) (k : NodeSel) (i : Nat) (hn : pt ≠ .node k) : (s.dropRoute k i).part pt = s.part pt := by
  simp [State.dropRoute, hn]
@[simp] theorem State.sendC0_part (s : State) (k : NodeSel) (i : Nat) (m : Tokens) (hn : pt ≠ .node k) (hcl : pt ≠ .cells) :
    (s.sendC0 k i m).part pt = s.part pt := by
  simp [State.sendC0, apply_ite Cell.mute, apply_ite Cell.err, hn, hcl]
@[simp] theorem State.sendC2_part (s : State) (k : NodeSel) (i : Nat) (m : Tokens) (hn : pt ≠ .node k) (hcl : pt ≠ .cells) :
    (s.sendC2 k i m).part pt = s.part pt := by simp [State.sendC2, hn, hcl]
@[simp] theorem State.sendC3_part (s : State) (k : NodeSel) (i : Nat) (m : Tokens) (hn : pt ≠ .node k) (hcl : pt ≠ .cells) :
    (s.sendC3 k i m).part pt = s.part pt := by simp [State.sendC3, hn, hcl]
@[simp] theorem State.sendOwnC3_part (s : State) (k : NodeSel) (d : Dom) (m : Tokens) (hn : pt ≠ .node k) :
    (s.sendOwnC3 k d m).part pt = s.part pt := by
  unfold State.sendOwnC3; split <;> simp [hn]
@[simp] theorem State.passUpC3_part (s : State) (k : NodeSel) (i : Nat) (m : Tokens) (hn : pt ≠ .node k) (hcl : pt ≠ .cells) (hft : pt ≠ .faults) :
    (s.passUpC3 k i m).part pt = s.part pt := by
  unfold State.passUpC3; split <;> simp [hn, hcl, hft]
@[simp] theorem State.sendC0All_part (s : State) (k : NodeSel) (ps : List Nat) (m : Tokens) (hn : pt ≠ .node k) (hcl : pt ≠ .cells) :
    (s.sendC0All k ps m).part pt = s.part pt := by
  simp [State.sendC0All, hn, hcl]
@[simp] theorem State.sendC2All_part (s : State) (k : NodeSel) (ps : List Nat) (m : Tokens) (hn : pt ≠ .node k) (hcl : pt ≠ .cells) :
    (s.sendC2All k ps m).part pt = s.part pt := by
  simp [State.sendC2All, hn, hcl]
@[simp] theorem State.forwardC2_part (s : State) (k : NodeSel) (c : Nat) (h : C2Head) (ports : List Nat) (m : Tokens) (hn : pt ≠ .node k)
    (hcl : pt ≠ .cells) :
    (s.forwardC2 k c h ports m).part pt = s.part pt := by
  simp [State.forwardC2, hn, hcl]
@[simp] theorem State.fileExc_part (s : State) (k : NodeSel) (r : ExcRec) (hn : pt ≠ .node k) (hnm : pt ≠ .node .mary) (hrt : pt ≠ .root) :
    (s.fileExc k r).part pt = s.part pt := by simp [State.fileExc, hn, hnm, hrt]
@[simp] theorem State.fileTel_part (s : State) (r : TeleRec) (hy : pt ≠ .mary) (hnm : pt ≠ .node .mary) : (s.fileTel r).part pt = s.part pt := by
  simp [State.fileTel, hy, hnm]
@[simp] theorem State.originTel_part (s : State) (k : NodeSel) (d : Dom) (r : TeleRec) (hy : pt ≠ .mary) (hn : pt ≠ .node k)
    (hnm : pt ≠ .node .mary) (hrt : pt ≠ .root) : (s.originTel k d r).part pt = s.part pt := by
  simp [State.originTel, hy, hn, hnm, hrt]
@[simp] theorem State.raiseAlarm_part (s : State) (k : NodeSel) (cls : Nat) (sd : Sd) (h : HoopId) (ns : Nat) (hy : pt ≠ .mary) (hn : pt ≠ .node k)
    (hrt : pt ≠ .root) :
    (s.raiseAlarm k cls sd h ns).part pt = s.part pt := by
  simp [State.raiseAlarm, hy, hn, hrt]
@[simp] theorem State.noteExcised_part (s : State) (k : NodeSel) (sd : Sd) (h : HoopId) (d : Dom) (p : Nat) (hn : pt ≠ .node k) :
    (s.noteExcised k sd h d p).part pt = s.part pt := by
  simp [State.noteExcised, hn]
@[simp] theorem State.exciseMary_part (s : State) (sd : Sd) (h : HoopId) (g : Gen) (d : Dom) (silent : List Nat) (cause outcome : Nat)
    (hy : pt ≠ .mary) (hnm : pt ≠ .node .mary) (hrt : pt ≠ .root) :
    (s.exciseMary sd h g d silent cause outcome).part pt = s.part pt := by
  simp [State.exciseMary, hy, hnm, hrt]
@[simp] theorem State.exciseLeaf_part (s : State) (sd : Sd) (h : HoopId) (g : Gen) (d : Dom) (got : List Nat) (regs : W16)
    (self : Bool) (cause outcome : Nat) (hy : pt ≠ .mary) (hnl : pt ≠ .node .leaf) (hnm : pt ≠ .node .mary) (hrt : pt ≠ .root) :
    (s.exciseLeaf sd h g d got regs self cause outcome).part pt = s.part pt := by
  simp [State.exciseLeaf, hy, hnl, hnm, hrt]

/-! `LeafTake` -/
@[simp] theorem State.bumpDiag_part (s : State) (k : NodeSel) (off : Nat) (hn : pt ≠ .node k) : (s.bumpDiag k off).part pt = s.part pt := by
  unfold State.bumpDiag; split <;> simp [hn]
@[simp] theorem State.markClosed_part (s : State) (k : NodeSel) (sd : Sd) (h : HoopId) (d : Dom) (hn : pt ≠ .node k) :
    (s.markClosed k sd h d).part pt = s.part pt :=
  s.modNode_part_same pt k _ hn (fun N => by split <;> simp)
@[simp] theorem State.endId_part (s : State) (k : NodeSel) (sd : Sd) (h : HoopId) (hn : pt ≠ .node k) : (s.endId k sd h).part pt = s.part pt := by
  unfold State.endId
  split
  · rfl
  · refine s.modNode_part_same pt k _ hn (fun N => ?_)
    (repeat' split) <;> exact ⟨rfl, rfl, rfl, rfl, rfl, rfl, rfl⟩
@[simp] theorem State.queueOut_part (s : State) (p : Nat) (o : PortOut) (hl : pt ≠ .leaf) (hrg : pt ≠ .regions) :
    (s.queueOut p o).part pt = s.part pt := by simp [State.queueOut, hl, hrg]
@[simp] theorem State.regionEdge_part (s : State) (p : Nat) (e : RpEdge) (hl : pt ≠ .leaf) (hrg : pt ≠ .regions) :
    (s.regionEdge p e).part pt = s.part pt := by simp [State.regionEdge, hl, hrg]
@[simp] theorem State.landFrom_part (s : State) (e : W64) (pos : Fin 16) (hnl : pt ≠ .node .leaf) (ht : pt ≠ .time) :
    (s.landFrom e pos).part pt = s.part pt := by simp [State.landFrom, hnl, ht]
@[simp] theorem State.endInstAt_part (s : State) (k : Nat) (hl : pt ≠ .leaf) (hpk : pt ≠ .prick) : (s.endInstAt k).part pt = s.part pt := by
  simp [State.endInstAt, hl, hpk]
@[simp] theorem State.haltEntries_part (s : State) (sd : Sd) (hl : pt ≠ .leaf) (hpk : pt ≠ .prick) (hnl : pt ≠ .node .leaf) :
    (s.haltEntries sd).part pt = s.part pt := by simp [State.haltEntries, hl, hpk, hnl]
@[simp] theorem State.freeSlot_part (s : State) (i : Nat) (hl : pt ≠ .leaf) (hsl : pt ≠ .slots) : (s.freeSlot i).part pt = s.part pt := by
  simp [State.freeSlot, hl, hsl]
@[simp] theorem State.freeIfDone_part (s : State) (i : Nat) (hl : pt ≠ .leaf) (hsl : pt ≠ .slots) : (s.freeIfDone i).part pt = s.part pt := by
  simp [State.freeIfDone, hl, hsl]
@[simp] theorem State.slotEffect_part (s : State) (i : Nat) (m : HoopDown) (hl : pt ≠ .leaf) (hrg : pt ≠ .regions) (hsl : pt ≠ .slots)
    (hpk : pt ≠ .prick) (hnl : pt ≠ .node .leaf) : (s.slotEffect i m).part pt = s.part pt := by simp [State.slotEffect, hl, hrg, hsl, hpk, hnl]
@[simp] theorem State.modInst_part (s : State) (k : Nat) (f : InstCtx → InstCtx) (hl : pt ≠ .leaf) : (s.modInst k f).part pt = s.part pt := by
  simp [State.modInst, hl]
@[simp] theorem State.copyDiff_part (s : State) (hl : pt ≠ .leaf) (hnl : pt ≠ .node .leaf) : (s.copyDiff).part pt = s.part pt := by
  simp [State.copyDiff, hl, hnl]
@[simp] theorem State.noteOut_part (s : State) (m : HoopDown) (held : Bool) (hl : pt ≠ .leaf) : (s.noteOut m held).part pt = s.part pt := by
  simp [State.noteOut, hl]
@[simp] theorem State.takeSlot_part (s : State) (i : Nat) (m : HoopDown) (hl : pt ≠ .leaf) (hrg : pt ≠ .regions) (hsl : pt ≠ .slots)
    (hpk : pt ≠ .prick) (hnl : pt ≠ .node .leaf) : (s.takeSlot i m).part pt = s.part pt := by simp [State.takeSlot, hl, hrg, hsl, hpk, hnl]
@[simp] theorem State.takeInst_part (s : State) (k : Nat) (m : HoopDown) (hl : pt ≠ .leaf) (hpk : pt ≠ .prick) (hnl : pt ≠ .node .leaf) :
    (s.takeInst k m).part pt = s.part pt := by simp [State.takeInst, hl, hpk, hnl]
@[simp] theorem State.takeHalt_part (s : State) (relLead : Nat) (m : HoopDown) (hl : pt ≠ .leaf) (hpk : pt ≠ .prick) (hnl : pt ≠ .node .leaf) :
    (s.takeHalt relLead m).part pt = s.part pt := by
  simp [State.takeHalt, hl, hpk, hnl]
@[simp] theorem State.takeDown_part (s : State) (m : HoopDown) (hl : pt ≠ .leaf) (hrg : pt ≠ .regions) (hsl : pt ≠ .slots) (hpk : pt ≠ .prick)
    (hnl : pt ≠ .node .leaf) : (s.takeDown m).part pt = s.part pt := by
  unfold State.takeDown
  (repeat' split) <;> simp [hl, hrg, hsl, hpk, hnl]
@[simp] theorem State.closeOnDown_part (s : State) (k : NodeSel) (d : Dom) (m : HoopDown) (hy : pt ≠ .mary) (hn : pt ≠ .node k)
    (hnm : pt ≠ .node .mary) (hr : pt ≠ .regs) (hrt : pt ≠ .root) : (s.closeOnDown k d m).part pt = s.part pt := by
  unfold State.closeOnDown; dsimp only; (repeat' split) <;> simp [hy, hn, hnm, hr, hrt]
@[simp] theorem State.sendDown_part (s : State) (k : NodeSel) (d : Dom) (m : HoopDown) (hn : pt ≠ .node k) (hcl : pt ≠ .cells) :
    (s.sendDown k d m).part pt = s.part pt := by
  simp [State.sendDown, hn, hcl]
@[simp] theorem State.relayDown_part (s : State) (k : NodeSel) (d : Dom) (m : HoopDown) (hy : pt ≠ .mary) (hn : pt ≠ .node k)
    (hnm : pt ≠ .node .mary) (hcl : pt ≠ .cells) (hr : pt ≠ .regs) (hrt : pt ≠ .root) : (s.relayDown k d m).part pt = s.part pt := by
  simp [State.relayDown, hy, hn, hnm, hcl, hr, hrt]

/-! `RootHoop` -/
@[simp] theorem State.rootC2_part (s : State) (k : NodeSel) (h : C2Head) (inst : Option HoopId) (m : Tokens) (hn : pt ≠ .node k)
    (hrt : pt ≠ .root) :
    (s.rootC2 k h inst m).part pt = s.part pt := by
  simp [State.rootC2, hn, hrt]
@[simp] theorem State.failBatch_part (s : State) (k : NodeSel) (b : BatchRec) (why : Nat) (hl : pt ≠ .leaf) (hpk : pt ≠ .prick) (hn : pt ≠ .node k)
    (hrt : pt ≠ .root) : (s.failBatch k b why).part pt = s.part pt := by
  unfold State.failBatch; dsimp only; (repeat' split) <;> simp [hl, hpk, hn, hrt]
@[simp] theorem State.endInstall_part (s : State) (k : NodeSel) (sd : Sd) (h : HoopId) (outcome : BitVec 3) (tot : Option (List (BitVec 240)))
    (hl : pt ≠ .leaf) (hpk : pt ≠ .prick) (hn : pt ≠ .node k) (hrt : pt ≠ .root) :
    (s.endInstall k sd h outcome tot).part pt = s.part pt := by
  unfold State.endInstall; dsimp only; (repeat' split) <;> simp [hl, hpk, hn, hrt]
@[simp] theorem State.rootDraw_part (s : State) (k : NodeSel) (m : HoopDown) (common : BitVec 288) (lanes : List W32) (openTick : Option Nat)
    (hn : pt ≠ .node k) (hrt : pt ≠ .root) :
    (s.rootDraw k m common lanes openTick).part pt = s.part pt := by
  simp [State.rootDraw, hn, hrt]
@[simp] theorem State.putRHoop_part (s : State) (k : NodeSel) (x : RHoop) (hn : pt ≠ .node k) (hrt : pt ≠ .root) :
    (s.putRHoop k x).part pt = s.part pt := by simp [State.putRHoop, hn, hrt]
@[simp] theorem State.decideDown_part (s : State) (k : NodeSel) (d : Dom) (m : HoopDown) (hy : pt ≠ .mary) (hn : pt ≠ .node k)
    (hnm : pt ≠ .node .mary) (hcl : pt ≠ .cells) (hr : pt ≠ .regs) (hrt : pt ≠ .root) : (s.decideDown k d m).part pt = s.part pt := by
  simp [State.decideDown, hy, hn, hnm, hcl, hr, hrt]
@[simp] theorem State.sendOutcome_part (s : State) (k : NodeSel) (m : HoopDown) (hl : pt ≠ .leaf) (hrg : pt ≠ .regions) (hsl : pt ≠ .slots)
    (hpk : pt ≠ .prick) (hy : pt ≠ .mary) (hn : pt ≠ .node k) (hnm : pt ≠ .node .mary) (hcl : pt ≠ .cells) (hr : pt ≠ .regs) (hrt : pt ≠ .root) :
    (s.sendOutcome k m).part pt = s.part pt := by
  unfold State.sendOutcome; dsimp only; (repeat' split) <;> simp [hl, hrg, hsl, hpk, hy, hn, hnm, hcl, hr, hrt]
@[simp] theorem State.finishHoop_part (s : State) (k : NodeSel) (r : RHoop) (outcome : BitVec 3) (cut : Option Nat) (tot : List (BitVec 240))
    (bare : Bool) (hl : pt ≠ .leaf) (hrg : pt ≠ .regions) (hsl : pt ≠ .slots) (hpk : pt ≠ .prick) (hy : pt ≠ .mary) (hn : pt ≠ .node k)
    (hnm : pt ≠ .node .mary) (hcl : pt ≠ .cells) (hr : pt ≠ .regs) (hrt : pt ≠ .root) :
    (s.finishHoop k r outcome cut tot bare).part pt = s.part pt := by
  simp [State.finishHoop, hl, hrg, hsl, hpk, hy, hn, hnm, hcl, hr, hrt]
@[simp] theorem State.compareTotals_part (s : State) (k : NodeSel) (r : RHoop) (m : HoopUp) (other : Bool) (hy : pt ≠ .mary) (hn : pt ≠ .node k)
    (hrt : pt ≠ .root) :
    (s.compareTotals k r m other).part pt = s.part pt := by
  unfold State.compareTotals; dsimp only; split <;> simp [hy, hn, hrt]
@[simp] theorem State.afterDecision_part (s : State) (k : NodeSel) (r : RHoop) (d : Decision) (other : Bool) (m : HoopUp) (hy : pt ≠ .mary)
    (hn : pt ≠ .node k) (hrt : pt ≠ .root) :
    (s.afterDecision k r d other m).part pt = s.part pt := by
  unfold State.afterDecision
  (repeat' split) <;> simp [hy, hn, hrt]
@[simp] theorem State.deciderTake_part (s : State) (k : NodeSel) (r : RHoop) (other : Bool) (m : HoopUp) (hl : pt ≠ .leaf) (hrg : pt ≠ .regions)
    (hsl : pt ≠ .slots) (hpk : pt ≠ .prick) (hy : pt ≠ .mary) (hn : pt ≠ .node k) (hnm : pt ≠ .node .mary) (hcl : pt ≠ .cells) (hr : pt ≠ .regs)
    (hrt : pt ≠ .root) :
    (s.deciderTake k r other m).part pt = s.part pt := by
  unfold State.deciderTake; split <;> simp [hl, hrg, hsl, hpk, hy, hn, hnm, hcl, hr, hrt]
@[simp] theorem State.decideNoRecipe_part (s : State) (k : NodeSel) (m : HoopUp) (hl : pt ≠ .leaf) (hrg : pt ≠ .regions) (hsl : pt ≠ .slots)
    (hpk : pt ≠ .prick) (hy : pt ≠ .mary) (hn : pt ≠ .node k) (hnm : pt ≠ .node .mary) (hcl : pt ≠ .cells) (hr : pt ≠ .regs) (hrt : pt ≠ .root) :
    (s.decideNoRecipe k m).part pt = s.part pt := by
  simp [State.decideNoRecipe, hl, hrg, hsl, hpk, hy, hn, hnm, hcl, hr, hrt]
@[simp] theorem State.sendCross_part (s : State) (ds : List W32) (m : HoopUp) (hnm : pt ≠ .node .mary) (hcl : pt ≠ .cells) :
    (s.sendCross ds m).part pt = s.part pt := by
  unfold State.sendCross; split <;> simp [hnm, hcl]
@[simp] theorem State.rootUp_part (s : State) (k : NodeSel) (other : Bool) (m : HoopUp) (hl : pt ≠ .leaf) (hrg : pt ≠ .regions) (hsl : pt ≠ .slots)
    (hpk : pt ≠ .prick) (hy : pt ≠ .mary) (hn : pt ≠ .node k) (hnm : pt ≠ .node .mary) (hcl : pt ≠ .cells) (hr : pt ≠ .regs) (hrt : pt ≠ .root) :
    (s.rootUp k other m).part pt = s.part pt := by
  unfold State.rootUp; dsimp only; (repeat' split) <;> simp [hl, hrg, hsl, hpk, hy, hn, hnm, hcl, hr, hrt]
@[simp] theorem State.processWin_part (s : State) (k : NodeSel) (r : RHoop) (w : Nat) (hl : pt ≠ .leaf) (hrg : pt ≠ .regions) (hsl : pt ≠ .slots)
    (hpk : pt ≠ .prick) (hy : pt ≠ .mary) (hn : pt ≠ .node k) (hnm : pt ≠ .node .mary) (hcl : pt ≠ .cells) (hr : pt ≠ .regs) (hrt : pt ≠ .root) :
    (s.processWin k r w).part pt = s.part pt := by
  simp [State.processWin, hl, hrg, hsl, hpk, hy, hn, hnm, hcl, hr, hrt]
@[simp] theorem opWindowProcess_part (k : NodeSel) (sd : Sd) (h : HoopId) (s : State) (hl : pt ≠ .leaf) (hrg : pt ≠ .regions) (hsl : pt ≠ .slots)
    (hpk : pt ≠ .prick) (hy : pt ≠ .mary) (hn : pt ≠ .node k) (hnm : pt ≠ .node .mary) (ht : pt ≠ .time) (hcl : pt ≠ .cells) (hr : pt ≠ .regs)
    (hrt : pt ≠ .root) : (opWindowProcess k sd h s).part pt = s.part pt := by
  unfold opWindowProcess; dsimp only; (repeat' split) <;> simp [hl, hrg, hsl, hpk, hy, hn, hnm, ht, hcl, hr, hrt]
@[simp] theorem State.winsToDeadline_part (s : State) (k : NodeSel) (sd : Sd) (h : HoopId) (n : Nat) (hl : pt ≠ .leaf) (hrg : pt ≠ .regions)
    (hsl : pt ≠ .slots) (hpk : pt ≠ .prick) (hy : pt ≠ .mary) (hn : pt ≠ .node k) (hnm : pt ≠ .node .mary) (ht : pt ≠ .time) (hcl : pt ≠ .cells)
    (hr : pt ≠ .regs) (hrt : pt ≠ .root) :
    (s.winsToDeadline k sd h n).part pt = s.part pt := by
  induction n generalizing s with
  | zero => rfl
  | succ n ih =>
    unfold State.winsToDeadline
    split
    · rfl
    · dsimp only; split <;> simp [ih, hl, hrg, hsl, hpk, hy, hn, hnm, ht, hcl, hr, hrt]
@[simp] theorem opHoopDeadline_part (k : NodeSel) (sd : Sd) (h : HoopId) (s : State) (hl : pt ≠ .leaf) (hrg : pt ≠ .regions) (hsl : pt ≠ .slots)
    (hpk : pt ≠ .prick) (hy : pt ≠ .mary) (hn : pt ≠ .node k) (hnm : pt ≠ .node .mary) (ht : pt ≠ .time) (hcl : pt ≠ .cells) (hr : pt ≠ .regs)
    (hrt : pt ≠ .root) : (opHoopDeadline k sd h s).part pt = s.part pt := by
  unfold opHoopDeadline; dsimp only; (repeat' split) <;> simp [hl, hrg, hsl, hpk, hy, hn, hnm, ht, hcl, hr, hrt]
@[simp] theorem opHoopAbort_part (k : NodeSel) (sd : Sd) (h : HoopId) (s : State) (hl : pt ≠ .leaf) (hrg : pt ≠ .regions) (hsl : pt ≠ .slots)
    (hpk : pt ≠ .prick) (hy : pt ≠ .mary) (hn : pt ≠ .node k) (hnm : pt ≠ .node .mary) (hcl : pt ≠ .cells) (hr : pt ≠ .regs) (hrt : pt ≠ .root) :
    (opHoopAbort k sd h s).part pt = s.part pt := by
  unfold opHoopAbort; dsimp only; (repeat' split) <;> simp [hl, hrg, hsl, hpk, hy, hn, hnm, hcl, hr, hrt]
@[simp] theorem State.otherRootDown_part (s : State) (k : NodeSel) (m : HoopDown) (hl : pt ≠ .leaf) (hpk : pt ≠ .prick) (hy : pt ≠ .mary)
    (hn : pt ≠ .node k) (hnm : pt ≠ .node .mary) (hcl : pt ≠ .cells) (hr : pt ≠ .regs) (hrt : pt ≠ .root) :
    (s.otherRootDown k m).part pt = s.part pt := by
  unfold State.otherRootDown; dsimp only; (repeat' split) <;> simp [hl, hpk, hy, hn, hnm, hcl, hr, hrt]
@[simp] theorem opHoopDecider_part (v : Bool) (s : State) (hl : pt ≠ .leaf) (hrg : pt ≠ .regions) (hsl : pt ≠ .slots) (hpk : pt ≠ .prick)
    (hy : pt ≠ .mary) (hnm : pt ≠ .node .mary) (hcl : pt ≠ .cells) (hr : pt ≠ .regs) (hrt : pt ≠ .root) : (opHoopDecider v s).part pt = s.part pt :=
  by
  unfold opHoopDecider
  dsimp only
  split
  · rw [State.each_part]
    · simp [hnm, hr]
    · intro s r; (repeat' split) <;> simp [hnm, hcl]
  · split
    · rw [State.each_part]
      · simp [hnm, hr]
      · intro s r; (repeat' split) <;> simp [hl, hrg, hsl, hpk, hy, hnm, hcl, hr, hrt]
    · simp [hnm, hr]
@[simp] theorem State.crossLeft_part (s : State) (hnm : pt ≠ .node .mary) (hrt : pt ≠ .root) : (s.crossLeft).part pt = s.part pt := by
  unfold State.crossLeft
  split
  · exact State.each_part pt _ _ _ (fun s sd => by simp [hnm, hrt])
  · simp [hnm, hrt]
/-! `Combine` -/
@[simp] theorem State.emitUp_part (s : State) (k : NodeSel) (d : Dom) (ds : List W32) (m : HoopUp) (hl : pt ≠ .leaf) (hrg : pt ≠ .regions)
    (hsl : pt ≠ .slots) (hpk : pt ≠ .prick) (hy : pt ≠ .mary) (hn : pt ≠ .node k) (hnm : pt ≠ .node .mary) (hcl : pt ≠ .cells) (hr : pt ≠ .regs)
    (hrt : pt ≠ .root) : (s.emitUp k d ds m).part pt = s.part pt := by
  unfold State.emitUp
  (repeat' split) <;> simp [apply_ite Cell.mute, apply_ite Cell.err, hl, hrg, hsl, hpk, hy, hn, hnm, hcl, hr, hrt]
@[simp] theorem State.putCtx_part (s : State) (k : NodeSel) (c : Ctx) (hn : pt ≠ .node k) : (s.putCtx k c).part pt = s.part pt := by
  simp [State.putCtx, hn]
@[simp] theorem State.closeCtx_part (s : State) (k : NodeSel) (sd : Sd) (h : HoopId) (d : Dom) (hn : pt ≠ .node k) :
    (s.closeCtx k sd h d).part pt = s.part pt := by
  simp [State.closeCtx, hn]
@[simp] theorem State.noteSent_part (s : State) (sd : Sd) (h : HoopId) (d : Dom) (hl : pt ≠ .leaf) (hsl : pt ≠ .slots) :
    (s.noteSent sd h d).part pt = s.part pt := by
  unfold State.noteSent
  (repeat' split) <;> simp [hl, hsl]
@[simp] theorem State.tryUp_part (s : State) (k : NodeSel) (d : Dom) (sd : Sd) (h : HoopId) (g : Gen) (c : Recipe) (hl : pt ≠ .leaf)
    (hrg : pt ≠ .regions) (hsl : pt ≠ .slots) (hpk : pt ≠ .prick) (hy : pt ≠ .mary) (hn : pt ≠ .node k) (hnm : pt ≠ .node .mary) (hcl : pt ≠ .cells)
    (hr : pt ≠ .regs) (hrt : pt ≠ .root) :
    (s.tryUp k d sd h g c).part pt = s.part pt := by
  unfold State.tryUp; dsimp only; (repeat' split) <;> simp [hl, hrg, hsl, hpk, hy, hn, hnm, hcl, hr, hrt]
@[simp] theorem State.staleReturn_part (s : State) (k : NodeSel) (cell : Nat) (m : HoopUp) (hn : pt ≠ .node k) (hcl : pt ≠ .cells) :
    (s.staleReturn k cell m).part pt = s.part pt := by
  simp [State.staleReturn, hn, hcl]
@[simp] theorem State.passIncomplete_part (s : State) (k : NodeSel) (d : Dom) (m : HoopUp) (win : Option (BitVec 24)) (hl : pt ≠ .leaf)
    (hrg : pt ≠ .regions) (hsl : pt ≠ .slots) (hpk : pt ≠ .prick) (hy : pt ≠ .mary) (hn : pt ≠ .node k) (hnm : pt ≠ .node .mary) (hcl : pt ≠ .cells)
    (hr : pt ≠ .regs) (hrt : pt ≠ .root) :
    (s.passIncomplete k d m win).part pt = s.part pt := by
  simp [State.passIncomplete, hl, hrg, hsl, hpk, hy, hn, hnm, hcl, hr, hrt]
@[simp] theorem State.passFull_part (s : State) (k : NodeSel) (d : Dom) (m : HoopUp) (hl : pt ≠ .leaf) (hrg : pt ≠ .regions) (hsl : pt ≠ .slots)
    (hpk : pt ≠ .prick) (hy : pt ≠ .mary) (hn : pt ≠ .node k) (hnm : pt ≠ .node .mary) (hcl : pt ≠ .cells) (hr : pt ≠ .regs) (hrt : pt ≠ .root) :
    (s.passFull k d m).part pt = s.part pt := by
  have h := s.modNode_part_same pt k (fun N => if (m.sd, m.hoopId, d) ∈ N.noCtx then N else { N with noCtx := N.noCtx ++ [(m.sd, m.hoopId, d)] })
    hn (fun N => by split <;> simp)
  unfold State.passFull
  split <;> simpa [hl, hrg, hsl, hpk, hy, hn, hnm, hcl, hr, hrt] using h
@[simp] theorem State.addPart_part (s : State) (k : NodeSel) (d : Dom) (m : HoopUp) (lanes : List W32) (hl : pt ≠ .leaf) (hsl : pt ≠ .slots) :
    (s.addPart k d m lanes).part pt = s.part pt := by
  unfold State.addPart; split <;> simp [hl, hsl]
@[simp] theorem State.combine_part (s : State) (k : NodeSel) (cell : Nat) (d : Dom) (m : HoopUp) (c : Recipe) (hl : pt ≠ .leaf)
    (hrg : pt ≠ .regions) (hsl : pt ≠ .slots) (hpk : pt ≠ .prick) (hy : pt ≠ .mary) (hn : pt ≠ .node k) (hnm : pt ≠ .node .mary) (hcl : pt ≠ .cells)
    (hr : pt ≠ .regs) (hrt : pt ≠ .root) :
    (s.combine k cell d m c).part pt = s.part pt := by
  unfold State.combine
  (repeat' split) <;> simp [hl, hrg, hsl, hpk, hy, hn, hnm, hcl, hr, hrt]
@[simp] theorem State.passWindow_part (s : State) (k : NodeSel) (cell : Nat) (d : Dom) (m : HoopUp) (c : Recipe) (hl : pt ≠ .leaf)
    (hrg : pt ≠ .regions) (hsl : pt ≠ .slots) (hpk : pt ≠ .prick) (hy : pt ≠ .mary) (hn : pt ≠ .node k) (hnm : pt ≠ .node .mary) (hcl : pt ≠ .cells)
    (hr : pt ≠ .regs) (hrt : pt ≠ .root) :
    (s.passWindow k cell d m c).part pt = s.part pt := by
  unfold State.passWindow; dsimp only; (repeat' split) <;> simp [hl, hrg, hsl, hpk, hy, hn, hnm, hcl, hr, hrt]
@[simp] theorem State.ctxLost_part (s : State) (k : NodeSel) (d : Dom) (sd : Sd) (h : HoopId) (g : Gen) (c : Recipe) (hl : pt ≠ .leaf)
    (hrg : pt ≠ .regions) (hsl : pt ≠ .slots) (hpk : pt ≠ .prick) (hy : pt ≠ .mary) (hn : pt ≠ .node k) (hnm : pt ≠ .node .mary) (hcl : pt ≠ .cells)
    (hr : pt ≠ .regs) (hrt : pt ≠ .root) :
    (s.ctxLost k d sd h g c).part pt = s.part pt := by
  simp [State.ctxLost, hl, hrg, hsl, hpk, hy, hn, hnm, hcl, hr, hrt]
@[simp] theorem State.ctxUe_part (s : State) (k : NodeSel) (d : Dom) (sd : Sd) (h : HoopId) (g : Gen) (c : Recipe) (hl : pt ≠ .leaf)
    (hrg : pt ≠ .regions) (hsl : pt ≠ .slots) (hpk : pt ≠ .prick) (hy : pt ≠ .mary) (hn : pt ≠ .node k) (hnm : pt ≠ .node .mary) (hcl : pt ≠ .cells)
    (hr : pt ≠ .regs) (hrt : pt ≠ .root) :
    (s.ctxUe k d sd h g c).part pt = s.part pt := by
  simp [State.ctxUe, hl, hrg, hsl, hpk, hy, hn, hnm, hcl, hr, hrt]
@[simp] theorem State.noteHead_part (s : State) (k : NodeSel) (m : HoopUp) (c : Recipe) (hn : pt ≠ .node k) (hrt : pt ≠ .root) :
    (s.noteHead k m c).part pt = s.part pt := by
  simp [State.noteHead, hn, hrt]
@[simp] theorem State.takeUp_part (s : State) (k : NodeSel) (cell : Nat) (d : Dom) (m : HoopUp) (ue : Bool) (c : Recipe) (hl : pt ≠ .leaf)
    (hrg : pt ≠ .regions) (hsl : pt ≠ .slots) (hpk : pt ≠ .prick) (hy : pt ≠ .mary) (hn : pt ≠ .node k) (hnm : pt ≠ .node .mary) (hcl : pt ≠ .cells)
    (hr : pt ≠ .regs) (hrt : pt ≠ .root) :
    (s.takeUp k cell d m ue c).part pt = s.part pt := by
  simp [State.takeUp, hl, hrg, hsl, hpk, hy, hn, hnm, hcl, hr, hrt]
@[simp] theorem State.passOver_part (s : State) (k : NodeSel) (d : Dom) (m : HoopUp) (hl : pt ≠ .leaf) (hrg : pt ≠ .regions) (hsl : pt ≠ .slots)
    (hpk : pt ≠ .prick) (hy : pt ≠ .mary) (hn : pt ≠ .node k) (hnm : pt ≠ .node .mary) (hcl : pt ≠ .cells) (hr : pt ≠ .regs) (hrt : pt ≠ .root) :
    (s.passOver k d m).part pt = s.part pt := by
  simp [State.passOver, hl, hrg, hsl, hpk, hy, hn, hnm, hcl, hr, hrt]
@[simp] theorem State.upFromBelow_part (s : State) (k : NodeSel) (cell : Nat) (m : HoopUp) (ue : Bool) (hl : pt ≠ .leaf) (hrg : pt ≠ .regions)
    (hsl : pt ≠ .slots) (hpk : pt ≠ .prick) (hy : pt ≠ .mary) (hn : pt ≠ .node k) (hnm : pt ≠ .node .mary) (hcl : pt ≠ .cells) (hr : pt ≠ .regs)
    (hrt : pt ≠ .root) :
    (s.upFromBelow k cell m ue).part pt = s.part pt := by
  unfold State.upFromBelow; dsimp only; (repeat' split) <;> simp [hl, hrg, hsl, hpk, hy, hn, hnm, hcl, hr, hrt]
@[simp] theorem opHoopUpRx_part (c : CellRef) (m : HoopUp) (ue : Bool) (s : State) (hl : pt ≠ .leaf) (hrg : pt ≠ .regions) (hsl : pt ≠ .slots)
    (hpk : pt ≠ .prick) (hy : pt ≠ .mary) (hn : pt ≠ .node c.node) (hnm : pt ≠ .node .mary) (hcl : pt ≠ .cells) (hr : pt ≠ .regs)
    (hrt : pt ≠ .root) : (opHoopUpRx c m ue s).part pt = s.part pt := by simp [opHoopUpRx, hl, hrg, hsl, hpk, hy, hn, hnm, hcl, hr, hrt]
@[simp] theorem opContextDeadline_part (k : NodeSel) (d : Dom) (sd : Sd) (h : HoopId) (s : State) (hl : pt ≠ .leaf) (hrg : pt ≠ .regions)
    (hsl : pt ≠ .slots) (hpk : pt ≠ .prick) (hy : pt ≠ .mary) (hn : pt ≠ .node k) (hnm : pt ≠ .node .mary) (ht : pt ≠ .time) (hcl : pt ≠ .cells)
    (hr : pt ≠ .regs) (hrt : pt ≠ .root) :
    (opContextDeadline k d sd h s).part pt = s.part pt := by
  unfold opContextDeadline; dsimp only; (repeat' split) <;> simp [hl, hrg, hsl, hpk, hy, hn, hnm, ht, hcl, hr, hrt]
@[simp] theorem State.portLost_part (s : State) (k : NodeSel) (cell : Nat) (hl : pt ≠ .leaf) (hrg : pt ≠ .regions) (hsl : pt ≠ .slots)
    (hpk : pt ≠ .prick) (hy : pt ≠ .mary) (hn : pt ≠ .node k) (hnm : pt ≠ .node .mary) (hcl : pt ≠ .cells) (hr : pt ≠ .regs) (hrt : pt ≠ .root) :
    (s.portLost k cell).part pt = s.part pt := by
  refine s.each_part pt _ _ (fun s x => ?_)
  (repeat' split) <;> simp [hl, hrg, hsl, hpk, hy, hn, hnm, hcl, hr, hrt]
@[simp] theorem opHoopDownRx_part (c : CellRef) (m : HoopDown) (s : State) (hl : pt ≠ .leaf) (hrg : pt ≠ .regions) (hsl : pt ≠ .slots)
    (hpk : pt ≠ .prick) (hy : pt ≠ .mary) (hn : pt ≠ .node c.node) (hnl : pt ≠ .node .leaf) (hnm : pt ≠ .node .mary) (hcl : pt ≠ .cells)
    (hr : pt ≠ .regs) (hrt : pt ≠ .root) : (opHoopDownRx c m s).part pt = s.part pt := by simp [opHoopDownRx, hl, hrg, hsl, hpk, hy, hn, hnl, hnm,
    hcl, hr, hrt]

/-! `LeafHoop` -/
@[simp] theorem State.leafMissed_part (s : State) (sd : Sd) (h : HoopId) (g : Gen) (hl : pt ≠ .leaf) (hrg : pt ≠ .regions) (hsl : pt ≠ .slots)
    (hpk : pt ≠ .prick) (hy : pt ≠ .mary) (hnl : pt ≠ .node .leaf) (hnm : pt ≠ .node .mary) (hcl : pt ≠ .cells) (hr : pt ≠ .regs)
    (hrt : pt ≠ .root) : (s.leafMissed sd h g).part pt = s.part pt := by
  refine s.each_part pt _ _ (fun s d => ?_)
  (repeat' split) <;> simp [hl, hrg, hsl, hpk, hy, hnl, hnm, hcl, hr, hrt]
@[simp] theorem State.markOwed_part (s : State) (hl : pt ≠ .leaf) (hrg : pt ≠ .regions) (hsl : pt ≠ .slots) (hpk : pt ≠ .prick) (hy : pt ≠ .mary)
    (hnl : pt ≠ .node .leaf) (hnm : pt ≠ .node .mary) (hcl : pt ≠ .cells) (hr : pt ≠ .regs) (hrt : pt ≠ .root) : (s.markOwed).part pt = s.part pt :=
  by
  unfold State.markOwed
  (repeat' split) <;> simp [hl, hrg, hsl, hpk, hy, hnl, hnm, hcl, hr, hrt]
@[simp] theorem State.sendMarks_part (s : State) (hl : pt ≠ .leaf) (hrg : pt ≠ .regions) (hsl : pt ≠ .slots) (hpk : pt ≠ .prick) (hy : pt ≠ .mary)
    (hnl : pt ≠ .node .leaf) (hnm : pt ≠ .node .mary) (hcl : pt ≠ .cells) (hr : pt ≠ .regs) (hrt : pt ≠ .root) :
    (s.sendMarks).part pt = s.part pt := by unfold State.sendMarks; split <;> simp [hl, hrg, hsl, hpk, hy, hnl, hnm, hcl, hr, hrt]
@[simp] theorem State.openOver_part (s : State) (sd : Sd) (h : HoopId) (g : Gen) (c : Recipe) (hl : pt ≠ .leaf) (hrg : pt ≠ .regions)
    (hsl : pt ≠ .slots) (hpk : pt ≠ .prick) (hy : pt ≠ .mary) (hnl : pt ≠ .node .leaf) (hnm : pt ≠ .node .mary) (hcl : pt ≠ .cells)
    (hr : pt ≠ .regs) (hrt : pt ≠ .root) : (s.openOver sd h g c).part pt = s.part pt := by
  simp [State.openOver, hl, hrg, hsl, hpk, hy, hnl, hnm, hcl, hr, hrt]
@[simp] theorem State.openHoopAt_part (s : State) (b : Binding) (h : HoopId) (ports : W16) (tick : Nat) (hl : pt ≠ .leaf) (hrg : pt ≠ .regions)
    (hsl : pt ≠ .slots) (hpk : pt ≠ .prick) (hy : pt ≠ .mary) (hnl : pt ≠ .node .leaf) (hnm : pt ≠ .node .mary) (hcl : pt ≠ .cells)
    (hr : pt ≠ .regs) (hrt : pt ≠ .root) :
    (s.openHoopAt b h ports tick).1.part pt = s.part pt := by
  unfold State.openHoopAt; dsimp only; (repeat' split) <;> simp [hl, hrg, hsl, hpk, hy, hnl, hnm, hcl, hr, hrt]
@[simp] theorem State.takeInput_part (s : State) (i p : Nat) (v : List W64) (hl : pt ≠ .leaf) (hrg : pt ≠ .regions) (hsl : pt ≠ .slots)
    (hpk : pt ≠ .prick) (hy : pt ≠ .mary) (hnl : pt ≠ .node .leaf) (hnm : pt ≠ .node .mary) (hcl : pt ≠ .cells) (hr : pt ≠ .regs)
    (hrt : pt ≠ .root) : (s.takeInput i p v).part pt = s.part pt := by simp [State.takeInput, hl, hrg, hsl, hpk, hy, hnl, hnm, hcl, hr, hrt]
@[simp] theorem State.slotUe_part (s : State) (i : Nat) (hl : pt ≠ .leaf) (hrg : pt ≠ .regions) (hsl : pt ≠ .slots) (hpk : pt ≠ .prick)
    (hy : pt ≠ .mary) (hnl : pt ≠ .node .leaf) (hnm : pt ≠ .node .mary) (hcl : pt ≠ .cells) (hr : pt ≠ .regs) (hrt : pt ≠ .root) :
    (s.slotUe i).part pt = s.part pt := by simp [State.slotUe, hl, hrg, hsl, hpk, hy, hnl, hnm, hcl, hr, hrt]
@[simp] theorem State.hcRefuse_part (s : State) (p : Nat) (code : BitVec 2) (hl : pt ≠ .leaf) (hrg : pt ≠ .regions) (hnl : pt ≠ .node .leaf) :
    (s.hcRefuse p code).part pt = s.part pt := by simp [State.hcRefuse, hl, hrg, hnl]
@[simp] theorem State.lateOut_part (s : State) (i p : Nat) (m : HoopDown) (hl : pt ≠ .leaf) (hrg : pt ≠ .regions) (hsl : pt ≠ .slots) :
    (s.lateOut i p m).part pt = s.part pt := by simp [State.lateOut, hl, hrg, hsl]
@[simp] theorem State.effectDue_part (s : State) (i : Nat) (hl : pt ≠ .leaf) (hrg : pt ≠ .regions) (hsl : pt ≠ .slots) (hpk : pt ≠ .prick)
    (hnl : pt ≠ .node .leaf) : (s.effectDue i).part pt = s.part pt := by
  unfold State.effectDue; dsimp only; split <;> simp [hl, hrg, hsl, hpk, hnl]
@[simp] theorem State.haltsDue_part (s : State) (hl : pt ≠ .leaf) (hpk : pt ≠ .prick) (hnl : pt ≠ .node .leaf) : (s.haltsDue).part pt = s.part pt :=
  by simp [State.haltsDue, hl, hpk, hnl]
@[simp] theorem State.outcomesDue_part (s : State) (hl : pt ≠ .leaf) (hrg : pt ≠ .regions) (hsl : pt ≠ .slots) (hpk : pt ≠ .prick)
    (hnl : pt ≠ .node .leaf) : (s.outcomesDue).part pt = s.part pt := by simp [State.outcomesDue, hl, hrg, hsl, hpk, hnl]
@[simp] theorem State.takeLanes_part (s : State) (p slot : Nat) (ls : List HcLane) (gap ue : Bool) (hl : pt ≠ .leaf) (hrg : pt ≠ .regions)
    (hsl : pt ≠ .slots) (hpk : pt ≠ .prick) (hy : pt ≠ .mary) (hnl : pt ≠ .node .leaf) (hnm : pt ≠ .node .mary) (hcl : pt ≠ .cells)
    (hr : pt ≠ .regs) (hrt : pt ≠ .root) :
    (s.takeLanes p slot ls gap ue).part pt = s.part pt := by
  unfold State.takeLanes; dsimp only; (repeat' split) <;> simp [hl, hrg, hsl, hpk, hy, hnl, hnm, hcl, hr, hrt]
@[simp] theorem opRegionContribution_part (p : Nat) (e : RpEdge) (slot : Nat) (lane : BitVec 4) (data : W64) (last ue : Bool) (s : State)
    (hl : pt ≠ .leaf) (hrg : pt ≠ .regions) (hsl : pt ≠ .slots) (hpk : pt ≠ .prick) (hy : pt ≠ .mary) (hnl : pt ≠ .node .leaf)
    (hnm : pt ≠ .node .mary) (hcl : pt ≠ .cells) (hr : pt ≠ .regs) (hrt : pt ≠ .root) :
    (opRegionContribution p e slot lane data last ue s).part pt = s.part pt := by
  simp [opRegionContribution, hl, hrg, hsl, hpk, hy, hnl, hnm, hcl, hr, hrt]
@[simp] theorem State.hostRefuse_part (s : State) (code : BitVec 3) (hl : pt ≠ .leaf) (hnl : pt ≠ .node .leaf) :
    (s.hostRefuse code).part pt = s.part pt := by simp [State.hostRefuse, hl, hnl]
@[simp] theorem opHcCommit_part (s : State) (hl : pt ≠ .leaf) (hrg : pt ≠ .regions) (hsl : pt ≠ .slots) (hpk : pt ≠ .prick) (hy : pt ≠ .mary)
    (hnl : pt ≠ .node .leaf) (hnm : pt ≠ .node .mary) (hcl : pt ≠ .cells) (hr : pt ≠ .regs) (hrt : pt ≠ .root) :
    (opHcCommit s).part pt = s.part pt := by simp [opHcCommit, hl, hrg, hsl, hpk, hy, hnl, hnm, hcl, hr, hrt]
@[simp] theorem State.sendWin_part (s : State) (q : WinLeft) (hl : pt ≠ .leaf) (hrg : pt ≠ .regions) (hsl : pt ≠ .slots) (hpk : pt ≠ .prick)
    (hy : pt ≠ .mary) (hnl : pt ≠ .node .leaf) (hnm : pt ≠ .node .mary) (ht : pt ≠ .time) (hcl : pt ≠ .cells) (hr : pt ≠ .regs) (hrt : pt ≠ .root) :
    (s.sendWin q).part pt = s.part pt := by simp [State.sendWin, hl, hrg, hsl, hpk, hy, hnl, hnm, ht, hcl, hr, hrt]
@[simp] theorem opWindowSend_part (i : Nat) (s : State) (hl : pt ≠ .leaf) (hrg : pt ≠ .regions) (hsl : pt ≠ .slots) (hpk : pt ≠ .prick)
    (hy : pt ≠ .mary) (hnl : pt ≠ .node .leaf) (hnm : pt ≠ .node .mary) (ht : pt ≠ .time) (hcl : pt ≠ .cells) (hr : pt ≠ .regs) (hrt : pt ≠ .root) :
    (opWindowSend i s).part pt = s.part pt := by
  unfold opWindowSend
  (repeat' split) <;> simp [hl, hrg, hsl, hpk, hy, hnl, hnm, ht, hcl, hr, hrt]
@[simp] theorem opTakeEffect_part (r : SlotRef) (s : State) (hl : pt ≠ .leaf) (hrg : pt ≠ .regions) (hsl : pt ≠ .slots) (hpk : pt ≠ .prick)
    (hnl : pt ≠ .node .leaf) (ht : pt ≠ .time) : (opTakeEffect r s).part pt = s.part pt := by
  unfold opTakeEffect; dsimp only; (repeat' split) <;> simp [hl, hrg, hsl, hpk, hnl, ht]
@[simp] theorem opSlotHold_part (i : Nat) (s : State) (hl : pt ≠ .leaf) (hsl : pt ≠ .slots) (hnl : pt ≠ .node .leaf) (ht : pt ≠ .time) :
    (opSlotHold i s).part pt = s.part pt := by simp [opSlotHold, hl, hsl, hnl, ht]
@[simp] theorem opOutcomeLimit_part (i : Nat) (s : State) (hl : pt ≠ .leaf) (hrg : pt ≠ .regions) (hsl : pt ≠ .slots) (hpk : pt ≠ .prick)
    (hnl : pt ≠ .node .leaf) (ht : pt ≠ .time) : (opOutcomeLimit i s).part pt = s.part pt := by simp [opOutcomeLimit, hl, hrg, hsl, hpk, hnl, ht]
@[simp] theorem opInstExpiry_part (k : Nat) (s : State) (hl : pt ≠ .leaf) (hpk : pt ≠ .prick) (hnl : pt ≠ .node .leaf) (ht : pt ≠ .time) :
    (opInstExpiry k s).part pt = s.part pt := by simp [opInstExpiry, hl, hpk, hnl, ht]
@[simp] theorem State.c2Mine_part (s : State) (h : C2Head) (hnl : pt ≠ .node .leaf) : (s.c2Mine h).1.part pt = s.part pt := by
  unfold State.c2Mine
  (repeat' split) <;> simp [hnl]
@[simp] theorem State.passC2_part (s : State) (k : NodeSel) (cell : Nat) (h : C2Head) (m : Tokens) (hn : pt ≠ .node k) (hcl : pt ≠ .cells) :
    (s.passC2 k cell h m).part pt = s.part pt := by
  simp [State.passC2, hn, hcl]
@[simp] theorem State.keepRecipe_part (s : State) (k : NodeSel) (r : Recipe) (hl : pt ≠ .leaf) (hn : pt ≠ .node k) :
    (s.keepRecipe k r).part pt = s.part pt := by
  unfold State.keepRecipe; split <;> simp [hl, hn]
@[simp] theorem State.openInstall_part (s : State) (r : Recipe) (hl : pt ≠ .leaf) (hrg : pt ≠ .regions) (hsl : pt ≠ .slots) (hpk : pt ≠ .prick)
    (hy : pt ≠ .mary) (hnl : pt ≠ .node .leaf) (hnm : pt ≠ .node .mary) (hcl : pt ≠ .cells) (hr : pt ≠ .regs) (hrt : pt ≠ .root) :
    (s.openInstall r).part pt = s.part pt := by unfold State.openInstall; split <;> simp [hl, hrg, hsl, hpk, hy, hnl, hnm, hcl, hr, hrt]
@[simp] theorem State.takeRecipe_part (s : State) (k : NodeSel) (d : Dom) (m : RecipeMsg) (hl : pt ≠ .leaf) (hrg : pt ≠ .regions)
    (hsl : pt ≠ .slots) (hpk : pt ≠ .prick) (hy : pt ≠ .mary) (hn : pt ≠ .node k) (hnm : pt ≠ .node .mary) (hcl : pt ≠ .cells) (hr : pt ≠ .regs)
    (hrt : pt ≠ .root) : (s.takeRecipe k d m).part pt = s.part pt := by
  unfold State.takeRecipe; split <;> simp [hl, hrg, hsl, hpk, hy, hn, hnm, hcl, hr, hrt]
@[simp] theorem opHoopRecipeRx_part (c : CellRef) (m : RecipeMsg) (s : State) (hl : pt ≠ .leaf) (hrg : pt ≠ .regions) (hsl : pt ≠ .slots)
    (hpk : pt ≠ .prick) (hy : pt ≠ .mary) (hn : pt ≠ .node c.node) (hnm : pt ≠ .node .mary) (hcl : pt ≠ .cells) (hr : pt ≠ .regs)
    (hrt : pt ≠ .root) : (opHoopRecipeRx c m s).part pt = s.part pt := by simp [opHoopRecipeRx, hl, hrg, hsl, hpk, hy, hn, hnm, hcl, hr, hrt]
@[simp] theorem opHtSetMarks_part (v : Ht96) (s : State) (hl : pt ≠ .leaf) (hrg : pt ≠ .regions) (hsl : pt ≠ .slots) (hpk : pt ≠ .prick)
    (hy : pt ≠ .mary) (hnl : pt ≠ .node .leaf) (hnm : pt ≠ .node .mary) (ht : pt ≠ .time) (hcl : pt ≠ .cells) (hr : pt ≠ .regs) (hrt : pt ≠ .root) :
    (opHtSetMarks v s).part pt = s.part pt := by simp [opHtSetMarks, hl, hrg, hsl, hpk, hy, hnl, hnm, ht, hcl, hr, hrt]

/-! `Seed` -/
@[simp] theorem State.modSeed_part (s : State) (f : SeedSt → SeedSt) (hl : pt ≠ .leaf) : (s.modSeed f).part pt = s.part pt := by
  simp [State.modSeed, hl]
@[simp] theorem State.takeKey_part (s : State) (key : BitVec 128) (hl : pt ≠ .leaf) : (s.takeKey key).part pt = s.part pt := by
  simp [State.takeKey,
    hl]
@[simp] theorem State.clearKey_part (s : State) (hl : pt ≠ .leaf) : (s.clearKey).part pt = s.part pt := by simp [State.clearKey, hl]
@[simp] theorem opKeyRx_part (c : CellRef) (m : KeyMsg) (s : State) (hl : pt ≠ .leaf) (hn : pt ≠ .node c.node) (hnl : pt ≠ .node .leaf)
    (hcl : pt ≠ .cells) : (opKeyRx c m s).part pt = s.part pt := by
  unfold opKeyRx; dsimp only; (repeat' split) <;> simp [hl, hn, hnl, hcl]
@[simp] theorem opStitchGo_part (s : State) (hl : pt ≠ .leaf) : (opStitchGo s).part pt = s.part pt := by
  unfold opStitchGo; dsimp only; split <;> simp [hl]
@[simp] theorem opStitchDone_part (s : State) (hl : pt ≠ .leaf) : (opStitchDone s).part pt = s.part pt := by
  unfold opStitchDone; split <;> simp [hl]
@[simp] theorem opFpHash_part (v : W64) (s : State) (hl : pt ≠ .leaf) (hnl : pt ≠ .node .leaf) : (opFpHash v s).part pt = s.part pt := by
  simp [opFpHash, hl, hnl]
@[simp] theorem opFpValid_part (s : State) (hl : pt ≠ .leaf) : (opFpValid s).part pt = s.part pt := by simp [opFpValid, hl]
@[simp] theorem opStepHwm_part (v : W64) (s : State) (hnl : pt ≠ .node .leaf) (hrt : pt ≠ .root) : (opStepHwm v s).part pt = s.part pt := by
  simp [opStepHwm, hnl, hrt]

/-! `Bind` -/
@[simp] theorem State.rebound_part (s : State) (sd : Sd) (hl : pt ≠ .leaf) (hrg : pt ≠ .regions) (hsl : pt ≠ .slots) (hpk : pt ≠ .prick)
    (hnl : pt ≠ .node .leaf) : (s.rebound sd).part pt = s.part pt := by simp [State.rebound, hl, hrg, hsl, hpk, hnl]
@[simp] theorem State.leaveSd_part (s : State) (hb : pt ≠ .binding) (hl : pt ≠ .leaf) (hrg : pt ≠ .regions) (hsl : pt ≠ .slots) (hpk : pt ≠ .prick)
    (hnl : pt ≠ .node .leaf) : (s.leaveSd).part pt = s.part pt := by
  unfold State.leaveSd
  split
  · rfl
  · simp [hb, hl, hrg, hsl, hpk, hnl]
@[simp] theorem State.leafBind_part (s : State) (m : BindMsg) (hb : pt ≠ .binding) (hl : pt ≠ .leaf) (hrg : pt ≠ .regions) (hsl : pt ≠ .slots)
    (hpk : pt ≠ .prick) (hnl : pt ≠ .node .leaf) : (s.leafBind m).part pt = s.part pt := by
  unfold State.leafBind
  dsimp only
  (repeat' split) <;> simp [hb, hl, hrg, hsl, hpk, hnl]
@[simp] theorem State.setMemb_part (s : State) (k : NodeSel) (sd : Sd) (p n : Nat) (hn : pt ≠ .node k) : (s.setMemb k sd p n).part pt = s.part pt :=
  by
  simp [State.setMemb, hn]
@[simp] theorem State.raiseGen_part (s : State) (k : NodeSel) (sd : Sd) (g : Gen) (hn : pt ≠ .node k) : (s.raiseGen k sd g).part pt = s.part pt :=
  by
  unfold State.raiseGen; split <;> simp [hn]
@[simp] theorem State.bindMemb_part (s : State) (k : NodeSel) (d : Dom) (m : BindMsg) (hn : pt ≠ .node k) (hnl : pt ≠ .node .leaf) :
    (s.bindMemb k d m).part pt = s.part pt := by
  unfold State.bindMemb
  split
  · split
    · exact State.each_part pt _ (s.downCells k d) (fun s p => s.setMemb k m.head.sd p 0) (fun s p => by simp [hn])
    · rfl
  · exact s.each_part pt _ _ (fun s p => by simp [hn, hnl])
@[simp] theorem State.freeSd_part (s : State) (k : NodeSel) (sd : Sd) (hn : pt ≠ .node k) : (s.freeSd k sd).part pt = s.part pt := by
  simp [State.freeSd, hn]
@[simp] theorem State.passBind_part (s : State) (k : NodeSel) (cell : Nat) (m : BindMsg) (hn : pt ≠ .node k) (hnl : pt ≠ .node .leaf)
    (hcl : pt ≠ .cells) : (s.passBind k cell m).part pt = s.part pt := by
  simp [State.passBind, hn, hnl, hcl]
@[simp] theorem opBindRx_part (c : CellRef) (m : BindMsg) (s : State) (hb : pt ≠ .binding) (hl : pt ≠ .leaf) (hrg : pt ≠ .regions)
    (hsl : pt ≠ .slots) (hpk : pt ≠ .prick) (hn : pt ≠ .node c.node) (hnl : pt ≠ .node .leaf) (hcl : pt ≠ .cells) :
    (opBindRx c m s).part pt = s.part pt := by
  unfold opBindRx; dsimp only; (repeat' split) <;> simp [hb, hl, hrg, hsl, hpk, hn, hnl, hcl]
@[simp] theorem opLeaveLimit_part (s : State) (hb : pt ≠ .binding) (hl : pt ≠ .leaf) (hrg : pt ≠ .regions) (hsl : pt ≠ .slots) (hpk : pt ≠ .prick)
    (hnl : pt ≠ .node .leaf) (ht : pt ≠ .time) : (opLeaveLimit s).part pt = s.part pt := by simp [opLeaveLimit, hb, hl, hrg, hsl, hpk, hnl, ht]
@[simp] theorem opMembWr_part (k : NodeSel) (s : State) (hn : pt ≠ .node k) (hnl : pt ≠ .node .leaf) : (opMembWr k s).part pt = s.part pt := by
  simp [opMembWr, hn, hnl]
@[simp] theorem opMembValid_part (k : NodeSel) (v : Bool) (s : State) (hn : pt ≠ .node k) : (opMembValid k v s).part pt = s.part pt := by
  simp [opMembValid, hn]

/-! `RefSel` -/
@[simp] theorem State.modEnt_part (s : State) (i : Nat) (f : RefEnt → RefEnt) (hy : pt ≠ .mary) : (s.modEnt i f).part pt = s.part pt := by
  simp [State.modEnt, hy]
@[simp] theorem State.putTable_part (s : State) (c : W32) (ws : List W64) (hy : pt ≠ .mary) : (s.putTable c ws).part pt = s.part pt := by
  unfold State.putTable
  exact (State.each_part pt _ (List.range 8) (fun s i => s.modEnt i _) (fun s i => by simp [hy])).trans (by simp [hy])
@[simp] theorem State.pendRootK_part (s : State) (k : Int) (hnm : pt ≠ .node .mary) (ht : pt ≠ .time) : (s.pendRootK k).part pt = s.part pt := by
  simp [State.pendRootK, hnm, ht]
@[simp] theorem State.rootGainHt_part (s : State) (c : CorrSet) (hnm : pt ≠ .node .mary) (ht : pt ≠ .time) : (s.rootGainHt c).part pt = s.part pt :=
  by simp [State.rootGainHt, hnm, ht]
@[simp] theorem State.rootLoseHt_part (s : State) (hnm : pt ≠ .node .mary) (ht : pt ≠ .time) : (s.rootLoseHt).part pt = s.part pt := by
  simp [State.rootLoseHt, hnm, ht]
@[simp] theorem State.select_part (s : State) (i : Nat) (hy : pt ≠ .mary) : (s.select i).part pt = s.part pt := by
  unfold State.select; split <;> simp [hy]
@[simp] theorem State.raiseRef_part (s : State) (b : Nat) (hy : pt ≠ .mary) : (s.raiseRef b).part pt = s.part pt := by
  simp [State.raiseRef, hy]
@[simp] theorem State.noteLocked_part (s : State) (i : Nat) (hy : pt ≠ .mary) : (s.noteLocked i).part pt = s.part pt := by
  simp [State.noteLocked,
    hy]
@[simp] theorem State.enterHold_part (s : State) (kho : Int) (hy : pt ≠ .mary) (hnm : pt ≠ .node .mary) (ht : pt ≠ .time) :
    (s.enterHold kho).part pt = s.part pt := by simp [State.enterHold, hy, hnm, ht]
@[simp] theorem State.enterLocked_part (s : State) (i : Nat) (hy : pt ≠ .mary) : (s.enterLocked i).part pt = s.part pt := by
  simp [State.enterLocked, hy]
@[simp] theorem State.selFree_part (s : State) (hy : pt ≠ .mary) : (s.selFree).part pt = s.part pt := by
  unfold State.selFree; dsimp only; (repeat' split) <;> simp [hy]
@[simp] theorem State.switchTo_part (s : State) (i : Nat) (hy : pt ≠ .mary) (hnm : pt ≠ .node .mary) : (s.switchTo i).part pt = s.part pt := by
  simp [State.switchTo, hy, hnm]
@[simp] theorem State.selAct_part (s : State) (hy : pt ≠ .mary) (hnm : pt ≠ .node .mary) (ht : pt ≠ .time) : (s.selAct).part pt = s.part pt := by
  unfold State.selAct; dsimp only; (repeat' split) <;> simp [hy, hnm, ht]
@[simp] theorem State.keepK_part (s : State) (phase : Bool) (hy : pt ≠ .mary) : (s.keepK phase).part pt = s.part pt := by
  simp [State.keepK, hy]
@[simp] theorem State.runRootLoop_part (s : State) (e : Int) (phase pulse : Bool) (hy : pt ≠ .mary) (hnm : pt ≠ .node .mary) (ht : pt ≠ .time) :
    (s.runRootLoop e phase pulse).part pt = s.part pt := by
  simp [State.runRootLoop, hy, hnm, ht]
@[simp] theorem State.rootAcquire_part (s : State) (i : Nat) (e : Int) (hy : pt ≠ .mary) (hnm : pt ≠ .node .mary) (ht : pt ≠ .time) :
    (s.rootAcquire i e).part pt = s.part pt := by
  unfold State.rootAcquire
  dsimp only
  split <;> simp only [State.noteLocked_part, State.modSel_part, State.bumpIf_part, State.raiseTime_part, State.rootGainHt_part,
    State.takeFree_part,
    ne_eq, not_false_eq_true, hy, hnm, ht]
@[simp] theorem State.giveLabel_part (s : State) (i n : Nat) (hy : pt ≠ .mary) : (s.giveLabel i n).1.part pt = s.part pt := by
  unfold State.giveLabel; split <;> simp [hy]
@[simp] theorem State.takeLabel_part (s : State) (i : Nat) (t : Int) (hy : pt ≠ .mary) : (s.takeLabel i t).1.part pt = s.part pt := by
  unfold State.takeLabel
  (repeat' split) <;> simp [hy]
@[simp] theorem State.breakEnt_part (s : State) (i : Nat) (onlyWin : Bool) (hy : pt ≠ .mary) (hnm : pt ≠ .node .mary) :
    (s.breakEnt i onlyWin).part pt = s.part pt := by simp [State.breakEnt, hy, hnm]
@[simp] theorem State.breakPhase_part (s : State) (i : Nat) (hy : pt ≠ .mary) (hnm : pt ≠ .node .mary) (ht : pt ≠ .time) :
    (s.breakPhase i).part pt = s.part pt := by simp [State.breakPhase, hy, hnm, ht]
@[simp] theorem State.judgeRef_part (s : State) (i : Nat) (e : Int) (hy : pt ≠ .mary) (hnm : pt ≠ .node .mary) (ht : pt ≠ .time) :
    (s.judgeRef i e).1.part pt = s.part pt := by
  unfold State.judgeRef; dsimp only; split <;> simp [hy, hnm, ht]
@[simp] theorem State.refSample_part (s : State) (i : Nat) (e : Int) (pulse : Bool) (hy : pt ≠ .mary) (hnm : pt ≠ .node .mary) (ht : pt ≠ .time) :
    (s.refSample i e pulse).part pt = s.part pt := by
  unfold State.refSample; dsimp only; (repeat' split) <;> simp [hy, hnm, ht]
@[simp] theorem State.gateRef_part (s : State) (i n : Nat) (hy : pt ≠ .mary) (hnm : pt ≠ .node .mary) (ht : pt ≠ .time) :
    (s.gateRef i n).part pt = s.part pt := by simp [State.gateRef, hy, hnm, ht]
@[simp] theorem State.loseRef_part (s : State) (i : Nat) (hy : pt ≠ .mary) (hnm : pt ≠ .node .mary) (ht : pt ≠ .time) :
    (s.loseRef i).part pt = s.part pt := by simp [State.loseRef, hy, hnm, ht]
@[simp] theorem State.loseSrc_part (s : State) (src : Nat) (hy : pt ≠ .mary) (hnm : pt ≠ .node .mary) (ht : pt ≠ .time) :
    (s.loseSrc src).part pt = s.part pt := by simp [State.loseSrc, hy, hnm, ht]
@[simp] theorem opRefPresent_part (i : Nat) (s : State) (hy : pt ≠ .mary) : (opRefPresent i s).part pt = s.part pt := by
  simp [opRefPresent, hy]
@[simp] theorem opRefQualified_part (i : Nat) (s : State) (hy : pt ≠ .mary) (hnm : pt ≠ .node .mary) (ht : pt ≠ .time) :
    (opRefQualified i s).part pt = s.part pt := by simp [opRefQualified, hy, hnm, ht]
@[simp] theorem opRefWtrEnd_part (i : Nat) (s : State) (hy : pt ≠ .mary) (hnm : pt ≠ .node .mary) (ht : pt ≠ .time) :
    (opRefWtrEnd i s).part pt = s.part pt := by simp [opRefWtrEnd, hy, hnm, ht]
@[simp] theorem State.noteAb_part (s : State) (e : Int) (hy : pt ≠ .mary) : (s.noteAb e).part pt = s.part pt := by simp [State.noteAb, hy]
@[simp] theorem State.crossMeasured_part (s : State) (e : Int) (hy : pt ≠ .mary) (hnm : pt ≠ .node .mary) (ht : pt ≠ .time) :
    (s.crossMeasured e).part pt = s.part pt := by
  unfold State.crossMeasured; split <;> simp [hy, hnm, ht]
@[simp] theorem State.crossAcquired_part (s : State) (hy : pt ≠ .mary) : (s.crossAcquired).part pt = s.part pt := by
  simp [State.crossAcquired, hy]
@[simp] theorem State.autoAge_part (s : State) (hnm : pt ≠ .node .mary) (hr : pt ≠ .regs) : (s.autoAge).part pt = s.part pt := by
  simp [State.autoAge, hnm, hr]
@[simp] theorem opHoldoverK_part (s : State) (hy : pt ≠ .mary) (hnm : pt ≠ .node .mary) (ht : pt ≠ .time) : (opHoldoverK s).part pt = s.part pt :=
  by simp [opHoldoverK, hy, hnm, ht]
@[simp] theorem State.softStep_part (s : State) (hy : pt ≠ .mary) (hnm : pt ≠ .node .mary) (ht : pt ≠ .time) : (s.softStep).part pt = s.part pt :=
  by unfold State.softStep; split <;> simp [hy, hnm, ht]
@[simp] theorem opSelMode_part (soft : Bool) (s : State) (hy : pt ≠ .mary) (hnm : pt ≠ .node .mary) (ht : pt ≠ .time) (hr : pt ≠ .regs) :
    (opSelMode soft s).part pt = s.part pt := by
  unfold opSelMode; dsimp only; (repeat' split) <;> simp [hy, hnm, ht, hr]
@[simp] theorem opSoftK_part (k : BitVec 48) (s : State) (hy : pt ≠ .mary) (hnm : pt ≠ .node .mary) : (opSoftK k s).part pt = s.part pt := by
  simp [opSoftK, hy, hnm]
@[simp] theorem opSoftTmo_part (s : State) (hy : pt ≠ .mary) (hnm : pt ≠ .node .mary) (ht : pt ≠ .time) (hr : pt ≠ .regs) :
    (opSoftTmo s).part pt = s.part pt := by simp [opSoftTmo, hy, hnm, ht, hr]
@[simp] theorem opRootStep_part (s : State) (hy : pt ≠ .mary) (hnm : pt ≠ .node .mary) (ht : pt ≠ .time) : (opRootStep s).part pt = s.part pt := by
  unfold opRootStep; dsimp only; (repeat' split) <;> simp [hy, hnm, ht]
@[simp] theorem opRootHtSet_part (v : Ht96) (s : State) (hy : pt ≠ .mary) (hnm : pt ≠ .node .mary) : (opRootHtSet v s).part pt = s.part pt := by
  simp [opRootHtSet, hy, hnm]
@[simp] theorem State.rootHtPicot_part (s : State) (hy : pt ≠ .mary) (hnm : pt ≠ .node .mary) (ht : pt ≠ .time) :
    (s.rootHtPicot).part pt = s.part pt := by unfold State.rootHtPicot; split <;> simp [hy, hnm, ht]
@[simp] theorem opRootSecNext_part (v : BitVec 48) (s : State) (hy : pt ≠ .mary) (hnm : pt ≠ .node .mary) (ht : pt ≠ .time) :
    (opRootSecNext v s).part pt = s.part pt := by simp [opRootSecNext, hy, hnm, ht]
@[simp] theorem opOcxoWarm_part (v : Bool) (s : State) (hy : pt ≠ .mary) (hnm : pt ≠ .node .mary) (ht : pt ≠ .time) :
    (opOcxoWarm v s).part pt = s.part pt := by simp [opOcxoWarm, hy, hnm, ht]
@[simp] theorem opOcxoWait_part (s : State) (hy : pt ≠ .mary) (hnm : pt ≠ .node .mary) (ht : pt ≠ .time) : (opOcxoWait s).part pt = s.part pt := by
  simp [opOcxoWait, hy, hnm, ht]
@[simp] theorem opKDayEnd_part (s : State) (hy : pt ≠ .mary) (hnm : pt ≠ .node .mary) (ht : pt ≠ .time) (hr : pt ≠ .regs) (hrt : pt ≠ .root) :
    (opKDayEnd s).part pt = s.part pt := by simp [opKDayEnd, hy, hnm, ht, hr, hrt]
@[simp] theorem State.rootSecond_part (s : State) (hy : pt ≠ .mary) (hnm : pt ≠ .node .mary) (ht : pt ≠ .time) (hr : pt ≠ .regs) :
    (s.rootSecond).part pt = s.part pt := by unfold State.rootSecond; split <;> simp [hy, hnm, ht, hr]
@[simp] theorem State.secondPicot_part (s : State) (hy : pt ≠ .mary) (hnm : pt ≠ .node .mary) (ht : pt ≠ .time) (hr : pt ≠ .regs) :
    (s.secondPicot).part pt = s.part pt := by simp [State.secondPicot, hy, hnm, ht, hr]
@[simp] theorem State.aroundSecond_part (s : State) (off : Nat) (f : State → State) (hf : ∀ s, (f s).part pt = s.part pt) (hy : pt ≠ .mary)
    (hnm : pt ≠ .node .mary) (ht : pt ≠ .time) (hr : pt ≠ .regs) :
    (s.aroundSecond off f).part pt = s.part pt := by
  simp [State.aroundSecond, *]
@[simp] theorem opRefApply_part (s : State) (hy : pt ≠ .mary) (hnm : pt ≠ .node .mary) (ht : pt ≠ .time) (hr : pt ≠ .regs) :
    (opRefApply s).part pt = s.part pt := by simp [opRefApply, hy, hnm, ht, hr]

/-! `Cel` -/
@[simp] theorem State.celRaw_part (s : State) (w : Nat) (v : W64) (hm : pt ≠ .medium) (hc : pt ≠ .cellar) : (s.celRaw w v).part pt = s.part pt := by
  unfold State.celRaw
  split
  · rfl
  · simp [hm, hc]
@[simp] theorem State.celEnqueue_part (s : State) (w : Nat) (v : W64) (rwp : Option Nat) (hc : pt ≠ .cellar) :
    (s.celEnqueue w v rwp).part pt = s.part pt := by
  simp [State.celEnqueue, hc]
@[simp] theorem State.celWrite_part (s : State) (w : Nat) (v : W64) (put : State → Nat → W64 → State)
    (hput : ∀ s w v, (put s w v).part pt = s.part pt) (hm : pt ≠ .medium) (hc : pt ≠ .cellar) : (s.celWrite w v put).part pt = s.part pt := by
  unfold State.celWrite
  dsimp only
  split <;> simp [hput, hm, hc]
@[simp] theorem State.celWearPut_part (s : State) (w : Nat) (v : W64) (hm : pt ≠ .medium) (hc : pt ≠ .cellar) :
    (s.celWearPut w v).part pt = s.part pt := by
  simp [State.celWearPut, hm, hc]
@[simp] theorem State.celNow_part (s : State) (w : Nat) (v : W64) (hm : pt ≠ .medium) (hc : pt ≠ .cellar) : (s.celNow w v).part pt = s.part pt := by
  simp [State.celNow, hm, hc]
@[simp] theorem State.celPut_part (s : State) (w : Nat) (v : W64) (hm : pt ≠ .medium) (hc : pt ≠ .cellar) : (s.celPut w v).part pt = s.part pt := by
  simp [State.celPut, hm, hc]
@[simp] theorem State.celPuts_part (s : State) (l : List (Nat × W64)) (hm : pt ≠ .medium) (hc : pt ≠ .cellar) : (s.celPuts l).part pt = s.part pt :=
  by
  simp [State.celPuts, hm, hc]
@[simp] theorem State.setRwp_part (s : State) (off : Nat) (v : W32) (hc : pt ≠ .cellar) (hnm : pt ≠ .node .mary) (hr : pt ≠ .regs) :
    (s.setRwp off v).part pt = s.part pt := by unfold State.setRwp; split <;> simp [hc, hnm, hr]
@[simp] theorem State.setCeil_part (s : State) (f : Family) (n : Nat) (hc : pt ≠ .cellar) : (s.setCeil f n).part pt = s.part pt := by
  unfold State.setCeil; split <;> simp [hc]
@[simp] theorem State.queueRaise_part (s : State) (f : Family) (need : Nat) (hc : pt ≠ .cellar) : (s.queueRaise f need).part pt = s.part pt := by
  simp [State.queueRaise, hc]
@[simp] theorem State.raiseAhead_part (s : State) (f : Family) (hc : pt ≠ .cellar) : (s.raiseAhead f).part pt = s.part pt := by
  simp [State.raiseAhead, hc]
@[simp] theorem State.holdFor_part (s : State) (f : Family) (x : Nat) (op : HeldOp) (hc : pt ≠ .cellar) : (s.holdFor f x op).part pt = s.part pt :=
  by
  simp [State.holdFor, hc]

/-! `Prick` -/
@[simp] theorem State.countImage_part (s : State) (b : Batch) (acc : Bool) (hl : pt ≠ .leaf) (hpk : pt ≠ .prick) :
    (s.countImage b acc).part pt = s.part pt := by simp [State.countImage, hl, hpk]
@[simp] theorem State.takeImage_part (s : State) (m : InstallMsg) (hl : pt ≠ .leaf) (hpk : pt ≠ .prick) (hnl : pt ≠ .node .leaf) :
    (s.takeImage m).part pt = s.part pt := by
  unfold State.takeImage; dsimp only; (repeat' split) <;> simp [hl, hpk, hnl]
@[simp] theorem State.leafInstall_part (s : State) (m : InstallMsg) (hl : pt ≠ .leaf) (hpk : pt ≠ .prick) (hnl : pt ≠ .node .leaf) :
    (s.leafInstall m).part pt = s.part pt := by simp [State.leafInstall, hl, hpk, hnl]
@[simp] theorem opPrickInstallRx_part (c : CellRef) (m : InstallMsg) (s : State) (hl : pt ≠ .leaf) (hpk : pt ≠ .prick) (hn : pt ≠ .node c.node)
    (hnl : pt ≠ .node .leaf) (hcl : pt ≠ .cells) : (opPrickInstallRx c m s).part pt = s.part pt := by
  unfold opPrickInstallRx; dsimp only; (repeat' split) <;> simp [hl, hpk, hn, hnl, hcl]
@[simp] theorem State.leafArm_part (s : State) (d : Dom) (sd : Sd) (g : Gen) (b : Batch) (hl : pt ≠ .leaf) (hpk : pt ≠ .prick)
    (hnl : pt ≠ .node .leaf) : (s.leafArm d sd g b).part pt = s.part pt := by
  unfold State.leafArm; split <;> simp [hl, hpk, hnl]
@[simp] theorem State.prkErr_part (s : State) (x : PrkErr) (hl : pt ≠ .leaf) (hpk : pt ≠ .prick) (hnl : pt ≠ .node .leaf) :
    (s.prkErr x).part pt = s.part pt := by unfold State.prkErr; split <;> simp [hl, hpk, hnl]
@[simp] theorem State.prkErrs_part (s : State) (p : Entry → Bool) (errs : List PrkErr) (hl : pt ≠ .leaf) (hpk : pt ≠ .prick)
    (hnl : pt ≠ .node .leaf) : (s.prkErrs p errs).part pt = s.part pt := by
  simp [State.prkErrs, hl, hpk, hnl]
@[simp] theorem opArmRx_part (c : CellRef) (sd : Sd) (g : Gen) (b : Batch) (errs : List PrkErr) (s : State) (hl : pt ≠ .leaf) (hrg : pt ≠ .regions)
    (hsl : pt ≠ .slots) (hpk : pt ≠ .prick) (hy : pt ≠ .mary) (hn : pt ≠ .node c.node) (hnl : pt ≠ .node .leaf) (hnm : pt ≠ .node .mary)
    (hcl : pt ≠ .cells) (hr : pt ≠ .regs) (hrt : pt ≠ .root) :
    (opArmRx c sd g b errs s).part pt = s.part pt := by
  unfold opArmRx; dsimp only; (repeat' split) <;> simp [hl, hrg, hsl, hpk, hy, hn, hnl, hnm, hcl, hr, hrt]
@[simp] theorem State.guardNow_part (s : State) (hl : pt ≠ .leaf) (hpk : pt ≠ .prick) (hnl : pt ≠ .node .leaf) : (s.guardNow).part pt = s.part pt :=
  by simp [State.guardNow, hl, hpk, hnl]
@[simp] theorem opGuardCheck_part (s : State) (hl : pt ≠ .leaf) (hrg : pt ≠ .regions) (hsl : pt ≠ .slots) (hpk : pt ≠ .prick) (hy : pt ≠ .mary)
    (hnl : pt ≠ .node .leaf) (hnm : pt ≠ .node .mary) (ht : pt ≠ .time) (hcl : pt ≠ .cells) (hr : pt ≠ .regs) (hrt : pt ≠ .root) :
    (opGuardCheck s).part pt = s.part pt := by unfold opGuardCheck; split <;> simp [hl, hrg, hsl, hpk, hy, hnl, hnm, ht, hcl, hr, hrt]
@[simp] theorem State.discardStrobe_part (s : State) (p : Nat) (x : Strobe) (hl : pt ≠ .leaf) (hrg : pt ≠ .regions) (hsl : pt ≠ .slots)
    (hpk : pt ≠ .prick) (hy : pt ≠ .mary) (hnl : pt ≠ .node .leaf) (hnm : pt ≠ .node .mary) (hcl : pt ≠ .cells) (hr : pt ≠ .regs)
    (hrt : pt ≠ .root) : (s.discardStrobe p x).part pt = s.part pt := by
  simp [State.discardStrobe, hl, hrg, hsl, hpk, hy, hnl, hnm, hcl, hr, hrt]
@[simp] theorem State.pushStrobe_part (s : State) (p : Nat) (x : Strobe) (hl : pt ≠ .leaf) (hrg : pt ≠ .regions) (hsl : pt ≠ .slots)
    (hpk : pt ≠ .prick) (hy : pt ≠ .mary) (hnl : pt ≠ .node .leaf) (hnm : pt ≠ .node .mary) (hcl : pt ≠ .cells) (hr : pt ≠ .regs)
    (hrt : pt ≠ .root) : (s.pushStrobe p x).part pt = s.part pt := by simp [State.pushStrobe, hl, hrg, hsl, hpk, hy, hnl, hnm, hcl, hr, hrt]
@[simp] theorem State.fireSeeded_part (s : State) (b : Binding) (e : Entry) (kind : BitVec 4) (hl : pt ≠ .leaf) (hrg : pt ≠ .regions)
    (hsl : pt ≠ .slots) (hpk : pt ≠ .prick) (hy : pt ≠ .mary) (hnl : pt ≠ .node .leaf) (hnm : pt ≠ .node .mary) (hcl : pt ≠ .cells)
    (hr : pt ≠ .regs) (hrt : pt ≠ .root) : (s.fireSeeded b e kind).part pt = s.part pt := by
  unfold State.fireSeeded; split <;> simp [hl, hrg, hsl, hpk, hy, hnl, hnm, hcl, hr, hrt]
@[simp] theorem State.fireOne_part (s : State) (b : Binding) (e : Entry) (hl : pt ≠ .leaf) (hrg : pt ≠ .regions) (hsl : pt ≠ .slots)
    (hpk : pt ≠ .prick) (hy : pt ≠ .mary) (hnl : pt ≠ .node .leaf) (hnm : pt ≠ .node .mary) (hcl : pt ≠ .cells) (hr : pt ≠ .regs)
    (hrt : pt ≠ .root) : (s.fireOne b e).part pt = s.part pt := by
  unfold State.fireOne; dsimp only; (repeat' split) <;> simp [hl, hrg, hsl, hpk, hy, hnl, hnm, hcl, hr, hrt]
@[simp] theorem State.fireDue_part (s : State) (hl : pt ≠ .leaf) (hrg : pt ≠ .regions) (hsl : pt ≠ .slots) (hpk : pt ≠ .prick) (hy : pt ≠ .mary)
    (hnl : pt ≠ .node .leaf) (hnm : pt ≠ .node .mary) (hcl : pt ≠ .cells) (hr : pt ≠ .regs) (hrt : pt ≠ .root) : (s.fireDue).part pt = s.part pt :=
  by unfold State.fireDue; split <;> simp [hl, hrg, hsl, hpk, hy, hnl, hnm, hcl, hr, hrt]
@[simp] theorem opFiring_part (errs : List PrkErr) (s : State) (hl : pt ≠ .leaf) (hrg : pt ≠ .regions) (hsl : pt ≠ .slots) (hpk : pt ≠ .prick)
    (hy : pt ≠ .mary) (hnl : pt ≠ .node .leaf) (hnm : pt ≠ .node .mary) (ht : pt ≠ .time) (hcl : pt ≠ .cells) (hr : pt ≠ .regs) (hrt : pt ≠ .root) :
    (opFiring errs s).part pt = s.part pt := by unfold opFiring; split <;> simp [hl, hrg, hsl, hpk, hy, hnl, hnm, ht, hcl, hr, hrt]
@[simp] theorem State.readyAt_part (s : State) (x : Strobe) (p : Nat) (hl : pt ≠ .leaf) (hrg : pt ≠ .regions) (hsl : pt ≠ .slots)
    (hpk : pt ≠ .prick) (hy : pt ≠ .mary) (hnl : pt ≠ .node .leaf) (hnm : pt ≠ .node .mary) (hcl : pt ≠ .cells) (hr : pt ≠ .regs)
    (hrt : pt ≠ .root) : (s.readyAt x p).part pt = s.part pt := by simp [State.readyAt, hl, hrg, hsl, hpk, hy, hnl, hnm, hcl, hr, hrt]
@[simp] theorem State.computeSeeds_part (s : State) (hl : pt ≠ .leaf) (hrg : pt ≠ .regions) (hsl : pt ≠ .slots) (hpk : pt ≠ .prick)
    (hy : pt ≠ .mary) (hnl : pt ≠ .node .leaf) (hnm : pt ≠ .node .mary) (ht : pt ≠ .time) (hcl : pt ≠ .cells) (hr : pt ≠ .regs) (hrt : pt ≠ .root) :
    (s.computeSeeds).part pt = s.part pt := by
  unfold State.computeSeeds
  (repeat' split) <;> simp [hl, hrg, hsl, hpk, hy, hnl, hnm, ht, hcl, hr, hrt]
@[simp] theorem State.seedDiffers_part (s : State) (hl : pt ≠ .leaf) (hrg : pt ≠ .regions) (hsl : pt ≠ .slots) (hpk : pt ≠ .prick) (hy : pt ≠ .mary)
    (hnl : pt ≠ .node .leaf) (hnm : pt ≠ .node .mary) (hcl : pt ≠ .cells) (hr : pt ≠ .regs) (hrt : pt ≠ .root) :
    (s.seedDiffers).part pt = s.part pt := by simp [State.seedDiffers, hl, hrg, hsl, hpk, hy, hnl, hnm, hcl, hr, hrt]
@[simp] theorem opSeedCompute_part (ev : SeedEvent) (s : State) (hl : pt ≠ .leaf) (hrg : pt ≠ .regions) (hsl : pt ≠ .slots) (hpk : pt ≠ .prick)
    (hy : pt ≠ .mary) (hnl : pt ≠ .node .leaf) (hnm : pt ≠ .node .mary) (ht : pt ≠ .time) (hcl : pt ≠ .cells) (hr : pt ≠ .regs) (hrt : pt ≠ .root) :
    (opSeedCompute ev s).part pt = s.part pt := by unfold opSeedCompute; split <;> simp [hl, hrg, hsl, hpk, hy, hnl, hnm, ht, hcl, hr, hrt]
@[simp] theorem State.leafThrottle_part (s : State) (level : BitVec 3) (effNs : W32) (hl : pt ≠ .leaf) (hnl : pt ≠ .node .leaf) :
    (s.leafThrottle level effNs).part pt = s.part pt := by
  unfold State.leafThrottle
  dsimp only
  split
  · simp [hl]
  · rw [State.modLeaf_part_same pt _ _ hl]
    · simp [hnl]
    · intro l; (repeat' split) <;> simp
@[simp] theorem opThrottleRx_part (c : CellRef) (level : BitVec 3) (cap : Bool) (tseq : Byte) (effNs : W32) (s : State) (hl : pt ≠ .leaf)
    (hn : pt ≠ .node c.node) (hnl : pt ≠ .node .leaf) (hcl : pt ≠ .cells) :
    (opThrottleRx c level cap tseq effNs s).part pt = s.part pt := by
  unfold opThrottleRx; dsimp only; (repeat' split) <;> simp [hl, hn, hnl, hcl]
@[simp] theorem State.hallNow_part (s : State) (hl : pt ≠ .leaf) : (s.hallNow).part pt = s.part pt := by
  refine s.modLeaf_part_same pt _ hl (fun l => ?_)
  dsimp only
  induction (s.leaf.thrToks.filter (fun t => decide (t.1 * nsTu ≤ s.ht .leaf))) generalizing l with
  | nil => simp
  | cons t ts ih => rw [List.foldl_cons]; (repeat' split) <;> exact ih _
@[simp] theorem State.originThrottle_part (s : State) (level : BitVec 3) (cap : Bool) (hy : pt ≠ .mary) (hnm : pt ≠ .node .mary)
    (hcl : pt ≠ .cells) : (s.originThrottle level cap).part pt = s.part pt := by
  simp [State.originThrottle, hy, hnm, hcl]
@[simp] theorem opCapreqEdge_part (s : State) (hy : pt ≠ .mary) (hnm : pt ≠ .node .mary) (hcl : pt ≠ .cells) :
    (opCapreqEdge s).part pt = s.part pt := by unfold opCapreqEdge; dsimp only; (repeat' split) <;> simp [hy, hnm, hcl]
@[simp] theorem opCapRelease_part (s : State) (hy : pt ≠ .mary) (hnm : pt ≠ .node .mary) (ht : pt ≠ .time) (hcl : pt ≠ .cells) :
    (opCapRelease s).part pt = s.part pt := by unfold opCapRelease; split <;> simp [hy, hnm, ht, hcl]
@[simp] theorem State.fatalMiss_part (s : State) (hl : pt ≠ .leaf) (hpk : pt ≠ .prick) (hnl : pt ≠ .node .leaf) :
    (s.fatalMiss).part pt = s.part pt := by simp [State.fatalMiss, hl, hpk, hnl]
@[simp] theorem opPrkScrub_part (r : ScrubResult) (s : State) (hl : pt ≠ .leaf) (hrg : pt ≠ .regions) (hsl : pt ≠ .slots) (hpk : pt ≠ .prick)
    (hy : pt ≠ .mary) (hnl : pt ≠ .node .leaf) (hnm : pt ≠ .node .mary) (ht : pt ≠ .time) (hcl : pt ≠ .cells) (hr : pt ≠ .regs) (hrt : pt ≠ .root) :
    (opPrkScrub r s).part pt = s.part pt := by
  unfold opPrkScrub; dsimp only; (repeat' split) <;> simp [hl, hrg, hsl, hpk, hy, hnl, hnm, ht, hcl, hr, hrt]

/-! `RootOps` -/
@[simp] theorem State.modSrcBuf_part (s : State) (k : NodeSel) (src : Src) (f : SrcBuf → SrcBuf) (hn : pt ≠ .node k) (hrt : pt ≠ .root) :
    (s.modSrcBuf k src f).part pt = s.part pt := by
  simp [State.modSrcBuf, hn, hrt]
@[simp] theorem opAppend_part (k : NodeSel) (src : Src) (i : BufId) (v : W32) (s : State) (hn : pt ≠ .node k) (hrt : pt ≠ .root) :
    (opAppend k src i v s).part pt = s.part pt := by
  simp [opAppend, hn, hrt]
@[simp] theorem opBufClr_part (k : NodeSel) (src : Src) (i : BufId) (s : State) (hn : pt ≠ .node k) (hrt : pt ≠ .root) :
    (opBufClr k src i s).part pt = s.part pt := by simp [opBufClr, hn, hrt]
@[simp] theorem State.rootRecipe_part (s : State) (k : NodeSel) (m : RecipeMsg) (hl : pt ≠ .leaf) (hn : pt ≠ .node k) (hrt : pt ≠ .root) :
    (s.rootRecipe k m).part pt = s.part pt := by simp [State.rootRecipe, hl, hn, hrt]
@[simp] theorem State.sendBatch_part (s : State) (k : NodeSel) (c : SdCtx) (sd : Sd) (batch : Batch) (es0 : List InstEnt) (hl : pt ≠ .leaf)
    (hrg : pt ≠ .regions) (hsl : pt ≠ .slots) (hpk : pt ≠ .prick) (hy : pt ≠ .mary) (hn : pt ≠ .node k) (hnm : pt ≠ .node .mary) (hcl : pt ≠ .cells)
    (hr : pt ≠ .regs) (hrt : pt ≠ .root) :
    (s.sendBatch k c sd batch es0).part pt = s.part pt := by
  unfold State.sendBatch
  dsimp only
  (repeat' split) <;> simp [hl, hrg, hsl, hpk, hy, hn, hnm, hcl, hr, hrt]
@[simp] theorem State.instRefuse_part (s : State) (k : NodeSel) (w : Nat × Nat × Nat) (hn : pt ≠ .node k) (hrt : pt ≠ .root) :
    (s.instRefuse k w).part pt = s.part pt := by
  simp [State.instRefuse, hn, hrt]
@[simp] theorem opInstGo_part (k : NodeSel) (src : Src) (sd : Sd) (batch : Batch) (s : State) (hl : pt ≠ .leaf) (hrg : pt ≠ .regions)
    (hsl : pt ≠ .slots) (hpk : pt ≠ .prick) (hy : pt ≠ .mary) (hn : pt ≠ .node k) (hnm : pt ≠ .node .mary) (hcl : pt ≠ .cells) (hr : pt ≠ .regs)
    (hrt : pt ≠ .root) : (opInstGo k src sd batch s).part pt = s.part pt := by
  unfold opInstGo
  (repeat' split) <;> simp [hl, hrg, hsl, hpk, hy, hn, hnm, hcl, hr, hrt]
@[simp] theorem State.sendArm_part (s : State) (k : NodeSel) (b : BatchRec) (hl : pt ≠ .leaf) (hpk : pt ≠ .prick) (hn : pt ≠ .node k)
    (hcl : pt ≠ .cells) (hrt : pt ≠ .root) : (s.sendArm k b).part pt = s.part pt := by
  unfold State.sendArm; split <;> simp [hl, hpk, hn, hcl, hrt]
@[simp] theorem opArmSend_part (k : NodeSel) (sd : Sd) (batch : Batch) (s : State) (hl : pt ≠ .leaf) (hpk : pt ≠ .prick) (hn : pt ≠ .node k)
    (ht : pt ≠ .time) (hcl : pt ≠ .cells) (hrt : pt ≠ .root) : (opArmSend k sd batch s).part pt = s.part pt := by
  unfold opArmSend; dsimp only; (repeat' split) <;> simp [hl, hpk, hn, ht, hcl, hrt]
@[simp] theorem opRcpGo_part (k : NodeSel) (src : Src) (sd : Sd) (h : HoopId) (s : State) (hl : pt ≠ .leaf) (hn : pt ≠ .node k) (hrt : pt ≠ .root) :
    (opRcpGo k src sd h s).part pt = s.part pt := by
  unfold opRcpGo; split <;> simp [hl, hn, hrt]
@[simp] theorem State.bindRefuse_part (s : State) (k : NodeSel) (w : Nat × Nat) (hn : pt ≠ .node k) (hrt : pt ≠ .root) :
    (s.bindRefuse k w).part pt = s.part pt := by simp [State.bindRefuse, hn, hrt]
@[simp] theorem State.rootBind_part (s : State) (k : NodeSel) (m : BindMsg) (hb : pt ≠ .binding) (hl : pt ≠ .leaf) (hrg : pt ≠ .regions)
    (hsl : pt ≠ .slots) (hpk : pt ≠ .prick) (hn : pt ≠ .node k) (hnl : pt ≠ .node .leaf) (hrt : pt ≠ .root) :
    (s.rootBind k m).part pt = s.part pt := by
  unfold State.rootBind; dsimp only; split <;> simp [hb, hl, hrg, hsl, hpk, hn, hnl, hrt]
@[simp] theorem State.endHoops_part (s : State) (k : NodeSel) (hs : List RHoop) (outcome : BitVec 3) (hl : pt ≠ .leaf) (hrg : pt ≠ .regions)
    (hsl : pt ≠ .slots) (hpk : pt ≠ .prick) (hy : pt ≠ .mary) (hn : pt ≠ .node k) (hnm : pt ≠ .node .mary) (hcl : pt ≠ .cells) (hr : pt ≠ .regs)
    (hrt : pt ≠ .root) :
    (s.endHoops k hs outcome).part pt = s.part pt := by
  simp [State.endHoops, hl, hrg, hsl, hpk, hy, hn, hnm, hcl, hr, hrt]
@[simp] theorem State.setHwm_part (s : State) (k : NodeSel) (sd : Sd) (n : Nat) (hc : pt ≠ .cellar) (hn : pt ≠ .node k) (hrt : pt ≠ .root) :
    (s.setHwm k sd n).part pt = s.part pt := by
  unfold State.setHwm; split <;> simp [hc, hn, hrt]
@[simp] theorem State.doBind_part (s : State) (k : NodeSel) (sd : Sd) (es : List (Id20 × Id20 × Bool)) (gen : Gen) (hb : pt ≠ .binding)
    (hl : pt ≠ .leaf) (hrg : pt ≠ .regions) (hsl : pt ≠ .slots) (hpk : pt ≠ .prick) (hy : pt ≠ .mary) (hc : pt ≠ .cellar) (hn : pt ≠ .node k)
    (hnl : pt ≠ .node .leaf) (hnm : pt ≠ .node .mary) (hcl : pt ≠ .cells) (hr : pt ≠ .regs) (hrt : pt ≠ .root) :
    (s.doBind k sd es gen).part pt = s.part pt := by
  simp [State.doBind, hb, hl, hrg, hsl, hpk, hy, hc, hn, hnl, hnm, hcl, hr, hrt]
@[simp] theorem State.bindOp_part (s : State) (k : NodeSel) (src : Src) (sd : Sd) (words : List W32) (full : Bool) (n : Nat) (gen : Gen)
    (hb : pt ≠ .binding) (hl : pt ≠ .leaf) (hrg : pt ≠ .regions) (hsl : pt ≠ .slots) (hpk : pt ≠ .prick) (hy : pt ≠ .mary) (hc : pt ≠ .cellar)
    (hn : pt ≠ .node k) (hnl : pt ≠ .node .leaf) (hnm : pt ≠ .node .mary) (hcl : pt ≠ .cells) (hr : pt ≠ .regs) (hrt : pt ≠ .root) :
    (s.bindOp k src sd words full n gen).part pt = s.part pt := by
  unfold State.bindOp; split <;> simp [hb, hl, hrg, hsl, hpk, hy, hc, hn, hnl, hnm, hcl, hr, hrt]
@[simp] theorem opBindGo_part (k : NodeSel) (src : Src) (sd : Sd) (s : State) (hb : pt ≠ .binding) (hl : pt ≠ .leaf) (hrg : pt ≠ .regions)
    (hsl : pt ≠ .slots) (hpk : pt ≠ .prick) (hy : pt ≠ .mary) (hc : pt ≠ .cellar) (hn : pt ≠ .node k) (hnl : pt ≠ .node .leaf)
    (hnm : pt ≠ .node .mary) (hcl : pt ≠ .cells) (hr : pt ≠ .regs) (hrt : pt ≠ .root) : (opBindGo k src sd s).part pt = s.part pt := by
  simp [opBindGo, hb, hl, hrg, hsl, hpk, hy, hc, hn, hnl, hnm, hcl, hr, hrt]
@[simp] theorem State.doTeardown_part (s : State) (k : NodeSel) (sd : Sd) (hb : pt ≠ .binding) (hl : pt ≠ .leaf) (hrg : pt ≠ .regions)
    (hsl : pt ≠ .slots) (hpk : pt ≠ .prick) (hy : pt ≠ .mary) (hc : pt ≠ .cellar) (hn : pt ≠ .node k) (hnl : pt ≠ .node .leaf)
    (hnm : pt ≠ .node .mary) (hcl : pt ≠ .cells) (hr : pt ≠ .regs) (hrt : pt ≠ .root) : (s.doTeardown k sd).part pt = s.part pt := by
  simp [State.doTeardown, hb, hl, hrg, hsl, hpk, hy, hc, hn, hnl, hnm, hcl, hr, hrt]
@[simp] theorem State.teardownOp_part (s : State) (k : NodeSel) (src : Src) (sd : Sd) (hb : pt ≠ .binding) (hl : pt ≠ .leaf) (hrg : pt ≠ .regions)
    (hsl : pt ≠ .slots) (hpk : pt ≠ .prick) (hy : pt ≠ .mary) (hc : pt ≠ .cellar) (hn : pt ≠ .node k) (hnl : pt ≠ .node .leaf)
    (hnm : pt ≠ .node .mary) (hcl : pt ≠ .cells) (hr : pt ≠ .regs) (hrt : pt ≠ .root) :
    (s.teardownOp k src sd).part pt = s.part pt := by
  simp [State.teardownOp, hb, hl, hrg, hsl, hpk, hy, hc, hn, hnl, hnm, hcl, hr, hrt]
@[simp] theorem opKeySend_part (k : NodeSel) (src : Src) (sd : Sd) (s : State) (hl : pt ≠ .leaf) (hn : pt ≠ .node k) (hrt : pt ≠ .root) :
    (opKeySend k src sd s).part pt = s.part pt := by
  unfold opKeySend; dsimp only; (repeat' split) <;> simp [hl, hn, hrt]
@[simp] theorem State.setWin_part (s : State) (k : NodeSel) (sd : Sd) (lo hi : W64) (hn : pt ≠ .node k) (hrt : pt ≠ .root) :
    (s.setWin k sd lo hi).part pt = s.part pt := by
  simp [State.setWin, hn, hrt]
@[simp] theorem State.grantWin_part (s : State) (k : NodeSel) (sd : Sd) (lo hi : W64) (hm : pt ≠ .medium) (hc : pt ≠ .cellar) (hn : pt ≠ .node k)
    (hrt : pt ≠ .root) :
    (s.grantWin k sd lo hi).part pt = s.part pt := by
  unfold State.grantWin; split <;> simp [hm, hc, hn, hrt]
@[simp] theorem State.stepWinOp_part (s : State) (k : NodeSel) (src : Src) (sd : Sd) (lo hi : W64) (hm : pt ≠ .medium) (hc : pt ≠ .cellar)
    (hn : pt ≠ .node k) (hrt : pt ≠ .root) :
    (s.stepWinOp k src sd lo hi).part pt = s.part pt := by
  simp [State.stepWinOp, hm, hc, hn, hrt]
@[simp] theorem opStepWinSet_part (k : NodeSel) (src : Src) (sd : Sd) (s : State) (hm : pt ≠ .medium) (hc : pt ≠ .cellar) (hn : pt ≠ .node k)
    (hrt : pt ≠ .root) :
    (opStepWinSet k src sd s).part pt = s.part pt := by
  simp [opStepWinSet, hm, hc, hn, hrt]
@[simp] theorem opStepWinAdopt_part (k : NodeSel) (sd : Sd) (s : State) (hn : pt ≠ .node k) (hrt : pt ≠ .root) :
    (opStepWinAdopt k sd s).part pt = s.part pt := by simp [opStepWinAdopt, hn, hrt]
@[simp] theorem State.vintOp_part (s : State) (k : NodeSel) (src : Src) (v : W32) (hc : pt ≠ .cellar) (hn : pt ≠ .node k) (hrt : pt ≠ .root) :
    (s.vintOp k src v).part pt = s.part pt := by
  unfold State.vintOp; dsimp only; (repeat' split) <;> simp [hc, hn, hrt]
@[simp] theorem State.setCtr_part (s : State) (k : NodeSel) (f : Family) (v : W64) (hn : pt ≠ .node k) (hrt : pt ≠ .root) :
    (s.setCtr k f v).part pt = s.part pt := by simp [State.setCtr, hn, hrt]
@[simp] theorem opResFloor_part (k : NodeSel) (src : Src) (v : W64) (s : State) (hc : pt ≠ .cellar) (hn : pt ≠ .node k) (hrt : pt ≠ .root) :
    (opResFloor k src v s).part pt = s.part pt := by
  unfold opResFloor; split <;> simp [hc, hn, hrt]
@[simp] theorem State.floorDone_part (s : State) (f : Family) (v : W64) (hc : pt ≠ .cellar) (hnm : pt ≠ .node .mary) (hrt : pt ≠ .root) :
    (s.floorDone f v).part pt = s.part pt := by simp [State.floorDone, hc, hnm, hrt]
@[simp] theorem opC2Send_part (c : CellRef) (s : State) (hn : pt ≠ .node c.node) (hcl : pt ≠ .cells) (hrt : pt ≠ .root) :
    (opC2Send c s).part pt = s.part pt := by
  unfold opC2Send; dsimp only; (repeat' split) <;> simp [hn, hcl, hrt]

/-! `Link` -/
@[simp] theorem State.voidProbe_part (s : State) (k : NodeSel) (i : Nat) (hn : pt ≠ .node k) (hcl : pt ≠ .cells) :
    (s.voidProbe k i).part pt = s.part pt := by simp [State.voidProbe, hn, hcl]
@[simp] theorem State.voidAll_part (s : State) (k : NodeSel) (i : Nat) (hn : pt ≠ .node k) (hcl : pt ≠ .cells) :
    (s.voidAll k i).part pt = s.part pt := by simp [State.voidAll, hn, hcl]
@[simp] theorem State.darkCell_part (s : State) (k : NodeSel) (i : Nat) (hn : pt ≠ .node k) (hcl : pt ≠ .cells) :
    (s.darkCell k i).part pt = s.part pt := by
  simp [State.darkCell, apply_ite Cell.mute, apply_ite Cell.err, Cell.fallTo, Cell.leave, hn, hcl]
@[simp] theorem State.orphan_part (s : State) (k : NodeSel) (d : Dom) (hn : pt ≠ .node k) (hcl : pt ≠ .cells) :
    (s.orphan k d).part pt = s.part pt := by simp [State.orphan, hn, hcl]
@[simp] theorem State.leftActive_part (s : State) (k : NodeSel) (i : Nat) (hl : pt ≠ .leaf) (hrg : pt ≠ .regions) (hsl : pt ≠ .slots)
    (hpk : pt ≠ .prick) (hy : pt ≠ .mary) (hn : pt ≠ .node k) (hnm : pt ≠ .node .mary) (hcl : pt ≠ .cells) (hr : pt ≠ .regs) (hrt : pt ≠ .root) :
    (s.leftActive k i).part pt = s.part pt := by simp [State.leftActive, hl, hrg, hsl, hpk, hy, hn, hnm, hcl, hr, hrt]
@[simp] theorem State.cellTo_part (s : State) (k : NodeSel) (i : Nat) (st : TState) (f : Cell → Cell) (hl : pt ≠ .leaf) (hrg : pt ≠ .regions)
    (hsl : pt ≠ .slots) (hpk : pt ≠ .prick) (hy : pt ≠ .mary) (hn : pt ≠ .node k) (hnm : pt ≠ .node .mary) (ht : pt ≠ .time) (hcl : pt ≠ .cells)
    (hft : pt ≠ .faults) (hr : pt ≠ .regs) (hrt : pt ≠ .root) : (s.cellTo k i st f).part pt = s.part pt := by
  simp [State.cellTo, hl, hrg, hsl, hpk, hy, hn, hnm, ht, hcl, hft, hr, hrt]
@[simp] theorem State.declareLoss_part (s : State) (k : NodeSel) (i : Nat) (signal : Bool) (hl : pt ≠ .leaf) (hrg : pt ≠ .regions)
    (hsl : pt ≠ .slots) (hpk : pt ≠ .prick) (hy : pt ≠ .mary) (hn : pt ≠ .node k) (hnm : pt ≠ .node .mary) (ht : pt ≠ .time) (hcl : pt ≠ .cells)
    (hft : pt ≠ .faults) (hr : pt ≠ .regs) (hrt : pt ≠ .root) : (s.declareLoss k i signal).part pt = s.part pt := by
  simp [State.declareLoss, hl, hrg, hsl, hpk, hy, hn, hnm, ht, hcl, hft, hr, hrt]
@[simp] theorem State.cellReset_part (s : State) (k : NodeSel) (i : Nat) (hl : pt ≠ .leaf) (hrg : pt ≠ .regions) (hsl : pt ≠ .slots)
    (hpk : pt ≠ .prick) (hy : pt ≠ .mary) (hn : pt ≠ .node k) (hnm : pt ≠ .node .mary) (ht : pt ≠ .time) (hcl : pt ≠ .cells) (hft : pt ≠ .faults)
    (hr : pt ≠ .regs) (hrt : pt ≠ .root) : (s.cellReset k i).part pt = s.part pt := by simp [State.cellReset, hl, hrg, hsl, hpk, hy, hn, hnm, ht,
    hcl, hft, hr, hrt]
@[simp] theorem opPortEn_part (k : NodeSel) (i : Nat) (v : Bool) (s : State) (hl : pt ≠ .leaf) (hrg : pt ≠ .regions) (hsl : pt ≠ .slots)
    (hpk : pt ≠ .prick) (hy : pt ≠ .mary) (hn : pt ≠ .node k) (hnm : pt ≠ .node .mary) (ht : pt ≠ .time) (hcl : pt ≠ .cells) (hft : pt ≠ .faults)
    (hle : pt ≠ .leafErr) (hr : pt ≠ .regs) (hrt : pt ≠ .root) : (opPortEn k i v s).part pt = s.part pt := by simp [opPortEn, hl, hrg, hsl, hpk, hy,
    hn, hnm, ht, hcl, hft, hle, hr, hrt]
@[simp] theorem opTest_part (k : NodeSel) (i : Nat) (v : Bool) (s : State) (hn : pt ≠ .node k) (hcl : pt ≠ .cells) (hft : pt ≠ .faults) :
    (opTest k i v s).part pt = s.part pt := by simp [opTest, hn, hcl, hft]
@[simp] theorem opCdrLock_part (k : NodeSel) (i : Nat) (s : State) (hn : pt ≠ .node k) (hcl : pt ≠ .cells) (hft : pt ≠ .faults) :
    (opCdrLock k i s).part pt = s.part pt := by simp [opCdrLock, hn, hcl, hft]
@[simp] theorem opCdrTimeout_part (k : NodeSel) (i : Nat) (s : State) (hn : pt ≠ .node k) (ht : pt ≠ .time) (hcl : pt ≠ .cells)
    (hft : pt ≠ .faults) : (opCdrTimeout k i s).part pt = s.part pt := by simp [opCdrTimeout, hn, ht, hcl, hft]
@[simp] theorem opLossOfSignal_part (k : NodeSel) (i : Nat) (s : State) (hl : pt ≠ .leaf) (hrg : pt ≠ .regions) (hsl : pt ≠ .slots)
    (hpk : pt ≠ .prick) (hy : pt ≠ .mary) (hn : pt ≠ .node k) (hnm : pt ≠ .node .mary) (ht : pt ≠ .time) (hcl : pt ≠ .cells) (hft : pt ≠ .faults)
    (hr : pt ≠ .regs) (hrt : pt ≠ .root) : (opLossOfSignal k i s).part pt = s.part pt := by
  unfold opLossOfSignal; dsimp only; split <;> simp [hl, hrg, hsl, hpk, hy, hn, hnm, ht, hcl, hft, hr, hrt]
@[simp] theorem opHelloSend_part (k : NodeSel) (i : Nat) (s : State) (hn : pt ≠ .node k) (ht : pt ≠ .time) (hcl : pt ≠ .cells)
    (hft : pt ≠ .faults) : (opHelloSend k i s).part pt = s.part pt := by simp [opHelloSend, hn, ht, hcl, hft]
@[simp] theorem State.enterDelay_part (s : State) (k : NodeSel) (i : Nat) (h : LinkCtl) (hn : pt ≠ .node k) (hcl : pt ≠ .cells)
    (hft : pt ≠ .faults) : (s.enterDelay k i h).part pt = s.part pt := by
  simp [State.enterDelay, hn, hcl, hft]
@[simp] theorem opHelloRx_part (k : NodeSel) (i : Nat) (h : LinkCtl) (s : State) (hn : pt ≠ .node k) (hcl : pt ≠ .cells) (hft : pt ≠ .faults) :
    (opHelloRx k i h s).part pt = s.part pt := by simp [opHelloRx, hn, hcl, hft]
@[simp] theorem opBarRx_part (k : NodeSel) (i : Nat) (bar : BitVec 3) (s : State) (hn : pt ≠ .node k) (hcl : pt ≠ .cells) (hft : pt ≠ .faults) :
    (opBarRx k i bar s).part pt = s.part pt := by simp [opBarRx, hn, hcl, hft]
@[simp] theorem opBarApply_part (k : NodeSel) (i : Nat) (s : State) (hn : pt ≠ .node k) (ht : pt ≠ .time) (hcl : pt ≠ .cells) (hft : pt ≠ .faults) :
    (opBarApply k i s).part pt = s.part pt := by unfold opBarApply; split <;> simp [hn, ht, hcl, hft]
@[simp] theorem opLinkAckRx_part (k : NodeSel) (i : Nat) (nak : Bool) (rseq : Byte) (s : State) (hn : pt ≠ .node k) (hcl : pt ≠ .cells) :
    (opLinkAckRx k i nak rseq s).part pt = s.part pt := by
  simp [opLinkAckRx, hn, hcl]
@[simp] theorem opLinkAckTimer_part (k : NodeSel) (i : Nat) (s : State) (hn : pt ≠ .node k) (ht : pt ≠ .time) (hcl : pt ≠ .cells)
    (hft : pt ≠ .faults) : (opLinkAckTimer k i s).part pt = s.part pt := by
  unfold opLinkAckTimer; split <;> simp [hn, ht, hcl, hft]
@[simp] theorem opRetryTimeout_part (k : NodeSel) (i : Nat) (s : State) (hn : pt ≠ .node k) (ht : pt ≠ .time) (hcl : pt ≠ .cells) :
    (opRetryTimeout k i s).part pt = s.part pt := by simp [opRetryTimeout, hn, ht, hcl]
@[simp] theorem opRetryResend_part (k : NodeSel) (i : Nat) (s : State) (hl : pt ≠ .leaf) (hrg : pt ≠ .regions) (hsl : pt ≠ .slots)
    (hpk : pt ≠ .prick) (hy : pt ≠ .mary) (hn : pt ≠ .node k) (hnm : pt ≠ .node .mary) (ht : pt ≠ .time) (hcl : pt ≠ .cells) (hft : pt ≠ .faults)
    (hr : pt ≠ .regs) (hrt : pt ≠ .root) : (opRetryResend k i s).part pt = s.part pt := by simp [opRetryResend, hl, hrg, hsl, hpk, hy, hn, hnm, ht,
    hcl, hft, hr, hrt]
@[simp] theorem State.dropHeld_part (s : State) (k : NodeSel) (i : Nat) (hn : pt ≠ .node k) (hcl : pt ≠ .cells) (hft : pt ≠ .faults) :
    (s.dropHeld k i).part pt = s.part pt := by simp [State.dropHeld, hn, hcl, hft]
@[simp] theorem opRetryDiscard_part (k : NodeSel) (i : Nat) (s : State) (hn : pt ≠ .node k) (ht : pt ≠ .time) (hcl : pt ≠ .cells)
    (hft : pt ≠ .faults) : (opRetryDiscard k i s).part pt = s.part pt := by
  unfold opRetryDiscard; dsimp only; split <;> simp [hn, ht, hcl, hft]
@[simp] theorem State.stomp_part (s : State) (k : NodeSel) (i : Nat) (held : Bool) (t : W64) (hn : pt ≠ .node k) (hcl : pt ≠ .cells)
    (hft : pt ≠ .faults) : (s.stomp k i held t).part pt = s.part pt := by
  simp [State.stomp, hn, hcl, hft]
@[simp] theorem State.cutThrough_part (s : State) (k : NodeSel) (i : Nat) (t : W64) (hn : pt ≠ .node k) (hcl : pt ≠ .cells) (hft : pt ≠ .faults) :
    (s.cutThrough k i t).part pt = s.part pt := by
  simp [State.cutThrough, hn, hcl, hft]
@[simp] theorem State.takeTok_part (s : State) (k : NodeSel) (i : Nat) (f : Frame) (c0 cx : Bool) (j : Nat) (hn : pt ≠ .node k) (hcl : pt ≠ .cells)
    (hft : pt ≠ .faults) :
    (s.takeTok k i f c0 cx j).part pt = s.part pt := by
  simp [State.takeTok, hn, hcl, hft]
@[simp] theorem State.takeFrame_part (s : State) (k : NodeSel) (i : Nat) (f : Frame) (good : Bool) (hn : pt ≠ .node k) (hcl : pt ≠ .cells)
    (hft : pt ≠ .faults) :
    (s.takeFrame k i f good).part pt = s.part pt := by
  simp [State.takeFrame, hn, hcl, hft]
@[simp] theorem State.gainAlign_part (s : State) (k : NodeSel) (i : Nat) (hn : pt ≠ .node k) (ht : pt ≠ .time) (hcl : pt ≠ .cells)
    (hft : pt ≠ .faults) : (s.gainAlign k i).part pt = s.part pt := by simp [State.gainAlign, hn, ht, hcl, hft]
@[simp] theorem opFrameRx_part (k : NodeSel) (i : Nat) (f : Frame) (s : State) (hl : pt ≠ .leaf) (hrg : pt ≠ .regions) (hsl : pt ≠ .slots)
    (hpk : pt ≠ .prick) (hy : pt ≠ .mary) (hn : pt ≠ .node k) (hnm : pt ≠ .node .mary) (ht : pt ≠ .time) (hcl : pt ≠ .cells) (hft : pt ≠ .faults)
    (hr : pt ≠ .regs) (hrt : pt ≠ .root) : (opFrameRx k i f s).part pt = s.part pt := by
  unfold opFrameRx; dsimp only; split <;> simp [hl, hrg, hsl, hpk, hy, hn, hnm, ht, hcl, hft, hr, hrt]
@[simp] theorem opLineRx_part (k : NodeSel) (i : Nat) (l : LineFrame) (pos : Nat) (s : State) (hl : pt ≠ .leaf) (hrg : pt ≠ .regions)
    (hsl : pt ≠ .slots) (hpk : pt ≠ .prick) (hy : pt ≠ .mary) (hn : pt ≠ .node k) (hnm : pt ≠ .node .mary) (ht : pt ≠ .time) (hcl : pt ≠ .cells)
    (hft : pt ≠ .faults) (hr : pt ≠ .regs) (hrt : pt ≠ .root) : (opLineRx k i l pos s).part pt = s.part pt := by
  simp [opLineRx, hl, hrg, hsl, hpk, hy, hn, hnm, ht, hcl, hft, hr, hrt]
@[simp] theorem State.takeOwn_part (s : State) (k : NodeSel) (i : Nat) (d : Dom) (hn : pt ≠ .node k) (hcl : pt ≠ .cells) (hft : pt ≠ .faults) :
    (s.takeOwn k i d).part pt = s.part pt := by
  unfold State.takeOwn; split <;> simp [hn, hcl, hft]
@[simp] theorem State.countC3_part (s : State) (k : NodeSel) (cell n : Nat) (hn : pt ≠ .node k) : (s.countC3 k cell n).part pt = s.part pt := by
  unfold State.countC3; split <;> simp [hn]
@[simp] theorem State.refillC3_part (s : State) (k : NodeSel) (i : Nat) (own8 : Bool) (hn : pt ≠ .node k) (hcl : pt ≠ .cells) (hft : pt ≠ .faults) :
    (s.refillC3 k i own8).part pt = s.part pt := by
  unfold State.refillC3; dsimp only; (repeat' split) <;> simp [hn, hcl, hft]
theorem State.slotC0_part (s : State) (k : NodeSel) (i : Nat) (hn : pt ≠ .node k) (hcl : pt ≠ .cells) (hft : pt ≠ .faults) :
    s.SlotPart pt (s.slotC0 k i) := by unfold State.slotC0; split <;> simp [hn, hcl, hft]
theorem State.slotAck_part (s : State) (k : NodeSel) (i : Nat) (hn : pt ≠ .node k) (hcl : pt ≠ .cells) (hft : pt ≠ .faults) :
    s.SlotPart pt (s.slotAck k i) := by unfold State.slotAck; split <;> simp [hn, hcl, hft]
theorem State.slotCtl_part (s : State) (k : NodeSel) (i : Nat) (hn : pt ≠ .node k) (hcl : pt ≠ .cells) (hft : pt ≠ .faults) :
    s.SlotPart pt (s.slotCtl k i) := by unfold State.slotCtl; (repeat' split) <;> simp [hn, hcl, hft]
theorem State.slotC3_part (s : State) (k : NodeSel) (i : Nat) (own8 : Bool) (hn : pt ≠ .node k) (hcl : pt ≠ .cells) (hft : pt ≠ .faults) :
    s.SlotPart pt (s.slotC3 k i own8) :=
  State.slotPart_map pt _ _ (by simp [hn, hcl, hft])
theorem State.slotCx_part (s : State) (k : NodeSel) (i : Nat) (hn : pt ≠ .node k) (hcl : pt ≠ .cells) (hft : pt ≠ .faults) :
    s.SlotPart pt (s.slotCx k i) := by
  unfold State.slotCx; split <;> simp [State.slotC3_part, hn, hcl, hft]
theorem State.slotEcho_part (s : State) (k : NodeSel) (i : Nat) (edge : W64) (hn : pt ≠ .node k) (hcl : pt ≠ .cells) (hft : pt ≠ .faults) :
    s.SlotPart pt (s.slotEcho k i edge) := by
  unfold State.slotEcho; split <;> simp [hn, hcl, hft]
theorem State.slotProbe_part (s : State) (k : NodeSel) (i : Nat) (edge : W64) (hn : pt ≠ .node k) (hcl : pt ≠ .cells) :
    s.SlotPart pt (s.slotProbe k i edge) := by
  unfold State.slotProbe; split <;> simp [hn, hcl]
theorem firstOf_part (s : State) (l : List (Option (State × W64))) (h : ∀ o ∈ l, s.SlotPart pt o) : s.SlotPart pt (firstOf l) := fun p hp => by
  obtain ⟨o, ho, he⟩ := List.exists_of_findSome?_eq_some hp
  exact h o ho p he
theorem State.slotMode_part (s : State) (k : NodeSel) (i : Nat) (m : CxMode) (hn : pt ≠ .node k) (hcl : pt ≠ .cells) (hft : pt ≠ .faults) :
    ∀ p, s.slotMode k i m = some p → p.1.1.part pt = s.part pt := fun p hp => by
  unfold State.slotMode at hp
  split at hp
  · cases hp
  · cases hp
  · cases hp; rfl
  · obtain ⟨q, hq, rfl⟩ := Option.map_eq_some_iff.1 hp
    exact s.slotCx_part pt k i hn hcl hft q hq
@[simp] theorem State.fillSlot_part (s : State) (k : NodeSel) (i : Nat) (f : FillCtx) (m : CxMode) (j : Nat) (hn : pt ≠ .node k) (hcl : pt ≠ .cells)
    (hft : pt ≠ .faults) :
    (s.fillSlot k i f m j).1.part pt = s.part pt := by
  unfold State.fillSlot
  dsimp only
  split
  · next p hp =>
    refine firstOf_part pt s _ (fun o ho => ?_) p hp
    split at ho
    · simp only [List.cons_append, List.mem_cons, List.mem_append] at ho
      rcases ho with rfl | rfl | ho | ho
      · exact State.slotPart_map pt _ _ (fun _ => rfl)
      · split
        · exact s.slotC3_part pt k i true hn hcl hft
        · exact s.slotPart_none pt
      · split at ho
        · rcases List.mem_pair.1 ho with rfl | rfl
          · exact s.slotEcho_part pt k i f.edge hn hcl hft
          · exact s.slotProbe_part pt k i f.edge hn hcl
        · exact absurd ho (List.not_mem_nil)
      · rcases List.mem_pair.1 (by simpa using ho) with rfl | rfl
        · exact s.slotAck_part pt k i hn hcl hft
        · exact s.slotCtl_part pt k i hn hcl hft
    · simp only [List.mem_cons, List.not_mem_nil, or_false] at ho
      rcases ho with rfl | rfl | rfl
      · exact s.slotC0_part pt k i hn hcl hft
      · exact s.slotAck_part pt k i hn hcl hft
      · exact s.slotCtl_part pt k i hn hcl hft
  · split
    · exact s.slotMode_part pt k i m hn hcl hft _ (by assumption)
    · rfl
@[simp] theorem State.fillFrame_part (s : State) (k : NodeSel) (i : Nat) (f : FillCtx) (m : CxMode) (hn : pt ≠ .node k) (hcl : pt ≠ .cells)
    (hft : pt ≠ .faults) :
    (s.fillFrame k i f m).1.part pt = s.part pt := by
  have h : ∀ (l : List Nat) (st : State × List W64 × CxMode), (l.foldl (fun st j =>
      let r := st.1.fillSlot k i f st.2.2 j
      (r.1, st.2.1 ++ [r.2.1], r.2.2)) st).1.part pt = st.1.part pt := by
    intro l
    induction l with
    | nil => intro st; rfl
    | cons j l ih => intro st; rw [List.foldl_cons, ih]; simp [hn, hcl, hft]
  exact h _ _
@[simp] theorem State.frameOf_part (s : State) (k : NodeSel) (i : Nat) (f : FillCtx) (hn : pt ≠ .node k) (hcl : pt ≠ .cells) (hft : pt ≠ .faults) :
    (s.frameOf k i f).1.part pt = s.part pt := by
  unfold State.frameOf; dsimp only; (repeat' split) <;> simp [hn, hcl, hft]
@[simp] theorem State.dropLate_part (s : State) (k : NodeSel) (i : Nat) (edge : W64) (hn : pt ≠ .node k) (hcl : pt ≠ .cells) (hft : pt ≠ .faults) :
    (s.dropLate k i edge).part pt = s.part pt := by
  unfold State.dropLate; split <;> simp [hn, hcl, hft]
@[simp] theorem opFrameStart_part (k : NodeSel) (i : Nat) (s : State) (hn : pt ≠ .node k) (ht : pt ≠ .time) (hcl : pt ≠ .cells)
    (hft : pt ≠ .faults) : (opFrameStart k i s).part pt = s.part pt := by simp [opFrameStart, hn, ht, hcl, hft]

/-! `Fail` -/
@[simp] theorem State.muteCell_part (s : State) (k : NodeSel) (why i : Nat) (hl : pt ≠ .leaf) (hrg : pt ≠ .regions) (hsl : pt ≠ .slots)
    (hpk : pt ≠ .prick) (hy : pt ≠ .mary) (hn : pt ≠ .node k) (hnm : pt ≠ .node .mary) (ht : pt ≠ .time) (hcl : pt ≠ .cells) (hft : pt ≠ .faults)
    (hr : pt ≠ .regs) (hrt : pt ≠ .root) : (s.muteCell k why i).part pt = s.part pt := by simp [State.muteCell, hl, hrg, hsl, hpk, hy, hn, hnm, ht,
    hcl, hft, hr, hrt]
@[simp] theorem State.muteCells_part (s : State) (k : NodeSel) (why : Nat) (l : List Nat) (hl : pt ≠ .leaf) (hrg : pt ≠ .regions)
    (hsl : pt ≠ .slots) (hpk : pt ≠ .prick) (hy : pt ≠ .mary) (hn : pt ≠ .node k) (hnm : pt ≠ .node .mary) (ht : pt ≠ .time) (hcl : pt ≠ .cells)
    (hft : pt ≠ .faults) (hr : pt ≠ .regs) (hrt : pt ≠ .root) : (s.muteCells k why l).part pt = s.part pt := by
  simp [State.muteCells, hl, hrg, hsl, hpk, hy, hn, hnm, ht, hcl, hft, hr, hrt]
@[simp] theorem State.unmuteCells_part (s : State) (k : NodeSel) (why : Nat) (l : List Nat) (hn : pt ≠ .node k) (hcl : pt ≠ .cells)
    (hft : pt ≠ .faults) : (s.unmuteCells k why l).part pt = s.part pt := by
  simp [State.unmuteCells, hn, hcl, hft]
@[simp] theorem State.modGroup_part (s : State) (g : Nat) (f : Group → Group) (hy : pt ≠ .mary) (hme : pt ≠ .maryErr) :
    (s.modGroup g f).part pt = s.part pt := by simp [State.modGroup, hy, hme]
@[simp] theorem State.modQuad_part (s : State) (q : Nat) (f : Quad → Quad) (hy : pt ≠ .mary) (hme : pt ≠ .maryErr) :
    (s.modQuad q f).part pt = s.part pt := by simp [State.modQuad, hy, hme]
@[simp] theorem opCellFault_part (c : Nat) (kd : CellFaultKind) (s : State) (hl : pt ≠ .leaf) (hrg : pt ≠ .regions) (hsl : pt ≠ .slots)
    (hpk : pt ≠ .prick) (hy : pt ≠ .mary) (hnm : pt ≠ .node .mary) (ht : pt ≠ .time) (hcl : pt ≠ .cells) (hft : pt ≠ .faults) (hr : pt ≠ .regs)
    (hrt : pt ≠ .root) : (opCellFault c kd s).part pt = s.part pt := by simp [opCellFault, hl, hrg, hsl, hpk, hy, hnm, ht, hcl, hft, hr, hrt]
@[simp] theorem opGroupFault_part (g : Nat) (kd : GroupFaultKind) (s : State) (hl : pt ≠ .leaf) (hrg : pt ≠ .regions) (hsl : pt ≠ .slots)
    (hpk : pt ≠ .prick) (hy : pt ≠ .mary) (hnm : pt ≠ .node .mary) (ht : pt ≠ .time) (hcl : pt ≠ .cells) (hft : pt ≠ .faults) (hme : pt ≠ .maryErr)
    (hr : pt ≠ .regs) (hrt : pt ≠ .root) : (opGroupFault g kd s).part pt = s.part pt := by simp [opGroupFault, hl, hrg, hsl, hpk, hy, hnm, ht, hcl,
    hft, hme, hr, hrt]
@[simp] theorem opQuadFault_part (q : Nat) (kd : QuadFaultKind) (s : State) (hl : pt ≠ .leaf) (hrg : pt ≠ .regions) (hsl : pt ≠ .slots)
    (hpk : pt ≠ .prick) (hy : pt ≠ .mary) (hnm : pt ≠ .node .mary) (ht : pt ≠ .time) (hcl : pt ≠ .cells) (hft : pt ≠ .faults) (hme : pt ≠ .maryErr)
    (hr : pt ≠ .regs) (hrt : pt ≠ .root) : (opQuadFault q kd s).part pt = s.part pt := by simp [opQuadFault, hl, hrg, hsl, hpk, hy, hnm, ht, hcl,
    hft, hme, hr, hrt]
@[simp] theorem opChipFault_part (kd : ChipFaultKind) (s : State) (hl : pt ≠ .leaf) (hrg : pt ≠ .regions) (hsl : pt ≠ .slots) (hpk : pt ≠ .prick)
    (hy : pt ≠ .mary) (hnm : pt ≠ .node .mary) (ht : pt ≠ .time) (hcl : pt ≠ .cells) (hft : pt ≠ .faults) (hme : pt ≠ .maryErr) (hr : pt ≠ .regs)
    (hrt : pt ≠ .root) : (opChipFault kd s).part pt = s.part pt := by simp [opChipFault, hl, hrg, hsl, hpk, hy, hnm, ht, hcl, hft, hme, hr, hrt]
@[simp] theorem opLeafCellFault_part (c : Nat) (s : State) (hl : pt ≠ .leaf) (hrg : pt ≠ .regions) (hsl : pt ≠ .slots) (hpk : pt ≠ .prick)
    (hy : pt ≠ .mary) (hnl : pt ≠ .node .leaf) (hnm : pt ≠ .node .mary) (ht : pt ≠ .time) (hcl : pt ≠ .cells) (hft : pt ≠ .faults)
    (hle : pt ≠ .leafErr) (hr : pt ≠ .regs) (hrt : pt ≠ .root) : (opLeafCellFault c s).part pt = s.part pt := by simp [opLeafCellFault, hl, hrg,
    hsl, hpk, hy, hnl, hnm, ht, hcl, hft, hle, hr, hrt]
@[simp] theorem opLeafFatal_part (s : State) (hl : pt ≠ .leaf) (hrg : pt ≠ .regions) (hsl : pt ≠ .slots) (hpk : pt ≠ .prick) (hy : pt ≠ .mary)
    (hnl : pt ≠ .node .leaf) (hnm : pt ≠ .node .mary) (ht : pt ≠ .time) (hcl : pt ≠ .cells) (hft : pt ≠ .faults) (hle : pt ≠ .leafErr)
    (hr : pt ≠ .regs) (hrt : pt ≠ .root) : (opLeafFatal s).part pt = s.part pt := by simp [opLeafFatal, hl, hrg, hsl, hpk, hy, hnl, hnm, ht, hcl,
    hft, hle, hr, hrt]
@[simp] theorem opDarkReturn_part (k : NodeSel) (d : Dom) (s : State) (hn : pt ≠ .node k) (hcl : pt ≠ .cells) (hft : pt ≠ .faults) :
    (opDarkReturn k d s).part pt = s.part pt := by simp [opDarkReturn, hn, hcl, hft]

/-! `Hist` -/
@[simp] theorem State.histPut_part (s : State) (hkind idx : Nat) (v : W64) (hm : pt ≠ .medium) (hc : pt ≠ .cellar) :
    (s.histPut hkind idx v).part pt = s.part pt := by
  simp [State.histPut, hm, hc]
@[simp] theorem State.modMe_part (s : State) (f : Me → Me) (hy : pt ≠ .mary) : (s.modMe f).part pt = s.part pt := by simp [State.modMe, hy]
@[simp] theorem State.engineTrend_part (s : State) (i : Nat) (own : Bool) (r : TeleRec) (hm : pt ≠ .medium) (hy : pt ≠ .mary) (hc : pt ≠ .cellar) :
    (s.engineTrend i own r).part pt = s.part pt := by
  simp [State.engineTrend, hm, hy, hc]
@[simp] theorem State.engineTakes_part (s : State) (i : Nat) (r : TeleRec) (hm : pt ≠ .medium) (hy : pt ≠ .mary) (hc : pt ≠ .cellar) :
    (s.engineTakes i r).part pt = s.part pt := by
  simp [State.engineTakes, hm, hy, hc]

/-! `Delay` -/
@[simp] theorem State.takeDelay_part (s : State) (k : NodeSel) (i : Nat) (hn : pt ≠ .node k) (hcl : pt ≠ .cells) :
    (s.takeDelay k i).part pt = s.part pt := by simp [State.takeDelay, hn, hcl]
@[simp] theorem opProbeSend_part (k : NodeSel) (i : Nat) (s : State) (hn : pt ≠ .node k) (ht : pt ≠ .time) (hcl : pt ≠ .cells) :
    (opProbeSend k i s).part pt = s.part pt := by
  unfold opProbeSend; split <;> simp [hn, ht, hcl]
@[simp] theorem opProbeTmo_part (k : NodeSel) (i : Nat) (id : Byte) (s : State) (hn : pt ≠ .node k) (ht : pt ≠ .time) (hcl : pt ≠ .cells) :
    (opProbeTmo k i id s).part pt = s.part pt := by
  unfold opProbeTmo; split <;> simp [hn, ht, hcl]
@[simp] theorem State.dropStamp_part (s : State) (k : NodeSel) (i : Nat) (b : Bool) (hn : pt ≠ .node k) (hcl : pt ≠ .cells) (hft : pt ≠ .faults) :
    (s.dropStamp k i b).part pt = s.part pt := by
  simp [State.dropStamp, hn, hcl, hft]
@[simp] theorem opDelayProbeRx_part (k : NodeSel) (i : Nat) (id : Byte) (s : State) (hn : pt ≠ .node k) (hcl : pt ≠ .cells) (hft : pt ≠ .faults) :
    (opDelayProbeRx k i id s).part pt = s.part pt := by
  unfold opDelayProbeRx; dsimp only; (repeat' split) <;> simp [hn, hcl, hft]
@[simp] theorem opEchoTx_part (k : NodeSel) (i : Nat) (s : State) (hn : pt ≠ .node k) (hcl : pt ≠ .cells) (hft : pt ≠ .faults) :
    (opEchoTx k i s).part pt = s.part pt := by
  unfold opEchoTx; dsimp only; (repeat' split) <;> simp [hn, hcl, hft]
@[simp] theorem State.enterActive_part (s : State) (k : NodeSel) (i : Nat) (hn : pt ≠ .node k) (hcl : pt ≠ .cells) (hft : pt ≠ .faults) :
    (s.enterActive k i).part pt = s.part pt := by simp [State.enterActive, hn, hcl, hft]
@[simp] theorem State.takeSample_part (s : State) (k : NodeSel) (i : Nat) (sigma : Int) (hn : pt ≠ .node k) (hcl : pt ≠ .cells)
    (hft : pt ≠ .faults) : (s.takeSample k i sigma).part pt = s.part pt := by
  simp [State.takeSample, hn, hcl, hft]
@[simp] theorem opDelayEchoRx_part (k : NodeSel) (i : Nat) (id : Byte) (turn : W32) (s : State) (hn : pt ≠ .node k) (hcl : pt ≠ .cells)
    (hft : pt ≠ .faults) :
    (opDelayEchoRx k i id turn s).part pt = s.part pt := by
  unfold opDelayEchoRx; dsimp only; (repeat' split) <;> simp [hn, hcl, hft]
@[simp] theorem opAsymSwap_part (k : NodeSel) (i : Nat) (v : W32) (s : State) (hc : pt ≠ .cellar) (hn : pt ≠ .node k) (hcl : pt ≠ .cells)
    (hr : pt ≠ .regs) : (opAsymSwap k i v s).part pt = s.part pt := by
  unfold opAsymSwap; split <;> simp [hc, hn, hcl, hr]
@[simp] theorem State.picotDelay_part (s : State) (k : NodeSel) (i : Nat) (hn : pt ≠ .node k) (hcl : pt ≠ .cells) :
    (s.picotDelay k i).part pt = s.part pt := by simp [State.picotDelay, hn, hcl]
@[simp] theorem opTrendSend_part (k : NodeSel) (i : Nat) (s : State) (hm : pt ≠ .medium) (hy : pt ≠ .mary) (hc : pt ≠ .cellar) (hn : pt ≠ .node k)
    (hnm : pt ≠ .node .mary) (ht : pt ≠ .time) (hcl : pt ≠ .cells) (hrt : pt ≠ .root) : (opTrendSend k i s).part pt = s.part pt := by
  unfold opTrendSend
  dsimp only
  split
  · rfl
  · split <;> simp only [State.engineTrend_part, State.modDly_part, State.originTel_part, State.ite_part, State.advTo_part, ite_self, ne_eq,
      not_false_eq_true, hm, hy, hc, hn, hnm, ht, hcl, hrt]
@[simp] theorem State.widen_part (s : State) (k : NodeSel) (resid : Bool) (hn : pt ≠ .node k) (hrt : pt ≠ .root) :
    (s.widen k resid).part pt = s.part pt :=
  s.modRoot_part pt k _ hn hrt
@[simp] theorem opTelemetryRx_part (k : NodeSel) (i : Nat) (r : TeleRec) (s : State) (hm : pt ≠ .medium) (hy : pt ≠ .mary) (hc : pt ≠ .cellar)
    (hn : pt ≠ .node k) (hnm : pt ≠ .node .mary) (hcl : pt ≠ .cells) (hft : pt ≠ .faults) (hrt : pt ≠ .root) :
    (opTelemetryRx k i r s).part pt = s.part pt := by
  simp [opTelemetryRx, hm, hy, hc, hn, hnm, hcl, hft, hrt]
@[simp] theorem opPlanCmd_part (k : NodeSel) (s : State) (hn : pt ≠ .node k) (hrt : pt ≠ .root) : (opPlanCmd k s).part pt = s.part pt := by
  simp [opPlanCmd, hn, hrt]

/-! `Interp` -/
@[simp] theorem State.modChan_part (s : State) (k : NodeSel) (j : Nat) (f : Chan → Chan) (hl : pt ≠ .leaf) (hy : pt ≠ .mary) (hme : pt ≠ .maryErr) :
    (s.modChan k j f).part pt = s.part pt := by
  unfold State.modChan
  split
  · exact s.modLeaf_part_same pt _ hl (fun l => by split <;> simp)
  · split <;> simp [hy, hme]
@[simp] theorem State.modChanAdv_part (s : State) (k : NodeSel) (j : Nat) (f : Chan → Chan) (hl : pt ≠ .leaf) (hy : pt ≠ .mary) (hn : pt ≠ .node k)
    (hcl : pt ≠ .cells) (hme : pt ≠ .maryErr) : (s.modChanAdv k j f).part pt = s.part pt := by
  simp [State.modChanAdv, hl, hy, hn, hcl, hme]
@[simp] theorem State.takePair_part (s : State) (k : NodeSel) (j : Nat) (e : W64) (c1 c2 : Byte) (hl : pt ≠ .leaf) (hy : pt ≠ .mary)
    (hn : pt ≠ .node k) (hcl : pt ≠ .cells) (hme : pt ≠ .maryErr) : (s.takePair k j e c1 c2).part pt = s.part pt := by
  simp [State.takePair, hl, hy, hn, hcl, hme]
@[simp] theorem State.convert_part (s : State) (k : NodeSel) (j : Nat) (e : W64) (c : Byte) : (s.convert k j e c).2.part pt = s.part pt := by
  unfold State.convert; split <;> simp
@[simp] theorem State.densityHit_part (s : State) (k : NodeSel) (j : Nat) (d : DensityCode) (hl : pt ≠ .leaf) (hy : pt ≠ .mary)
    (hme : pt ≠ .maryErr) : (s.densityHit k j d).part pt = s.part pt := by
  simp [State.densityHit, hl, hy, hme]
@[simp] theorem State.statResult_part (s : State) (src : Nat) (x : Int) (tmo coarse uncal : Bool) (hl : pt ≠ .leaf) (hnl : pt ≠ .node .leaf) :
    (s.statResult src x tmo coarse uncal).part pt = s.part pt := by
  simp [State.statResult, hl, hnl]
@[simp] theorem opStatGo_part (s : State) (hl : pt ≠ .leaf) : (opStatGo s).part pt = s.part pt := by simp [opStatGo, hl]
@[simp] theorem opStatStop_part (s : State) (hl : pt ≠ .leaf) : (opStatStop s).part pt = s.part pt :=
  s.modLeaf_part_same pt _ hl (fun l => by split <;> simp)
@[simp] theorem State.picotMeasured_part (s : State) (k : NodeSel) (i : Nat) (rc : W64) (pos : Nat) (p : Nat) (d : Int) (hy : pt ≠ .mary)
    (hn : pt ≠ .node k) (hnm : pt ≠ .node .mary) (ht : pt ≠ .time) :
    (s.picotMeasured k i rc pos p d).part pt = s.part pt := by
  simp [State.picotMeasured, hy, hn, hnm, ht]
@[simp] theorem State.keepStamp_part (s : State) (k : NodeSel) (i : Nat) (tok : Option Bool) (t : Option Stamp) (hn : pt ≠ .node k)
    (hcl : pt ≠ .cells) (hft : pt ≠ .faults) :
    (s.keepStamp k i tok t).part pt = s.part pt := by
  unfold State.keepStamp; split <;> simp [hn, hcl, hft]
@[simp] theorem State.serveReq_part (s : State) (k : NodeSel) (i : Nat) (ph : Int) (r : StampReq) (hy : pt ≠ .mary) (hn : pt ≠ .node k)
    (hnm : pt ≠ .node .mary) (ht : pt ≠ .time) (hcl : pt ≠ .cells) (hft : pt ≠ .faults) : (s.serveReq k i ph r).part pt = s.part pt := by
  unfold State.serveReq; split <;> simp [hy, hn, hnm, ht, hcl, hft]
@[simp] theorem State.voidLate_part (s : State) (k : NodeSel) (i : Nat) (hn : pt ≠ .node k) (hcl : pt ≠ .cells) (hft : pt ≠ .faults) :
    (s.voidLate k i).part pt = s.part pt := by simp [State.voidLate, hn, hcl, hft]
@[simp] theorem State.ch0Check_part (s : State) (g : Nat) (c1 c2 : Byte) (hl : pt ≠ .leaf) (hrg : pt ≠ .regions) (hsl : pt ≠ .slots)
    (hpk : pt ≠ .prick) (hy : pt ≠ .mary) (hnm : pt ≠ .node .mary) (ht : pt ≠ .time) (hcl : pt ≠ .cells) (hft : pt ≠ .faults) (hme : pt ≠ .maryErr)
    (hr : pt ≠ .regs) (hrt : pt ≠ .root) : (s.ch0Check g c1 c2).part pt = s.part pt := by simp [State.ch0Check, hl, hrg, hsl, hpk, hy, hnm, ht, hcl,
    hft, hme, hr, hrt]
@[simp] theorem opShot_part (k : NodeSel) (i : Nat) (c1 c2 code : Byte) (s : State) (hl : pt ≠ .leaf) (hrg : pt ≠ .regions) (hsl : pt ≠ .slots)
    (hpk : pt ≠ .prick) (hy : pt ≠ .mary) (hn : pt ≠ .node k) (hnm : pt ≠ .node .mary) (ht : pt ≠ .time) (hcl : pt ≠ .cells) (hft : pt ≠ .faults)
    (hme : pt ≠ .maryErr) (hr : pt ≠ .regs) (hrt : pt ≠ .root) : (opShot k i c1 c2 code s).part pt = s.part pt := by
  unfold opShot; dsimp only; (repeat' split) <;> simp [hl, hrg, hsl, hpk, hy, hn, hnm, ht, hcl, hft, hme, hr, hrt]
@[simp] theorem opPhVoid_part (k : NodeSel) (i : Nat) (s : State) (hn : pt ≠ .node k) (ht : pt ≠ .time) (hcl : pt ≠ .cells) (hft : pt ≠ .faults) :
    (opPhVoid k i s).part pt = s.part pt := by unfold opPhVoid; split <;> simp [hn, ht, hcl, hft]
@[simp] theorem opCal1Pair_part (ch : SlotChan) (c1 c2 : Byte) (s : State) (hl : pt ≠ .leaf) (hy : pt ≠ .mary) (hn : pt ≠ .node ((slotAt ch).1))
    (ht : pt ≠ .time) (hcl : pt ≠ .cells) (hme : pt ≠ .maryErr) : (opCal1Pair ch c1 c2 s).part pt = s.part pt := by
  simp [opCal1Pair, hl, hy, hn, ht, hcl, hme]
@[simp] theorem opCal1Density_part (ch : SlotChan) (d : DensityCode) (s : State) (hl : pt ≠ .leaf) (hy : pt ≠ .mary)
    (hn : pt ≠ .node ((slotAt ch).1)) (ht : pt ≠ .time) (hme : pt ≠ .maryErr) : (opCal1Density ch d s).part pt = s.part pt := by
  simp [opCal1Density, hl, hy, hn, ht, hme]
@[simp] theorem State.pushEvt_part (s : State) (i : Nat) (r : EvtRec) (hl : pt ≠ .leaf) (hnl : pt ≠ .node .leaf) :
    (s.pushEvt i r).part pt = s.part pt := by simp [State.pushEvt, hl, hnl]
@[simp] theorem State.pushIntv_part (s : State) (r : IntvRec) (hl : pt ≠ .leaf) (hnl : pt ≠ .node .leaf) : (s.pushIntv r).part pt = s.part pt := by
  simp [State.pushIntv, hl, hnl]
@[simp] theorem State.intvTimeout_part (s : State) (hl : pt ≠ .leaf) (hnl : pt ≠ .node .leaf) : (s.intvTimeout).part pt = s.part pt := by
  unfold State.intvTimeout; split <;> simp [hl, hnl]
@[simp] theorem opIntvTimeout_part (s : State) (hl : pt ≠ .leaf) (hnl : pt ≠ .node .leaf) (ht : pt ≠ .time) :
    (opIntvTimeout s).part pt = s.part pt := by unfold opIntvTimeout; split <;> simp [hl, hnl, ht]
@[simp] theorem State.openIntv_part (s : State) (st : Int) (co un : Bool) (hl : pt ≠ .leaf) : (s.openIntv st co un).part pt = s.part pt := by
  simp [State.openIntv, hl]
@[simp] theorem State.closeIntv_part (s : State) (st : Int) (co un : Bool) (hl : pt ≠ .leaf) (hnl : pt ≠ .node .leaf) :
    (s.closeIntv st co un).part pt = s.part pt := by
  unfold State.closeIntv; split <;> simp [hl, hnl]
@[simp] theorem State.intvEdge_part (s : State) (sel : Nat) (st : Int) (co un : Bool) (hl : pt ≠ .leaf) (hnl : pt ≠ .node .leaf) :
    (s.intvEdge sel st co un).part pt = s.part pt := by
  unfold State.intvEdge; dsimp only; split <;> simp [hl, hnl]
@[simp] theorem opEventEdge_part (i : Nat) (rise : Bool) (code : Byte) (s : State) (hl : pt ≠ .leaf) (hnl : pt ≠ .node .leaf) :
    (opEventEdge i rise code s).part pt = s.part pt := by
  unfold opEventEdge; dsimp only; (repeat' split) <;> simp [hl, hnl]
@[simp] theorem State.intvPicot_part (s : State) (hl : pt ≠ .leaf) (hnl : pt ≠ .node .leaf) : (s.intvPicot).part pt = s.part pt := by
  simp [State.intvPicot, hl, hnl]
@[simp] theorem State.fcWritten_part (s : State) (hl : pt ≠ .leaf) : (s.fcWritten).part pt = s.part pt :=
  s.modLeaf_part_same pt _ hl (fun l => by dsimp only; split <;> simp)
@[simp] theorem opFcGo_part (s : State) (hl : pt ≠ .leaf) : (opFcGo s).part pt = s.part pt :=
  s.modLeaf_part_same pt _ hl (fun l => by dsimp only; (repeat' split) <;> simp)
@[simp] theorem opFcMinRst_part (m : W16) (s : State) (hl : pt ≠ .leaf) : (opFcMinRst m s).part pt = s.part pt := by simp [opFcMinRst, hl]
@[simp] theorem opFcGateEnd_part (count : BitVec 40) (s : State) (hl : pt ≠ .leaf) (hnl : pt ≠ .node .leaf) (ht : pt ≠ .time) :
    (opFcGateEnd count s).part pt = s.part pt := by simp [opFcGateEnd, hl, hnl, ht]
@[simp] theorem State.leafHoldGate_part (s : State) (count : BitVec 40) (hl : pt ≠ .leaf) (hy : pt ≠ .mary) (hnl : pt ≠ .node .leaf)
    (hnm : pt ≠ .node .mary) (hrt : pt ≠ .root) : (s.leafHoldGate count).part pt = s.part pt := by
  unfold State.leafHoldGate; dsimp only; split <;> simp [hl, hy, hnl, hnm, hrt]
@[simp] theorem State.maryHoldGate_part (s : State) (count : BitVec 40) (hy : pt ≠ .mary) : (s.maryHoldGate count).part pt = s.part pt := by
  simp [State.maryHoldGate, hy]
@[simp] theorem opHoldGateEnd_part (k : NodeSel) (count : BitVec 40) (s : State) (hl : pt ≠ .leaf) (hy : pt ≠ .mary) (hn : pt ≠ .node k)
    (hnm : pt ≠ .node .mary) (ht : pt ≠ .time) (hrt : pt ≠ .root) : (opHoldGateEnd k count s).part pt = s.part pt := by
  unfold opHoldGateEnd; split <;> simp [hl, hy, hn, hnm, ht, hrt]
@[simp] theorem State.hit0_part (s : State) (k : NodeSel) (j : Nat) (d : DensityCode) (hl : pt ≠ .leaf) (hy : pt ≠ .mary) (hn : pt ≠ .node k)
    (ht : pt ≠ .time) (hme : pt ≠ .maryErr) : (s.hit0 k j d).part pt = s.part pt := by simp [State.hit0, hl, hy, hn, ht, hme]
@[simp] theorem opDensityHit0_part (ch : Ch0Ref) (d : DensityCode) (s : State) (hl : pt ≠ .leaf) (hy : pt ≠ .mary) (hnl : pt ≠ .node .leaf)
    (hnm : pt ≠ .node .mary) (ht : pt ≠ .time) (hme : pt ≠ .maryErr) : (opDensityHit0 ch d s).part pt = s.part pt := by
  unfold opDensityHit0; split <;> simp [hl, hy, hnl, hnm, ht, hme]

/-! `RegionOps` -/
@[simp] theorem State.dropHead_part (s : State) (p : Nat) (hl : pt ≠ .leaf) (hrg : pt ≠ .regions) (hsl : pt ≠ .slots) (hpk : pt ≠ .prick)
    (hy : pt ≠ .mary) (hnl : pt ≠ .node .leaf) (hnm : pt ≠ .node .mary) (hcl : pt ≠ .cells) (hr : pt ≠ .regs) (hrt : pt ≠ .root) :
    (s.dropHead p).part pt = s.part pt := by unfold State.dropHead; split <;> simp [hl, hrg, hsl, hpk, hy, hnl, hnm, hcl, hr, hrt]
@[simp] theorem State.landHead_part (s : State) (p : Nat) (pos : Fin 16) (hl : pt ≠ .leaf) (hrg : pt ≠ .regions) (hsl : pt ≠ .slots)
    (hnl : pt ≠ .node .leaf) : (s.landHead p pos).part pt = s.part pt := by
  unfold State.landHead; split <;> simp [hl, hrg, hsl, hnl]
@[simp] theorem opStrobeLanding_part (p : Nat) (e : RpEdge) (s : State) (hl : pt ≠ .leaf) (hrg : pt ≠ .regions) (hsl : pt ≠ .slots)
    (hpk : pt ≠ .prick) (hy : pt ≠ .mary) (hnl : pt ≠ .node .leaf) (hnm : pt ≠ .node .mary) (ht : pt ≠ .time) (hcl : pt ≠ .cells) (hr : pt ≠ .regs)
    (hrt : pt ≠ .root) : (opStrobeLanding p e s).part pt = s.part pt := by
  unfold opStrobeLanding; split <;> simp [hl, hrg, hsl, hpk, hy, hnl, hnm, ht, hcl, hr, hrt]
@[simp] theorem opRpLandTmo_part (p : Nat) (s : State) (hl : pt ≠ .leaf) (hrg : pt ≠ .regions) (hsl : pt ≠ .slots) (hpk : pt ≠ .prick)
    (hy : pt ≠ .mary) (hnl : pt ≠ .node .leaf) (hnm : pt ≠ .node .mary) (ht : pt ≠ .time) (hcl : pt ≠ .cells) (hr : pt ≠ .regs) (hrt : pt ≠ .root) :
    (opRpLandTmo p s).part pt = s.part pt := by unfold opRpLandTmo; split <;> simp [hl, hrg, hsl, hpk, hy, hnl, hnm, ht, hcl, hr, hrt]
@[simp] theorem opPicotLanding_part (p : Nat) (e : RpEdge) (s : State) (hl : pt ≠ .leaf) (hrg : pt ≠ .regions) (hnl : pt ≠ .node .leaf)
    (ht : pt ≠ .time) : (opPicotLanding p e s).part pt = s.part pt := by
  unfold opPicotLanding; dsimp only; (repeat' split) <;> simp [hl, hrg, hnl, ht]
@[simp] theorem opTallyCorrection_part (p : Nat) (e : RpEdge) (s : State) (hl : pt ≠ .leaf) (hrg : pt ≠ .regions) :
    (opTallyCorrection p e s).part pt = s.part pt := by
  unfold opTallyCorrection; split <;> simp [hl, hrg]
@[simp] theorem State.putThrottle_part (s : State) (p : Nat) (e : RpEdge) (hl : pt ≠ .leaf) (hrg : pt ≠ .regions) :
    (s.putThrottle p e).part pt = s.part pt := by simp [State.putThrottle, hl, hrg]
@[simp] theorem opThrottleEffect_part (p : Nat) (e : RpEdge) (s : State) (hl : pt ≠ .leaf) (hrg : pt ≠ .regions) (hnl : pt ≠ .node .leaf)
    (ht : pt ≠ .time) : (opThrottleEffect p e s).part pt = s.part pt := by
  unfold opThrottleEffect; dsimp only; (repeat' split) <;> simp [hl, hrg, hnl, ht]
@[simp] theorem opOutcomeDelivery_part (p : Nat) (e : RpEdge) (s : State) (hl : pt ≠ .leaf) (hrg : pt ≠ .regions) (hnl : pt ≠ .node .leaf)
    (ht : pt ≠ .time) : (opOutcomeDelivery p e s).part pt = s.part pt := by
  unfold opOutcomeDelivery; dsimp only; (repeat' split) <;> simp [hl, hrg, hnl, ht]
@[simp] theorem State.modGate_part (s : State) (f : GateSt → GateSt) (hl : pt ≠ .leaf) : (s.modGate f).part pt = s.part pt := by
  simp [State.modGate, hl]
@[simp] theorem State.gateRefuse_part (s : State) (b why : Nat) (hl : pt ≠ .leaf) (hnl : pt ≠ .node .leaf) :
    (s.gateRefuse b why).part pt = s.part pt := by simp [State.gateRefuse, hl, hnl]
@[simp] theorem State.gateBit_part (s : State) (on : Bool) (b : Nat) (hl : pt ≠ .leaf) (hnl : pt ≠ .node .leaf) :
    (s.gateBit on b).part pt = s.part pt := by simp [State.gateBit, hl, hnl]
@[simp] theorem opGateCtl_part (v : BitVec 24) (s : State) (hl : pt ≠ .leaf) (hnl : pt ≠ .node .leaf) : (opGateCtl v s).part pt = s.part pt := by
  simp [opGateCtl, hl, hnl]
@[simp] theorem State.gateOff_part (s : State) (b : Nat) (hl : pt ≠ .leaf) (hrg : pt ≠ .regions) : (s.gateOff b).part pt = s.part pt := by
  simp [State.gateOff, hl, hrg]
@[simp] theorem State.gatePicot_part (s : State) (hl : pt ≠ .leaf) (hrg : pt ≠ .regions) (hnl : pt ≠ .node .leaf) :
    (s.gatePicot).part pt = s.part pt := by simp [State.gatePicot, hl, hrg, hnl]
@[simp] theorem opComputeAssert_part (p : Nat) (s : State) (hl : pt ≠ .leaf) (hrg : pt ≠ .regions) (hsl : pt ≠ .slots) (hpk : pt ≠ .prick)
    (hy : pt ≠ .mary) (hnl : pt ≠ .node .leaf) (hnm : pt ≠ .node .mary) (hcl : pt ≠ .cells) (hr : pt ≠ .regs) (hrt : pt ≠ .root) :
    (opComputeAssert p s).part pt = s.part pt := by simp [opComputeAssert, hl, hrg, hsl, hpk, hy, hnl, hnm, hcl, hr, hrt]
@[simp] theorem opComputeRelease_part (p : Nat) (s : State) (hl : pt ≠ .leaf) (hrg : pt ≠ .regions) : (opComputeRelease p s).part pt = s.part pt :=
  by simp [opComputeRelease, hl, hrg]
@[simp] theorem opRefclkLost_part (s : State) (hl : pt ≠ .leaf) (hrg : pt ≠ .regions) (hnl : pt ≠ .node .leaf) (ht : pt ≠ .time) :
    (opRefclkLost s).part pt = s.part pt := by simp [opRefclkLost, hl, hrg, hnl, ht]
@[simp] theorem opRefclkReturn_part (s : State) (hnl : pt ≠ .node .leaf) (ht : pt ≠ .time) : (opRefclkReturn s).part pt = s.part pt := by
  simp [opRefclkReturn, hnl, ht]

/-! `RefOps` -/
@[simp] theorem State.upAnnounce_part (s : State) (k : NodeSel) (i ns : Nat) (t : Stamp) (hl : pt ≠ .leaf) (hpk : pt ≠ .prick) (hn : pt ≠ .node k)
    (hnl : pt ≠ .node .leaf) (ht : pt ≠ .time) : (s.upAnnounce k i ns t).part pt = s.part pt := by
  simp [State.upAnnounce, hl, hpk, hn, hnl, ht]
@[simp] theorem State.crossAnnounce_part (s : State) (i ns : Nat) (t : Stamp) (hl : pt ≠ .leaf) (hpk : pt ≠ .prick) (hy : pt ≠ .mary)
    (hnl : pt ≠ .node .leaf) (hnm : pt ≠ .node .mary) (ht : pt ≠ .time) : (s.crossAnnounce i ns t).part pt = s.part pt := by
  simp [State.crossAnnounce, hl, hpk, hy, hnl, hnm, ht]
@[simp] theorem opTimeAnnounceRx_part (k : NodeSel) (i : Nat) (acount : BitVec 48) (t : Stamp) (s : State) (hl : pt ≠ .leaf) (hpk : pt ≠ .prick)
    (hy : pt ≠ .mary) (hn : pt ≠ .node k) (hnl : pt ≠ .node .leaf) (hnm : pt ≠ .node .mary) (ht : pt ≠ .time) (hcl : pt ≠ .cells)
    (hft : pt ≠ .faults) :
    (opTimeAnnounceRx k i acount t s).part pt = s.part pt := by
  simp [opTimeAnnounceRx, hl, hpk, hy, hn, hnl, hnm, ht, hcl, hft]
@[simp] theorem State.ppsAt_part (s : State) (n t : Nat) (hy : pt ≠ .mary) (hnm : pt ≠ .node .mary) (ht : pt ≠ .time) :
    (s.ppsAt n t).part pt = s.part pt := by simp [State.ppsAt, hy, hnm, ht]
@[simp] theorem opPpsOut_part (n : Nat) (s : State) (hy : pt ≠ .mary) (hnm : pt ≠ .node .mary) (ht : pt ≠ .time) (hr : pt ≠ .regs) :
    (opPpsOut n s).part pt = s.part pt := by simp [opPpsOut, hy, hnm, ht, hr]
@[simp] theorem opTodSentence_part (s : State) (hy : pt ≠ .mary) (hnm : pt ≠ .node .mary) (ht : pt ≠ .time) :
    (opTodSentence s).part pt = s.part pt := by simp [opTodSentence, hy, hnm, ht]
@[simp] theorem State.refStamp_part (s : State) (j : Nat) (code : Byte) : (s.refStamp j code).2.part pt = s.part pt := by
  unfold State.refStamp; split <;> simp
@[simp] theorem State.skipPulse_part (s : State) (i : Nat) (hy : pt ≠ .mary) : (s.skipPulse i).part pt = s.part pt := by
  simp [State.skipPulse, hy]
@[simp] theorem State.pulseRef_part (s : State) (i j : Nat) (code : Byte) (apart : Int) (hy : pt ≠ .mary) (hnm : pt ≠ .node .mary)
    (ht : pt ≠ .time) : (s.pulseRef i j code apart).part pt = s.part pt := by
  unfold State.pulseRef; dsimp only; (repeat' split) <;> simp [hy, hnm, ht]
@[simp] theorem State.edgeRef_part (s : State) (i j src : Nat) (code : Byte) (hy : pt ≠ .mary) (hnm : pt ≠ .node .mary) (ht : pt ≠ .time) :
    (s.edgeRef i j src code).part pt = s.part pt := by
  unfold State.edgeRef; dsimp only; split <;> simp [hy, hnm, ht]
@[simp] theorem opRefMeasurement_part (i : Nat) (m : RefMeas) (s : State) (hy : pt ≠ .mary) (hnm : pt ≠ .node .mary) (ht : pt ≠ .time) :
    (opRefMeasurement i m s).part pt = s.part pt := by
  unfold opRefMeasurement; dsimp only; (repeat' split) <;> simp [hy, hnm, ht]
@[simp] theorem State.modPtp_part (s : State) (k : Nat) (f : PtpPort → PtpPort) (hy : pt ≠ .mary) : (s.modPtp k f).part pt = s.part pt := by
  simp [State.modPtp, hy]
@[simp] theorem State.ptpUpdate_part (s : State) (k : Nat) (hy : pt ≠ .mary) : (s.ptpUpdate k).part pt = s.part pt := by
  simp [State.ptpUpdate, hy]
@[simp] theorem State.ptpOffset_part (s : State) (k : Nat) (off : Int) (hy : pt ≠ .mary) (hnm : pt ≠ .node .mary) (ht : pt ≠ .time) :
    (s.ptpOffset k off).part pt = s.part pt := by simp [State.ptpOffset, hy, hnm, ht]
@[simp] theorem State.ptpSynced_part (s : State) (k : Nat) (t1 : Nat) (t2 : Int) (corr : Int) (hy : pt ≠ .mary) (hnm : pt ≠ .node .mary)
    (ht : pt ≠ .time) : (s.ptpSynced k t1 t2 corr).part pt = s.part pt := by
  simp [State.ptpSynced, hy, hnm, ht]
@[simp] theorem opPtpRx_part (k : Nat) (m : PtpMsg) (s : State) (hy : pt ≠ .mary) (hnm : pt ≠ .node .mary) (ht : pt ≠ .time) :
    (opPtpRx k m s).part pt = s.part pt := by
  unfold opPtpRx; dsimp only; (repeat' split) <;> simp [hy, hnm, ht]
@[simp] theorem State.ptpEmit_part (s : State) (k : Nat) (ms : List PtpSent) (hy : pt ≠ .mary) : (s.ptpEmit k ms).part pt = s.part pt := by
  simp [State.ptpEmit, hy]
@[simp] theorem opPtpSend_part (k : Nat) (kd : PtpSendKind) (s : State) (hy : pt ≠ .mary) (hnm : pt ≠ .node .mary) :
    (opPtpSend k kd s).part pt = s.part pt := by
  unfold opPtpSend; dsimp only; (repeat' split) <;> simp [hy, hnm]
@[simp] theorem State.announceTmo_part (s : State) (k : Nat) (hy : pt ≠ .mary) (hnm : pt ≠ .node .mary) : (s.announceTmo k).part pt = s.part pt :=
  by simp [State.announceTmo, hy, hnm]
@[simp] theorem opRefLoss_part (i : Nat) (annTmo : Bool) (s : State) (hy : pt ≠ .mary) (hnm : pt ≠ .node .mary) (ht : pt ≠ .time) :
    (opRefLoss i annTmo s).part pt = s.part pt := by simp [opRefLoss, hy, hnm, ht]
@[simp] theorem opEsmcRx_part (k : Nat) (ssm : BitVec 4) (s : State) (hy : pt ≠ .mary) (hnm : pt ≠ .node .mary) (ht : pt ≠ .time) :
    (opEsmcRx k ssm s).part pt = s.part pt := by simp [opEsmcRx, hy, hnm, ht]
@[simp] theorem opEsmcTimeout_part (k : Nat) (s : State) (hy : pt ≠ .mary) (hnm : pt ≠ .node .mary) (ht : pt ≠ .time) :
    (opEsmcTimeout k s).part pt = s.part pt := by simp [opEsmcTimeout, hy, hnm, ht]
@[simp] theorem opEsmcSend_part (k : Nat) (s : State) (hy : pt ≠ .mary) : (opEsmcSend k s).part pt = s.part pt := by simp [opEsmcSend, hy]

/-! `CellarOps` -/
@[simp] theorem opSupplyTrip_part (s : State) (hc : pt ≠ .cellar) : (opSupplyTrip s).part pt = s.part pt := by simp [opSupplyTrip, hc]
@[simp] theorem State.grantDone_part (s : State) (hc : pt ≠ .cellar) (hnm : pt ≠ .node .mary) (hrt : pt ≠ .root) :
    (s.grantDone).part pt = s.part pt := by unfold State.grantDone; split <;> simp [hc, hnm, hrt]
@[simp] theorem State.syncDone_part (s : State) (hy : pt ≠ .mary) : (s.syncDone).part pt = s.part pt := by simp [State.syncDone, hy]
@[simp] theorem State.celWaitCap_part (s : State) (w : Nat) (hnm : pt ≠ .node .mary) (ht : pt ≠ .time) : (s.celWaitCap w).part pt = s.part pt := by
  simp [State.celWaitCap, hnm, ht]
@[simp] theorem opCellarWrite_part (s : State) (hm : pt ≠ .medium) (hy : pt ≠ .mary) (hc : pt ≠ .cellar) (hnm : pt ≠ .node .mary) (ht : pt ≠ .time)
    (hrt : pt ≠ .root) : (opCellarWrite s).part pt = s.part pt := by
  unfold opCellarWrite; split <;> simp [hm, hy, hc, hnm, ht, hrt]
@[simp] theorem opRwpSync_part (src : Src) (s : State) (hy : pt ≠ .mary) : (opRwpSync src s).part pt = s.part pt := by
  unfold opRwpSync; split <;> simp [hy]
@[simp] theorem State.rejudge_part (s : State) (f : Family) (op : HeldOp) (hm : pt ≠ .medium) (hb : pt ≠ .binding) (hl : pt ≠ .leaf)
    (hrg : pt ≠ .regions) (hsl : pt ≠ .slots) (hpk : pt ≠ .prick) (hy : pt ≠ .mary) (hc : pt ≠ .cellar) (hnl : pt ≠ .node .leaf)
    (hnm : pt ≠ .node .mary) (hcl : pt ≠ .cells) (hr : pt ≠ .regs) (hrt : pt ≠ .root) :
    (s.rejudge f op).part pt = s.part pt := by
  unfold State.rejudge; split <;> simp [hm, hb, hl, hrg, hsl, hpk, hy, hc, hnl, hnm, hcl, hr, hrt]
@[simp] theorem State.releaseHeld_part (s : State) (r : Raise) (hm : pt ≠ .medium) (hb : pt ≠ .binding) (hl : pt ≠ .leaf) (hrg : pt ≠ .regions)
    (hsl : pt ≠ .slots) (hpk : pt ≠ .prick) (hy : pt ≠ .mary) (hc : pt ≠ .cellar) (hnl : pt ≠ .node .leaf) (hnm : pt ≠ .node .mary)
    (hcl : pt ≠ .cells) (hr : pt ≠ .regs) (hrt : pt ≠ .root) : (s.releaseHeld r).part pt = s.part pt := by
  simp [State.releaseHeld, hm, hb, hl, hrg, hsl, hpk, hy, hc, hnl, hnm, hcl, hr, hrt]
@[simp] theorem opCeilingRaise_part (s : State) (hm : pt ≠ .medium) (hb : pt ≠ .binding) (hl : pt ≠ .leaf) (hrg : pt ≠ .regions) (hsl : pt ≠ .slots)
    (hpk : pt ≠ .prick) (hy : pt ≠ .mary) (hc : pt ≠ .cellar) (hnl : pt ≠ .node .leaf) (hnm : pt ≠ .node .mary) (ht : pt ≠ .time)
    (hcl : pt ≠ .cells) (hr : pt ≠ .regs) (hrt : pt ≠ .root) : (opCeilingRaise s).part pt = s.part pt := by
  unfold opCeilingRaise; dsimp only; (repeat' split) <;> simp [hm, hb, hl, hrg, hsl, hpk, hy, hc, hnl, hnm, ht, hcl, hr, hrt]
@[simp] theorem opCeilingDone_part (s : State) (hm : pt ≠ .medium) (hb : pt ≠ .binding) (hl : pt ≠ .leaf) (hrg : pt ≠ .regions) (hsl : pt ≠ .slots)
    (hpk : pt ≠ .prick) (hy : pt ≠ .mary) (hc : pt ≠ .cellar) (hnl : pt ≠ .node .leaf) (hnm : pt ≠ .node .mary) (hcl : pt ≠ .cells)
    (hr : pt ≠ .regs) (hrt : pt ≠ .root) : (opCeilingDone s).part pt = s.part pt := by
  unfold opCeilingDone; split <;> simp [hm, hb, hl, hrg, hsl, hpk, hy, hc, hnl, hnm, hcl, hr, hrt]
@[simp] theorem opKaAnchor_part (cnt rate : BitVec 48) (s : State) (hc : pt ≠ .cellar) (hnm : pt ≠ .node .mary) (ht : pt ≠ .time) :
    (opKaAnchor cnt rate s).part pt = s.part pt := by simp [opKaAnchor, hc, hnm, ht]
@[simp] theorem opKaInvalidate_part (s : State) (hc : pt ≠ .cellar) : (opKaInvalidate s).part pt = s.part pt := by simp [opKaInvalidate, hc]
@[simp] theorem State.loseFamily_part (s : State) (f : Family) (hc : pt ≠ .cellar) (hnm : pt ≠ .node .mary) (hrt : pt ≠ .root) :
    (s.loseFamily f).part pt = s.part pt := by simp [State.loseFamily, hc, hnm, hrt]
@[simp] theorem State.mendCopy_part (s : State) (w other : Nat) (fams : List Family) (hm : pt ≠ .medium) (hc : pt ≠ .cellar)
    (hnm : pt ≠ .node .mary) (hrt : pt ≠ .root) :
    (s.mendCopy w other fams).part pt = s.part pt := by
  simp [State.mendCopy, hm, hc, hnm, hrt]
@[simp] theorem State.licUe_part (s : State) (k : Nat) (hy : pt ≠ .mary) : (s.licUe k).part pt = s.part pt := by simp [State.licUe, hy]
@[simp] theorem State.celUe_part (s : State) (w : Nat) (hm : pt ≠ .medium) (hy : pt ≠ .mary) (hc : pt ≠ .cellar) (hnm : pt ≠ .node .mary)
    (hrt : pt ≠ .root) : (s.celUe w).part pt = s.part pt := by simp [State.celUe, hm, hy, hc, hnm, hrt]
@[simp] theorem opCellarScrub_part (w : Nat) (r : CellarScrubResult) (s : State) (hm : pt ≠ .medium) (hy : pt ≠ .mary) (hc : pt ≠ .cellar)
    (hnm : pt ≠ .node .mary) (hrt : pt ≠ .root) : (opCellarScrub w r s).part pt = s.part pt := by
  unfold opCellarScrub; split <;> simp [hm, hy, hc, hnm, hrt]
@[simp] theorem State.advHist_part (s : State) (sec : Nat) (hnm : pt ≠ .node .mary) (ht : pt ≠ .time) : (s.advHist sec).part pt = s.part pt := by
  unfold State.advHist
  (repeat' split) <;> simp [hnm, ht]
@[simp] theorem opHistFile_part (s : State) (hm : pt ≠ .medium) (hy : pt ≠ .mary) (hc : pt ≠ .cellar) (hnm : pt ≠ .node .mary) (ht : pt ≠ .time) :
    (opHistFile s).part pt = s.part pt := by
  unfold opHistFile; dsimp only; (repeat' split) <;> simp [hm, hy, hc, hnm, ht]
@[simp] theorem opCelErase_part (src : Src) (v : Bool) (s : State) (hc : pt ≠ .cellar) (hnm : pt ≠ .node .mary) :
    (opCelErase src v s).part pt = s.part pt := by simp [opCelErase, hc, hnm]
@[simp] theorem opCelEraseDone_part (s : State) (hm : pt ≠ .medium) (hc : pt ≠ .cellar) : (opCelEraseDone s).part pt = s.part pt := by
  unfold opCelEraseDone
  split
  · rfl
  · simp [hm, hc]
/-! `Bits` -/
@[simp] theorem State.putReg_part (s : State) (k : NodeSel) (off : Nat) (v : W32) (hn : pt ≠ .node k) (hr : pt ≠ .regs) :
    (s.putReg k off v).part pt = s.part pt := by simp [State.putReg, hn, hr]
@[simp] theorem State.putAsym_part (s : State) (k : NodeSel) (x : Option BsSec) (hn : pt ≠ .node k) (hr : pt ≠ .regs) :
    (s.putAsym k x).part pt = s.part pt := by simp [State.putAsym, hn, hr]
@[simp] theorem State.setIsland_part (s : State) (was now : Bool) (hnl : pt ≠ .node .leaf) (ht : pt ≠ .time) :
    (s.setIsland was now).part pt = s.part pt := by simp [State.setIsland, hnl, ht]
@[simp] theorem State.putCells_part (s : State) (k : NodeSel) (l : List CellCfg) (hn : pt ≠ .node k) (hcl : pt ≠ .cells) (hft : pt ≠ .faults) :
    (s.putCells k l).part pt = s.part pt := by simp [State.putCells, hn, hcl, hft]
@[simp] theorem State.putMembValid_part (s : State) (k : NodeSel) (hnl : pt ≠ .node .leaf) : (s.putMembValid k).part pt = s.part pt := by
  simp [State.putMembValid, hnl]
@[simp] theorem State.putDoms_part (s : State) (k : NodeSel) (hn : pt ≠ .node k) (ht : pt ≠ .time) (hr : pt ≠ .regs) :
    (s.putDoms k).part pt = s.part pt := by unfold State.putDoms; split <;> simp [hn, ht, hr]
@[simp] theorem State.putRootK0_part (s : State) (k : NodeSel) (hnm : pt ≠ .node .mary) (ht : pt ≠ .time) : (s.putRootK0 k).part pt = s.part pt :=
  by simp [State.putRootK0, hnm, ht]
@[simp] theorem State.applyFull_part (s : State) (k : NodeSel) (l : List Byte) (secs : List BsSec) (hn : pt ≠ .node k) (hnl : pt ≠ .node .leaf)
    (hnm : pt ≠ .node .mary) (ht : pt ≠ .time) (hcl : pt ≠ .cells) (hft : pt ≠ .faults) (hcf : pt ≠ .cfg) (hr : pt ≠ .regs) (hrt : pt ≠ .root) :
    (s.applyFull k l secs).part pt = s.part pt := by
  simp [State.applyFull, hn, hnl, hnm, ht, hcl, hft, hcf, hr, hrt]
@[simp] theorem State.patchCell_part (s : State) (k : NodeSel) (i : Nat) (c : CellCfg) (hl : pt ≠ .leaf) (hrg : pt ≠ .regions) (hsl : pt ≠ .slots)
    (hpk : pt ≠ .prick) (hy : pt ≠ .mary) (hn : pt ≠ .node k) (hnm : pt ≠ .node .mary) (ht : pt ≠ .time) (hcl : pt ≠ .cells) (hft : pt ≠ .faults)
    (hr : pt ≠ .regs) (hrt : pt ≠ .root) : (s.patchCell k i c).part pt = s.part pt := by
  simp [State.patchCell, hl, hrg, hsl, hpk, hy, hn, hnm, ht, hcl, hft, hr, hrt]
@[simp] theorem State.reroute_part (s : State) (k : NodeSel) (i : Nat) (hn : pt ≠ .node k) (hcl : pt ≠ .cells) (hft : pt ≠ .faults) :
    (s.reroute k i).part pt = s.part pt := by
  have hgo : ∀ (f : State → Nat → Tokens → State) (_ : ∀ s p m, (f s p m).part pt = s.part pt) (s : State) (m : Tokens),
      (if i ∈ s.newPorts k i m then s else if s.newPorts k i m = [] then s.dropRoute k i
        else s.each (s.newPorts k i m) (fun s p => f s p m)).part pt = s.part pt := fun f hf s m => by simp [hf, hn]
  unfold State.reroute
  dsimp only
  rw [State.each_part, State.each_part]
  · simp [hn, hcl, hft]
  · exact hgo (fun s p m => s.sendC2 k p m) (fun s p m => by simp [hn, hcl])
  · exact hgo (fun s p m => s.sendC3 k p m) (fun s p m => by simp [hn, hcl])
@[simp] theorem State.rerouteRoot_part (s : State) (k : NodeSel) (hn : pt ≠ .node k) (hrt : pt ≠ .root) : (s.rerouteRoot k).part pt = s.part pt :=
  by simp [State.rerouteRoot, hn, hrt]
@[simp] theorem State.applyPatch_part (s : State) (k : NodeSel) (p : Patch) (hl : pt ≠ .leaf) (hrg : pt ≠ .regions) (hsl : pt ≠ .slots)
    (hpk : pt ≠ .prick) (hy : pt ≠ .mary) (hn : pt ≠ .node k) (hnl : pt ≠ .node .leaf) (hnm : pt ≠ .node .mary) (ht : pt ≠ .time)
    (hcl : pt ≠ .cells) (hft : pt ≠ .faults) (hcf : pt ≠ .cfg) (hbs : pt ≠ .bs) (hr : pt ≠ .regs) (hrt : pt ≠ .root) :
    (s.applyPatch k p).part pt = s.part pt := by simp [State.applyPatch, hl, hrg, hsl, hpk, hy, hn, hnl, hnm, ht, hcl, hft, hcf, hbs, hr, hrt]
@[simp] theorem opPatchApply_part (k : NodeSel) (s : State) (hl : pt ≠ .leaf) (hrg : pt ≠ .regions) (hsl : pt ≠ .slots) (hpk : pt ≠ .prick)
    (hy : pt ≠ .mary) (hn : pt ≠ .node k) (hnl : pt ≠ .node .leaf) (hnm : pt ≠ .node .mary) (ht : pt ≠ .time) (hcl : pt ≠ .cells)
    (hft : pt ≠ .faults) (hcf : pt ≠ .cfg) (hbs : pt ≠ .bs) (hr : pt ≠ .regs) (hrt : pt ≠ .root) : (opPatchApply k s).part pt = s.part pt := by
  unfold opPatchApply
  (repeat' split) <;> simp [hl, hrg, hsl, hpk, hy, hn, hnl, hnm, ht, hcl, hft, hcf, hbs, hr, hrt]
@[simp] theorem opBsStart_part (k : NodeSel) (src : Src) (s : State) (hn : pt ≠ .node k) (hbs : pt ≠ .bs) :
    (opBsStart k src s).part pt = s.part pt := by unfold opBsStart; split <;> simp [hn, hbs]
@[simp] theorem opBsData_part (k : NodeSel) (src : Src) (v : W32) (s : State) (hn : pt ≠ .node k) (hbs : pt ≠ .bs) :
    (opBsData k src v s).part pt = s.part pt := by simp [opBsData, hn, hbs]
@[simp] theorem State.bsNote_part (s : State) (k : NodeSel) (e : BsFail) (hn : pt ≠ .node k) (hbs : pt ≠ .bs) :
    (s.bsNote k e).part pt = s.part pt := by simp [State.bsNote, hn, hbs]
@[simp] theorem State.bsRefuse_part (s : State) (k : NodeSel) (e : BsFail) (hn : pt ≠ .node k) (hbs : pt ≠ .bs) :
    (s.bsRefuse k e).part pt = s.part pt := by simp [State.bsRefuse, hn, hbs]
@[simp] theorem opBsApply_part (k : NodeSel) (src : Src) (s : State) (hn : pt ≠ .node k) (hnl : pt ≠ .node .leaf) (hnm : pt ≠ .node .mary)
    (ht : pt ≠ .time) (hcl : pt ≠ .cells) (hft : pt ≠ .faults) (hcf : pt ≠ .cfg) (hbs : pt ≠ .bs) (hr : pt ≠ .regs) (hrt : pt ≠ .root) :
    (opBsApply k src s).part pt = s.part pt := by
  unfold opBsApply; dsimp only; (repeat' split) <;> simp [hn, hnl, hnm, ht, hcl, hft, hcf, hbs, hr, hrt]

/-! `Mgmt` -/
@[simp] theorem State.stageTable_part (s : State) (c : W32) (ws : List W64) (hnm : pt ≠ .node .mary) (hr : pt ≠ .regs) :
    (s.stageTable c ws).part pt = s.part pt := by simp [State.stageTable, hnm, hr]
@[simp] theorem State.loadTable_part (s : State) (c : W32) (ws : List W64) (hy : pt ≠ .mary) (hnm : pt ≠ .node .mary) (hr : pt ≠ .regs) :
    (s.loadTable c ws).part pt = s.part pt := by simp [State.loadTable, hy, hnm, hr]
@[simp] theorem State.putPerms_part (s : State) (l : List W32) (hnm : pt ≠ .node .mary) (hr : pt ≠ .regs) : (s.putPerms l).part pt = s.part pt := by
  simp [State.putPerms, hnm, hr]
@[simp] theorem State.clearPortEn_part (s : State) (hnm : pt ≠ .node .mary) (hcl : pt ≠ .cells) (hft : pt ≠ .faults) :
    (s.clearPortEn).part pt = s.part pt := by simp [State.clearPortEn, hnm, hcl, hft]
@[simp] theorem State.loadProfile_part (s : State) (n : Fin 4) (hy : pt ≠ .mary) (hnl : pt ≠ .node .leaf) (hnm : pt ≠ .node .mary) (ht : pt ≠ .time)
    (hcl : pt ≠ .cells) (hft : pt ≠ .faults) (hcf : pt ≠ .cfg) (hbs : pt ≠ .bs) (hr : pt ≠ .regs) (hrt : pt ≠ .root) :
    (s.loadProfile n).part pt = s.part pt := by
  unfold State.loadProfile; dsimp only; (repeat' split) <;> simp [hy, hnl, hnm, ht, hcl, hft, hcf, hbs, hr, hrt]
@[simp] theorem opProfClr_part (src : Src) (s : State) (hnm : pt ≠ .node .mary) (hrt : pt ≠ .root) : (opProfClr src s).part pt = s.part pt := by
  simp [opProfClr, hnm, hrt]
@[simp] theorem opProfCheck_part (src : Src) (s : State) (hnm : pt ≠ .node .mary) (hbs : pt ≠ .bs) : (opProfCheck src s).part pt = s.part pt := by
  unfold opProfCheck; dsimp only; split <;> simp [hnm, hbs]
@[simp] theorem opProfCommit_part (src : Src) (n : Fin 4) (s : State) (hy : pt ≠ .mary) (hnm : pt ≠ .node .mary) (hbs : pt ≠ .bs) :
    (opProfCommit src n s).part pt = s.part pt := by simp [opProfCommit, hy, hnm, hbs]
@[simp] theorem State.writeCopy_part (s : State) (w : Nat) (l : List W64) (hm : pt ≠ .medium) (hc : pt ≠ .cellar) (hnm : pt ≠ .node .mary)
    (ht : pt ≠ .time) : (s.writeCopy w l).part pt = s.part pt := by
  simp [State.writeCopy, hm, hc, hnm, ht]
@[simp] theorem opProfCommitDone_part (s : State) (hm : pt ≠ .medium) (hy : pt ≠ .mary) (hc : pt ≠ .cellar) (hnm : pt ≠ .node .mary)
    (ht : pt ≠ .time) : (opProfCommitDone s).part pt = s.part pt := by
  unfold opProfCommitDone; split <;> simp [hm, hy, hc, hnm, ht]
@[simp] theorem opProfApply_part (n : Fin 4) (s : State) (hy : pt ≠ .mary) (hnl : pt ≠ .node .leaf) (hnm : pt ≠ .node .mary) (ht : pt ≠ .time)
    (hcl : pt ≠ .cells) (hft : pt ≠ .faults) (hcf : pt ≠ .cfg) (hbs : pt ≠ .bs) (hr : pt ≠ .regs) (hrt : pt ≠ .root) :
    (opProfApply n s).part pt = s.part pt := by simp [opProfApply, hy, hnl, hnm, ht, hcl, hft, hcf, hbs, hr, hrt]
@[simp] theorem opHostPerm_part (src : Src) (i : Fin 4) (v : BitVec 20) (s : State) (hnm : pt ≠ .node .mary) (hr : pt ≠ .regs) :
    (opHostPerm src i v s).part pt = s.part pt := by
  simp [opHostPerm, hnm, hr]
@[simp] theorem opMeClr_part (s : State) (hy : pt ≠ .mary) : (opMeClr s).part pt = s.part pt := by simp [opMeClr, hy]
@[simp] theorem opMeLoad_part (v : W32) (s : State) (hy : pt ≠ .mary) (hnm : pt ≠ .node .mary) : (opMeLoad v s).part pt = s.part pt := by
  simp [opMeLoad, hy, hnm]
@[simp] theorem State.fileOutage_part (s : State) (hm : pt ≠ .medium) (hy : pt ≠ .mary) (hc : pt ≠ .cellar) : (s.fileOutage).part pt = s.part pt :=
  by simp [State.fileOutage, hm, hy, hc]
@[simp] theorem opMeStart_part (s : State) (hm : pt ≠ .medium) (hy : pt ≠ .mary) (hc : pt ≠ .cellar) (hnm : pt ≠ .node .mary) :
    (opMeStart s).part pt = s.part pt := by simp [opMeStart, hm, hy, hc, hnm]
@[simp] theorem opMeWdog_part (s : State) (hy : pt ≠ .mary) : (opMeWdog s).part pt = s.part pt := by simp [opMeWdog, hy]
@[simp] theorem opLicInstall_part (src : Src) (s : State) (hm : pt ≠ .medium) (hy : pt ≠ .mary) (hc : pt ≠ .cellar) (hnm : pt ≠ .node .mary) :
    (opLicInstall src s).part pt = s.part pt := by simp [opLicInstall, hm, hy, hc, hnm]
@[simp] theorem opLicRemove_part (k : Nat) (s : State) (hy : pt ≠ .mary) : (opLicRemove k s).part pt = s.part pt := by
  simp [opLicRemove, hy]
@[simp] theorem State.licDelete_part (s : State) (hm : pt ≠ .medium) (hy : pt ≠ .mary) (hc : pt ≠ .cellar) : (s.licDelete).part pt = s.part pt := by
  simp [State.licDelete, hm, hy, hc]

/-! `Resets` -/
@[simp] theorem State.groupOne_part (s : State) (c : Nat) (hy : pt ≠ .mary) (hnm : pt ≠ .node .mary) (hcl : pt ≠ .cells) (hft : pt ≠ .faults)
    (hme : pt ≠ .maryErr) : (s.groupOne c).part pt = s.part pt := by simp [State.groupOne, hy, hnm, hcl, hft, hme]
@[simp] theorem opCellRst_part (c : Nat) (s : State) (hl : pt ≠ .leaf) (hrg : pt ≠ .regions) (hsl : pt ≠ .slots) (hpk : pt ≠ .prick)
    (hy : pt ≠ .mary) (hnm : pt ≠ .node .mary) (ht : pt ≠ .time) (hcl : pt ≠ .cells) (hft : pt ≠ .faults) (hme : pt ≠ .maryErr) (hr : pt ≠ .regs)
    (hrt : pt ≠ .root) : (opCellRst c s).part pt = s.part pt := by simp [opCellRst, hl, hrg, hsl, hpk, hy, hnm, ht, hcl, hft, hme, hr, hrt]
@[simp] theorem State.groupReset_part (s : State) (g : Nat) (hl : pt ≠ .leaf) (hrg : pt ≠ .regions) (hsl : pt ≠ .slots) (hpk : pt ≠ .prick)
    (hy : pt ≠ .mary) (hnm : pt ≠ .node .mary) (ht : pt ≠ .time) (hcl : pt ≠ .cells) (hft : pt ≠ .faults) (hme : pt ≠ .maryErr) (hr : pt ≠ .regs)
    (hrt : pt ≠ .root) : (s.groupReset g).part pt = s.part pt := by simp [State.groupReset, hl, hrg, hsl, hpk, hy, hnm, ht, hcl, hft, hme, hr, hrt]
@[simp] theorem opGrpRst_part (g : Nat) (s : State) (hl : pt ≠ .leaf) (hrg : pt ≠ .regions) (hsl : pt ≠ .slots) (hpk : pt ≠ .prick)
    (hy : pt ≠ .mary) (hnm : pt ≠ .node .mary) (ht : pt ≠ .time) (hcl : pt ≠ .cells) (hft : pt ≠ .faults) (hme : pt ≠ .maryErr) (hr : pt ≠ .regs)
    (hrt : pt ≠ .root) : (opGrpRst g s).part pt = s.part pt := by simp [opGrpRst, hl, hrg, hsl, hpk, hy, hnm, ht, hcl, hft, hme, hr, hrt]
@[simp] theorem State.quadReset_part (s : State) (q : Nat) (hl : pt ≠ .leaf) (hrg : pt ≠ .regions) (hsl : pt ≠ .slots) (hpk : pt ≠ .prick)
    (hy : pt ≠ .mary) (hnm : pt ≠ .node .mary) (ht : pt ≠ .time) (hcl : pt ≠ .cells) (hft : pt ≠ .faults) (hme : pt ≠ .maryErr) (hr : pt ≠ .regs)
    (hrt : pt ≠ .root) : (s.quadReset q).part pt = s.part pt := by simp [State.quadReset, hl, hrg, hsl, hpk, hy, hnm, ht, hcl, hft, hme, hr, hrt]
@[simp] theorem opQuadRst_part (pin : Bool) (q : Nat) (s : State) (hl : pt ≠ .leaf) (hrg : pt ≠ .regions) (hsl : pt ≠ .slots) (hpk : pt ≠ .prick)
    (hy : pt ≠ .mary) (hnm : pt ≠ .node .mary) (ht : pt ≠ .time) (hcl : pt ≠ .cells) (hft : pt ≠ .faults) (hme : pt ≠ .maryErr) (hr : pt ≠ .regs)
    (hrt : pt ≠ .root) : (opQuadRst pin q s).part pt = s.part pt := by simp [opQuadRst, hl, hrg, hsl, hpk, hy, hnm, ht, hcl, hft, hme, hr, hrt]
@[simp] theorem opQuadHeld_part (q : Nat) (s : State) (hy : pt ≠ .mary) (hnm : pt ≠ .node .mary) (hcl : pt ≠ .cells) (hft : pt ≠ .faults)
    (hme : pt ≠ .maryErr) : (opQuadHeld q s).part pt = s.part pt := by simp [opQuadHeld, hy, hnm, hcl, hft, hme]
@[simp] theorem opQuadRelease_part (q : Nat) (s : State) (hy : pt ≠ .mary) (hnm : pt ≠ .node .mary) (hcl : pt ≠ .cells) (hft : pt ≠ .faults)
    (hme : pt ≠ .maryErr) : (opQuadRelease q s).part pt = s.part pt := by simp [opQuadRelease, hy, hnm, hcl, hft, hme]
@[simp] theorem opLeafAssert_part (s : State) (hb : pt ≠ .binding) (hh : pt ≠ .hold) (hl : pt ≠ .leaf) (hrg : pt ≠ .regions) (hsl : pt ≠ .slots)
    (hpk : pt ≠ .prick) (hnl : pt ≠ .node .leaf) (ht : pt ≠ .time) (hcl : pt ≠ .cells) (hft : pt ≠ .faults) (hle : pt ≠ .leafErr) (hcf : pt ≠ .cfg)
    (hbs : pt ≠ .bs) (hr : pt ≠ .regs) (hrt : pt ≠ .root) : (opLeafAssert s).part pt = s.part pt := by
  cases pt with
  | queue => rfl
  | mary => rfl
  | maryErr => rfl
  | cellar => rfl
  | medium => rfl
  | node j => cases j with
    | leaf => exact absurd rfl hnl
    | mary => rfl
  | _ => contradiction
@[simp] theorem opLeafRelease_part (s : State) (hh : pt ≠ .hold) (hnl : pt ≠ .node .leaf) (ht : pt ≠ .time) :
    (opLeafRelease s).part pt = s.part pt := by
  simp [opLeafRelease, hh, hnl, ht]
@[simp] theorem State.restoreCeilings_part (s : State) (hc : pt ≠ .cellar) (hnm : pt ≠ .node .mary) (hrt : pt ≠ .root) :
    (s.restoreCeilings).part pt = s.part pt := by simp [State.restoreCeilings, hc, hnm, hrt]
@[simp] theorem State.loseUnread_part (s : State) (hc : pt ≠ .cellar) (hnm : pt ≠ .node .mary) (hrt : pt ≠ .root) :
    (s.loseUnread).part pt = s.part pt := by simp [State.loseUnread, hc, hnm, hrt]
@[simp] theorem State.restoreRwp_part (s : State) (i off : Nat) (hc : pt ≠ .cellar) (hnm : pt ≠ .node .mary) (hcl : pt ≠ .cells) (hr : pt ≠ .regs) :
    (s.restoreRwp i off).part pt = s.part pt := by simp [State.restoreRwp, hc, hnm, hcl, hr]
@[simp] theorem State.restoreRwps_part (s : State) (hc : pt ≠ .cellar) (hnm : pt ≠ .node .mary) (hcl : pt ≠ .cells) (hr : pt ≠ .regs) :
    (s.restoreRwps).part pt = s.part pt := by simp [State.restoreRwps, hc, hnm, hcl, hr]
@[simp] theorem State.restoreWear_part (s : State) (hc : pt ≠ .cellar) : (s.restoreWear).part pt = s.part pt := by
  simp [State.restoreWear, hc]
@[simp] theorem State.computeKa_part (s : State) (hc : pt ≠ .cellar) : (s.computeKa).part pt = s.part pt := by simp [State.computeKa, hc]
@[simp] theorem opPorstAssert_part (s : State) (hm : pt ≠ .medium) (hh : pt ≠ .hold) (hy : pt ≠ .mary) (hc : pt ≠ .cellar) (hnm : pt ≠ .node .mary)
    (ht : pt ≠ .time) (hcl : pt ≠ .cells) (hft : pt ≠ .faults) (hme : pt ≠ .maryErr) (hcf : pt ≠ .cfg) (hbs : pt ≠ .bs) (hr : pt ≠ .regs)
    (hrt : pt ≠ .root) : (opPorstAssert s).part pt = s.part pt := by
  have hcut : ∃ c n, (if s.cellar.supply then s else s.powerCut) = { s with cellar := c, freeCtr := n } := by
    split
    · exact ⟨s.cellar, s.freeCtr, rfl⟩
    · unfold State.powerCut
      dsimp only
      split <;> exact ⟨_, _, rfl⟩
  obtain ⟨c, n, hcut⟩ := hcut
  unfold opPorstAssert
  rw [hcut]
  split
  · rfl
  · cases pt with
    | queue => rfl
    | leaf => rfl
    | leafErr => rfl
    | binding => rfl
    | regions => rfl
    | slots => rfl
    | prick => rfl
    | node j => cases j with
      | leaf => rfl
      | mary => exact absurd rfl hnm
    | _ => contradiction
@[simp] theorem State.chipStart_part (s : State) (sel : Fin 4) (hm : pt ≠ .medium) (hy : pt ≠ .mary) (hc : pt ≠ .cellar) (hnl : pt ≠ .node .leaf)
    (hnm : pt ≠ .node .mary) (ht : pt ≠ .time) (hcl : pt ≠ .cells) (hft : pt ≠ .faults) (hcf : pt ≠ .cfg) (hbs : pt ≠ .bs) (hr : pt ≠ .regs)
    (hrt : pt ≠ .root) : (s.chipStart sel).part pt = s.part pt := by
  simp [State.chipStart, hm, hy, hc, hnl, hnm, ht, hcl, hft, hcf, hbs, hr, hrt]
@[simp] theorem opPorstRelease_part (sel : Fin 4) (s : State) (hm : pt ≠ .medium) (hh : pt ≠ .hold) (hy : pt ≠ .mary) (hc : pt ≠ .cellar)
    (hnl : pt ≠ .node .leaf) (hnm : pt ≠ .node .mary) (ht : pt ≠ .time) (hcl : pt ≠ .cells) (hft : pt ≠ .faults) (hcf : pt ≠ .cfg) (hbs : pt ≠ .bs)
    (hr : pt ≠ .regs) (hrt : pt ≠ .root) : (opPorstRelease sel s).part pt = s.part pt := by
  unfold opPorstRelease
  split
  · rfl
  · simp [hm, hh, hy, hc, hnl, hnm, ht, hcl, hft, hcf, hbs, hr, hrt]
@[simp] theorem opChipRstKey_part (src : Src) (v : W32) (s : State) (hy : pt ≠ .mary) : (opChipRstKey src v s).part pt = s.part pt := by
  simp [opChipRstKey, hy]
@[simp] theorem opChipRst_part (armed : Bool) (src : Src) (sel : Fin 4) (s : State) (hm : pt ≠ .medium) (hh : pt ≠ .hold) (hy : pt ≠ .mary)
    (hc : pt ≠ .cellar) (hnl : pt ≠ .node .leaf) (hnm : pt ≠ .node .mary) (ht : pt ≠ .time) (hcl : pt ≠ .cells) (hft : pt ≠ .faults)
    (hme : pt ≠ .maryErr) (hcf : pt ≠ .cfg) (hbs : pt ≠ .bs) (hr : pt ≠ .regs) (hrt : pt ≠ .root) :
    (opChipRst armed src sel s).part pt = s.part pt := by
  unfold opChipRst
  split
  · simp [hnm]
  · have h : ({ s with maryN := s.nodeReset false, mary := s.mary.chipReset false (s.rc .mary),
                         cellar := s.cellar.chipReset false } : State).part pt = s.part pt := by
      cases pt with
      | queue => rfl
      | leaf => rfl
      | leafErr => rfl
      | binding => rfl
      | regions => rfl
      | slots => rfl
      | prick => rfl
      | node j => cases j with
        | leaf => rfl
        | mary => exact absurd rfl hnm
      | _ => contradiction
    simpa [hm, hh, hy, hc, hnl, hnm, ht, hcl, hft, hme, hcf, hbs, hr, hrt] using h
/-! `Picot` -/
@[simp] theorem State.picotK_part (s : State) (k : NodeSel) (d : Dom) (hn : pt ≠ .node k) (ht : pt ≠ .time) : (s.picotK k d).part pt = s.part pt :=
  by
  unfold State.picotK; dsimp only; split <;> simp [hn, ht]
@[simp] theorem State.picotBar_part (s : State) (k : NodeSel) (i : Nat) (hn : pt ≠ .node k) (hcl : pt ≠ .cells) (hft : pt ≠ .faults) :
    (s.picotBar k i).part pt = s.part pt := by simp [State.picotBar, hn, hcl, hft]
@[simp] theorem State.picotCell_part (s : State) (k : NodeSel) (i : Nat) (hn : pt ≠ .node k) (hcl : pt ≠ .cells) (hft : pt ≠ .faults) :
    (s.picotCell k i).part pt = s.part pt := by simp [State.picotCell, hn, hcl, hft]
@[simp] theorem State.picotChans_part (s : State) (k : NodeSel) (hl : pt ≠ .leaf) (hy : pt ≠ .mary) (hn : pt ≠ .node k) (hcl : pt ≠ .cells)
    (hme : pt ≠ .maryErr) : (s.picotChans k).part pt = s.part pt := by simp [State.picotChans, hl, hy, hn, hcl, hme]
@[simp] theorem State.picotLeaf_part (s : State) (d : Dom) (hl : pt ≠ .leaf) (hrg : pt ≠ .regions) (hnl : pt ≠ .node .leaf) (ht : pt ≠ .time) :
    (s.picotLeaf d).part pt = s.part pt := by simp [State.picotLeaf, hl, hrg, hnl, ht]
@[simp] theorem State.licPicot_part (s : State) (hy : pt ≠ .mary) : (s.licPicot).part pt = s.part pt := by simp [State.licPicot, hy]
@[simp] theorem State.picotMary_part (s : State) (d : Dom) (hl : pt ≠ .leaf) (hrg : pt ≠ .regions) (hy : pt ≠ .mary) (hnm : pt ≠ .node .mary)
    (ht : pt ≠ .time) (hr : pt ≠ .regs) : (s.picotMary d).part pt = s.part pt := by simp [State.picotMary, hl, hrg, hy, hnm, ht, hr]
@[simp] theorem State.picotPace_part (s : State) (k : NodeSel) (hn : pt ≠ .node k) (hrt : pt ≠ .root) : (s.picotPace k).part pt = s.part pt := by
  simp [State.picotPace, hn, hrt]
@[simp] theorem State.picotPlan_part (s : State) (k : NodeSel) (hn : pt ≠ .node k) (hrt : pt ≠ .root) : (s.picotPlan k).part pt = s.part pt := by
  simp [State.picotPlan, hn, hrt]
@[simp] theorem opPicot_part (k : NodeSel) (d : Dom) (s : State) (hl : pt ≠ .leaf) (hrg : pt ≠ .regions) (hy : pt ≠ .mary) (hn : pt ≠ .node k)
    (ht : pt ≠ .time) (hcl : pt ≠ .cells) (hft : pt ≠ .faults) (hme : pt ≠ .maryErr) (hr : pt ≠ .regs) (hrt : pt ≠ .root) :
    (opPicot k d s).part pt = s.part pt := by
  unfold opPicot; dsimp only; (repeat' split) <;> simp [hl, hrg, hy, hn, ht, hcl, hft, hme, hr, hrt]
@[simp] theorem opPlannedRack_part (s : State) (hl : pt ≠ .leaf) (hrg : pt ≠ .regions) (hy : pt ≠ .mary) (hnl : pt ≠ .node .leaf) (ht : pt ≠ .time)
    (hcl : pt ≠ .cells) (hft : pt ≠ .faults) (hme : pt ≠ .maryErr) (hr : pt ≠ .regs) (hrt : pt ≠ .root) : (opPlannedRack s).part pt = s.part pt :=
  by unfold opPlannedRack; split <;> simp [hl, hrg, hy, hnl, ht, hcl, hft, hme, hr, hrt]

/-! `Regs` -/
@[simp] theorem State.fifoDrop_part (s : State) (k : NodeSel) (f : FifoId) (hl : pt ≠ .leaf) (hrg : pt ≠ .regions) (hpk : pt ≠ .prick)
    (hy : pt ≠ .mary) (hn : pt ≠ .node k) (hrt : pt ≠ .root) : (s.fifoDrop k f).part pt = s.part pt := by
  cases f <;> simp [State.fifoDrop, hl, hrg, hpk, hy, hn, hrt]
@[simp] theorem State.answer_part (s : State) (k : NodeSel) (v : W32) (bad : Bool) (hn : pt ≠ .node k) : (s.answer k v bad).part pt = s.part pt :=
  by simp [State.answer, hn]
@[simp] theorem State.snapDrop_part (s : State) (k : NodeSel) (src : Src) (base : Nat) (hn : pt ≠ .node k) :
    (s.snapDrop k src base).part pt = s.part pt := by
  simp [State.snapDrop, hn]
@[simp] theorem State.snapKeep_part (s : State) (k : NodeSel) (src : Src) (base : Nat) (l : List W32) (hn : pt ≠ .node k) :
    (s.snapKeep k src base l).part pt = s.part pt := by
  simp [State.snapKeep, hn]
@[simp] theorem State.prbsRun_part (s : State) (k : NodeSel) (i : Nat) (hn : pt ≠ .node k) (hcl : pt ≠ .cells) (hft : pt ≠ .faults) :
    (s.prbsRun k i).part pt = s.part pt := by simp [State.prbsRun, hn, hcl, hft]
@[simp] theorem State.readRun_part (s : State) (k : NodeSel) (off : Nat) (hc : pt ≠ .cellar) (hn : pt ≠ .node k) (hcl : pt ≠ .cells)
    (hft : pt ≠ .faults) : (s.readRun k off).part pt = s.part pt := by
  unfold State.readRun; split <;> simp [hc, hn, hcl, hft]
@[simp] theorem State.readAfter_part (s : State) (k : NodeSel) (src : Src) (off : Nat) (hm : pt ≠ .medium) (hy : pt ≠ .mary) (hc : pt ≠ .cellar)
    (hn : pt ≠ .node k) (hnm : pt ≠ .node .mary) (ht : pt ≠ .time) (hrt : pt ≠ .root) :
    (s.readAfter k src off).part pt = s.part pt := by
  simp [State.readAfter, hm, hy, hc, hn, hnm, ht, hrt]
@[simp] theorem State.wideTake_part (s : State) (k : NodeSel) (src : Src) (w : WideView) : (s.wideTake k src w).2.part pt = s.part pt := by
  unfold State.wideTake; split <;> simp
@[simp] theorem State.readWide_part (s : State) (k : NodeSel) (src : Src) (w : WideView) (off : Nat) (hm : pt ≠ .medium) (hl : pt ≠ .leaf)
    (hrg : pt ≠ .regions) (hpk : pt ≠ .prick) (hy : pt ≠ .mary) (hc : pt ≠ .cellar) (hn : pt ≠ .node k) (hnm : pt ≠ .node .mary) (ht : pt ≠ .time)
    (hcl : pt ≠ .cells) (hft : pt ≠ .faults) (hrt : pt ≠ .root) :
    (s.readWide k src w off).part pt = s.part pt := by
  unfold State.readWide
  dsimp only
  (repeat' split) <;> simp [hm, hl, hrg, hpk, hy, hc, hn, hnm, ht, hcl, hft, hrt]
@[simp] theorem State.readWord_part (s : State) (k : NodeSel) (src : Src) (off : Nat) (hc : pt ≠ .cellar) (hn : pt ≠ .node k) (hcl : pt ≠ .cells)
    (hft : pt ≠ .faults) : (s.readWord k src off).part pt = s.part pt := by
  unfold State.readWord; dsimp only; split <;> simp [hc, hn, hcl, hft]
@[simp] theorem State.readAt_part (s : State) (k : NodeSel) (src : Src) (off : Nat) (hm : pt ≠ .medium) (hl : pt ≠ .leaf) (hrg : pt ≠ .regions)
    (hpk : pt ≠ .prick) (hy : pt ≠ .mary) (hc : pt ≠ .cellar) (hn : pt ≠ .node k) (hnm : pt ≠ .node .mary) (ht : pt ≠ .time) (hcl : pt ≠ .cells)
    (hft : pt ≠ .faults) (hrt : pt ≠ .root) :
    (s.readAt k src off).part pt = s.part pt := by
  unfold State.readAt
  (repeat' split) <;> simp [hm, hl, hrg, hpk, hy, hc, hn, hnm, ht, hcl, hft, hrt]
@[simp] theorem opRootRead_part (src : Src) (s : State) (hm : pt ≠ .medium) (hl : pt ≠ .leaf) (hrg : pt ≠ .regions) (hpk : pt ≠ .prick)
    (hy : pt ≠ .mary) (hc : pt ≠ .cellar) (hnl : pt ≠ .node .leaf) (hnm : pt ≠ .node .mary) (ht : pt ≠ .time) (hcl : pt ≠ .cells)
    (hft : pt ≠ .faults) (hrt : pt ≠ .root) : (opRootRead src s).part pt = s.part pt := by
  unfold opRootRead
  (repeat' split) <;> simp [hm, hl, hrg, hpk, hy, hc, hnl, hnm, ht, hcl, hft, hrt]
@[simp] theorem State.readReg_part (s : State) (k : NodeSel) (src : Src) (off : Nat) (hm : pt ≠ .medium) (hl : pt ≠ .leaf) (hrg : pt ≠ .regions)
    (hpk : pt ≠ .prick) (hy : pt ≠ .mary) (hc : pt ≠ .cellar) (hn : pt ≠ .node k) (hnm : pt ≠ .node .mary) (ht : pt ≠ .time) (hcl : pt ≠ .cells)
    (hft : pt ≠ .faults) (hrt : pt ≠ .root) :
    (s.readReg k src off).part pt = s.part pt := by
  unfold State.readReg; dsimp only; (repeat' split) <;> simp [hm, hl, hrg, hpk, hy, hc, hn, hnm, ht, hcl, hft, hrt]

/-! `RegWrite` -/
@[simp] theorem State.writeStored_part (s : State) (k : NodeSel) (src : Src) (off : Nat) (v : W32) (hc : pt ≠ .cellar) (hn : pt ≠ .node k)
    (hnm : pt ≠ .node .mary) (hr : pt ≠ .regs) :
    (s.writeStored k src off v).part pt = s.part pt := by
  simp [State.writeStored, hc, hn, hnm, hr]
@[simp] theorem opExpertUnlock_part (k : NodeSel) (src : Src) (v : W32) (s : State) (hn : pt ≠ .node k) :
    (opExpertUnlock k src v s).part pt = s.part pt := by
  simp [opExpertUnlock, hn]
@[simp] theorem opErrCntClr_part (k : NodeSel) (v : Bool) (s : State) (hn : pt ≠ .node k) (hcl : pt ≠ .cells) (hft : pt ≠ .faults) :
    (opErrCntClr k v s).part pt = s.part pt := by simp [opErrCntClr, hn, hcl, hft]
theorem State.writeW1c_part (s : State) (k : NodeSel) (off : Nat) (v : W32) (hl : pt ≠ .leaf) (hy : pt ≠ .mary) (hc : pt ≠ .cellar)
    (hn : pt ≠ .node k) (ht : pt ≠ .time) (hcl : pt ≠ .cells) (hft : pt ≠ .faults) (hle : pt ≠ .leafErr) (hme : pt ≠ .maryErr) (hbs : pt ≠ .bs)
    (hrt : pt ≠ .root) : s.SomePart pt (s.writeW1c k off v) := by
  unfold State.writeW1c
  cases k <;> simp [hl, hy, hc, hn, ht, hcl, hft, hle, hme, hbs, hrt]
@[simp] theorem opPortCtl_part (k : NodeSel) (i : Nat) (v : W32) (s : State) (hl : pt ≠ .leaf) (hrg : pt ≠ .regions) (hsl : pt ≠ .slots)
    (hpk : pt ≠ .prick) (hy : pt ≠ .mary) (hn : pt ≠ .node k) (hnm : pt ≠ .node .mary) (ht : pt ≠ .time) (hcl : pt ≠ .cells) (hft : pt ≠ .faults)
    (hle : pt ≠ .leafErr) (hr : pt ≠ .regs) (hrt : pt ≠ .root) : (opPortCtl k i v s).part pt = s.part pt := by simp [opPortCtl, hl, hrg, hsl, hpk,
    hy, hn, hnm, ht, hcl, hft, hle, hr, hrt]
@[simp] theorem opSnapCtl_part (k : NodeSel) (v : W32) (s : State) (hn : pt ≠ .node k) (ht : pt ≠ .time) (hr : pt ≠ .regs) :
    (opSnapCtl k v s).part pt = s.part pt := by simp [opSnapCtl, hn, ht, hr]
@[simp] theorem opBsCtl_part (k : NodeSel) (src : Src) (v : W32) (s : State) (hn : pt ≠ .node k) (hnl : pt ≠ .node .leaf) (hnm : pt ≠ .node .mary)
    (ht : pt ≠ .time) (hcl : pt ≠ .cells) (hft : pt ≠ .faults) (hcf : pt ≠ .cfg) (hbs : pt ≠ .bs) (hr : pt ≠ .regs) (hrt : pt ≠ .root) :
    (opBsCtl k src v s).part pt = s.part pt := by simp [opBsCtl, hn, hnl, hnm, ht, hcl, hft, hcf, hbs, hr, hrt]
@[simp] theorem onBit0_part (v : W32) (f : State → State) (s : State) (hf : ∀ s, (f s).part pt = s.part pt) : (onBit0 v f s).part pt = s.part pt :=
  by
  simp [onBit0, *]
@[simp] theorem State.putSel_part (s : State) (k : NodeSel) (src : Src) (off : Nat) (v : Nat) (hn : pt ≠ .node k) (hrt : pt ≠ .root) :
    (s.putSel k src off v).part pt = s.part pt := by
  simp [State.putSel, hn, hrt]
@[simp] theorem State.writeSd_part (s : State) (k : NodeSel) (src : Src) (expert ok : Bool) (ctr : Nat) (f : SdCtx → SdCtx) (hn : pt ≠ .node k)
    (hrt : pt ≠ .root) :
    (s.writeSd k src expert ok ctr f).part pt = s.part pt := by
  simp [State.writeSd, hn, hrt]
theorem State.writeRoot_part (s : State) (k : NodeSel) (src : Src) (off : Nat) (v : W32) (hm : pt ≠ .medium) (hb : pt ≠ .binding) (hl : pt ≠ .leaf)
    (hrg : pt ≠ .regions) (hsl : pt ≠ .slots) (hpk : pt ≠ .prick) (hy : pt ≠ .mary) (hc : pt ≠ .cellar) (hn : pt ≠ .node k) (hnl : pt ≠ .node .leaf)
    (hnm : pt ≠ .node .mary) (hcl : pt ≠ .cells) (hr : pt ≠ .regs) (hrt : pt ≠ .root) :
    s.SomePart pt (s.writeRoot k src off v) := by
  unfold State.writeRoot
  dsimp only
  (repeat' split) <;> simp [hm, hb, hl, hrg, hsl, hpk, hy, hc, hn, hnl, hnm, hcl, hr, hrt]
theorem State.writeTime_part (s : State) (k : NodeSel) (off : Nat) (v : W32) (hn : pt ≠ .node k) (ht : pt ≠ .time) (hr : pt ≠ .regs) :
    s.SomePart pt (s.writeTime k off v) := by simp [State.writeTime, hn, ht, hr]
theorem State.writeLeaf_part (s : State) (src : Src) (off : Nat) (v : W32) (hb : pt ≠ .binding) (hl : pt ≠ .leaf) (hrg : pt ≠ .regions)
    (hsl : pt ≠ .slots) (hpk : pt ≠ .prick) (hy : pt ≠ .mary) (hc : pt ≠ .cellar) (hnl : pt ≠ .node .leaf) (hnm : pt ≠ .node .mary)
    (ht : pt ≠ .time) (hcl : pt ≠ .cells) (hft : pt ≠ .faults) (hle : pt ≠ .leafErr) (hcf : pt ≠ .cfg) (hbs : pt ≠ .bs) (hr : pt ≠ .regs)
    (hrt : pt ≠ .root) : s.SomePart pt (s.writeLeaf src off v) := by
  unfold State.writeLeaf
  dsimp only
  (repeat' split) <;> simp [hb, hl, hrg, hsl, hpk, hy, hc, hnl, hnm, ht, hcl, hft, hle, hcf, hbs, hr, hrt]
@[simp] theorem State.writeIrqEn_part (s : State) (h : Fin 4) (v : W32) (hnm : pt ≠ .node .mary) (hr : pt ≠ .regs) :
    (s.writeIrqEn h v).part pt = s.part pt := by simp [State.writeIrqEn, hnm, hr]
@[simp] theorem State.writePtp_part (s : State) (k : Nat) (v : W32) (hy : pt ≠ .mary) (hc : pt ≠ .cellar) (hnm : pt ≠ .node .mary)
    (hr : pt ≠ .regs) : (s.writePtp k v).part pt = s.part pt := by simp [State.writePtp, hy, hc, hnm, hr]
theorem State.writeMary_part (s : State) (src : Src) (armed : Bool) (off : Nat) (v : W32) (hm : pt ≠ .medium) (hh : pt ≠ .hold) (hl : pt ≠ .leaf)
    (hrg : pt ≠ .regions) (hsl : pt ≠ .slots) (hpk : pt ≠ .prick) (hy : pt ≠ .mary) (hc : pt ≠ .cellar) (hnl : pt ≠ .node .leaf)
    (hnm : pt ≠ .node .mary) (ht : pt ≠ .time) (hcl : pt ≠ .cells) (hft : pt ≠ .faults) (hme : pt ≠ .maryErr) (hcf : pt ≠ .cfg) (hbs : pt ≠ .bs)
    (hr : pt ≠ .regs) (hrt : pt ≠ .root) :
    s.SomePart pt (s.writeMary src armed off v) := by
  unfold State.writeMary
  dsimp only
  (repeat' split) <;> simp [hm, hh, hl, hrg, hsl, hpk, hy, hc, hnl, hnm, ht, hcl, hft, hme, hcf, hbs, hr, hrt]
@[simp] theorem State.setWide_part (s : State) (k : NodeSel) (base : Nat) (l : List W32) (hn : pt ≠ .node k) (hr : pt ≠ .regs) :
    (s.setWide k base l).part pt = s.part pt := by
  simp [State.setWide, hn, hr]
@[simp] theorem State.setKOvr_part (s : State) (k : NodeSel) (d : Dom) (base : Nat) (l : List W32) (hn : pt ≠ .node k) (hr : pt ≠ .regs) :
    (s.setKOvr k d base l).part pt = s.part pt := by
  simp [State.setKOvr, hn, hr]
theorem State.commitWide_part (s : State) (k : NodeSel) (src : Src) (base : Nat) (l : List W32) (hm : pt ≠ .medium) (hl : pt ≠ .leaf)
    (hrg : pt ≠ .regions) (hsl : pt ≠ .slots) (hpk : pt ≠ .prick) (hy : pt ≠ .mary) (hc : pt ≠ .cellar) (hn : pt ≠ .node k) (hnm : pt ≠ .node .mary)
    (ht : pt ≠ .time) (hcl : pt ≠ .cells) (hr : pt ≠ .regs) (hrt : pt ≠ .root) :
    s.SomePart pt (s.commitWide k src base l) := by
  unfold State.commitWide
  cases k <;> simp [hm, hl, hrg, hsl, hpk, hy, hc, hn, hnm, ht, hcl, hr, hrt]
@[simp] theorem State.stageDrop_part (s : State) (k : NodeSel) (src : Src) (hn : pt ≠ .node k) : (s.stageDrop k src).part pt = s.part pt := by
  simp [State.stageDrop, hn]
@[simp] theorem State.stageKeep_part (s : State) (k : NodeSel) (src : Src) (base : Nat) (mask : W32) (l : List W32) (hn : pt ≠ .node k) :
    (s.stageKeep k src base mask l).part pt = s.part pt := by
  simp [State.stageKeep, hn]
@[simp] theorem State.abandon_part (s : State) (k : NodeSel) (src : Src) (hy : pt ≠ .mary) (hn : pt ≠ .node k) :
    (s.abandon k src).part pt = s.part pt := by
  unfold State.abandon; split <;> simp [hy, hn]
theorem State.commitWide_getD_part {s s1 : State} {k : NodeSel} {src : Src} {base : Nat} {l : List W32}
    (hs : s.SomePart pt (s.commitWide k src base l)) (h : s1.part pt = s.part pt) : ((s.commitWide k src base l).getD s1).part pt = s.part pt := by
  revert hs
  cases s.commitWide k src base l with
  | none => exact fun _ => h
  | some t => exact fun hs => hs t rfl
@[simp] theorem State.writeWide_part (s : State) (k : NodeSel) (src : Src) (base n off : Nat) (v : W32) (hm : pt ≠ .medium) (hl : pt ≠ .leaf)
    (hrg : pt ≠ .regions) (hsl : pt ≠ .slots) (hpk : pt ≠ .prick) (hy : pt ≠ .mary) (hc : pt ≠ .cellar) (hn : pt ≠ .node k) (hnm : pt ≠ .node .mary)
    (ht : pt ≠ .time) (hcl : pt ≠ .cells) (hr : pt ≠ .regs) (hrt : pt ≠ .root) :
    (s.writeWide k src base n off v).part pt = s.part pt := by
  unfold State.writeWide
  dsimp only
  (repeat' split) <;> simp [State.commitWide_getD_part, State.commitWide_part, hm, hl, hrg, hsl, hpk, hy, hc, hn, hnm, ht, hcl, hr, hrt]
@[simp] theorem State.writeWord_part (s : State) (k : NodeSel) (src : Src) (armed : Bool) (off : Nat) (v : W32) (hm : pt ≠ .medium)
    (hb : pt ≠ .binding) (hh : pt ≠ .hold) (hl : pt ≠ .leaf) (hrg : pt ≠ .regions) (hsl : pt ≠ .slots) (hpk : pt ≠ .prick) (hy : pt ≠ .mary)
    (hc : pt ≠ .cellar) (hn : pt ≠ .node k) (hnl : pt ≠ .node .leaf) (hnm : pt ≠ .node .mary) (ht : pt ≠ .time) (hcl : pt ≠ .cells)
    (hft : pt ≠ .faults) (hle : pt ≠ .leafErr) (hme : pt ≠ .maryErr) (hcf : pt ≠ .cfg) (hbs : pt ≠ .bs) (hr : pt ≠ .regs) (hrt : pt ≠ .root) :
    (s.writeWord k src armed off v).part pt = s.part pt := by
  unfold State.writeWord
  dsimp only
  split
  · next t hres =>
    refine State.somePart_or pt ?own (State.somePart_or pt (s.writeW1c_part pt k off v hl hy hc hn ht hcl hft hle hme hbs hrt)
      (State.somePart_or pt (s.writeTime_part pt k off v hn ht hr)
        (State.somePart_or pt (s.writeRoot_part pt k src off v hm hb hl hrg hsl hpk hy hc hn hnl hnm hcl hr hrt) ?rest))) t hres
    case own =>
      split
      · (repeat' split) <;> simp [hl, hrg, hsl, hpk, hy, hc, hn, hnm, ht, hcl, hft, hle, hr, hrt]
      · simp
    case rest =>
      split
      · exact s.writeLeaf_part pt src off v hb hl hrg hsl hpk hy hc hnl hnm ht hcl hft hle hcf hbs hr hrt
      · exact s.writeMary_part pt src armed off v hm hh hl hrg hsl hpk hy hc hnl hnm ht hcl hft hme hcf hbs hr hrt
  · (repeat' split) <;> simp [hy, hc, hn, hnm, ht, hr]
@[simp] theorem State.writeAt_part (s : State) (k : NodeSel) (src : Src) (armed : Bool) (off : Nat) (v : W32) (hm : pt ≠ .medium)
    (hb : pt ≠ .binding) (hh : pt ≠ .hold) (hl : pt ≠ .leaf) (hrg : pt ≠ .regions) (hsl : pt ≠ .slots) (hpk : pt ≠ .prick) (hy : pt ≠ .mary)
    (hc : pt ≠ .cellar) (hn : pt ≠ .node k) (hnl : pt ≠ .node .leaf) (hnm : pt ≠ .node .mary) (ht : pt ≠ .time) (hcl : pt ≠ .cells)
    (hft : pt ≠ .faults) (hle : pt ≠ .leafErr) (hme : pt ≠ .maryErr) (hcf : pt ≠ .cfg) (hbs : pt ≠ .bs) (hr : pt ≠ .regs) (hrt : pt ≠ .root) :
    (s.writeAt k src armed off v).part pt = s.part pt := by
  unfold State.writeAt
  (repeat' split) <;> simp [hm, hb, hh, hl, hrg, hsl, hpk, hy, hc, hn, hnl, hnm, ht, hcl, hft, hle, hme, hcf, hbs, hr, hrt]
@[simp] theorem opRootWrite_part (src : Src) (v : W32) (s : State) (hm : pt ≠ .medium) (hb : pt ≠ .binding) (hh : pt ≠ .hold) (hl : pt ≠ .leaf)
    (hrg : pt ≠ .regions) (hsl : pt ≠ .slots) (hpk : pt ≠ .prick) (hy : pt ≠ .mary) (hc : pt ≠ .cellar) (hnl : pt ≠ .node .leaf)
    (hnm : pt ≠ .node .mary) (ht : pt ≠ .time) (hcl : pt ≠ .cells) (hft : pt ≠ .faults) (hle : pt ≠ .leafErr) (hme : pt ≠ .maryErr)
    (hcf : pt ≠ .cfg) (hbs : pt ≠ .bs) (hr : pt ≠ .regs) (hrt : pt ≠ .root) :
    (opRootWrite src v s).part pt = s.part pt := by
  unfold opRootWrite
  (repeat' split) <;> simp [hm, hb, hh, hl, hrg, hsl, hpk, hy, hc, hnl, hnm, ht, hcl, hft, hle, hme, hcf, hbs, hr, hrt]
@[simp] theorem State.writeReg_part (s : State) (k : NodeSel) (src : Src) (off : Nat) (v : W32) (hm : pt ≠ .medium) (hb : pt ≠ .binding)
    (hh : pt ≠ .hold) (hl : pt ≠ .leaf) (hrg : pt ≠ .regions) (hsl : pt ≠ .slots) (hpk : pt ≠ .prick) (hy : pt ≠ .mary) (hc : pt ≠ .cellar)
    (hn : pt ≠ .node k) (hnl : pt ≠ .node .leaf) (hnm : pt ≠ .node .mary) (ht : pt ≠ .time) (hcl : pt ≠ .cells) (hft : pt ≠ .faults)
    (hle : pt ≠ .leafErr) (hme : pt ≠ .maryErr) (hcf : pt ≠ .cfg) (hbs : pt ≠ .bs) (hr : pt ≠ .regs) (hrt : pt ≠ .root) :
    (s.writeReg k src off v).part pt = s.part pt := by
  simp [State.writeReg, hm, hb, hh, hl, hrg, hsl, hpk, hy, hc, hn, hnl, hnm, ht, hcl, hft, hle, hme, hcf, hbs, hr, hrt]

/-! `Serve` -/
@[simp] theorem State.modPort_part (s : State) (h : Fin 4) (f : HostPort → HostPort) (hy : pt ≠ .mary) : (s.modPort h f).part pt = s.part pt := by
  simp [State.modPort, hy]
@[simp] theorem opHostWrite_part (h : Fin 4) (a : BitVec 24) (ws : List W32) (s : State) (hy : pt ≠ .mary) :
    (opHostWrite h a ws s).part pt = s.part pt := by
  simp [opHostWrite, hy]
@[simp] theorem opHostRead_part (h : Fin 4) (a : BitVec 24) (n : Nat) (tmo : Bool) (s : State) (hy : pt ≠ .mary) (hnm : pt ≠ .node .mary) :
    (opHostRead h a n tmo s).part pt = s.part pt := by
  simp [opHostRead, hy, hnm]
@[simp] theorem opHostStatus_part (h : Fin 4) (op : Byte) (s : State) (hy : pt ≠ .mary) : (opHostStatus h op s).part pt = s.part pt := by
  simp [opHostStatus, hy]
@[simp] theorem opHostServe_part (s : State) (hm : pt ≠ .medium) (hb : pt ≠ .binding) (hh : pt ≠ .hold) (hl : pt ≠ .leaf) (hrg : pt ≠ .regions)
    (hsl : pt ≠ .slots) (hpk : pt ≠ .prick) (hy : pt ≠ .mary) (hc : pt ≠ .cellar) (hnl : pt ≠ .node .leaf) (hnm : pt ≠ .node .mary)
    (ht : pt ≠ .time) (hcl : pt ≠ .cells) (hft : pt ≠ .faults) (hle : pt ≠ .leafErr) (hme : pt ≠ .maryErr) (hcf : pt ≠ .cfg) (hbs : pt ≠ .bs)
    (hr : pt ≠ .regs) (hrt : pt ≠ .root) : (opHostServe s).part pt = s.part pt := by
  unfold opHostServe; dsimp only; (repeat' split) <;> simp [hm, hb, hh, hl, hrg, hsl, hpk, hy, hc, hnl, hnm, ht, hcl, hft, hle, hme, hcf, hbs, hr,
    hrt]
@[simp] theorem State.windowWrite_part (s : State) (k : NodeSel) (src : Src) (off : Nat) (v : W32) (hm : pt ≠ .medium) (hb : pt ≠ .binding)
    (hh : pt ≠ .hold) (hl : pt ≠ .leaf) (hrg : pt ≠ .regions) (hsl : pt ≠ .slots) (hpk : pt ≠ .prick) (hy : pt ≠ .mary) (hc : pt ≠ .cellar)
    (hn : pt ≠ .node k) (hnl : pt ≠ .node .leaf) (hnm : pt ≠ .node .mary) (ht : pt ≠ .time) (hcl : pt ≠ .cells) (hft : pt ≠ .faults)
    (hle : pt ≠ .leafErr) (hme : pt ≠ .maryErr) (hcf : pt ≠ .cfg) (hbs : pt ≠ .bs) (hr : pt ≠ .regs) (hrt : pt ≠ .root) :
    (s.windowWrite k src off v).part pt = s.part pt := by
  simp [State.windowWrite, hm, hb, hh, hl, hrg, hsl, hpk, hy, hc, hn, hnl, hnm, ht, hcl, hft, hle, hme, hcf, hbs, hr, hrt]
@[simp] theorem State.windowRead_part (s : State) (k : NodeSel) (src : Src) (off : Nat) (hm : pt ≠ .medium) (hl : pt ≠ .leaf) (hrg : pt ≠ .regions)
    (hpk : pt ≠ .prick) (hy : pt ≠ .mary) (hc : pt ≠ .cellar) (hn : pt ≠ .node k) (hnm : pt ≠ .node .mary) (ht : pt ≠ .time) (hcl : pt ≠ .cells)
    (hft : pt ≠ .faults) (hrt : pt ≠ .root) :
    (s.windowRead k src off).part pt = s.part pt := by
  simp [State.windowRead, hm, hl, hrg, hpk, hy, hc, hn, hnm, ht, hcl, hft, hrt]
@[simp] theorem opTunServe_part (k : NodeSel) (d : Dom) (m : TunnelMsg) (s : State) (hm : pt ≠ .medium) (hb : pt ≠ .binding) (hh : pt ≠ .hold)
    (hl : pt ≠ .leaf) (hrg : pt ≠ .regions) (hsl : pt ≠ .slots) (hpk : pt ≠ .prick) (hy : pt ≠ .mary) (hc : pt ≠ .cellar) (hn : pt ≠ .node k)
    (hnl : pt ≠ .node .leaf) (hnm : pt ≠ .node .mary) (ht : pt ≠ .time) (hcl : pt ≠ .cells) (hft : pt ≠ .faults) (hle : pt ≠ .leafErr)
    (hme : pt ≠ .maryErr) (hcf : pt ≠ .cfg) (hbs : pt ≠ .bs) (hr : pt ≠ .regs) (hrt : pt ≠ .root) :
    (opTunServe k d m s).part pt = s.part pt := by
  simp [opTunServe, hm, hb, hh, hl, hrg, hsl, hpk, hy, hc, hn, hnl, hnm, ht, hcl, hft, hle, hme, hcf, hbs, hr, hrt]
@[simp] theorem opTunRequest_part (k : NodeSel) (i : Nat) (m : TunnelMsg) (s : State) (hm : pt ≠ .medium) (hb : pt ≠ .binding) (hh : pt ≠ .hold)
    (hl : pt ≠ .leaf) (hrg : pt ≠ .regions) (hsl : pt ≠ .slots) (hpk : pt ≠ .prick) (hy : pt ≠ .mary) (hc : pt ≠ .cellar) (hn : pt ≠ .node k)
    (hnl : pt ≠ .node .leaf) (hnm : pt ≠ .node .mary) (ht : pt ≠ .time) (hcl : pt ≠ .cells) (hft : pt ≠ .faults) (hle : pt ≠ .leafErr)
    (hme : pt ≠ .maryErr) (hcf : pt ≠ .cfg) (hbs : pt ≠ .bs) (hr : pt ≠ .regs) (hrt : pt ≠ .root) :
    (opTunRequest k i m s).part pt = s.part pt := by
  unfold opTunRequest; dsimp only; (repeat' split) <;> simp [hm, hb, hh, hl, hrg, hsl, hpk, hy, hc, hn, hnl, hnm, ht, hcl, hft, hle, hme, hcf, hbs,
    hr, hrt]
@[simp] theorem opTunResponse_part (k : NodeSel) (i : Nat) (m : TunnelMsg) (s : State) (hy : pt ≠ .mary) (hn : pt ≠ .node k) (hcl : pt ≠ .cells)
    (hft : pt ≠ .faults) : (opTunResponse k i m s).part pt = s.part pt := by
  unfold opTunResponse; split <;> simp [hy, hn, hcl, hft]
@[simp] theorem State.tickNode_part (s : State) (k : NodeSel) (hn : pt ≠ .node k) (ht : pt ≠ .time) : (s.tickNode k).part pt = s.part pt := by
  simp [State.tickNode, hn, ht]
@[simp] theorem State.tick_part (s : State) (hnl : pt ≠ .node .leaf) (hnm : pt ≠ .node .mary) (ht : pt ≠ .time) : (s.tick).part pt = s.part pt := by
  simp [State.tick, hnl, hnm, ht]
end
end Sys2Proof.Machine
end

section
/-! The canonical form of the cellar's medium. An operation that keeps the medium keeps its form; here are the others, which write words,
erase, or lose what a power cut tears. -/

namespace Sys2Proof.Machine
@[simp] theorem State.celNow_wf (s : State) (w : Nat) (v : W64) (h : Memory.wf (s.part .medium) = true) :
    Memory.wf ((s.celNow w v).part .medium) = true :=
  State.celNow_canonical s w v h
@[simp] theorem State.celPut_wf (s : State) (w : Nat) (v : W64) (h : Memory.wf (s.part .medium) = true) :
    Memory.wf ((s.celPut w v).part .medium) = true :=
  State.celPut_canonical s w v h
@[simp] theorem State.celPuts_wf (s : State) (l : List (Nat × W64)) (h : Memory.wf (s.part .medium) = true) :
    Memory.wf ((s.celPuts l).part .medium) = true :=
  State.celPuts_canonical s l h
@[simp] theorem opCelEraseDone_wf (s : State) (h : Memory.wf (s.part .medium) = true) : Memory.wf ((opCelEraseDone s).part .medium) = true :=
  opCelEraseDone_canonical s h
theorem State.modCellar_wf (s : State) (f : Cellar → Cellar) (hf : ∀ c, (f c).mem = c.mem) (h : Memory.wf (s.part .medium) = true) :
    Memory.wf ((s.modCellar f).part .medium) = true := by
  rw [State.modCellar_part .medium s f nofun (fun _ => hf)]
  exact h
@[simp] theorem State.access_wf (s : State) (k : NodeSel) (src : Src) (off : Nat) (f : State → State)
    (hf : ∀ s, Memory.wf (s.part .medium) = true → Memory.wf ((f s).part .medium) = true) (h : Memory.wf (s.part .medium) = true) :
    Memory.wf ((s.access k src off f).part .medium) = true := by
  unfold State.access State.engineAccess
  dsimp only
  (repeat' split) <;> simp [h, hf]
@[simp] theorem State.accessC_wf (s : State) (k : NodeSel) (src : Src) (off : Nat) (f : State → State)
    (hf : ∀ s, Memory.wf (s.part .medium) = true → Memory.wf ((f s).part .medium) = true) (h : Memory.wf (s.part .medium) = true) :
    Memory.wf ((s.accessC k src off f).part .medium) = true :=
  s.access_wf k src off _ (fun s hs => by simpa using hf s hs) h
@[simp] theorem State.live_wf (s : State) (k : NodeSel) (f : State → State)
    (hf : Memory.wf ((f s).part .medium) = true) (h : Memory.wf (s.part .medium) = true) :
    Memory.wf ((s.live k f).part .medium) = true := by
  unfold State.live; split <;> simp [h, hf]
@[simp] theorem State.each_wf {α : Type} (s : State) (l : List α) (f : State → α → State)
    (hf : ∀ s a, Memory.wf (s.part .medium) = true → Memory.wf ((f s a).part .medium) = true) (h : Memory.wf (s.part .medium) = true) :
    Memory.wf ((s.each l f).part .medium) = true :=
  State.each_canonical l f hf s h
@[simp] theorem State.mendCopy_wf (s : State) (w other : Nat) (fams : List Family) (h : Memory.wf (s.part .medium) = true) :
    Memory.wf ((s.mendCopy w other fams).part .medium) = true := by
  unfold State.mendCopy; (repeat' split) <;> simp [h]
@[simp] theorem State.celUe_wf (s : State) (w : Nat) (h : Memory.wf (s.part .medium) = true) : Memory.wf ((s.celUe w).part .medium) = true := by
  unfold State.celUe; dsimp only; (repeat' split) <;> simp [h]
@[simp] theorem State.licDelete_wf (s : State) (h : Memory.wf (s.part .medium) = true) : Memory.wf ((s.licDelete).part .medium) = true := by
  unfold State.licDelete; simp [h]
@[simp] theorem State.chipStart_wf (s : State) (sel : Fin 4) (h : Memory.wf (s.part .medium) = true) :
    Memory.wf ((s.chipStart sel).part .medium) = true := by
  unfold State.chipStart; dsimp only; simp [h]
@[simp] theorem State.histPut_wf (s : State) (hkind idx : Nat) (v : W64) (h : Memory.wf (s.part .medium) = true) :
    Memory.wf ((s.histPut hkind idx v).part .medium) = true := by
  unfold State.histPut; dsimp only; (repeat' split) <;> simp [h]
@[simp] theorem State.engineTrend_wf (s : State) (i : Nat) (own : Bool) (r : TeleRec) (h : Memory.wf (s.part .medium) = true) :
    Memory.wf ((s.engineTrend i own r).part .medium) = true := by
  unfold State.engineTrend; dsimp only; (repeat' split) <;> simp [h]
@[simp] theorem State.engineTakes_wf (s : State) (i : Nat) (r : TeleRec) (h : Memory.wf (s.part .medium) = true) :
    Memory.wf ((s.engineTakes i r).part .medium) = true := by
  unfold State.engineTakes; dsimp only; (repeat' split) <;> simp [h]
@[simp] theorem State.fileOutage_wf (s : State) (h : Memory.wf (s.part .medium) = true) : Memory.wf ((s.fileOutage).part .medium) = true := by
  unfold State.fileOutage; (repeat' split) <;> simp [h]
@[simp] theorem State.grantWin_wf (s : State) (k : NodeSel) (sd : Sd) (lo hi : W64) (h : Memory.wf (s.part .medium) = true) :
    Memory.wf ((s.grantWin k sd lo hi).part .medium) = true := by
  unfold State.grantWin; dsimp only; (repeat' split) <;> simp [h]
@[simp] theorem State.stepWinOp_wf (s : State) (k : NodeSel) (src : Src) (sd : Sd) (lo hi : W64) (h : Memory.wf (s.part .medium) = true) :
    Memory.wf ((s.stepWinOp k src sd lo hi).part .medium) = true := by
  unfold State.stepWinOp; (repeat' split) <;> simp [h]
@[simp] theorem opStepWinSet_wf (k : NodeSel) (src : Src) (sd : Sd) (s : State) (h : Memory.wf (s.part .medium) = true) :
    Memory.wf ((opStepWinSet k src sd s).part .medium) = true :=
  s.stepWinOp_wf k src sd _ _ h
@[simp] theorem State.rejudge_wf (s : State) (f : Family) (op : HeldOp) (h : Memory.wf (s.part .medium) = true) :
    Memory.wf ((s.rejudge f op).part .medium) = true := by
  unfold State.rejudge; dsimp only; (repeat' split) <;> simp [h]
@[simp] theorem State.releaseHeld_wf (s : State) (r : Raise) (h : Memory.wf (s.part .medium) = true) :
    Memory.wf ((s.releaseHeld r).part .medium) = true :=
  State.each_wf _ _ _ (fun s x hs => s.rejudge_wf _ _ hs) (by simp [h])
@[simp] theorem opCeilingDone_wf (s : State) (h : Memory.wf (s.part .medium) = true) : Memory.wf ((opCeilingDone s).part .medium) = true := by
  unfold opCeilingDone; (repeat' split) <;> simp [h]
@[simp] theorem opCeilingRaise_wf (s : State) (h : Memory.wf (s.part .medium) = true) : Memory.wf ((opCeilingRaise s).part .medium) = true := by
  unfold opCeilingRaise
  split
  · dsimp only
    split
    · exact h
    · split
      · simp [h]
      · refine State.modCellar_wf _ _ (fun _ => rfl) ?_
        refine State.celNow_wf _ _ _ (State.celNow_wf _ _ _ ?_)
        split <;> simpa using h
  · exact h
@[simp] theorem State.writeCopy_wf (s : State) (w : Nat) (l : List W64) (h : Memory.wf (s.part .medium) = true) :
    Memory.wf ((s.writeCopy w l).part .medium) = true :=
  State.each_wf _ _ _ (fun s p hs => by simp [hs]) h
@[simp] theorem opProfCommitDone_wf (s : State) (h : Memory.wf (s.part .medium) = true) : Memory.wf ((opProfCommitDone s).part .medium) = true := by
  unfold opProfCommitDone
  split
  · exact h
  · split
    · exact h
    · rw [State.modMary_part .medium _ _ nofun nofun]
      exact State.each_wf _ _ _ (fun s c hs => s.writeCopy_wf _ _ hs) h
@[simp] theorem opCellarScrub_wf (w : Nat) (r : CellarScrubResult) (s : State) (h : Memory.wf (s.part .medium) = true) :
    Memory.wf ((opCellarScrub w r s).part .medium) = true := by
  unfold opCellarScrub; dsimp only; (repeat' split) <;> simp [h]
@[simp] theorem opCellarWrite_wf (s : State) (h : Memory.wf (s.part .medium) = true) : Memory.wf ((opCellarWrite s).part .medium) = true := by
  unfold opCellarWrite; dsimp only; (repeat' split) <;> simp [h]
@[simp] theorem opHistFile_wf (s : State) (h : Memory.wf (s.part .medium) = true) : Memory.wf ((opHistFile s).part .medium) = true := by
  unfold opHistFile
  split
  · exact h
  · refine State.modCellar_wf _ _ (fun _ => rfl) ?_
    rw [State.modMe_part .medium _ _ nofun]
    refine State.each_wf _ _ _ (fun s r hs => s.histPut_wf _ _ _ hs) ?_
    split
    · simpa using h
    · exact h
@[simp] theorem opLicInstall_wf (src : Src) (s : State) (h : Memory.wf (s.part .medium) = true) :
    Memory.wf ((opLicInstall src s).part .medium) = true := by
  unfold opLicInstall; dsimp only; (repeat' split) <;> simp [h]
@[simp] theorem opMeStart_wf (s : State) (h : Memory.wf (s.part .medium) = true) : Memory.wf ((opMeStart s).part .medium) = true := by
  unfold opMeStart; dsimp only; (repeat' split) <;> simp [h]
@[simp] theorem opTelemetryRx_wf (k : NodeSel) (i : Nat) (r : TeleRec) (s : State) (h : Memory.wf (s.part .medium) = true) :
    Memory.wf ((opTelemetryRx k i r s).part .medium) = true := by
  unfold opTelemetryRx; dsimp only; (repeat' split) <;> simp [h]
@[simp] theorem opTrendSend_wf (k : NodeSel) (i : Nat) (s : State) (h : Memory.wf (s.part .medium) = true) :
    Memory.wf ((opTrendSend k i s).part .medium) = true := by
  have ho : ∀ (u : State) r f, Memory.wf (u.part .medium) = true →
      Memory.wf (((u.originTel k (s.cell k i).cfg.dom r).modDly k i f).part .medium) = true := fun u r f hu => by
    rw [State.modDly_part .medium _ _ _ _ nofun nofun, State.originTel_part .medium _ _ _ _ nofun nofun nofun nofun]; exact hu
  unfold opTrendSend
  dsimp only
  split
  · exact h
  · have ha : Memory.wf (State.part (if (s.cell k i).dly.trendDue = true then s else
        s.advTo k (BitVec.ofNat 64 ((max ((s.cell k i).dly.trendAt.toNat + 1) (s.rc k).toNat + 2 ^ 34 - 1) / 2 ^ 34 * 2 ^ 34))) .medium) = true := by
      rw [State.ite_part, State.advTo_part .medium _ _ _ nofun nofun, ite_self]; exact h
    split
    · exact ho _ _ _ ha
    · exact State.engineTrend_wf _ i true _ (ho _ _ _ ha)
@[simp] theorem opPorstAssert_wf (s : State) (h : Memory.wf (s.part .medium) = true) : Memory.wf ((opPorstAssert s).part .medium) = true := by
  unfold opPorstAssert
  split
  · exact h
  · by_cases hs : s.cellar.supply = true
    · simp only [if_pos hs]; exact h
    · simp only [if_neg hs]; exact s.powerCut_canonical h
@[simp] theorem opPorstRelease_wf (sel : Fin 4) (s : State) (h : Memory.wf (s.part .medium) = true) :
    Memory.wf ((opPorstRelease sel s).part .medium) = true := by
  unfold opPorstRelease
  split
  · exact h
  · rw [State.computeKa_part .medium _ nofun]
    refine State.chipStart_wf _ sel ?_
    simpa using h
@[simp] theorem opChipRst_wf (armed : Bool) (src : Src) (sel : Fin 4) (s : State) (h : Memory.wf (s.part .medium) = true) :
    Memory.wf ((opChipRst armed src sel s).part .medium) = true := by
  unfold opChipRst
  split
  · simp [h]
  · exact State.chipStart_wf _ sel h
@[simp] theorem onBit0_wf (v : W32) (f : State → State) (s : State) (hf : Memory.wf ((f s).part .medium) = true) (h : Memory.wf (s.part .medium) = true) :
    Memory.wf ((onBit0 v f s).part .medium) = true := by
  unfold onBit0; split <;> simp [h, hf]
@[simp] theorem State.readAfter_wf (s : State) (k : NodeSel) (src : Src) (off : Nat) (h : Memory.wf (s.part .medium) = true) :
    Memory.wf ((s.readAfter k src off).part .medium) = true := by
  unfold State.readAfter; (repeat' split) <;> simp [h]
@[simp] theorem State.readWide_wf (s : State) (k : NodeSel) (src : Src) (w : WideView) (off : Nat) (h : Memory.wf (s.part .medium) = true) :
    Memory.wf ((s.readWide k src w off).part .medium) = true := by
  unfold State.readWide; dsimp only; (repeat' split) <;> simp [h]
@[simp] theorem State.readAt_wf (s : State) (k : NodeSel) (src : Src) (off : Nat) (h : Memory.wf (s.part .medium) = true) :
    Memory.wf ((s.readAt k src off).part .medium) = true := by
  unfold State.readAt; (repeat' split) <;> simp [h]
@[simp] theorem opRootRead_wf (src : Src) (s : State) (h : Memory.wf (s.part .medium) = true) : Memory.wf ((opRootRead src s).part .medium) = true := by
  unfold opRootRead; (repeat' split) <;> simp [h]
@[simp] theorem State.readReg_wf (s : State) (k : NodeSel) (src : Src) (off : Nat) (h : Memory.wf (s.part .medium) = true) :
    Memory.wf ((s.readReg k src off).part .medium) = true := by
  unfold State.readReg; dsimp only; (repeat' split) <;> simp [h]
@[simp] theorem State.windowRead_wf (s : State) (k : NodeSel) (src : Src) (off : Nat) (h : Memory.wf (s.part .medium) = true) :
    Memory.wf ((s.windowRead k src off).part .medium) = true := by
  unfold State.windowRead; (repeat' split) <;> simp [h]
/-- Every outcome of an optional operation keeps the medium's form. -/
def State.SomeWf (o : Option State) : Prop := ∀ t, o = some t → Memory.wf (t.part .medium) = true
@[simp] theorem State.someWf_none : State.SomeWf none := fun _ h => nomatch h
@[simp] theorem State.someWf_some (t : State) : State.SomeWf (some t) ↔ Memory.wf (t.part .medium) = true :=
  ⟨fun h => h t rfl, fun h _ e => Option.some.inj e ▸ h⟩
@[simp] theorem State.someWf_ite (c : Prop) [Decidable c] (o p : Option State) :
    State.SomeWf (if c then o else p) ↔ (c → State.SomeWf o) ∧ (¬c → State.SomeWf p) := by split <;> simp [*]
theorem State.someWf_or {o p : Option State} (ho : State.SomeWf o) (hp : State.SomeWf p) : State.SomeWf (o.or p) := by
  cases o <;> assumption
theorem State.SomePart.wf {s : State} {o : Option State} (ho : s.SomePart .medium o) (h : Memory.wf (s.part .medium) = true) : State.SomeWf o :=
  fun t e => ho t e ▸ h

theorem State.writeRoot_wf (s : State) (k : NodeSel) (src : Src) (off : Nat) (v : W32)
    (h : Memory.wf (s.part .medium) = true) : State.SomeWf (s.writeRoot k src off v) := by
  unfold State.writeRoot
  dsimp only
  split <;> simp [h]
theorem State.writeMary_wf (s : State) (src : Src) (armed : Bool) (off : Nat) (v : W32)
    (h : Memory.wf (s.part .medium) = true) : State.SomeWf (s.writeMary src armed off v) := by
  unfold State.writeMary
  dsimp only
  (repeat' split) <;> simp [h]
theorem State.commitWide_wf (s : State) (k : NodeSel) (src : Src) (base : Nat) (l : List W32)
    (h : Memory.wf (s.part .medium) = true) : State.SomeWf (s.commitWide k src base l) := by
  unfold State.commitWide
  cases k <;> simp [h]
theorem State.commitWide_getD_wf (s s1 : State) (k : NodeSel) (src : Src) (base : Nat) (l : List W32)
    (h : Memory.wf (s.part .medium) = true) (h1 : Memory.wf (s1.part .medium) = true) :
    Memory.wf (((s.commitWide k src base l).getD s1).part .medium) = true := by
  have hc := s.commitWide_wf k src base l h
  revert hc
  cases s.commitWide k src base l with
  | none => exact fun _ => h1
  | some t => exact fun hc => hc t rfl
@[simp] theorem State.writeWide_wf (s : State) (k : NodeSel) (src : Src) (base n off : Nat) (v : W32) (h : Memory.wf (s.part .medium) = true) :
    Memory.wf ((s.writeWide k src base n off v).part .medium) = true := by
  unfold State.writeWide
  dsimp only
  (repeat' split) <;> simp [State.commitWide_getD_wf, h]
@[simp] theorem State.writeWord_wf (s : State) (k : NodeSel) (src : Src) (armed : Bool) (off : Nat) (v : W32) (h : Memory.wf (s.part .medium) = true) :
    Memory.wf ((s.writeWord k src armed off v).part .medium) = true := by
  unfold State.writeWord
  dsimp only
  split
  · next t ht =>
    refine State.someWf_or ?own (State.someWf_or ((s.writeW1c_part .medium k off v nofun nofun nofun nofun nofun nofun nofun nofun nofun nofun nofun).wf h)
      (State.someWf_or ((s.writeTime_part .medium k off v nofun nofun nofun).wf h) (State.someWf_or (s.writeRoot_wf k src off v h) ?rest))) t ht
    case own =>
      split
      · (repeat' split) <;> simp [h]
      · simp
    case rest =>
      split
      · exact (s.writeLeaf_part .medium src off v nofun nofun nofun nofun nofun nofun nofun nofun nofun nofun nofun nofun nofun nofun nofun nofun nofun).wf h
      · exact s.writeMary_wf src armed off v h
  · (repeat' split) <;> simp [h]
@[simp] theorem State.writeAt_wf (s : State) (k : NodeSel) (src : Src) (armed : Bool) (off : Nat) (v : W32) (h : Memory.wf (s.part .medium) = true) :
    Memory.wf ((s.writeAt k src armed off v).part .medium) = true := by
  unfold State.writeAt; (repeat' split) <;> simp [h]
@[simp] theorem opRootWrite_wf (src : Src) (v : W32) (s : State) (h : Memory.wf (s.part .medium) = true) :
    Memory.wf ((opRootWrite src v s).part .medium) = true := by
  unfold opRootWrite; (repeat' split) <;> simp [h]
@[simp] theorem State.writeReg_wf (s : State) (k : NodeSel) (src : Src) (off : Nat) (v : W32) (h : Memory.wf (s.part .medium) = true) :
    Memory.wf ((s.writeReg k src off v).part .medium) = true := by
  refine State.access_wf _ _ _ _ _ (fun s h => ?_) h
  rw [State.convRefresh_part .medium _ _ nofun nofun]
  (repeat' split) <;> simp [h]
@[simp] theorem State.windowWrite_wf (s : State) (k : NodeSel) (src : Src) (off : Nat) (v : W32) (h : Memory.wf (s.part .medium) = true) :
    Memory.wf ((s.windowWrite k src off v).part .medium) = true := by
  unfold State.windowWrite; (repeat' split) <;> simp [h]
@[simp] theorem opHostServe_wf (s : State) (h : Memory.wf (s.part .medium) = true) : Memory.wf ((opHostServe s).part .medium) = true := by
  unfold opHostServe; dsimp only; (repeat' split) <;> simp [h]
@[simp] theorem opTunServe_wf (k : NodeSel) (d : Dom) (m : TunnelMsg) (s : State) (h : Memory.wf (s.part .medium) = true) :
    Memory.wf ((opTunServe k d m s).part .medium) = true := by
  unfold opTunServe; dsimp only; (repeat' split) <;> simp [h]
@[simp] theorem opTunRequest_wf (k : NodeSel) (i : Nat) (m : TunnelMsg) (s : State) (h : Memory.wf (s.part .medium) = true) :
    Memory.wf ((opTunRequest k i m s).part .medium) = true := by
  unfold opTunRequest; dsimp only; (repeat' split) <;> simp [h]
end Sys2Proof.Machine
end

section
/-! What every command keeps: the cases of `exec`, each by the lemma of the operation it runs. -/

namespace Sys2Proof.Machine

@[simp] theorem State.liveC_timed_part (pt : Part) (s : State) (k : NodeSel) (f : State → State) (hf : ∀ s, (f s).part pt = s.part pt)
    (hn : pt ≠ .node k) (ht : pt ≠ .time) : (s.liveC k (fun s => s.timed k f)).part pt = s.part pt :=
  s.liveC_part pt k _ (fun s => s.timed_part pt k f hf) hn ht

/-- No command changes the queue. -/
theorem exec_part_queue (c : Instr) (s t : State) (h : exec c s = .next t) : t.part .queue = s.part .queue := by
  cases c
  case quadRst who q => cases who <;> (obtain rfl := Host.Outcome.next.inj h; simp)
  case rootData src w => cases w <;> (obtain rfl := Host.Outcome.next.inj h; simp)
  all_goals
    obtain rfl := Host.Outcome.next.inj h
    simp

/-- A command that `mayBind` does not name keeps the binding. -/
theorem exec_part_binding (c : Instr) (s t : State) (h : exec c s = .next t) (hc : mayBind c = false) : t.part .binding = s.part .binding := by
  cases c <;> cases hc
  case quadRst who q => cases who <;> (obtain rfl := Host.Outcome.next.inj h; simp)
  all_goals
    obtain rfl := Host.Outcome.next.inj h
    simp

/-- A command that `mayHold` does not name keeps the hold of both pins. -/
theorem exec_part_hold (c : Instr) (s t : State) (h : exec c s = .next t) (hc : mayHold c = false) : t.part .hold = s.part .hold := by
  cases c <;> cases hc
  case quadRst who q => cases who <;> (obtain rfl := Host.Outcome.next.inj h; simp)
  all_goals
    obtain rfl := Host.Outcome.next.inj h
    simp

/-- Every command keeps the form of the medium. -/
theorem exec_canonical (c : Instr) (s t : State) (h : exec c s = .next t) (hs : Memory.wf (s.part .medium) = true) :
    Memory.wf (t.part .medium) = true := by
  cases c
  case quadRst who q => cases who <;> (obtain rfl := Host.Outcome.next.inj h; simp [hs])
  case rootData src w => cases w <;> (obtain rfl := Host.Outcome.next.inj h; simp +contextual [hs])
  all_goals
    obtain rfl := Host.Outcome.next.inj h
    simp +contextual [hs]

/-- Settles O5: a command keeps the form, by the operation it runs; a TCLK edge keeps the medium. -/
theorem stepKeepsCellarCanonical : Obligations.StepKeepsCellarCanonical := by
  intro s t hs h
  unfold step at h
  split at h
  · obtain rfl := Host.Outcome.next.inj h
    have ht : s.tick.part .medium = s.part .medium := s.tick_part .medium nofun nofun nofun
    exact (congrArg (Memory.wf · = true) ht).mpr hs
  · exact exec_canonical _ _ _ h hs
/-- Settles O4: every command keeps the queue. -/
theorem queueIsLeftAlone : Obligations.QueueIsLeftAlone := exec_part_queue
/-- Settles O9: every other command keeps the binding. -/
theorem onlyBindingCommandsBind : Obligations.OnlyBindingCommandsBind := exec_part_binding
/-- Settles O10: every other command keeps the hold of both pins. -/
theorem onlyResetCommandsHold : Obligations.OnlyResetCommandsHold := exec_part_hold
end Sys2Proof.Machine
end

section
/-! The block as a whole: the step, the state after power-up, and a node held in reset. -/

namespace Sys2Proof.Machine

/-- Settles O1: both sides are the step's arm for a queue that is not empty. -/
theorem stepRunsFrontCommand : Obligations.StepRunsFrontCommand := fun _ _ _ => rfl

/-- Settles O3: each arm of `exec` answers a next state. -/
theorem everyCommandCompletes : Obligations.EveryCommandCompletes := by
  intro c s
  cases c
  case quadRst who q => cases who <;> exact ⟨_, rfl⟩
  case rootData src w => cases w <;> exact ⟨_, rfl⟩
  all_goals exact ⟨_, rfl⟩

/-- What an edit of a time core gives is all that matters of it. -/
theorem State.modTime_congr (s : State) (k : NodeSel) (f g : TimeCore → TimeCore) (h : f (s.time k) = g (s.time k)) : s.modTime k f = s.modTime k g := by
  cases k
  · exact congrArg (fun x => { s with leafN := { s.leafN with time := x } }) h
  · exact congrArg (fun x => { s with maryN := { s.maryN with time := x } }) h
/-- An edit that gives the present time core changes nothing. -/
theorem State.modTime_self (s : State) (k : NodeSel) (f : TimeCore → TimeCore) (h : f (s.time k) = s.time k) : s.modTime k f = s :=
  (s.modTime_congr k f id h).trans (by cases k <;> rfl)

/-- A TCLK edge at a node moves RC, and RC alone, where the node is not held and its TCLK runs. -/
theorem State.tickNode_eq (s : State) (k : NodeSel) :
    s.tickNode k = s.modTime k (fun x => { x with rc := if s.held k = false ∧ (s.time k).tclk = true then s.rc k + 1 else s.rc k }) := by
  unfold State.tickNode State.live
  split
  · next h => exact (s.modTime_self k _ (by simp [h, State.rc])).symm
  · next h =>
    refine s.modTime_congr k _ _ ?_
    by_cases ht : (s.time k).tclk = true
    · simp [h, ht, State.rc]
    · rw [if_neg ht, if_neg (fun x => ht x.2), State.rc]

/-- RC of a node after a TCLK edge there. -/
theorem State.tickNode_rc (s : State) (k : NodeSel) :
    (s.tickNode k).rc k = if s.held k = false ∧ (s.time k).tclk = true then s.rc k + 1 else s.rc k := by
  rw [s.tickNode_eq k, State.rc, State.modTime_time]

/-- Settles O2: an edge of TCLK is one at the leaf and then one at the Maryel, whose parts the first leaves as they are. -/
theorem emptyQueueTicks : Obligations.EmptyQueueTicks := by
  intro s hs
  have hleaf : s.tick.rc .leaf = (s.tickNode .leaf).rc .leaf := by rw [State.tick, State.tickNode_eq _ .mary]; rfl
  have hmary (f : TimeCore → TimeCore) : (s.modTime .leaf f).held .mary = s.held .mary ∧ (s.modTime .leaf f).time .mary = s.time .mary ∧
      (s.modTime .leaf f).rc .mary = s.rc .mary := ⟨rfl, rfl, rfl⟩
  have hrc : s.tick.rc .mary = if s.held .mary = false ∧ (s.time .mary).tclk = true then s.rc .mary + 1 else s.rc .mary := by
    rw [State.tick, State.tickNode_rc, s.tickNode_eq .leaf, (hmary _).1, (hmary _).2.1, (hmary _).2.2]
  refine ⟨s.tick, by rw [step, hs], fun k => ?_, ?_⟩
  · cases k
    · rw [hleaf, State.tickNode_rc]
    · exact hrc
  · rw [hrc, hleaf, State.tickNode_rc, State.tick, State.tickNode_eq _ .mary, s.tickNode_eq .leaf, (hmary _).1, (hmary _).2.1, (hmary _).2.2]

/-- Settles O6: the medium is empty, and so is the queue. -/
theorem resetIsCanonical : Obligations.ResetIsCanonical := ⟨State.reset_canonical, rfl⟩

/-- A cell of a node after power-up. -/
theorem State.reset_cell (k : NodeSel) (i : Nat) : State.reset.cell k i = .reset := by
  cases k <;> simp only [State.cell, State.onNode, State.reset, Node.reset, vget, Vector.getElem?_replicate] <;> split <;> rfl

/-- Settles O7: the parts of `State.reset`, read off. -/
theorem resetState : Obligations.ResetState := by
  refine ⟨fun k => ?_, fun k i => congrArg Cell.ts (State.reset_cell k i), ?_⟩
  · cases k <;> simp [State.held, State.rc, State.time, State.cfg, State.recipes, State.ctxs, State.onNode, State.reset, Node.reset, TimeCore.reset,
    NodeCfg.reset]
  · simp only [State.reset, LeafOnly.reset, Prick.reset, SeedSt.reset, Cellar.reset, and_self]

/-- Settles O8: every event command is its operation under `State.live` of its node. -/
theorem heldNodeLetsEventsPass : Obligations.HeldNodeLetsEventsPass := by
  intro c s k hk hs
  cases c <;> cases hk
  case cal1PairSlot c1 c2 ch => cases ch <;> exact congrArg Host.Outcome.next (State.live_held _ _ _ hs)
  case cal1DensitySlot d ch => cases ch <;> exact congrArg Host.Outcome.next (State.live_held _ _ _ hs)
  all_goals exact congrArg Host.Outcome.next (State.live_held _ _ _ hs)

end Sys2Proof.Machine
end

section
/-! What each named update of the state leaves as it was, for the parts of a node that the statements about single commands name. -/

namespace Sys2Proof.Machine

/-! `modTime` -/
@[simp] theorem State.modTime_leafN_cells (s : State) (k : NodeSel) (f : TimeCore → TimeCore) : (s.modTime k f).leafN.cells = s.leafN.cells := by
  cases k <;> rfl
@[simp] theorem State.modTime_wasRefused (s : State) (k : NodeSel) (f : TimeCore → TimeCore) (j : NodeSel) : (s.modTime k f).wasRefused j = s.wasRefused j := by
  cases k <;> cases j <;> rfl
/-! `modDom` -/
/-! `modBs` -/
@[simp] theorem State.modBs_wasRefused (s : State) (k : NodeSel) (f : BsPort → BsPort) (j : NodeSel) : (s.modBs k f).wasRefused j = s.wasRefused j := by
  cases k <;> cases j <;> rfl
/-! `modRoot` -/
@[simp] theorem State.modRoot_leafN_regs (s : State) (k : NodeSel) (f : Root → Root) : (s.modRoot k f).leafN.regs = s.leafN.regs := by
  cases k <;> rfl
@[simp] theorem State.modRoot_maryN_regs (s : State) (k : NodeSel) (f : Root → Root) : (s.modRoot k f).maryN.regs = s.maryN.regs := by
  cases k <;> rfl
@[simp] theorem State.modRoot_leafN_cells (s : State) (k : NodeSel) (f : Root → Root) : (s.modRoot k f).leafN.cells = s.leafN.cells := by
  cases k <;> rfl
@[simp] theorem State.modRoot_recipes (s : State) (k : NodeSel) (f : Root → Root) (j : NodeSel) : (s.modRoot k f).recipes j = s.recipes j := by
  cases k <;> cases j <;> rfl
@[simp] theorem State.modRoot_wasRefused (s : State) (k : NodeSel) (f : Root → Root) (j : NodeSel) : (s.modRoot k f).wasRefused j = s.wasRefused j := by
  cases k <;> cases j <;> rfl
/-! `modSrcBuf` -/
@[simp] theorem State.modSrcBuf_leafN_regs (s : State) (k : NodeSel) (src : Src) (f : SrcBuf → SrcBuf) : (s.modSrcBuf k src f).leafN.regs = s.leafN.regs := by
  cases k <;> rfl
@[simp] theorem State.modSrcBuf_maryN_regs (s : State) (k : NodeSel) (src : Src) (f : SrcBuf → SrcBuf) : (s.modSrcBuf k src f).maryN.regs = s.maryN.regs := by
  cases k <;> rfl
@[simp] theorem State.modSrcBuf_count (s : State) (k : NodeSel) (src : Src) (f : SrcBuf → SrcBuf) (j : NodeSel) (o : Nat) : (s.modSrcBuf k src f).count j o = s.count j o := by
  cases k <;> cases j <;> rfl
@[simp] theorem State.modSrcBuf_recipes (s : State) (k : NodeSel) (src : Src) (f : SrcBuf → SrcBuf) (j : NodeSel) : (s.modSrcBuf k src f).recipes j = s.recipes j := by
  cases k <;> cases j <;> rfl
/-! `modCell` -/
@[simp] theorem State.modCell_root (s : State) (k : NodeSel) (c : Nat) (f : Cell → Cell) (j : NodeSel) : (s.modCell k c f).root j = s.root j := by
  cases k <;> cases j <;> rfl
@[simp] theorem State.modCell_rc (s : State) (k : NodeSel) (c : Nat) (f : Cell → Cell) (j : NodeSel) : (s.modCell k c f).rc j = s.rc j := by
  cases k <;> cases j <;> rfl
@[simp] theorem State.modCell_wasRefused (s : State) (k : NodeSel) (c : Nat) (f : Cell → Cell) (j : NodeSel) : (s.modCell k c f).wasRefused j = s.wasRefused j := by
  cases k <;> cases j <;> rfl
/-! `modDly` -/
/-! `modRetry` -/
@[simp] theorem State.modRetry_rc (s : State) (k : NodeSel) (c : Nat) (f : Retry → Retry) (j : NodeSel) : (s.modRetry k c f).rc j = s.rc j := by
  cases k <;> cases j <;> rfl
/-! `bump` -/
@[simp] theorem State.bump_leafN_regs (s : State) (k : NodeSel) (off : Nat) : (s.bump k off).leafN.regs = s.leafN.regs := by cases k <;> rfl
@[simp] theorem State.bump_maryN_regs (s : State) (k : NodeSel) (off : Nat) : (s.bump k off).maryN.regs = s.maryN.regs := by cases k <;> rfl
@[simp] theorem State.bump_leafN_cells (s : State) (k : NodeSel) (off : Nat) : (s.bump k off).leafN.cells = s.leafN.cells := by
  cases k <;> rfl
@[simp] theorem State.bump_maryN_cells (s : State) (k : NodeSel) (off : Nat) : (s.bump k off).maryN.cells = s.maryN.cells := by
  cases k <;> rfl
@[simp] theorem State.bump_rc (s : State) (k : NodeSel) (off : Nat) (j : NodeSel) : (s.bump k off).rc j = s.rc j := by
  cases k <;> cases j <;> rfl
@[simp] theorem State.bump_wasRefused (s : State) (k : NodeSel) (off : Nat) (j : NodeSel) : (s.bump k off).wasRefused j = s.wasRefused j := by
  cases k <;> cases j <;> rfl
/-! `refuse` -/
@[simp] theorem State.refuse_leafN_regs (s : State) (k : NodeSel) (off : Nat) : (s.refuse k off).leafN.regs = s.leafN.regs := by
  cases k <;> rfl
@[simp] theorem State.refuse_maryN_regs (s : State) (k : NodeSel) (off : Nat) : (s.refuse k off).maryN.regs = s.maryN.regs := by
  cases k <;> rfl
@[simp] theorem State.refuse_maryN_cells (s : State) (k : NodeSel) (off : Nat) : (s.refuse k off).maryN.cells = s.maryN.cells := by
  cases k <;> rfl
@[simp] theorem State.refuse_root (s : State) (k : NodeSel) (off : Nat) (j : NodeSel) : (s.refuse k off).root j = s.root j := by
  cases k <;> cases j <;> rfl
@[simp] theorem State.refuse_bs (s : State) (k : NodeSel) (off : Nat) (j : NodeSel) : (s.refuse k off).bs j = s.bs j := by
  cases k <;> cases j <;> rfl
@[simp] theorem State.refuse_cell (s : State) (k : NodeSel) (off : Nat) (j : NodeSel) (i : Nat) : (s.refuse k off).cell j i = s.cell j i := by
  cases k <;> cases j <;> rfl
@[simp] theorem State.refuse_recipes (s : State) (k : NodeSel) (off : Nat) (j : NodeSel) : (s.refuse k off).recipes j = s.recipes j := by
  cases k <;> cases j <;> rfl
/-! `raiseIrq` -/
@[simp] theorem State.raiseIrq_maryN_regs (s : State) (k : NodeSel) (b : Nat) : (s.raiseIrq k b).maryN.regs = s.maryN.regs := by
  cases k <;> rfl
@[simp] theorem State.raiseIrq_root (s : State) (k : NodeSel) (b : Nat) (j : NodeSel) : (s.raiseIrq k b).root j = s.root j := by
  cases k <;> cases j <;> rfl
/-! `raiseTime` -/
/-! `clearRefused` -/
@[simp] theorem State.clearRefused_maryN_regs (s : State) (k : NodeSel) : (s.clearRefused k).maryN.regs = s.maryN.regs := by cases k <;> rfl
@[simp] theorem State.clearRefused_maryN_cells (s : State) (k : NodeSel) : (s.clearRefused k).maryN.cells = s.maryN.cells := by
  cases k <;> rfl
@[simp] theorem State.clearRefused_time (s : State) (k : NodeSel) (j : NodeSel) : (s.clearRefused k).time j = s.time j := by
  cases k <;> cases j <;> rfl
@[simp] theorem State.clearRefused_count (s : State) (k : NodeSel) (j : NodeSel) (o : Nat) : (s.clearRefused k).count j o = s.count j o := by
  cases k <;> cases j <;> rfl
/-! `markRefused` -/
@[simp] theorem State.markRefused_maryN_regs (s : State) (k : NodeSel) : (s.markRefused k).maryN.regs = s.maryN.regs := by cases k <;> rfl
@[simp] theorem State.markRefused_maryN_cells (s : State) (k : NodeSel) : (s.markRefused k).maryN.cells = s.maryN.cells := by
  cases k <;> rfl
@[simp] theorem State.markRefused_time (s : State) (k : NodeSel) (j : NodeSel) : (s.markRefused k).time j = s.time j := by
  cases k <;> cases j <;> rfl
@[simp] theorem State.markRefused_count (s : State) (k : NodeSel) (j : NodeSel) (o : Nat) : (s.markRefused k).count j o = s.count j o := by
  cases k <;> cases j <;> rfl
@[simp] theorem State.markRefused_srcBuf (s : State) (k : NodeSel) (j : NodeSel) (r : Src) : (s.markRefused k).srcBuf j r = s.srcBuf j r := by
  cases k <;> cases j <;> rfl
/-! `setReg` -/
@[simp] theorem State.setReg_rc (s : State) (k : NodeSel) (off : Nat) (v : W32) (j : NodeSel) : (s.setReg k off v).rc j = s.rc j := by
  cases k <;> cases j <;> rfl
@[simp] theorem State.setReg_count (s : State) (k : NodeSel) (off : Nat) (v : W32) (j : NodeSel) (o : Nat) : (s.setReg k off v).count j o = s.count j o := by
  cases k <;> cases j <;> rfl
@[simp] theorem State.setReg_wasRefused (s : State) (k : NodeSel) (off : Nat) (v : W32) (j : NodeSel) : (s.setReg k off v).wasRefused j = s.wasRefused j := by
  cases k <;> cases j <;> rfl
/-! `advTo` -/
@[simp] theorem State.advTo_leafN_regs (s : State) (k : NodeSel) (x : W64) : (s.advTo k x).leafN.regs = s.leafN.regs := by cases k <;> rfl
@[simp] theorem State.advTo_maryN_regs (s : State) (k : NodeSel) (x : W64) : (s.advTo k x).maryN.regs = s.maryN.regs := by cases k <;> rfl
@[simp] theorem State.advTo_leafN_cells (s : State) (k : NodeSel) (x : W64) : (s.advTo k x).leafN.cells = s.leafN.cells := by
  cases k <;> rfl
@[simp] theorem State.advTo_maryN_cells (s : State) (k : NodeSel) (x : W64) : (s.advTo k x).maryN.cells = s.maryN.cells := by
  cases k <;> rfl
@[simp] theorem State.advTo_bs (s : State) (k : NodeSel) (x : W64) (j : NodeSel) : (s.advTo k x).bs j = s.bs j := by
  cases k <;> cases j <;> rfl
/-! `advAfter` -/
@[simp] theorem State.advAfter_cell (s : State) (k : NodeSel) (m : W64) (n : Nat) (j : NodeSel) (i : Nat) : (s.advAfter k m n).cell j i = s.cell j i := by
  cases k <;> cases j <;> rfl
/-! `advHt` -/
/-! `opened` -/
@[simp] theorem State.opened_leafN_regs (s : State) (k : NodeSel) (src : Src) : (s.opened k src).leafN.regs = s.leafN.regs := by
  cases k <;> rfl
@[simp] theorem State.opened_maryN_regs (s : State) (k : NodeSel) (src : Src) : (s.opened k src).maryN.regs = s.maryN.regs := by
  cases k <;> rfl
@[simp] theorem State.opened_leafN_cells (s : State) (k : NodeSel) (src : Src) : (s.opened k src).leafN.cells = s.leafN.cells := by
  cases k <;> rfl
@[simp] theorem State.opened_maryN_cells (s : State) (k : NodeSel) (src : Src) : (s.opened k src).maryN.cells = s.maryN.cells := by
  cases k <;> rfl
@[simp] theorem State.opened_recipes (s : State) (k : NodeSel) (src : Src) (j : NodeSel) : (s.opened k src).recipes j = s.recipes j := by
  cases k <;> cases j <;> rfl
@[simp] theorem State.opened_srcBuf (s : State) (k : NodeSel) (src : Src) (j : NodeSel) (r : Src) : (s.opened k src).srcBuf j r = s.srcBuf j r := by
  cases k <;> cases j <;> rfl
@[simp] theorem State.opened_slot (s : State) (k : NodeSel) (src : Src) (q : Nat) : (s.opened k src).slot q = s.slot q := by cases k <;> rfl
/-! `modLeaf` -/
/-! `modPrick` -/
@[simp] theorem State.modPrick_rc (s : State) (f : Prick → Prick) (j : NodeSel) : (s.modPrick f).rc j = s.rc j := by cases j <;> rfl
/-! `modRegion` -/
@[simp] theorem State.modRegion_rc (s : State) (p : Nat) (f : Region → Region) (j : NodeSel) : (s.modRegion p f).rc j = s.rc j := by
  cases j <;> rfl
/-! `modSlot` -/
/-! `modMary` -/
@[simp] theorem State.modMary_wasRefused (s : State) (f : MaryOnly → MaryOnly) (j : NodeSel) : (s.modMary f).wasRefused j = s.wasRefused j := by
  cases j <;> rfl
/-! `modSel` -/
@[simp] theorem State.modSel_time (s : State) (f : Selector → Selector) (j : NodeSel) : (s.modSel f).time j = s.time j := by cases j <;> rfl
@[simp] theorem State.modSel_count (s : State) (f : Selector → Selector) (j : NodeSel) (o : Nat) : (s.modSel f).count j o = s.count j o := by
  cases j <;> rfl
@[simp] theorem State.modSel_wasRefused (s : State) (f : Selector → Selector) (j : NodeSel) : (s.modSel f).wasRefused j = s.wasRefused j := by
  cases j <;> rfl
/-! `modGroup` -/
@[simp] theorem State.modGroup_cell (s : State) (n : Nat) (f : Group → Group) (j : NodeSel) (i : Nat) : (s.modGroup n f).cell j i = s.cell j i := by
  cases j <;> rfl
/-! `modQuad` -/
/-! `modEnt` -/
/-! `modPtp` -/
/-! `cancelKey` -/
@[simp] theorem State.cancelKey_time (s : State) (src : Src) (j : NodeSel) : (s.cancelKey src).time j = s.time j := by cases j <;> rfl
@[simp] theorem State.cancelKey_count (s : State) (src : Src) (j : NodeSel) (o : Nat) : (s.cancelKey src).count j o = s.count j o := by
  cases j <;> rfl
/-! `modCellar` -/
@[simp] theorem State.modCellar_root (s : State) (f : Cellar → Cellar) (j : NodeSel) : (s.modCellar f).root j = s.root j := by
  cases j <;> rfl
@[simp] theorem State.modCellar_wasRefused (s : State) (f : Cellar → Cellar) (j : NodeSel) : (s.modCellar f).wasRefused j = s.wasRefused j := by
  cases j <;> rfl

end Sys2Proof.Machine
end

section
/-! Rules that the statements about single commands share: how a command that completes is stated, and the state in which an access ends. -/

namespace Sys2Proof.Machine

/-- A command whose arm answers `t` does whatever holds of `t`. -/
theorem Does.intro {c : Instr} {s t : State} {Q : State → Prop} (h : exec c s = .next t) (hq : Q t) : Does c s Q := ⟨t, h, hq⟩

@[simp] theorem State.opened_wasRefused (s : State) (k : NodeSel) (src : Src) : (s.opened k src).wasRefused k = false := by cases k <;> rfl

variable (s : State) (k : NodeSel) (src : Src)

/-! ## The end of an access -/

/-- A source of the leaf is no host of the Maryel, so no status notes its refusals. -/
theorem State.noteRefused_leaf_src (h : srcAt .leaf src = true) : s.noteRefused .leaf src = s := by
  cases src with
  | host p => exact absurd h (by simp [srcAt])
  | _ => simp [State.noteRefused, State.hostStat]

/-- An access that reaches the register's rule runs it on the opened state, and a refusal is noted. -/
theorem State.access_taken (off : Nat) (f : State → State) (h : s.takes k src off = true) :
    s.access k src off f = (f (s.opened k src)).noteRefused k src := by
  cases k
  · have hsrc : srcAt .leaf src = true := by
      simp only [State.takes, Bool.and_eq_true] at h
      exact h.1.1
    rw [s.access_leaf src off f h, State.noteRefused_leaf_src _ src hsrc]
  · exact s.access_mary src off f h

theorem State.accessC_taken (off : Nat) (f : State → State) (h : s.takes k src off = true) :
    s.accessC k src off f = ((f (s.opened k src)).convRefresh k).noteRefused k src := s.access_taken k src off _ h

/-! ## A command by its rule: `f` is the rule that the command's access or event runs, `u` what the rule gives -/

section
variable {s k src} {c : Instr} {off : Nat} {f : State → State} {u : State} {Q : State → Prop}

theorem exec_access (hc : exec c s = .next (s.access k src off f)) (ht : s.takes k src off = true) (hu : f (s.opened k src) = u) :
    exec c s = .next (u.noteRefused k src) := by rw [hc, s.access_taken k src off f ht, hu]
theorem exec_accessC (hc : exec c s = .next (s.accessC k src off f)) (ht : s.takes k src off = true) (hu : f (s.opened k src) = u) :
    exec c s = .next ((u.convRefresh k).noteRefused k src) := by rw [hc, s.accessC_taken k src off f ht, hu]
theorem exec_access_leaf (hc : exec c s = .next (s.access .leaf src off f)) (ht : s.takes .leaf src off = true)
    (hu : f (s.opened .leaf src) = u) : exec c s = .next u := by rw [hc, s.access_leaf src off f ht, hu]
theorem exec_access_kept (hc : exec c s = .next (s.access k src off f)) (ht : s.takes k src off = true) (hu : f (s.opened k src) = u)
    (hk : u.wasRefused k = false) : exec c s = .next u := by rw [exec_access hc ht hu, u.noteRefused_of_not k src hk]
theorem exec_live (hc : exec c s = .next (s.live k f)) (hl : s.held k = false) (hu : f s = u) : exec c s = .next u := by
  rw [hc, s.live_of k f hl, hu]
theorem exec_liveC (hc : exec c s = .next (s.liveC k f)) (hl : s.held k = false) (hu : f s = u) : exec c s = .next (u.convRefresh k) := by
  rw [hc, s.liveC_of k f hl, hu]

theorem Does.of_access (hc : exec c s = .next (s.access k src off f)) (ht : s.takes k src off = true) (hu : f (s.opened k src) = u)
    (hq : Q (u.noteRefused k src)) : Does c s Q := .intro (exec_access hc ht hu) hq
theorem Does.of_accessC (hc : exec c s = .next (s.accessC k src off f)) (ht : s.takes k src off = true) (hu : f (s.opened k src) = u)
    (hq : Q ((u.convRefresh k).noteRefused k src)) : Does c s Q := .intro (exec_accessC hc ht hu) hq
theorem Does.of_access_leaf (hc : exec c s = .next (s.access .leaf src off f)) (ht : s.takes .leaf src off = true)
    (hu : f (s.opened .leaf src) = u) (hq : Q u) : Does c s Q := .intro (exec_access_leaf hc ht hu) hq
theorem Does.of_accessC_leaf (hc : exec c s = .next (s.accessC .leaf src off f)) (ht : s.takes .leaf src off = true)
    (hu : f (s.opened .leaf src) = u) (hq : Q (u.convRefresh .leaf)) : Does c s Q :=
  .of_access_leaf hc ht (congrArg (·.convRefresh .leaf) hu) hq
theorem Does.of_live (hc : exec c s = .next (s.live k f)) (hl : s.held k = false) (hu : f s = u) (hq : Q u) : Does c s Q :=
  .intro (exec_live hc hl hu) hq
theorem Does.of_liveC (hc : exec c s = .next (s.liveC k f)) (hl : s.held k = false) (hu : f s = u) (hq : Q (u.convRefresh k)) : Does c s Q :=
  .intro (exec_liveC hc hl hu) hq

end

@[simp] theorem State.noteRefused_recipes (j : NodeSel) : (s.noteRefused k src).recipes j = s.recipes j := by
  cases j <;> simp [State.recipes, State.onNode]
@[simp] theorem State.noteRefused_srcBuf (j : NodeSel) (r : Src) : (s.noteRefused k src).srcBuf j r = s.srcBuf j r := by simp [State.srcBuf]
@[simp] theorem State.convRefresh_leafN_regs : (s.convRefresh k).leafN.regs = s.leafN.regs := s.convRefresh_node k .leaf _ (fun _ _ _ => rfl)
@[simp] theorem State.convRefresh_leafN_cells : (s.convRefresh k).leafN.cells = s.leafN.cells := by
  rcases s.convRefresh_cases k with h | h | h <;> simp [h]

/-! ## What an unchanged part says -/

@[simp] theorem State.opened_part (pt : Part) (hy : pt ≠ .mary) (hn : pt ≠ .node k) : (s.opened k src).part pt = s.part pt := by
  cases k <;> simp [State.opened, hy, hn]
@[simp] theorem State.opened_part_mary : (s.opened .leaf src).part .mary = s.part .mary := rfl

section
variable {t s : State}
theorem State.leaf_of_part (h : t.part .leaf = s.part .leaf) : t.leaf = s.leaf := h
theorem State.mary_of_part (h : t.part .mary = s.part .mary) : t.mary = s.mary := h
theorem State.cellar_of_part (h : t.part .cellar = s.part .cellar) : t.cellar = s.cellar := h
theorem State.leafN_of_part (h : t.part (.node .leaf) = s.part (.node .leaf)) : t.leafN = s.leafN := h
theorem State.maryN_of_part (h : t.part (.node .mary) = s.part (.node .mary)) : t.maryN = s.maryN := h
theorem SameLeaf.of_part (hn : t.part (.node .leaf) = s.part (.node .leaf)) (hl : t.part .leaf = s.part .leaf) : SameLeaf s t := ⟨hn, hl⟩
theorem SameMary.of_part (hn : t.part (.node .mary) = s.part (.node .mary)) (hm : t.part .mary = s.part .mary)
    (hc : t.part .cellar = s.part .cellar) : SameMary s t := ⟨hn, hm, hc⟩
theorem State.leafN_cfg_of_part (h : t.part .cfg = s.part .cfg) : t.leafN.cfg = s.leafN.cfg := congrArg Prod.fst h
theorem State.maryN_cfg_of_part (h : t.part .cfg = s.part .cfg) : t.maryN.cfg = s.maryN.cfg := congrArg Prod.snd h
theorem State.cfg_of_part (h : t.part .cfg = s.part .cfg) (j : NodeSel) : t.cfg j = s.cfg j := by
  cases j
  · exact congrArg Prod.fst h
  · exact congrArg Prod.snd h
theorem State.bs_of_part (h : t.part .bs = s.part .bs) (j : NodeSel) : t.bs j = s.bs j := by
  cases j
  · exact congrArg Prod.fst h
  · exact congrArg Prod.snd h
theorem State.root_of_part (h : t.part .root = s.part .root) (j : NodeSel) : t.root j = s.root j := by
  cases j
  · exact congrArg Prod.fst h
  · exact congrArg Prod.snd h
theorem State.time_of_part (h : t.part .time = s.part .time) (j : NodeSel) : t.time j = s.time j := by
  cases j
  · exact congrArg Prod.fst h
  · exact congrArg Prod.snd h
theorem State.leafN_regs_of_part (h : t.part .regs = s.part .regs) : t.leafN.regs = s.leafN.regs := congrArg Prod.fst h
theorem State.maryN_regs_of_part (h : t.part .regs = s.part .regs) : t.maryN.regs = s.maryN.regs := congrArg Prod.snd h
theorem State.leafN_cells_of_part (h : t.part .cells = s.part .cells) : t.leafN.cells = s.leafN.cells := congrArg Prod.fst h
theorem State.maryN_cells_of_part (h : t.part .cells = s.part .cells) : t.maryN.cells = s.maryN.cells := congrArg Prod.snd h
end

end Sys2Proof.Machine
end

section
/-! A source's staging buffers (R389): what is read back after a write, an append and a clear. -/

namespace Sys2Proof.Machine

/-! ## The buffers of a root -/

@[simp] theorem Root.buf_src (r : Root) (src : Src) : (r.buf src).src = src := by
  cases h : r.bufs.find? (fun b => decide (b.src = src)) with
  | none => simp [Root.buf, h]
  | some b => simpa [Root.buf, h] using List.find?_some h

/-- A source's buffers read back what was written to them. -/
theorem Root.modBuf_buf_same (r : Root) (src : Src) (f : SrcBuf → SrcBuf) (hf : (f (r.buf src)).src = src) :
    (r.modBuf src f).buf src = f (r.buf src) := by
  have hn : ((r.bufs.filter fun b => !decide (b.src = src)).find? fun b => decide (b.src = src)) = none := by simp
  rw [Root.modBuf, Root.buf, List.find?_append, hn]
  simp [hf]

@[simp] theorem SrcBuf.setWords_src (b : SrcBuf) (i : BufId) (l : List W32) : (b.setWords i l).src = b.src := by cases i <;> rfl
@[simp] theorem SrcBuf.setFull_src (b : SrcBuf) (i : BufId) (v : Bool) : (b.setFull i v).src = b.src := by cases i <;> rfl
@[simp] theorem SrcBuf.setWords_words (b : SrcBuf) (i : BufId) (l : List W32) : (b.setWords i l).words i = l := by cases i <;> rfl
@[simp] theorem SrcBuf.setFull_words (b : SrcBuf) (i j : BufId) (v : Bool) : (b.setFull i v).words j = b.words j := by
  cases i <;> cases j <;> rfl
@[simp] theorem SrcBuf.setFull_full (b : SrcBuf) (i : BufId) (v : Bool) : (b.setFull i v).full i = v := by cases i <;> rfl

variable (s : State) (k : NodeSel) (src : Src)

theorem State.modSrcBuf_srcBuf_same (f : SrcBuf → SrcBuf) (hf : (f (s.srcBuf k src)).src = src) :
    (s.modSrcBuf k src f).srcBuf k src = f (s.srcBuf k src) := by
  simp only [State.modSrcBuf, State.srcBuf, State.modRoot_root]
  exact Root.modBuf_buf_same _ _ _ hf

/-! ## Append and clear -/

/-- With room a word joins the buffer. -/
theorem opAppend_of_room (i : BufId) (v : W32) (h : ((s.srcBuf k src).words i).length < bufCap k i) :
    opAppend k src i v s = s.modSrcBuf k src (fun b => b.setWords i (b.words i ++ [v])) := by
  unfold opAppend
  dsimp only
  exact if_neg (Nat.not_le.2 h)
/-- Without room the buffer is marked full. -/
theorem opAppend_of_full (i : BufId) (v : W32) (h : bufCap k i ≤ ((s.srcBuf k src).words i).length) :
    opAppend k src i v s = (s.modSrcBuf k src (fun b => b.setFull i true)).markRefused k := if_pos h

@[simp] theorem opAppend_leaf (i : BufId) (v : W32) : (opAppend k src i v s).leaf = s.leaf := by unfold opAppend; dsimp only; split <;> simp
@[simp] theorem opAppend_cellar (i : BufId) (v : W32) : (opAppend k src i v s).cellar = s.cellar := by
  unfold opAppend; dsimp only; split <;> simp
@[simp] theorem opBufClr_leaf (i : BufId) : (opBufClr k src i s).leaf = s.leaf := State.modSrcBuf_leaf _ _ _ _
@[simp] theorem opBufClr_cellar (i : BufId) : (opBufClr k src i s).cellar = s.cellar := State.modSrcBuf_cellar _ _ _ _

theorem opAppend_words (i : BufId) (v : W32) (h : ((s.srcBuf k src).words i).length < bufCap k i) :
    ((opAppend k src i v s).srcBuf k src).words i = (s.srcBuf k src).words i ++ [v] := by
  rw [opAppend_of_room s k src i v h, State.modSrcBuf_srcBuf_same _ _ _ _ (by simp [State.srcBuf]), SrcBuf.setWords_words]
theorem opAppend_full (i : BufId) (v : W32) (h : bufCap k i ≤ ((s.srcBuf k src).words i).length) :
    (opAppend k src i v s).srcBuf k src = (s.srcBuf k src).setFull i true := by
  rw [opAppend_of_full s k src i v h, State.markRefused_srcBuf, State.modSrcBuf_srcBuf_same _ _ _ _ (by simp [State.srcBuf])]
theorem opBufClr_srcBuf (i : BufId) : (opBufClr k src i s).srcBuf k src = ((s.srcBuf k src).setWords i []).setFull i false :=
  State.modSrcBuf_srcBuf_same _ _ _ _ (by simp [State.srcBuf])

/-- An accepted append with room. -/
theorem State.access_append (off : Nat) (i : BufId) (v : W32) (ht : s.takes k src off = true) (h : ((s.srcBuf k src).words i).length < bufCap k i) :
    (((s.access k src off (opAppend k src i v)).srcBuf k src).words i = (s.srcBuf k src).words i ++ [v]) ∧
      (s.access k src off (opAppend k src i v)).leaf = s.leaf ∧ (s.access k src off (opAppend k src i v)).cellar = s.cellar := by
  rw [s.access_taken k src off _ ht]
  exact ⟨by simpa using opAppend_words (s.opened k src) k src i v (by simpa using h), by simp, by simp⟩
/-- An accepted append without room. -/
theorem State.access_append_full (off : Nat) (i : BufId) (v : W32) (ht : s.takes k src off = true)
    (h : bufCap k i ≤ ((s.srcBuf k src).words i).length) :
    ((s.access k src off (opAppend k src i v)).srcBuf k src).words i = (s.srcBuf k src).words i ∧
      ((s.access k src off (opAppend k src i v)).srcBuf k src).full i = true ∧
      (s.access k src off (opAppend k src i v)).leaf = s.leaf ∧ (s.access k src off (opAppend k src i v)).cellar = s.cellar := by
  have hb := opAppend_full (s.opened k src) k src i v (by simpa using h)
  rw [s.access_taken k src off _ ht]
  exact ⟨by simp [hb], by simp [hb], by simp, by simp⟩
/-- An accepted clear. -/
theorem State.access_bufClr (off : Nat) (i : BufId) (ht : s.takes k src off = true) :
    ((s.access k src off (opBufClr k src i)).srcBuf k src).words i = [] ∧ ((s.access k src off (opBufClr k src i)).srcBuf k src).full i = false ∧
      (s.access k src off (opBufClr k src i)).leaf = s.leaf ∧ (s.access k src off (opBufClr k src i)).cellar = s.cellar := by
  rw [s.access_taken k src off _ ht]
  exact ⟨by simp [opBufClr_srcBuf], by simp [opBufClr_srcBuf], by simp, by simp⟩

/-- Settles O38: each buffer's commands are an append and a clear of that buffer. -/
theorem stagingBuffers : Obligations.StagingBuffers := by
  refine ⟨?instRoom, ?instFull, ?rcpRoom, ?bindRoom, ?instClr, ?rcpClr, ?bindClr⟩
  case instRoom => exact fun s n src v ht h => .intro rfl (s.access_append n src _ .inst v ht h)
  case instFull => exact fun s n src v ht h => .intro rfl (s.access_append_full n src _ .inst v ht h)
  case rcpRoom => exact fun s n src v ht h => .intro rfl (s.access_append n src _ .rcp v ht h)
  case bindRoom => exact fun s n src v ht h => .intro rfl (s.access_append n src _ .bind v ht h)
  case instClr => exact fun s n src ht => .intro rfl (s.access_bufClr n src _ .inst ht)
  case rcpClr => exact fun s n src ht => .intro rfl (s.access_bufClr n src _ .rcp ht)
  case bindClr => exact fun s n src ht => .intro rfl (s.access_bufClr n src _ .bind ht)

end Sys2Proof.Machine
end

section
/-! INST_GO and RCP_GO, BIND_GO, KEY_SEND and ARM_SEND: each has one equation for what a check refuses and one for what passes. -/

namespace Sys2Proof.Machine

variable (s : State) (k : NodeSel) (src : Src) (sd : Sd)

theorem State.modSrcBuf_root (f : SrcBuf → SrcBuf) : (s.modSrcBuf k src f).root k = (s.root k).modBuf src f := s.modRoot_root k _

/-! ## INST_GO and RCP_GO -/

theorem opInstGo_of_why (batch : Batch) (w : Nat × Nat × Nat) (h : s.instWhyOf k src sd batch = some w) :
    opInstGo k src sd batch s = (s.modSrcBuf k src (fun b => b.setFull .inst false)).instRefuse k w := by simp [opInstGo, h]
theorem opInstGo_of_pass (batch : Batch) (c : SdCtx) (h : s.instWhyOf k src sd batch = none) (hc : (s.root k).ctxOf sd = some c) :
    opInstGo k src sd batch s = s.sendBatch k c sd batch (instEnts (s.srcBuf k src).inst.length (s.srcBuf k src).inst) := by
  simp [opInstGo, h, hc]

theorem opRcpGo_of_why (h : HoopId) (w : Nat) (hw : s.rcpWhy k src sd h = some w) :
    opRcpGo k src sd h s = ((s.modSrcBuf k src (fun b => b.setFull .rcp false)).modRoot k (fun r => { r with hoopWhy := w })).refuse k 0x80718 := by
  simp [opRcpGo, hw]

/-- Settles O39: the staged batch or recipe is sent where its check gives no reason, and the reason is noted where it gives one. -/
theorem rootInstallAndRecipe : Obligations.RootInstallAndRecipe := by
  refine ⟨?instSent, ?instRefused, ?rcpSent, ?rcpRefused⟩
  case instSent =>
    intro s n src sd batch c ht hw hc
    exact exec_access rfl ht (by simpa using opInstGo_of_pass (s.opened n src) n src sd batch c hw (by simpa using hc))
  case instRefused =>
    intro s n src sd batch w ht hw
    refine .of_access rfl ht (opInstGo_of_why (s.opened n src) n src sd batch w hw) ?_
    cases n <;> simp [State.instRefuse, State.modSrcBuf_root, Root.modBuf]
  case rcpSent =>
    intro s n src sd h ht hw
    exact exec_access rfl ht (by simp [opRcpGo, hw])
  case rcpRefused =>
    intro s n src sd h w ht hw
    refine .of_access rfl ht (opRcpGo_of_why (s.opened n src) n src sd h w hw) ?_
    cases n <;> simp [State.modSrcBuf_root, Root.modBuf]

/-! ## BIND_GO, KEY_SEND and ARM_SEND -/

@[simp] theorem State.rootC2_leaf (j : NodeSel) (h : C2Head) (i : Option HoopId) (m : Tokens) : (s.rootC2 j h i m).leaf = s.leaf := by
  unfold State.rootC2; dsimp only; split <;> simp
@[simp] theorem State.rootC2_mary (j : NodeSel) (h : C2Head) (i : Option HoopId) (m : Tokens) : (s.rootC2 j h i m).mary = s.mary := by
  unfold State.rootC2; dsimp only; split <;> simp
@[simp] theorem State.rootC2_cellar (j : NodeSel) (h : C2Head) (i : Option HoopId) (m : Tokens) : (s.rootC2 j h i m).cellar = s.cellar := by
  unfold State.rootC2; dsimp only; split <;> simp
@[simp] theorem State.rootC2_maryN (h : C2Head) (i : Option HoopId) (m : Tokens) : (s.rootC2 .leaf h i m).maryN = s.maryN := by
  unfold State.rootC2; dsimp only; split <;> simp
/-- A C2 message of a root joins its waiting messages, and no other part of the root changes. -/
theorem State.rootC2_root (h : C2Head) (i : Option HoopId) (m : Tokens) :
    ∃ l, (s.rootC2 k h i m).root k = { s.root k with c2out := (s.root k).c2out ++ l } := by
  unfold State.rootC2
  dsimp only
  split
  · exact ⟨[], by simp⟩
  · exact ⟨_, s.modRoot_root k _⟩

theorem State.bindOp_of_why (words : List W32) (full : Bool) (n : Nat) (gen : Gen) (w : Nat × Nat) (h : s.bindWhyOf k sd words full n gen = some w) :
    s.bindOp k src sd words full n gen = s.bindRefuse k w := by simp [State.bindOp, h]
theorem State.bindOp_of_raise (words : List W32) (full : Bool) (n : Nat) (gen : Gen) (h : s.bindWhyOf k sd words full n gen = none)
    (hr : s.needsRaise k (.gen sd) gen.toNat = true) :
    s.bindOp k src sd words full n gen = s.holdFor (.gen sd) gen.toNat (.bind src sd words n gen) := by simp [State.bindOp, h, hr]
theorem State.bindOp_of_pass (words : List W32) (full : Bool) (n : Nat) (gen : Gen) (h : s.bindWhyOf k sd words full n gen = none)
    (hr : s.needsRaise k (.gen sd) gen.toNat = false) :
    s.bindOp k src sd words full n gen = s.doBind k sd (bindEnts words.length words) gen := by simp [State.bindOp, h, hr]

/-- BIND_GO judges and binds what the source staged. -/
theorem opBindGo_opened : opBindGo k src sd (s.opened k src) = ((s.opened k src).modSrcBuf k src (fun b => b.setFull .bind false)).bindOp k src sd
    (s.srcBuf k src).bind ((s.srcBuf k src).full .bind) (s.fld k 0x80108 14 0) ((s.reg k 0x8010C).extractLsb' 0 16) := by simp [opBindGo]

/-- The message that KEY_SEND sends. -/
def State.keyMsg : KeyMsg :=
  { head := { sd := sd, dest := 0, all := true, gen := BitVec.ofNat 16 ((s.root k).hwmOf sd) }, key := (s.srcBuf k src).keyBuf }

/-- The SD's key is set and its message joins the root's C2 messages: what KEY_SEND does before a leaf takes its own key. -/
def State.keySent : State :=
  (s.modRoot k (fun r => r.modCtx sd (fun c => { c with key := some (s.srcBuf k src).keyBuf }))).rootC2 k (s.keyMsg k src sd).head none
    (keyToks (s.keyMsg k src sd))

/-- Of the root it changes the SD's key and the waiting messages. -/
theorem State.keySent_root : ∃ l, (s.keySent k src sd).root k =
    { (s.root k).modCtx sd (fun c => { c with key := some (s.srcBuf k src).keyBuf }) with c2out := l } := by
  obtain ⟨l, hl⟩ := State.rootC2_root (s.modRoot k (fun r => r.modCtx sd (fun c => { c with key := some (s.srcBuf k src).keyBuf }))) k
    (s.keyMsg k src sd).head none (keyToks (s.keyMsg k src sd))
  exact ⟨_, by rw [State.keySent, hl, State.modRoot_root]⟩

theorem opKeySend_of_sdRefused (h : s.sdRefused k sd = true) :
    opKeySend k src sd s = (s.modRoot k (fun r => { r with keyWhy := 3 })).refuse k 0x8070C := by simp [opKeySend, h]
theorem opKeySend_of_noCtx (h : s.sdRefused k sd = false) (hc : (s.root k).ctxOf sd = none) :
    opKeySend k src sd s = (s.modRoot k (fun r => { r with keyWhy := 1 })).refuse k 0x8070C := by simp [opKeySend, h, hc]
theorem opKeySend_of_pass (c : SdCtx) (h : s.sdRefused k sd = false) (hc : (s.root k).ctxOf sd = some c) (hf : c.fpState = 1)
    (hb : (s.root k).batches.any (fun b => decide (b.sd = sd ∧ b.st = .armed)) = false) (hk : k = .mary ∨ s.leaf.binding = none) :
    opKeySend k src sd s = s.keySent k src sd := by
  have hb' : ∀ p : BatchRec → Bool, (s.root k).batches.any (fun b => decide (b.sd = sd ∧ b.st = .armed) && p b) = false := by
    intro p
    rw [List.any_eq_false] at hb ⊢
    exact fun b hm hp => hb b hm (Bool.and_eq_true_iff.1 hp).1
  simp only [opKeySend, h, hc, hf, hb', Bool.false_eq_true, and_false, ne_eq, not_true_eq_false, if_false]
  cases k with
  | mary => rfl
  | leaf =>
    have hl : (s.keySent .leaf src sd).leaf.binding = none := by simpa [State.keySent] using hk
    simp only [State.keySent, State.keyMsg] at hl ⊢
    rw [hl]

theorem Root.modCtx_key (r : Root) (key : BitVec 128) :
    ∀ x ∈ (r.modCtx sd (fun c => { c with key := some key })).sds, x.sd = sd → x.key = some key := by
  intro x hx hsd
  obtain ⟨c, -, rfl⟩ := List.mem_map.1 hx
  by_cases h : c.sd = sd
  · simp [h]
  · simp [h] at hsd

theorem opArmSend_of_ready (batch : Batch) (b : BatchRec)
    (hb : (s.root k).batches.find? (fun b => decide (b.sd = sd ∧ b.batch = batch ∧ b.st = .pending)) = some b)
    (hr : s.armReady k b = true) (ht : s.armInTime k b = true) : opArmSend k sd batch s = s.sendArm k b := by
  simp only [opArmSend, hb, hr, ht, Bool.and_self, if_true]
theorem opArmSend_of_noTick (batch : Batch) (b : BatchRec)
    (hb : (s.root k).batches.find? (fun b => decide (b.sd = sd ∧ b.batch = batch ∧ b.st = .pending)) = some b)
    (hr : s.armReady k b = false) (he : b.earliest = none) : opArmSend k sd batch s = s := by
  simp only [opArmSend, hb, hr, he, Bool.false_and, Bool.false_eq_true, if_false]
theorem opArmSend_of_late (batch : Batch) (b : BatchRec) (t : Nat)
    (hb : (s.root k).batches.find? (fun b => decide (b.sd = sd ∧ b.batch = batch ∧ b.st = .pending)) = some b)
    (hr : s.armReady k b = false) (he : b.earliest = some t)
    (ht : (s.advHt k (t * nsTu - s.flightMax k * 2 ^ 24 - b.armMargin * nsTu + 1)).armInTime k b = false) :
    opArmSend k sd batch s = (s.advHt k (t * nsTu - s.flightMax k * 2 ^ 24 - b.armMargin * nsTu + 1)).failBatch k b 5 := by
  simp only [opArmSend, hb, hr, he, ht, Bool.false_and, Bool.false_eq_true, if_false]

/-- Settles O40: a check's reason is noted, and what passes its checks is bound, keyed, armed or held. -/
theorem rootBindKeyArm : Obligations.RootBindKeyArm := by
  refine ⟨?bound, ?held, ?bindRefused, ?keyLeaf, ?keyRefused, ?keyMary, ?armed, ?notReady, ?late⟩
  case bound =>
    intro s n src sd ht u gen b hw hr
    exact exec_access rfl ht ((opBindGo_opened s n src sd).trans (State.bindOp_of_pass _ _ _ _ _ _ _ _ (by simpa using hw) hr))
  case held =>
    intro s src sd ht u gen b hw hr
    exact exec_access rfl ht ((opBindGo_opened s .mary src sd).trans (State.bindOp_of_raise _ _ _ _ _ _ _ _ (by simpa using hw) hr))
  case bindRefused =>
    intro s n src sd w ht hw
    refine .of_access rfl ht ((opBindGo_opened s n src sd).trans (State.bindOp_of_why _ _ _ _ _ _ _ _ w (by simpa using hw))) ?_
    cases n <;> simp [State.bindRefuse, State.modSrcBuf_root, Root.modBuf]
  case keyLeaf =>
    intro s src sd c ht hr hc hf hk hb hu
    refine .of_access_leaf rfl ht (opKeySend_of_pass _ .leaf src sd c hr (by simpa using hc) hf (by simpa using hb) (.inr (by simpa using hu))) ?_
    obtain ⟨l, hroot⟩ := (s.opened .leaf src).keySent_root .leaf src sd
    refine ⟨?_, ?_, by simp [State.keySent], by simp [State.keySent], by simp [State.keySent], by simp [State.keySent]⟩
    · rw [hroot]
      exact Root.modCtx_key sd _ _
    · rw [hroot]
      simp [Root.modCtx]
  case keyRefused =>
    intro s n src sd ht h
    cases hr : (s.opened n src).sdRefused n sd
    · have hc : (s.root n).ctxOf sd = none := h.resolve_left (by simp [hr])
      refine .of_access rfl ht (opKeySend_of_noCtx _ n src sd hr (by simpa using hc)) ?_
      cases n <;> simp
    · refine .of_access rfl ht (opKeySend_of_sdRefused _ n src sd hr) ?_
      cases n <;> simp
  case keyMary =>
    intro s src sd c ht hr hc hf hk hb
    refine exec_access rfl ht ((opKeySend_of_pass _ .mary src sd c hr (by simpa using hc) hf (by simpa using hb) (.inl rfl)).trans ?_)
    simp [State.keySent, State.keyMsg]
  case armed => exact fun s n sd batch b hl hb hr ht => exec_live rfl hl (opArmSend_of_ready s n sd batch b hb hr ht)
  case notReady => exact fun s n sd batch b hl hb hr he => exec_live rfl hl (opArmSend_of_noTick s n sd batch b hb hr he)
  case late => exact fun s n sd batch b t hl hb hr he ht => exec_live rfl hl (opArmSend_of_late s n sd batch b t hb hr he ht)
end Sys2Proof.Machine
end

section
/-! The root's counters (R203, R338, R341): step windows, vintages and floors. -/

namespace Sys2Proof.Machine

variable (s : State) (k : NodeSel) (src : Src) (sd : Sd)

/-! ## What these commands read, at the opened state -/

@[simp] theorem State.opened_sdRefused : (s.opened k src).sdRefused k sd = s.sdRefused k sd := by cases k <;> rfl
@[simp] theorem State.opened_jrnlLost (j : NodeSel) (f : Family) : (s.opened k src).jrnlLost j f = s.jrnlLost j f := by cases k <;> rfl
@[simp] theorem State.opened_needsRaise (j : NodeSel) (f : Family) (x : Nat) : (s.opened k src).needsRaise j f x = s.needsRaise j f x := by
  cases k <;> rfl
@[simp] theorem State.opened_reg64 (j : NodeSel) (off : Nat) : (s.opened k src).reg64 j off = s.reg64 j off := by simp [State.reg64]
@[simp] theorem State.opened_resFamily (j : NodeSel) : (s.opened k src).resFamily j = s.resFamily j := by simp [State.resFamily]
@[simp] theorem State.opened_ctrOf (j : NodeSel) (f : Family) : (s.opened k src).ctrOf j f = s.ctrOf j f := by
  cases f <;> simp [State.ctrOf]
@[simp] theorem State.opened_grantRecs : (s.opened k src).grantRecs = s.grantRecs := by cases k <;> rfl

theorem State.jrnlLost_leaf (f : Family) : s.jrnlLost .leaf f = false := by simp [State.jrnlLost]
theorem State.needsRaise_leaf (f : Family) (x : Nat) : s.needsRaise .leaf f x = false := by simp [State.needsRaise]

/-! ## STEP_WIN_SET -/

/-- A window that STEP_WIN_SET refuses (R203): its SD is not licensed or not bound, the journal is lost, or the window is not above the mark, is
empty or ends at the last step. -/
def State.stepWinBad (lo hi : W64) : Prop :=
  s.sdRefused k sd = true ∨ s.jrnlLost k .step = true ∨ (s.root k).ctxOf sd = none ∨ lo.toNat ≤ (s.root k).stepHwm.toNat ∨ hi.toNat < lo.toNat ∨
    hi = 0xFFFFFFFFFFFFFFFF#64

theorem State.stepWinOp_of_bad (lo hi : W64) (h : s.stepWinBad k sd lo hi) : s.stepWinOp k src sd lo hi = s.refuse k 0x80710 := by
  refine if_pos ?_
  simpa only [State.stepWinBad, Bool.or_eq_true, Option.isNone_iff_eq_none, decide_eq_true_eq, or_assoc] using h
theorem State.stepWinOp_of_good (lo hi : W64) (h : ¬ s.stepWinBad k sd lo hi) : s.stepWinOp k src sd lo hi =
    if s.needsRaise k .step hi.toNat then s.holdFor .step hi.toNat (.stepWin src sd lo hi) else s.grantWin k sd lo hi := by
  refine if_neg ?_
  simpa only [State.stepWinBad, Bool.or_eq_true, Option.isNone_iff_eq_none, decide_eq_true_eq, or_assoc] using h

/-- STEP_WIN_SET takes the window of the registers. -/
theorem opStepWinSet_opened : opStepWinSet k src sd (s.opened k src) = (s.opened k src).stepWinOp k src sd (s.reg64 k 0x80400) (s.reg64 k 0x80408) := by
  simp [opStepWinSet]

theorem Root.modCtx_win (r : Root) (w : W64 × W64) :
    ∀ x ∈ (r.modCtx sd (fun c => { c with win := some w })).sds, x.sd = sd → x.win = some w := by
  intro x hx hsd
  obtain ⟨c, -, rfl⟩ := List.mem_map.1 hx
  by_cases h : c.sd = sd
  · simp [h]
  · simp [h] at hsd

/-- A window that was granted and whose grant is still recorded. -/
def State.winGranted (w : W64 × W64) : Bool :=
  match k with
  | .leaf => decide (w ∈ (s.root .leaf).grants)
  | .mary => s.grantRecs.any (fun r => decide (r.2 = w))

theorem opStepWinAdopt_of_good (hsd : s.sdRefused k sd = false) (hj : s.jrnlLost k .step = false) (hc : ((s.root k).ctxOf sd).isSome = true)
    (hg : s.winGranted k (s.reg64 k 0x80400, s.reg64 k 0x80408) = true)
    (hw : ∀ c ∈ (s.root k).sds, c.win ≠ some (s.reg64 k 0x80400, s.reg64 k 0x80408)) :
    opStepWinAdopt k sd s = s.setWin k sd (s.reg64 k 0x80400) (s.reg64 k 0x80408) := by
  have hc' : ((s.root k).ctxOf sd).isNone = false := by simpa [← Option.not_isSome] using hc
  have hw' : (s.root k).sds.any (fun c => decide (c.win = some (s.reg64 k 0x80400, s.reg64 k 0x80408))) = false := by simpa using hw
  have he : opStepWinAdopt k sd s =
      if s.sdRefused k sd || s.jrnlLost k .step || ((s.root k).ctxOf sd).isNone || !s.winGranted k (s.reg64 k 0x80400, s.reg64 k 0x80408)
        || (s.root k).sds.any (fun c => decide (c.win = some (s.reg64 k 0x80400, s.reg64 k 0x80408))) then s.refuse k 0x80710
      else s.setWin k sd (s.reg64 k 0x80400) (s.reg64 k 0x80408) := by cases k <;> rfl
  rw [he, hsd, hj, hc', hg, hw']
  rfl

/-! ## VINT_ISSUE -/

theorem State.vintOp_of_bad (v : W32) (h : v.toNat ≤ (s.root k).vintHwm.toNat) : s.vintOp k src v = s.refuse k 0x80714 := by
  refine if_pos ?_
  simp [h]
/-- An issue above the mark, with the journal whole. -/
theorem State.vintOp_of_good (v : W32) (hj : s.jrnlLost k .vint = false) (h : (s.root k).vintHwm.toNat < v.toNat) (hv : v ≠ 0xFFFFFFFF#32) :
    s.vintOp k src v = if s.needsRaise k .vint v.toNat then s.holdFor .vint v.toNat (.vint src v) else
      match k with
      | .leaf => s.modRoot .leaf (fun r => { r with vintHwm := v })
      | .mary => (s.modRoot .mary (fun r => { r with vintHwm := v })).raiseAhead .vint := by
  unfold State.vintOp
  rw [if_neg (by simp [hj, h, hv])]
  cases k <;> rfl

/-! ## RES_FLOOR -/

theorem State.setCtr_ctrOf_same (f : Family) (v : W64) (h : v.toNat ≤ f.cap) : (s.setCtr k f v).ctrOf k f = v.toNat := by
  cases f with
  | step => simp [State.setCtr, State.ctrOf]
  | vint =>
    have hv : v.toNat < 2 ^ 32 := lt_of_le_of_lt h (by decide)
    simpa [State.setCtr, State.ctrOf] using hv
  | gen d => simp [State.setCtr, State.ctrOf, Root.hwmOf]
theorem State.setCtr_ctrOf_other (f g : Family) (v : W64) (h : g ≠ f) : (s.setCtr k f v).ctrOf k g = s.ctrOf k g := by
  cases f <;> cases g <;> simp only [State.setCtr, State.ctrOf, State.modRoot_root, Root.hwmOf]
  case step.step => exact absurd rfl h
  case vint.vint => exact absurd rfl h
  case gen.gen d e =>
    have hne : e.toNat ≠ d.toNat := fun he => h (congrArg Family.gen (BitVec.eq_of_toNat_eq he))
    rw [sget_sput_other _ _ _ _ hne]

theorem opResFloor_of_bad (v : W64) (h : v.toNat ≤ s.ctrOf k (s.resFamily k) ∨ v.toNat > (s.resFamily k).cap) :
    opResFloor k src v s = s.refuse k (s.resFamily k).refusedOff := if_pos h
theorem opResFloor_leaf (v : W64) (h : s.ctrOf .leaf (s.resFamily .leaf) < v.toNat) (hc : v.toNat ≤ (s.resFamily .leaf).cap) :
    opResFloor .leaf src v s = s.setCtr .leaf (s.resFamily .leaf) v := if_neg (by omega)
theorem opResFloor_mary (v : W64) (h : s.ctrOf .mary (s.resFamily .mary) < v.toNat) (hc : v.toNat ≤ (s.resFamily .mary).cap) :
    opResFloor .mary src v s = s.modCellar (fun c => { c with
        raises := c.raises ++ [{ fam := s.resFamily .mary, ceil := v.toNat }], held := c.held ++ [(s.resFamily .mary, .floor src v)] }) :=
  if_neg (by omega)

/-- Settles O41: each counter's command refuses what is not above its counter, and moves the counter, or waits for its ceiling, otherwise. -/
theorem rootCounters : Obligations.RootCounters := by
  refine ⟨?setLeaf, ?setMary, ?setRefused, ?adopt, ?vintLeaf, ?vintMary, ?vintRefused, ?floorLeaf, ?floorMary, ?floorRefused⟩
  case setLeaf =>
    intro s src sd ht hsd hc hlo hhi hend
    have hg : ¬ (s.opened .leaf src).stepWinBad .leaf sd (s.reg64 .leaf 0x80400) (s.reg64 .leaf 0x80408) := by
      have hc' : (s.root .leaf).ctxOf sd ≠ none := Option.isSome_iff_ne_none.1 hc
      simp only [State.stepWinBad, State.opened_sdRefused, State.opened_root, hsd, State.jrnlLost_leaf, hc', hend, Bool.false_eq_true, false_or, or_false]
      omega
    refine .of_access_leaf rfl ht ((opStepWinSet_opened s .leaf src sd).trans ((s.opened .leaf src).stepWinOp_of_good .leaf src sd _ _ hg)) ?_
    rw [State.needsRaise_leaf, if_neg (by simp)]
    refine ⟨?_, ?_, ?_, ?_⟩
    · simp [State.grantWin, State.setWin, Root.modCtx]
    · simp [State.grantWin, State.setWin, Root.modCtx]
    · simpa [State.grantWin, State.setWin] using Root.modCtx_win sd _ (s.reg64 .leaf 0x80400, s.reg64 .leaf 0x80408)
    · simp [State.grantWin, State.setWin, Root.modCtx, SameMary]
  case setMary =>
    intro s src sd ht hsd hj hc hlo hhi hend
    have hg : ¬ (s.opened .mary src).stepWinBad .mary sd (s.reg64 .mary 0x80400) (s.reg64 .mary 0x80408) := by
      have hc' : (s.root .mary).ctxOf sd ≠ none := Option.isSome_iff_ne_none.1 hc
      simp only [State.stepWinBad, State.opened_sdRefused, State.opened_root, State.opened_jrnlLost, hsd, hj, hc', hend, Bool.false_eq_true,
        false_or, or_false]
      omega
    refine exec_access rfl ht ((opStepWinSet_opened s .mary src sd).trans (((s.opened .mary src).stepWinOp_of_good .mary src sd _ _ hg).trans ?_))
    rw [State.opened_needsRaise]
  case setRefused =>
    intro s n src sd ht hb
    have hb' : (s.opened n src).stepWinBad n sd (s.reg64 n 0x80400) (s.reg64 n 0x80408) := by simpa [State.stepWinBad] using hb
    exact exec_access rfl ht ((opStepWinSet_opened s n src sd).trans ((s.opened n src).stepWinOp_of_bad n src sd _ _ hb'))
  case adopt =>
    intro s n src sd ht hsd hj hc hg hw
    have hg' : (s.opened n src).winGranted n (s.reg64 n 0x80400, s.reg64 n 0x80408) = true := by
      cases n with
      | leaf => simpa [State.winGranted] using hg
      | mary =>
        obtain ⟨q, hq⟩ := hg
        simpa only [State.winGranted, State.opened_grantRecs] using List.any_eq_true.2 ⟨_, hq, decide_eq_true rfl⟩
    have he := opStepWinAdopt_of_good (s.opened n src) n sd (by simpa using hsd) (by simpa using hj) (by simpa using hc) (by simpa using hg')
      (by simpa using hw)
    refine exec_access_kept rfl ht (he.trans ?_) (by simp)
    simp [State.setWin]
  case vintLeaf =>
    intro s src v ht h hv
    exact exec_access_leaf rfl ht (by
      simpa [State.needsRaise_leaf] using (s.opened .leaf src).vintOp_of_good .leaf src v (State.jrnlLost_leaf _ _) (by simpa using h) hv)
  case vintMary =>
    intro s src v ht hj h hv
    exact exec_access rfl ht (by simpa using (s.opened .mary src).vintOp_of_good .mary src v (by simpa using hj) (by simpa using h) hv)
  case vintRefused =>
    intro s n src v ht h
    refine .of_access rfl ht ((s.opened n src).vintOp_of_bad n src v (by simpa using h)) ?_
    simp
  case floorLeaf =>
    intro s src v ht h hc
    refine .of_access_leaf rfl ht (opResFloor_leaf (s.opened .leaf src) src v (by simpa using h) (by simpa using hc)) ?_
    rw [State.opened_resFamily]
    refine ⟨?_, fun f hf => ?_, ?_, ?_⟩
    · simpa using (s.opened .leaf src).setCtr_ctrOf_same .leaf (s.resFamily .leaf) v hc
    · simpa using (s.opened .leaf src).setCtr_ctrOf_other .leaf (s.resFamily .leaf) f v hf
    · cases s.resFamily .leaf <;> simp [State.setCtr]
    · simp [State.setCtr, SameMary]
  case floorMary =>
    intro s src v ht h hc
    exact exec_access_kept rfl ht (by simpa using opResFloor_mary (s.opened .mary src) src v (by simpa using h) (by simpa using hc)) (by simp)
  case floorRefused =>
    intro s n src v ht h
    exact exec_access rfl ht (by simpa using opResFloor_of_bad (s.opened n src) n src v (by simpa using h))

end Sys2Proof.Machine
end

section
/-! Register writes: a wide write abandoned, a register with one stored field, and the accesses that no rule of a register reaches. -/

namespace Sys2Proof.Machine

variable (s : State) (k : NodeSel) (src : Src)

/-! ## A wide write abandoned (R9) -/

theorem State.hostStat_leaf_src (b : Nat) (h : srcAt .leaf src = true) : s.hostStat src b = s := by
  cases src with
  | host p => exact absurd h (by simp [srcAt])
  | _ => rfl

theorem State.takes_srcAt {off : Nat} (h : s.takes k src off = true) : srcAt k src = true := by
  simp only [State.takes, Bool.and_eq_true] at h
  exact h.1.1

/-- At the leaf, abandoning a wide write touches the staged words alone. -/
theorem State.abandon_leaf (h : srcAt .leaf src = true) : ∃ l, s.abandon .leaf src = s.modNode .leaf (fun N => { N with stages := l }) := by
  unfold State.abandon
  split
  · exact ⟨_, State.hostStat_leaf_src _ _ _ h⟩
  · exact ⟨s.leafN.stages, rfl⟩
/-- Of a node, it touches the staged words alone. -/
theorem State.abandon_node (j : NodeSel) {α : Type} (f : {n : Nat} → Node n → α)
    (hf : ∀ {n : Nat} (N : Node n) (l), f { N with stages := l } = f N) : (s.abandon k src).onNode j f = s.onNode j f := by
  unfold State.abandon
  split
  · cases k <;> cases j <;> simp only [State.onNode, State.hostStat_leafN, State.hostStat_maryN] <;> solve | rfl | exact hf _ _
  · rfl
@[simp] theorem State.abandon_reg (j : NodeSel) (o : Nat) : (s.abandon k src).reg j o = s.reg j o := s.abandon_node k src j _ (fun _ _ => rfl)
@[simp] theorem State.abandon_count (j : NodeSel) (o : Nat) : (s.abandon k src).count j o = s.count j o := s.abandon_node k src j _ (fun _ _ => rfl)

/-! ## A register of one stored field -/

/-- A word that takes a field's value in its low bits reads it back. -/
theorem Fld.put_of (f : Fld) (old v : W32) (hlo : f.lo = 0) (hw : 0 < f.w) (hw32 : f.w ≤ 32) : bitsOf (f.put old v) (f.w - 1) 0 = f.of v := by
  have hb : f.lo + f.w - 1 + 1 - f.lo = f.w := by omega
  have hb0 : f.w - 1 + 1 - 0 = f.w := by omega
  have h2 : (2 : Nat) ^ f.w ∣ 2 ^ 32 := Nat.pow_dvd_pow 2 hw32
  simp only [Fld.put, Fld.of, bitsOf, hb, hb0]
  simp only [hlo, Nat.shiftRight_zero, pow_zero, Nat.mul_one, BitVec.toNat_ofNat]
  rw [Nat.mod_mod_of_dvd _ h2]
  have hsub : old.toNat - old.toNat % 2 ^ f.w = 2 ^ f.w * (old.toNat / 2 ^ f.w) := by
    have := Nat.div_add_mod old.toNat (2 ^ f.w)
    omega
  rw [hsub, Nat.mul_add_mod]
  exact Nat.mod_mod _ _

theorem State.writeStored_one (off : Nat) (v : W32) (f : Fld) (hf : fieldsAt k off = [f]) (ht : f.ty = .rw) (hok : fieldOk k off f v = true) :
    s.writeStored k src off v = s.setReg k off (f.put (s.reg k off) v) := by
  simp [State.writeStored, hf, Fld.expert, ht, hok, State.each]
theorem State.writeStored_one_bad (off : Nat) (v : W32) (f : Fld) (hf : fieldsAt k off = [f]) (ht : f.ty = .rw) (hok : fieldOk k off f v = false) :
    s.writeStored k src off v = (s.setReg k off (s.reg k off)).refuse k ((fieldCtr k off f).off k (s.isRoot k)) := by
  simp [State.writeStored, hf, Fld.expert, ht, hok, State.each, List.eraseDups_cons]

/-- STAT_N's field. -/
def fldStatN : Fld := { off := 0x8104, lo := 0, w := 25, ty := .rw, rst := 1, mn := 1, mx := 0x1000000, ctr := .acc }
/-- The field of a root's 0x8010C. -/
def fldBindGen : Fld := { off := 0x8010C, lo := 0, w := 16, ty := .rw, rst := 0, mn := 0, mx := 0xFFFF, ctr := .acc }

theorem fieldsAt_statN : fieldsAt .leaf 0x8104 = [fldStatN] := rfl
theorem fieldsAt_bindGen : fieldsAt .leaf 0x8010C = [fldBindGen] := rfl
theorem State.writeAt_statN (a : Bool) (v : W32) : s.writeAt .leaf src a 0x8104 v = (s.abandon .leaf src).writeStored .leaf src 0x8104 v := rfl

/-- A word that no rule of its own takes goes to its stored fields. -/
theorem State.writeWord_stored (a : Bool) (off : Nat) (v : W32) (hc : cellAt .leaf off = none) (h1 : s.writeW1c .leaf off v = none)
    (ht : s.writeTime .leaf off v = none) (hr : s.writeRoot .leaf src off v = none) (hl : s.writeLeaf src off v = none)
    (hs : isStored .leaf off = true) : s.writeWord .leaf src a off v = s.writeStored .leaf src off v := by
  simp [State.writeWord, hc, h1, ht, hr, hl, hs]
theorem State.writeAt_bindGen (a : Bool) (v : W32) : s.writeAt .leaf src a 0x8010C v = (s.abandon .leaf src).writeStored .leaf src 0x8010C v := by
  have ha : assignedAt .leaf src 0x8010C = true := rfl
  have hw : wideAt .leaf src 0x8010C = none := rfl
  rw [State.writeAt, ha, hw]
  exact State.writeWord_stored _ src a 0x8010C v rfl rfl rfl rfl rfl rfl

/-- IRQ_STAT's bits are cleared where ones are written. -/
theorem State.writeAt_irq (a : Bool) (v : W32) :
    s.writeAt .leaf src a 0x20 v = (s.abandon .leaf src).modNode .leaf (fun N => { N with irq := w1c N.irq v }) := rfl

/-! ## ROOT_DATA -/

theorem State.opened_leaf_isRoot : (s.opened .leaf src).isRoot .leaf = s.isRoot .leaf := s.opened_isRoot .leaf .leaf src

/-- What a read of ROOT_DATA runs. -/
theorem State.readReg_rootData (hs : srcAt .leaf src = true) (hl : s.held .leaf = false) : s.readReg .leaf src 0xE054 = opRootRead src s := by
  cases src with
  | engine => exact absurd hs (by simp [srcAt])
  | _ => simp [State.readReg, hs, hl]

/-- Settles O19: ROOT_DATA is the image's word at ROOT_ADDR at a root leaf, and an unassigned word elsewhere. -/
theorem rootPageWindow : Obligations.RootPageWindow := by
  refine ⟨?written, ?read, ?writtenNoRoot, ?readNoRoot, ?bindGen⟩
  case written =>
    intro s src v o ht hr ho
    exact exec_access_leaf rfl ht (by simp [opRootWrite, hr, ho])
  case read =>
    intro s src o hs hl hr ho
    exact congrArg Host.Outcome.next ((s.readReg_rootData src hs hl).trans (by simp [opRootRead, hr, ho]))
  case writtenNoRoot =>
    intro s src v ht hr
    refine .of_access_leaf rfl ht (u := (s.opened .leaf src).refuse .leaf (offAccErr .leaf)) (by simp [opRootWrite, hr]) ?_
    simp [SameMary]
  case readNoRoot =>
    intro s src hs hl hr
    exact congrArg Host.Outcome.next ((s.readReg_rootData src hs hl).trans (by simp [opRootRead, hr]))
  case bindGen =>
    intro s src v ht hr ho
    have hsrc := s.takes_srcAt .leaf src ht
    have hok : fieldOk .leaf 0x8010C fldBindGen v = true := by
      have : bitsOf v 15 0 < 2 ^ 16 := Nat.mod_lt _ (by decide)
      simp only [fieldOk, reduceCtorEq, false_and, if_false, Fld.ok, Fld.of, fldBindGen]
      exact decide_eq_true ⟨Nat.zero_le _, Nat.le_of_lt_succ this⟩
    refine .of_access_leaf rfl ht (u := ((s.opened .leaf src).abandon .leaf src).setReg .leaf 0x8010C
      (fldBindGen.put ((s.opened .leaf src).reg .leaf 0x8010C) v)) ?_ ?_
    · rw [opRootWrite, State.opened_isRoot, hr, State.opened_fld, ho]
      simpa using ((s.opened .leaf src).writeAt_bindGen src false v).trans (State.writeStored_one _ .leaf src 0x8010C v fldBindGen fieldsAt_bindGen rfl hok)
    · obtain ⟨l, hl⟩ := (s.opened .leaf src).abandon_leaf src hsrc
      refine ⟨?_, fun o ho => ?_, ?_⟩
      · simpa [State.fld, fldBindGen, Fld.of, bitsOf] using Fld.put_of fldBindGen (s.reg .leaf 0x8010C) v rfl (by decide) (by decide)
      · simp [State.setReg_reg_other _ _ _ _ _ ho]
      · rw [hl]
        exact ⟨rfl, rfl, rfl, rfl, rfl, rfl⟩

/-! ## REGISTER_WRITE -/

theorem State.takes_not_engine {off : Nat} (h : s.takes k src off = true) : src ≠ .engine := by
  rintro rfl
  cases k
  · exact absurd (s.takes_srcAt .leaf .engine h) (by simp [srcAt])
  · simp [State.takes] at h

/-- A register write at an offset of the node's window. -/
theorem exec_registerWrite (off : BitVec 20) (v : W32) (hb : beyond k off.toNat = false) :
    exec (.registerWrite k src off v) s = .next (s.writeReg k src off.toNat v) :=
  congrArg Host.Outcome.next (if_neg (by simp [hb]))

/-- A register write that is taken runs the register's rule. -/
theorem exec_registerWrite_taken (off : BitVec 20) (v : W32) (hb : beyond k off.toNat = false) (ht : s.takes k src off.toNat = true)
    (hr : off.toNat ≠ 0xE054) : exec (.registerWrite k src off v) s =
      .next ((((s.opened k src).writeAt k src (decide (src ∈ s.mary.rstKeys)) off.toNat v).convRefresh k).noteRefused k src) :=
  exec_accessC (exec_registerWrite s k src off v hb) ht (by simp [s.takes_not_engine k src ht, hr])

/-- The same at the leaf, where no status notes a refusal. -/
theorem exec_registerWrite_leaf (off : BitVec 20) (v : W32) (hb : beyond .leaf off.toNat = false) (ht : s.takes .leaf src off.toNat = true)
    (hr : off.toNat ≠ 0xE054) : exec (.registerWrite .leaf src off v) s =
      .next (((s.opened .leaf src).writeAt .leaf src (decide (src ∈ s.mary.rstKeys)) off.toNat v).convRefresh .leaf) := by
  rw [exec_registerWrite_taken s .leaf src off v hb ht hr, State.noteRefused_leaf_src _ src (s.takes_srcAt .leaf src ht)]

@[simp] theorem State.convRefresh_leafN_irq : (s.convRefresh k).leafN.irq = s.leafN.irq := s.convRefresh_node k .leaf _ (fun _ _ _ => rfl)

/-- Of the counters, the refresh of CONV moves its own alone. -/
theorem State.convRefresh_count_other (j : NodeSel) (o : Nat) (h : o ≠ tOff k 0x1214) : (s.convRefresh k).count j o = s.count j o := by
  have hb : ∀ t : State, (t.bump k (tOff k 0x1214)).count j o = t.count j o := fun t => by
    cases k <;> cases j <;> solve | exact t.bump_count_other _ _ _ h | rfl
  rcases s.convRefresh_cases k with e | e | e <;> simp [e, hb]

@[simp] theorem State.opened_isExpert (j : NodeSel) (x : Src) : (s.opened k src).isExpert j x = s.isExpert j x := by
  cases k <;> cases j <;> rfl
@[simp] theorem State.noteRefused_isExpert (j : NodeSel) (x : Src) : (s.noteRefused k src).isExpert j x = s.isExpert j x := by
  cases j <;> simp [State.isExpert, State.onNode]
/-- After EXPERT_UNLOCK its source is unlocked by the key alone, and every other source is as it was (R369). -/
theorem opExpertUnlock_isExpert (v : W32) (x : Src) :
    (opExpertUnlock k src v s).isExpert k x = if x = src then decide (v = 0x45585054#32) else s.isExpert k x := by
  by_cases hv : v = 0x45585054#32 <;> by_cases hx : x = src <;> cases k <;> simp [opExpertUnlock, State.isExpert, State.onNode, State.modNode, hv, hx]

/-- Settles O17: each clause runs the rule of its register. -/
theorem registerWrites : Obligations.RegisterWrites := by
  refine ⟨?irq, ?statN, ?statNBad, ?unassigned, ?denied, ?engine, ?engineDenied, ?expert, ?errCnt⟩
  case irq =>
    intro s src v ht
    obtain ⟨l, hl⟩ := (s.opened .leaf src).abandon_leaf src (s.takes_srcAt .leaf src ht)
    refine .intro (exec_registerWrite_leaf s src 0x20 v rfl ht (by decide)) ?_
    rw [show (0x20 : BitVec 20).toNat = 0x20 from rfl, State.writeAt_irq, hl]
    simp only [State.convRefresh_leafN_irq, State.convRefresh_leafN_regs, State.convRefresh_leafN_cells, State.convRefresh_leaf, SameMary,
      State.convRefresh_maryN, State.convRefresh_mary, State.convRefresh_cellar]
    exact ⟨rfl, rfl, rfl, rfl, rfl, rfl, rfl⟩
  case statN =>
    intro s src v ht h0 h1
    obtain ⟨l, hl⟩ := (s.opened .leaf src).abandon_leaf src (s.takes_srcAt .leaf src ht)
    have hv : fldStatN.of v = v.toNat := Nat.mod_eq_of_lt (lt_of_le_of_lt h1 (by decide))
    have hok : fieldOk .leaf 0x8104 fldStatN v = true := by
      simp only [fieldOk, reduceCtorEq, false_and, if_false, Fld.ok, hv]
      exact decide_eq_true ⟨h0, h1⟩
    refine .intro (exec_registerWrite_leaf s src 0x8104 v rfl ht (by decide)) ?_
    rw [show (0x8104 : BitVec 20).toNat = 0x8104 from rfl, State.writeAt_statN, State.writeStored_one _ .leaf src 0x8104 v fldStatN fieldsAt_statN rfl hok]
    refine ⟨?_, fun o ho => ?_, ?_⟩
    · rw [← hv]
      simpa [State.statN, State.fld, fldStatN] using Fld.put_of fldStatN (s.reg .leaf 0x8104) v rfl (by decide) (by decide)
    · simp [State.setReg_reg_other _ _ _ _ _ ho]
    · simp [SameMary, hl]
  case statNBad =>
    intro s src v ht hv
    obtain ⟨l, hl⟩ := (s.opened .leaf src).abandon_leaf src (s.takes_srcAt .leaf src ht)
    have hok : fieldOk .leaf 0x8104 fldStatN v = false := by
      simp only [fieldOk, reduceCtorEq, false_and, if_false, Fld.ok]
      refine decide_eq_false (fun ⟨h0, h1⟩ => ?_)
      change 1 ≤ v.toNat % 2 ^ 25 at h0
      change v.toNat % 2 ^ 25 ≤ 0x1000000 at h1
      omega
    refine .intro (exec_registerWrite_leaf s src 0x8104 v rfl ht (by decide)) ?_
    rw [show (0x8104 : BitVec 20).toNat = 0x8104 from rfl, State.writeAt_statN,
      State.writeStored_one_bad _ .leaf src 0x8104 v fldStatN fieldsAt_statN rfl hok]
    refine ⟨by simp, ?_, by simp [hl], by simp [SameMary, hl]⟩
    rw [State.convRefresh_count_other _ _ _ _ (by decide)]
    exact (State.refuse_count_same _ _ _).trans (by simp [fieldCtr, fldStatN, RefCtr.off, offAccErr])
  case unassigned =>
    intro s n src off v ht ha hb hr
    refine .intro (exec_registerWrite_taken s n src off v hb ht hr) ?_
    have hc : offAccErr n ≠ tOff n 0x1214 := by cases n <;> decide
    rw [State.writeAt, ha]
    simp [State.convRefresh_count_other _ _ _ _ hc]
  case denied =>
    intro s src off v hs he hl hb hm
    have hw : s.writeReg .mary src off.toNat v = ((((s.clearRefused .mary).cancelKey src).bump .mary (offDeny src)).hostStat src 1).markRefused .mary := by
      simp [State.writeReg, State.accessC, State.access, hs, hl, he, hm]
    refine .intro ((exec_registerWrite s .mary src off v hb).trans (congrArg _ hw)) ?_
    refine ⟨by simp, by simp, by simp, by simp, by simp, by simp, ?_⟩
    change State.time _ .mary = s.time .mary
    simp
  case engine =>
    intro s off v hl hm hb he
    have hw : s.writeReg .mary .engine off.toNat v = ((s.clearRefused .mary).setReg .mary off.toNat v).convRefresh .mary := by
      simp [State.writeReg, State.accessC, State.access, State.engineAccess, srcAt, hl, hm, he]
    refine .intro ((exec_registerWrite s .mary .engine off v hb).trans (congrArg _ hw)) ?_
    refine ⟨by simp, fun o ho => ?_, by simp [SameLeaf]⟩
    simp [State.setReg_reg_other _ _ _ _ _ ho]
  case engineDenied =>
    intro s off v hl hm hb he
    have hw : s.writeReg .mary .engine off.toNat v = (((s.clearRefused .mary).bump .mary 0xB0018).raiseIrq .mary 9).markRefused .mary := by
      simp [State.writeReg, State.accessC, State.access, State.engineAccess, srcAt, hl, hm, he]
    refine .intro ((exec_registerWrite s .mary .engine off v hb).trans (congrArg _ hw)) ?_
    have hirq : (setBit s.maryN.irq 9).getLsbD 9 = true := by simp [setBit_getLsbD]
    exact ⟨by simp, hirq, by simp, by simp, by simp, by simp [SameLeaf]⟩
  case expert =>
    intro s n src v ht
    refine .of_access rfl ht rfl ?_
    refine ⟨by simp [opExpertUnlock_isExpert], fun x hx => ?_, by simp [opExpertUnlock], by simp [opExpertUnlock]⟩
    simp [opExpertUnlock_isExpert, hx]
  case errCnt =>
    intro s src ht
    refine .of_access_leaf rfl ht rfl ?_
    refine State.each_keeps (fun t => (∀ o, t.count .leaf o = 0) ∧ t.leaf = s.leaf ∧ SameMary s t) _ _ (fun t i h => ?_) _ ?_
    · simpa [SameMary] using h
    · exact ⟨fun o => rfl, rfl, rfl, rfl, rfl⟩

end Sys2Proof.Machine
end

section
/-! Register reads (R9, R368): the pop of a FIFO and the snapshot of a wide register. -/

namespace Sys2Proof.Machine

variable (s : State) (k : NodeSel) (src : Src)

/-! ## The pop of a FIFO -/

/-- The offset of a FIFO's highest word, whose read pops it. -/
def fifoTop (f : FifoId) : Nat := (fifoAt f).1 + 4 * ((fifoAt f).2 - 1)

/-- A FIFO whose words a window of a node holds. -/
structure FifoHere (f : FifoId) : Prop where
  wide : wideAt k src (fifoTop f) = some (fifoView k f)
  named : fifoOf k (fifoAt f).1 = some f
  aligned : fifoTop f % 4 = 0

theorem fifoAt_words (f : FifoId) : 3 ≤ (fifoAt f).2 := by cases f <;> simp [fifoAt]

/-- The answer of a snapshot's highest word. -/
def State.topAnswer (f : FifoId) (l : List W32) : State := s.answer k (l.getD ((fifoAt f).2 - 1) 0) false
/-- The highest word of a snapshot answers, the mark that its low read left goes, and the head record goes. -/
def State.popped (f : FifoId) (l : List W32) : State := ((s.topAnswer k f l).snapDrop k src ((fifoAt f).1 + 1)).fifoDrop k f

/-- With a snapshot taken, the highest word of it answers; the head record goes when the snapshot showed one. -/
theorem State.readAt_fifoTop (f : FifoId) (l : List W32) (hf : FifoHere k src f) (hl : s.snapWord k src (fifoAt f).1 = some l) :
    s.readAt k src (fifoTop f) = if (s.snapWord k src ((fifoAt f).1 + 1)).isSome then s.popped k src f l else s.topAnswer k f l := by
  have hn := fifoAt_words f
  have hi : (fifoTop f - (fifoAt f).1) / 4 = (fifoAt f).2 - 1 := by simp [fifoTop]
  have h0 : (fifoAt f).2 - 1 ≠ 0 := by omega
  have h1 : (fifoAt f).2 - 1 + 1 = (fifoAt f).2 := by omega
  rw [State.readAt, hf.wide]
  simp only [hf.aligned, ne_eq, not_true_eq_false, if_false, State.readWide, fifoView, hi, h0, hl, hf.named, h1, true_and, State.popped, State.topAnswer]

/-- Dropping a FIFO's head drops it. -/
theorem State.fifoDrop_fifo (f : FifoId) : (s.fifoDrop k f).fifo k f = (s.fifo k f).drop 1 := by
  cases f with
  | evt i =>
    by_cases hi : i = 0 <;> simp [State.fifoDrop, State.fifo, hi]
  | land p => simp [State.fifoDrop, State.fifo, p.isLt]
  | _ => simp [State.fifoDrop, State.fifo]

/-- The leaf's own FIFOs. -/
def leafFifo (f : FifoId) : Prop := f = .evt 0 ∨ f = .evt 1 ∨ f = .intv ∨ f = .miss ∨ ∃ p, f = .land p

theorem fifoHere_leaf (f : FifoId) (h : leafFifo f) : FifoHere .leaf src f := by
  rcases h with rfl | rfl | rfl | rfl | ⟨p, rfl⟩
  · exact ⟨rfl, rfl, rfl⟩
  · exact ⟨rfl, rfl, rfl⟩
  · exact ⟨rfl, rfl, rfl⟩
  · exact ⟨rfl, rfl, rfl⟩
  · fin_cases p <;> exact ⟨rfl, rfl, rfl⟩
/-- The wide registers of a Maryel's root, telemetry and other common pages are looked up in one list. -/
theorem wideAt_mary_common (off : Nat) (h : 0xA0000 ≤ off) (h' : off < 0xA0244) : wideAt .mary src off =
    (wideTime .mary ++ [(0x7C008, 2, fun _ => Config.chipUid.toNat)] ++ wideRoot .mary src ++ wideSel ++ widePtp 0 ++ widePtp 1 ++ wideProf src
      ++ wideCel ++ (fifosOf .mary).map (fifoView .mary)).find? (fun w => decide (w.1 ≤ off ∧ off < w.1 + 4 * w.2.1)) := by
  rw [wideAt, pageOf, maryPage, if_neg (by omega), if_neg (by omega), if_neg (by omega), if_neg (by omega)]
theorem fifoHere_mary (f : FifoId) (h : f = .exc ∨ f = .alarm ∨ f = .tel) : FifoHere .mary src f := by
  rcases h with rfl | rfl | rfl <;> refine ⟨?_, rfl, rfl⟩ <;>
    rw [wideAt_mary_common src _ (by decide) (by decide)] <;> simp only [List.find?_append] <;> rfl

/-! ## The read of a register by its offset -/

/-- A read at the leaf, below the root's image. -/
theorem State.readReg_leaf (off : Nat) (hs : srcAt .leaf src = true) (hl : s.held .leaf = false) (h0 : off ≠ 0xE054) (h1 : off < 0x10000) :
    s.readReg .leaf src off = s.readAt .leaf src off := by
  have he : src ≠ .engine := by
    rintro rfl
    exact absurd hs (by simp [srcAt])
  simp [State.readReg, hs, hl, he, h0, Nat.not_le.2 h1]
/-- A read of a host or a tunnel at the Maryel that the permission allows. -/
theorem State.readReg_mary (off : Nat) (hs : srcAt .mary src = true) (he : src ≠ .engine) (hl : s.held .mary = false)
    (hm : s.mayRead src off = true) (hr : rootPage off = false ∨ s.isRoot .mary = true) :
    s.readReg .mary src off = (s.cancelKey src).readAt .mary src off := by
  have hr' : (rootPage off && !s.isRoot .mary) = false := by rcases hr with h | h <;> simp [h]
  simp [State.readReg, hs, he, hl, hm, hr']

/-- The pop drops the FIFO's head. -/
theorem State.popped_fifo (f : FifoId) (l : List W32) : (s.popped k src f l).fifo k f = (s.fifo k f).drop 1 := by
  rw [State.popped, State.fifoDrop_fifo]
  cases k <;> cases f <;> rfl

theorem fifoTop_leaf (f : FifoId) (h : leafFifo f) : fifoTop f ≠ 0xE054 ∧ fifoTop f < 0x10000 := by
  rcases h with rfl | rfl | rfl | rfl | ⟨p, rfl⟩
  · decide
  · decide
  · decide
  · decide
  · revert p
    decide

/-- The read that pops a FIFO of the leaf. -/
theorem exec_fifoPop_leaf (f : FifoId) (l : List W32) (hs : srcAt .leaf src = true) (hl : s.held .leaf = false) (hf : leafFifo f)
    (hw : s.snapWord .leaf src (fifoAt f).1 = some l) : exec (.fifoPop .leaf src f) s =
      .next (if (s.snapWord .leaf src ((fifoAt f).1 + 1)).isSome then s.popped .leaf src f l else s.topAnswer .leaf f l) :=
  congrArg Host.Outcome.next ((s.readReg_leaf src _ hs hl (fifoTop_leaf f hf).1 (fifoTop_leaf f hf).2).trans
    (s.readAt_fifoTop .leaf src f l (fifoHere_leaf src f hf) hw))

/-- The read that pops a FIFO of the Maryel whose snapshot showed a record. -/
theorem exec_fifoPop_mary (f : FifoId) (l : List W32) (hs : srcAt .mary src = true) (he : src ≠ .engine) (hl : s.held .mary = false)
    (hf : f = .exc ∨ f = .alarm ∨ f = .tel) (hr : f = .tel ∨ s.isRoot .mary = true) (hm : s.mayRead src (fifoTop f) = true)
    (hw : s.snapWord .mary src (fifoAt f).1 = some l) (hd : (s.snapWord .mary src ((fifoAt f).1 + 1)).isSome = true) :
    exec (.fifoPop .mary src f) s = .next ((s.cancelKey src).popped .mary src f l) := by
  have hr' : rootPage (fifoTop f) = false ∨ s.isRoot .mary = true := hr.imp_left (fun h => by rw [h]; decide)
  have hx := (s.cancelKey src).readAt_fifoTop .mary src f l (fifoHere_mary src f hf) hw
  rw [if_pos (by exact hd)] at hx
  exact congrArg Host.Outcome.next ((s.readReg_mary src _ hs he hl hm hr').trans hx)

/-! ## The snapshot of a wide register -/

/-- Where a filter drops every snapshot under a key, the one put behind is the key's. -/
theorem find_snap_kept (base : Nat) (l : List W32) (m : List (Src × Nat × List W32)) (p : Src × Nat × List W32 → Bool)
    (hp : ∀ x, x.1 = src ∧ x.2.1 = base → p x = false) :
    ((m.filter p ++ [(src, base, l)]).find? (fun x => decide (x.1 = src ∧ x.2.1 = base))).map (fun x => x.2.2) = some l := by
  have hn : (m.filter p).find? (fun x => decide (x.1 = src ∧ x.2.1 = base)) = none := by
    rw [List.find?_eq_none]
    intro x hx h
    have hpx := hp x (of_decide_eq_true h)
    simp [hpx] at hx
  rw [List.find?_append, hn]
  simp

/-- A snapshot that is kept is read back. -/
theorem State.snapKeep_snapWord (base : Nat) (l : List W32) : (s.snapKeep k src base l).snapWord k src base = some l := by
  cases k <;> exact find_snap_kept src base l _ _ (fun x h => by simp [h])

/-- The low read of a wide register that is no FIFO: its low word answers and its words are the source's snapshot. -/
def State.lowRead (w : WideView) (off : Nat) : State :=
  (((s.snapDrop .leaf src (w.1 + 1)).snapKeep .leaf src w.1 (wideWords w.2.1 (w.2.2 s))).readAfter .leaf src off).answer .leaf
    ((wideWords w.2.1 (w.2.2 s)).getD 0 0) false

theorem State.readRun_leaf (off : Nat) (h : ∀ i, cellAt .leaf off = some i → (s.cell .leaf i).ts ≠ .test) : s.readRun .leaf off = s := by
  unfold State.readRun
  split
  · next i hi => simp [State.prbsRun, h i hi]
  · simp

theorem State.readAt_low (w : WideView) (off : Nat) (h4 : off % 4 = 0) (hw : wideAt .leaf src off = some w) (hb : w.1 = off)
    (hf : fifoOf .leaf w.1 = none) (ht : ∀ i, cellAt .leaf off = some i → (s.cell .leaf i).ts ≠ .test) :
    s.readAt .leaf src off = s.lowRead src w off := by
  have hi : (off - w.1) / 4 = 0 := by simp [hb]
  rw [State.readAt, hw]
  simp only [h4, ne_eq, not_true_eq_false, if_false, State.readWide, hi, if_true, s.readRun_leaf off ht, State.wideTake, reduceCtorEq, false_and, hf,
    State.lowRead]

theorem State.readAfter_leaf (off : Nat) : s.readAfter .leaf src off = s ∨
    off = 0x1030 ∧ s.readAfter .leaf src off = s.modTime .leaf (fun t => { t with snapUnread := false }) := by
  by_cases h : off = tOff .leaf 0x1030
  · exact .inr ⟨h, if_pos h⟩
  · exact .inl ((if_neg h).trans (if_neg (by simp)))

/-- What the low read answers, and what it keeps. -/
theorem State.lowRead_spec (w : WideView) (off : Nat) : (s.lowRead src w off).leafN.rdata = ((wideWords w.2.1 (w.2.2 s)).getD 0 0, false) ∧
    (s.lowRead src w off).snapWord .leaf src w.1 = some (wideWords w.2.1 (w.2.2 s)) ∧ (s.lowRead src w off).rc .leaf = s.rc .leaf ∧
    (s.lowRead src w off).ht .leaf = s.ht .leaf ∧ (s.lowRead src w off).leafN.regs = s.leafN.regs ∧
    (s.lowRead src w off).leafN.cells = s.leafN.cells ∧ (s.lowRead src w off).leaf = s.leaf ∧ SameMary s (s.lowRead src w off) := by
  have hk := (s.snapDrop .leaf src (w.1 + 1)).snapKeep_snapWord .leaf src w.1 (wideWords w.2.1 (w.2.2 s))
  unfold State.lowRead
  rcases State.readAfter_leaf ((s.snapDrop .leaf src (w.1 + 1)).snapKeep .leaf src w.1 (wideWords w.2.1 (w.2.2 s))) src off with h | ⟨-, h⟩ <;> rw [h]
  · exact ⟨rfl, hk, rfl, rfl, rfl, rfl, rfl, rfl, rfl, rfl⟩
  · exact ⟨rfl, hk, rfl, rfl, rfl, rfl, rfl, rfl, rfl, rfl⟩

/-- Settles O18: a FIFO's highest word pops it, and a wide register's lowest word takes its snapshot. -/
theorem registerReads : Obligations.RegisterReads := by
  refine ⟨?pop, ?popEmpty, ?popRoot, ?popTel, ?wideHt, ?wideAny⟩
  case pop =>
    intro s src f l hs hl hf hw hm
    refine .intro ((exec_fifoPop_leaf s src f l hs hl hf hw).trans (by rw [if_pos hm])) ⟨s.popped_fifo .leaf src f l, ?_⟩
    rcases hf with rfl | rfl | rfl | rfl | ⟨p, rfl⟩ <;> exact ⟨rfl, rfl, rfl, rfl, rfl, rfl⟩
  case popEmpty =>
    intro s src f l hs hl hf hw hm
    refine .intro ((exec_fifoPop_leaf s src f l hs hl hf hw).trans (by rw [hm])) ?_
    exact ⟨rfl, rfl, rfl, rfl, rfl, rfl, rfl⟩
  case popRoot =>
    intro s src f l hs he hl hf hr hm hw hd
    have hf' : f = .exc ∨ f = .alarm ∨ f = .tel := hf.imp_right .inl
    refine .intro (exec_fifoPop_mary s src f l hs he hl hf' (.inr hr) hm hw hd) ⟨(State.popped_fifo _ .mary src f l).trans ?_, ?_⟩
    · rcases hf with rfl | rfl <;> rfl
    · rcases hf with rfl | rfl <;> exact ⟨rfl, rfl, rfl, rfl, rfl, rfl⟩
  case popTel =>
    intro s src l hs he hl hm hw hd
    refine .intro (exec_fifoPop_mary s src .tel l hs he hl (.inr (.inr rfl)) (.inl rfl) hm hw hd) ⟨State.popped_fifo _ .mary src .tel l, ?_⟩
    exact ⟨rfl, rfl, rfl, rfl, rfl, rfl⟩
  case wideHt =>
    intro s src hs hl
    have hw : wideAt .leaf src 0x1020 = some (0x1020, 3, fun s => (htOf (s.ht .leaf)).toNat) := rfl
    have hr := (s.readReg_leaf src 0x1020 hs hl (by decide) (by decide)).trans
      (s.readAt_low src _ 0x1020 rfl hw rfl rfl (fun i hi => absurd hi (by simp [cellAt])))
    obtain ⟨hd, hsn, -, -, hregs, hcells, hleaf, hmary⟩ := s.lowRead_spec src (0x1020, 3, fun s => (htOf (s.ht .leaf)).toNat) 0x1020
    refine .intro (congrArg Host.Outcome.next hr) ⟨hd.trans ?_, hsn, ?_, hregs, hcells, hleaf, hmary⟩
    · simp [wideWords]
    · rfl
  case wideAny =>
    intro s src off w hs hl h4 h0 hw hb hf ht
    exact .intro (congrArg Host.Outcome.next ((s.readReg_leaf src _ hs hl h0 (off.isLt)).trans (s.readAt_low src w _ h4 hw hb hf ht)))
      (s.lowRead_spec src w _)

end Sys2Proof.Machine
end

section
/-! The host ports (R294, R295) and the register tunnel (R58). -/

namespace Sys2Proof.Machine

variable (s : State)

/-! ## A host's queue -/

/-- A port's update matters by its value at the present port alone. -/
theorem State.modPort_congr (h : Fin 4) (f g : HostPort → HostPort) (hfg : f (s.port h) = g (s.port h)) : s.modPort h f = s.modPort h g := by
  have hv : vmod s.mary.ports h.val f = vmod s.mary.ports h.val g := by
    unfold vmod
    rw [dif_pos h.isLt, dif_pos h.isLt]
    exact congrArg (fun x => s.mary.ports.set h.val x h.isLt) hfg
  exact congrArg (fun v => s.modMary (fun m => { m with ports := v })) hv

/-- A run of writes that the queue has room for joins it in order. -/
theorem HostPort.putWrites (a : BitVec 24) (l : List (W32 × Nat)) (p : HostPort) (h : p.writes + l.length ≤ 64) :
    l.foldl (fun p w => p.putWrite (frameOff a w.2) w.1) p =
      { p with queue := p.queue ++ l.map (fun w => HostAcc.write (frameOff a w.2) w.1) } := by
  induction l generalizing p with
  | nil => simp
  | cons w l ih =>
    rw [List.length_cons] at h
    have hroom : p.putWrite (frameOff a w.2) w.1 = { p with queue := p.queue ++ [.write (frameOff a w.2) w.1] } := if_pos (by omega)
    have hn : HostPort.writes { p with queue := p.queue ++ [.write (frameOff a w.2) w.1] } = p.writes + 1 := by
      simp [HostPort.writes]
      rfl
    rw [List.foldl_cons, hroom, ih _ (by omega)]
    simp

/-- The words of a write that the queue has room for join it. -/
theorem opHostWrite_of_room (h : Fin 4) (a : BitVec 24) (ws : List W32) (ha : addrOk a = true) (hr : (s.port h).writes + ws.length ≤ 64) :
    opHostWrite h a ws s = s.modPort h (fun p =>
      { p with queue := p.queue ++ ws.zipIdx.map (fun w => HostAcc.write (frameOff a w.2) w.1) }) := by
  rw [opHostWrite, if_neg (by simp [ha])]
  exact s.modPort_congr h _ _ (HostPort.putWrites a ws.zipIdx (s.port h) (by simpa using hr))
theorem opHostWrite_of_full (h : Fin 4) (a : BitVec 24) (w : W32) (ha : addrOk a = true) (hr : 64 ≤ (s.port h).writes) :
    opHostWrite h a [w] s = s.modPort h (fun p => { p with status := setBit p.status 4 }) := by
  rw [opHostWrite, if_neg (by simp [ha])]
  exact s.modPort_congr h _ _ (if_neg (Nat.not_lt.2 hr))
theorem opHostWrite_of_illegal (h : Fin 4) (a : BitVec 24) (ws : List W32) (ha : addrOk a = false) :
    opHostWrite h a ws s = s.modPort h (fun p => { p with status := setBit p.status 3 }) := if_pos (by simp [ha])

theorem opHostRead_of_legal (h : Fin 4) (a : BitVec 24) (n : Nat) (ha : addrOk a = true) : opHostRead h a n false s = s.modPort h (fun p =>
    { p with queue := p.queue ++ (List.range n).map (fun i => HostAcc.read (frameOff a i)) }) := by simp [opHostRead, ha]
theorem opHostRead_of_timeout (h : Fin 4) (a : BitVec 24) (n : Nat) (ha : addrOk a = true) :
    opHostRead h a n true s = s.bump .mary (0x7D070 + 4 * h.val) := by simp [opHostRead, ha]
theorem opHostRead_of_illegal (h : Fin 4) (a : BitVec 24) (n : Nat) (tmo : Bool) (ha : addrOk a = false) :
    opHostRead h a n tmo s = s.modPort h (fun p => { p with status := setBit p.status 3 }) := if_pos (by simp [ha])

/-- Settles O46: a write's words join the queue one by one while there is room, and a frame that is not legal is flagged. -/
theorem hostFrames : Obligations.HostFrames := by
  refine ⟨?write, ?writeFull, ?writeIllegal, ?write4, ?read, ?timeout, ?readIllegal, ?read4, ?status, ?unknown⟩
  case write => exact fun s h a ws p hl ha hr => exec_live rfl hl (opHostWrite_of_room s h a ws ha hr)
  case writeFull => exact fun s h a w p hl ha hr => exec_live rfl hl (opHostWrite_of_full s h a w ha hr)
  case writeIllegal => exact fun s h a ws p hl ha => exec_live rfl hl (opHostWrite_of_illegal s h a ws ha)
  case write4 => exact fun s h a ws p hl ha hr => exec_live rfl hl (opHostWrite_of_room s h a ws ha hr)
  case read => exact fun s h a n hl ha => exec_live rfl hl (opHostRead_of_legal s h a n ha)
  case timeout =>
    exact fun s h a n hl ha => ⟨exec_live rfl hl (opHostRead_of_timeout s h a n ha), exec_live rfl hl (opHostRead_of_timeout s h a n ha)⟩
  case readIllegal =>
    exact fun s h a n tmo hl ha => ⟨exec_live rfl hl (opHostRead_of_illegal s h a n tmo ha), exec_live rfl hl (opHostRead_of_illegal s h a n tmo ha)⟩
  case read4 => exact fun s h a n hl ha => exec_live rfl hl (opHostRead_of_legal s h a n ha)
  case status => exact fun s h hl => exec_live rfl hl (if_pos rfl)
  case unknown => exact fun s h op hl hop ha => exec_live rfl hl ((if_neg hop).trans (if_neg ha))

/-! ## The next access of a host -/

theorem opHostServe_none (h : s.nextHost = none) : opHostServe s = s := by simp [opHostServe, h]

/-! ## The register tunnel -/

theorem opTunRequest_of_route (k : NodeSel) (i : Nat) (m : TunnelMsg) (p : Nat) (ps : List Nat) (ha : (s.cell k i).ts = .active)
    (hr : (s.cell k i).cfg.role = 1) (hm : s.tunMine k m = false)
    (hp : (s.routePorts k m.maryel m.nodeId).filter (fun p => decide (p ∈ s.downCells k (s.cell k i).cfg.dom)) = p :: ps) :
    opTunRequest k i m s = s.sendC3 k p (tunnelToks false m) := by simp [opTunRequest, ha, hr, hm, hp]
theorem opTunRequest_of_notUp (k : NodeSel) (i : Nat) (m : TunnelMsg) (ha : (s.cell k i).ts = .active) (hr : (s.cell k i).cfg.role ≠ 1) :
    opTunRequest k i m s = s.dropRoute k i := by
  unfold opTunRequest
  dsimp only
  rw [if_neg (by simp [ha]), if_pos hr]
theorem opTunResponse_of_tag (i : Nat) (m : TunnelMsg) (t : W16 × Fin 4) (ha : (s.cell .mary i).ts = .active) (hr : (s.cell .mary i).cfg.role = 2)
    (ht : s.mary.tags.find? (fun u => decide (u.1 = m.tag)) = some t) : opTunResponse .mary i m s = s.modMary (fun y =>
      { y with tags := y.tags.filter (fun u => !decide (u.1 = m.tag)), tunResp := y.tunResp ++ [(t.2, m)] }) := by
  simp [opTunResponse, ha, hr, ht]
theorem opTunResponse_of_noTag (k : NodeSel) (i : Nat) (m : TunnelMsg) (ha : (s.cell k i).ts = .active) (hr : (s.cell k i).cfg.role = 2)
    (ht : k = .mary → s.mary.tags.find? (fun u => decide (u.1 = m.tag)) = none) : opTunResponse k i m s = s.passUpC3 k i (tunnelToks true m) := by
  cases k with
  | leaf => simp [opTunResponse, ha, hr]
  | mary => simp [opTunResponse, ha, hr, ht rfl]

theorem opHostPerm_of_keeps (src : Src) (i : Fin 4) (v : BitVec 20) (h : ((List.range 4).any (fun j =>
    if j = i.val then v.getLsbD 5 else (s.reg .mary (0x7D000 + 4 * j)).getLsbD 5)) = true) :
    opHostPerm src i v s = s.setReg .mary (0x7D000 + 4 * i.val) (v.zeroExtend 32) := if_pos h
theorem opHostPerm_of_none (src : Src) (i : Fin 4) (v : BitVec 20) (h : ((List.range 4).any (fun j =>
    if j = i.val then v.getLsbD 5 else (s.reg .mary (0x7D000 + 4 * j)).getLsbD 5)) = false) :
    opHostPerm src i v s = s.refuse .mary (offDeny src) := if_neg (by simp only [h]; simp)

/-- Settles O47: one access of one host is served at a time, a tunnel message goes by its route or its tag, and a permission stays with a host. -/
theorem hostServing : Obligations.HostServing := by
  refine ⟨?read, ?write, ?idle, ?request, ?requestNotUp, ?response, ?responseUp, ?perm, ?permNone⟩
  case read => exact fun s h off rest hl hn hq => exec_live rfl hl (by simp only [opHostServe, hn, hq])
  case write => exact fun s h off v rest hl hn hq => exec_live rfl hl (by simp only [opHostServe, hn, hq])
  case idle => exact fun s hl hn => exec_live rfl hl (opHostServe_none s hn)
  case request => exact fun s c m p ps hl ha hr hm hp => exec_live rfl hl (opTunRequest_of_route s _ _ m p ps ha hr hm hp)
  case requestNotUp => exact fun s c m hl ha hr => exec_live rfl hl (opTunRequest_of_notUp s _ _ m ha hr)
  case response =>
    intro s c m t hl hn ha hr ht
    have hc : exec (.regTunnelResponseRx c m) s = .next (s.live .mary (opTunResponse .mary c.idx m)) := by
      rw [← hn]
      rfl
    exact exec_live hc hl (opTunResponse_of_tag s _ m t ha hr ht)
  case responseUp => exact fun s c m hl ha hr ht => exec_live rfl hl (opTunResponse_of_noTag s _ _ m ha hr ht)
  case perm =>
    intro s src i v ht h
    exact exec_access_kept rfl ht (opHostPerm_of_keeps _ src i v (by simpa only [State.opened_reg] using h)) (by simp)
  case permNone =>
    intro s src i v ht h
    refine .of_access rfl ht (opHostPerm_of_none _ src i v (by simpa only [State.opened_reg] using h)) ?_
    simp [SameLeaf]

end Sys2Proof.Machine
end

section
/-! The bitstream port (R289, R362): the owner's buffer, what an apply does with what was staged, and the patches that wait. -/

namespace Sys2Proof.Machine

variable (s : State) (k : NodeSel) (src : Src)

/-! ## The operations, case by case -/

theorem opBsStart_of_free (h : (s.bs k).owner = none) :
    opBsStart k src s = s.modBs k (fun b => { b with buf := [], tooMany := false, owner := some src }) := by simp only [opBsStart, h]
theorem opBsStart_of_own (h : (s.bs k).owner = some src) :
    opBsStart k src s = s.modBs k (fun b => { b with buf := [], tooMany := false }) := by simp only [opBsStart, h, if_pos]
theorem opBsStart_of_other {x : Src} (h : (s.bs k).owner = some x) (hx : x ≠ src) : opBsStart k src s = s.refuse k (offAccErr k) := by
  simp only [opBsStart, h, if_neg hx]

/-- The source that starts owns an empty buffer. -/
theorem opBsStart_bs (h : (s.bs k).owner = none ∨ (s.bs k).owner = some src) :
    (opBsStart k src s).bs k = { s.bs k with buf := [], tooMany := false, owner := some src } := by
  rcases h with h | h
  · rw [opBsStart_of_free s k src h, State.modBs_bs]
  · rw [opBsStart_of_own s k src h, State.modBs_bs, ← h]

theorem opBsData_of_room (v : W32) (ho : (s.bs k).owner = some src) (h : (s.bs k).buf.length + 4 ≤ bsCap k) :
    opBsData k src v s = s.modBs k (fun b => { b with buf := b.buf ++ beBytes 4 v.toNat }) := by
  unfold opBsData
  rw [if_neg (by simp [ho]), if_neg (Nat.not_lt.2 h)]
theorem opBsData_of_full (v : W32) (ho : (s.bs k).owner = some src) (h : bsCap k < (s.bs k).buf.length + 4) :
    opBsData k src v s = s.modBs k (fun b => { b with tooMany := true }) := by
  unfold opBsData
  rw [if_neg (by simp [ho]), if_pos h]

theorem opBsApply_leaf_of_error {e : BsFail} (ho : (s.bs .leaf).owner = some src)
    (h : s.bsCheck (s.bs .leaf).buf (s.bs .leaf).tooMany { node := .leaf, full := false, sign := none } = .error e) :
    opBsApply .leaf src s = (s.modBs .leaf (fun b => { b with owner := none })).bsRefuse .leaf e := by
  unfold opBsApply
  rw [if_neg (by simp [ho])]
  simp only [h]

section
variable {secs : List BsSec} (ho : (s.bs .mary).owner = some src)
  (h : s.bsCheck (s.bs .mary).buf (s.bs .mary).tooMany { node := .mary, full := false, sign := s.signRule } = .ok secs)
include ho h

theorem opBsApply_mary_of_patch (hp : bsFlag (s.bs .mary).buf 1 = true) :
    opBsApply .mary src s = (s.modBs .mary (fun b => { b with owner := none })).modBs .mary
      (fun b => { b with patches := b.patches ++ [patchOf (s.bs .mary).buf secs (s.rc .mary)] }) := by
  unfold opBsApply
  rw [if_neg (by simp [ho])]
  simp only [h, hp, if_true]
theorem opBsApply_mary_of_whole (hp : bsFlag (s.bs .mary).buf 1 = false) (ha : s.allOff .mary = true) :
    opBsApply .mary src s = ((s.modBs .mary (fun b => { b with owner := none })).applyFull .mary (s.bs .mary).buf secs).modBs .mary
      (fun b => { b with done := true }) := by
  unfold opBsApply
  rw [if_neg (by simp [ho])]
  simp only [h, hp, ha, Bool.false_eq_true, Bool.not_true, if_false]

end

theorem opPatchApply_of_none (h : (s.bs k).patches = []) : opPatchApply k s = s := by simp only [opPatchApply, h]
theorem opPatchApply_of_some {p : Patch} {rest : List Patch} {e : W64} (h : (s.bs k).patches = p :: rest)
    (he : s.patchEdge k p.accepted = some e) :
    opPatchApply k s = ((s.advTo k e).modBs k (fun b => { b with patches := rest })).applyPatch k p := by simp only [opPatchApply, h, he]

/-! ## What loading and patching leave in the configuration -/

/-- The configuration that a whole bitstream loads. -/
def loadedCfg (k : NodeSel) (l : List Byte) (secs : List BsSec) : NodeCfg :=
  let c := confOf k secs
  let w := match secOf secs (match k with | .leaf => 2 | .mary => 1) with | some x => beField x.body 0 4 | none => 0
  { loaded := true, nodeId := BitVec.ofNat 20 (beField l 16 4), dom := c.dom, root := c.root, island := c.island,
    fixlat := match k with | .leaf => w.testBit 30 | .mary => w.testBit 29, serial := BitVec.ofNat 32 (beField l 20 4), routes := c.routes }

/-- The steps of a load after the configuration's own write keep it. -/
theorem State.applyFull_cfg (l : List Byte) (secs : List BsSec) : (s.applyFull k l secs).cfg k = loadedCfg k l secs := by
  have h : (s.applyFull k l secs).part .cfg = (s.modNode k (fun N => { N with cfg := loadedCfg k l secs })).part .cfg := by
    unfold State.applyFull
    dsimp only
    rw [State.putMembValid_part .cfg _ _ nofun, State.putDoms_part .cfg _ _ nofun nofun nofun]
    cases k <;> simp <;> rfl
  rw [State.cfg_of_part h k]
  cases k <;> rfl

/-- The steps of a patch after the configuration's own write keep it. -/
theorem State.applyPatch_cfg (p : Patch) :
    (s.applyPatch k p).cfg k = { s.cfg k with serial := p.serial, routes := p.routes.foldl routeChange (s.cfg k).routes } := by
  have h : (s.applyPatch k p).part .cfg = (s.modNode k (fun N => { N with cfg :=
      { N.cfg with serial := p.serial, routes := p.routes.foldl routeChange N.cfg.routes } })).part .cfg := by
    unfold State.applyPatch
    dsimp only
    cases k <;> simp
  rw [State.cfg_of_part h k]
  cases k <;> rfl
/-- A patch marks the port done and keeps the rest of it. -/
theorem State.applyPatch_bs (p : Patch) : (s.applyPatch k p).bs k = { s.bs k with done := true } := by
  unfold State.applyPatch
  dsimp only
  rw [State.modBs_bs, State.bs_of_part (s := s)]
  cases k <;> simp

@[simp] theorem State.bsRefuse_bs (e : BsFail) :
    (s.bsRefuse k e).bs k = { s.bs k with refd := true, why := BitVec.ofNat 4 e.1, where_ := e.2 } := by simp [State.bsRefuse]

/-- Settles O48: each operation's case; a load and a patch by what their steps keep. -/
theorem bitstreamPort : Obligations.BitstreamPort := by
  refine ⟨fun s n src ht ho => ?_, fun s n src x ht hx hne => ?_, fun s n src v ht ho h => ?_, fun s n src v ht ho h => ?_,
    fun s src e ht ho h => ?_, fun s src secs ht ho hp h => ?_, fun s src secs ht ho hp ha h => ?_, fun s hl hp => ?_,
    fun s n p rest e hl hp he => ?_⟩
  · refine .of_access rfl ht rfl ?_
    rw [State.noteRefused_bs, opBsStart_bs _ n src (by simpa using ho)]
    exact ⟨by simp, State.cellar_of_part (by simp), State.leaf_of_part (by simp)⟩
  · refine .of_access rfl ht (opBsStart_of_other _ n src (by simpa using hx) hne) ?_
    simp
  · refine .of_access rfl ht (opBsData_of_room _ n src v (by simpa using ho) (by simpa using h)) ?_
    simp
  · refine .of_access rfl ht (opBsData_of_full _ n src v (by simpa using ho) (by simpa using h)) ?_
    simp
  · refine .of_accessC_leaf rfl ht (opBsApply_leaf_of_error _ src (by simpa using ho) (by simpa using h)) ?_
    exact ⟨by simp, by simp, by simp, by simp, State.leaf_of_part (by simp), State.leafN_cfg_of_part (by simp), .of_part (by simp) (by simp) (by simp)⟩
  · refine .of_accessC rfl ht (opBsApply_mary_of_patch _ src (by simpa using ho) (by simpa using h) (by simpa using hp)) ?_
    exact ⟨by simp, by simp, State.maryN_cfg_of_part (by simp), by simp, by simp⟩
  · refine .of_accessC rfl ht (opBsApply_mary_of_whole _ src (by simpa using ho) (by simpa using h) (by simpa using hp) (by exact ha)) ?_
    have hc := State.applyFull_cfg ((s.opened .mary src).modBs .mary (fun b => { b with owner := none })) .mary (s.bs .mary).buf secs
    refine ⟨by simp, ?_⟩
    rw [State.noteRefused_maryN, State.opened_bs, State.maryN_cfg_of_part (State.convRefresh_part .cfg _ _ nofun nofun),
      State.maryN_cfg_of_part (State.modBs_part .cfg _ _ _ nofun nofun)]
    rw [State.cfg, State.onNode] at hc
    rw [hc]
    exact ⟨rfl, rfl, rfl, rfl, State.cellar_of_part (by simp), State.leaf_of_part (by simp)⟩
  · exact exec_liveC rfl hl (opPatchApply_of_none s .mary hp)
  · refine .of_liveC rfl hl (opPatchApply_of_some s n hp he) ?_
    simp [State.applyPatch_bs, State.applyPatch_cfg]

end Sys2Proof.Machine
end

section
/-! The profiles (R291 to R293): what is staged, checked, stored and applied. The selector's own work changes of the Maryel only the selector. -/

namespace Sys2Proof.Machine

/-! ## The Maryel without its selector -/

/-- The Maryel's own parts but the selector. -/
def MaryOnly.unsel (m : MaryOnly) : MaryOnly := { m with sel := .reset }

section
variable (s : State)

@[simp] theorem State.modSel_unsel (f : Selector → Selector) : (s.modSel f).mary.unsel = s.mary.unsel := rfl
@[simp] theorem State.modEnt_unsel (i : Nat) (f : RefEnt → RefEnt) : (s.modEnt i f).mary.unsel = s.mary.unsel := rfl
@[simp] theorem State.select_unsel (i : Nat) : (s.select i).mary.unsel = s.mary.unsel := by unfold State.select; split <;> simp
@[simp] theorem State.raiseRef_unsel (b : Nat) : (s.raiseRef b).mary.unsel = s.mary.unsel := rfl
@[simp] theorem State.noteLocked_unsel (i : Nat) : (s.noteLocked i).mary.unsel = s.mary.unsel := rfl
@[simp] theorem State.pendRootK_mary (k : Int) : (s.pendRootK k).mary = s.mary := State.mary_of_part (by simp)
@[simp] theorem State.enterHold_unsel (k : Int) : (s.enterHold k).mary.unsel = s.mary.unsel := by simp [State.enterHold]
@[simp] theorem State.enterLocked_unsel (i : Nat) : (s.enterLocked i).mary.unsel = s.mary.unsel := by simp [State.enterLocked]
@[simp] theorem State.switchTo_unsel (i : Nat) : (s.switchTo i).mary.unsel = s.mary.unsel := by simp [State.switchTo]
@[simp] theorem State.selFree_unsel : s.selFree.mary.unsel = s.mary.unsel := by
  unfold State.selFree
  dsimp only
  (repeat' split) <;> simp
@[simp] theorem State.selAct_unsel : s.selAct.mary.unsel = s.mary.unsel := by
  unfold State.selAct
  dsimp only
  (repeat' split) <;> simp
@[simp] theorem State.putTable_unsel (c : W32) (ws : List W64) : (s.putTable c ws).mary.unsel = s.mary.unsel :=
  State.each_same (fun u => u.mary.unsel) (List.range 8) (fun s i => s.modEnt i fun e => e.load (ws.getD i 0)) (fun _ _ => rfl) _
@[simp] theorem State.stageTable_mary (c : W32) (ws : List W64) : (s.stageTable c ws).mary = s.mary := State.mary_of_part (by simp)
@[simp] theorem State.loadTable_unsel (c : W32) (ws : List W64) : (s.loadTable c ws).mary.unsel = s.mary.unsel := by
  unfold State.loadTable
  dsimp only
  split <;> simp

end

section
variable (s : State) (src : Src)

@[simp] theorem State.putPerms_mary (l : List W32) : (s.putPerms l).mary = s.mary := State.mary_of_part (by simp)
@[simp] theorem State.clearPortEn_mary : s.clearPortEn.mary = s.mary := State.mary_of_part (by simp)
@[simp] theorem State.bsNote_mary (k : NodeSel) (e : BsFail) : (s.bsNote k e).mary = s.mary := State.mary_of_part (by simp)
@[simp] theorem State.applyFull_mary (k : NodeSel) (l : List Byte) (secs : List BsSec) : (s.applyFull k l secs).mary = s.mary :=
  State.mary_of_part (by simp)
/-- The active profile is not the selector's. -/
theorem State.profAct_of_unsel {s t : State} (h : t.mary.unsel = s.mary.unsel) : t.mary.profAct = s.mary.profAct := by
  have h' := congrArg MaryOnly.profAct h
  exact h'

/-- Loading a profile makes it the active one, whether it passes its check or not. -/
theorem State.loadProfile_profAct (n : Fin 4) : (s.loadProfile n).mary.profAct = n := by
  unfold State.loadProfile
  dsimp only
  split
  · split <;> simp
  · split <;> (refine (State.profAct_of_unsel (s := s.modMary (fun m => { m with profAct := n })) ?_).trans (by simp); simp)

/-! ## The operations, case by case -/

theorem opProfCheck_of_error {e : BsFail}
    (h : s.bsCheck ((s.srcBuf .mary src).profOf 0).bits ((s.srcBuf .mary src).full .prof)
      { node := .mary, full := true, sign := some (((s.srcBuf .mary src).profOf 0).sign, ((s.srcBuf .mary src).profOf 0).hash) } = .error e) :
    opProfCheck src s = s.bsNote .mary e := by simp only [opProfCheck, h]
theorem opProfCheck_of_ok {secs : List BsSec}
    (h : s.bsCheck ((s.srcBuf .mary src).profOf 0).bits ((s.srcBuf .mary src).full .prof)
      { node := .mary, full := true, sign := some (((s.srcBuf .mary src).profOf 0).sign, ((s.srcBuf .mary src).profOf 0).hash) } = .ok secs) :
    opProfCheck src s = s.modBs .mary (fun x => { x with why := 0, where_ := 0 }) := by simp only [opProfCheck, h]

theorem opProfCommit_of_none (n : Fin 4) (hf : (s.srcBuf .mary src).full .prof = false) (hp : s.mary.profPend = none) :
    ∃ p, opProfCommit src n s = s.modMary (fun m => { m with profPend := some p }) ∧ p.slot = n := by
  unfold opProfCommit
  simp only [hf, hp, Option.isSome_none, Bool.false_eq_true, if_false]
  exact ⟨_, rfl, rfl⟩
theorem opProfCommit_of_pend {p : ProfPend} (n : Fin 4) (hf : (s.srcBuf .mary src).full .prof = false) (hp : s.mary.profPend = some p) :
    opProfCommit src n s = s.refuse .mary 0xC0200 := by simp [opProfCommit, hf, hp]

theorem opProfCommitDone_profPend {p : ProfPend} (hp : s.mary.profPend = some p) (hs : s.cellar.supply = true) (hc : s.celClosed = false) :
    (opProfCommitDone s).mary.profPend = none := by
  simp only [opProfCommitDone, hp, hs, hc, Bool.not_true, Bool.or_self, Bool.false_eq_true, if_false]
  rfl

theorem opProfApply_of_off (n : Fin 4) (h : s.allOff .mary = true) : opProfApply n s = s.loadProfile n := if_pos h
theorem opProfApply_of_on (n : Fin 4) (h : s.allOff .mary = false) : opProfApply n s = s.refuse .mary 0xC0200 := if_neg (by simp [h])

/-- No staged word is left in the region of the profile registers. -/
theorem opProfClr_srcBuf : ((opProfClr src s).srcBuf .mary src).prof = [] ∧
    ∀ o, 0xC0000 ≤ o → o < 0xC0100 → ((opProfClr src s).srcBuf .mary src).staged o = 0 := by
  have hb : (opProfClr src s).srcBuf .mary src = _ := State.modSrcBuf_srcBuf_same (opBufClr .mary src .prof s) .mary src
    (fun b => { b with sel := b.sel.filter (fun p => !decide (0xC0000 ≤ p.1 ∧ p.1 < 0xC0100)) }) (by simp [State.srcBuf])
  rw [hb, opBufClr_srcBuf]
  refine ⟨rfl, fun o h1 h2 => ?_⟩
  have hn : ∀ l : List (Nat × W32), sget (l.filter (fun p => !decide (0xC0000 ≤ p.1 ∧ p.1 < 0xC0100))) o = none := fun l => by
    simp only [sget, Option.map_eq_none_iff, List.find?_eq_none, List.mem_filter]
    rintro ⟨a, v⟩ ⟨-, ha⟩ e
    simp only [Bool.not_eq_true', decide_eq_false_iff_not, beq_iff_eq] at ha e
    exact ha (e ▸ ⟨h1, h2⟩)
  simp only [SrcBuf.staged]
  rw [hn]
  rfl

end

/-- Settles O49: each operation's case; the profile loaded last is the active one. -/
theorem profiles : Obligations.Profiles := by
  refine ⟨fun s src v ht h => .intro rfl (State.access_append s .mary src _ .prof v ht h), fun s src ht => ?_, fun s src e ht h => ?_,
    fun s src secs ht h => ?_, fun s src n ht hf hp => ?_, fun s src n p ht hf hp => ?_, fun s p hl hp hs hc => ?_, fun s src n ht ha => ?_,
    fun s src n ht ha => ?_⟩
  · refine .of_access rfl ht rfl ?_
    obtain ⟨h1, h2⟩ := opProfClr_srcBuf (s.opened .mary src) src
    simp only [State.noteRefused_srcBuf]
    exact ⟨h1, h2, State.cellar_of_part (by simp), State.leaf_of_part (by simp)⟩
  · exact exec_access_kept rfl ht (opProfCheck_of_error _ src h) (by simp [State.bsNote])
  · exact exec_access_kept rfl ht (opProfCheck_of_ok _ src h) (by simp)
  · obtain ⟨p, h, hn⟩ := opProfCommit_of_none (s.opened .mary src) src n hf hp
    refine .of_access rfl ht h ?_
    refine ⟨⟨p, ?_, hn⟩, by simp, .of_part (by simp) (by simp)⟩
    rw [State.noteRefused_mary]; rfl
  · refine .of_access rfl ht (opProfCommit_of_pend (s.opened .mary src) src n hf hp) ?_
    refine ⟨?_, by simp, by simp, .of_part (by simp) (by simp)⟩
    rw [State.noteRefused_mary, State.refuse_mary]; exact hp
  · refine .of_live rfl hl rfl ⟨opProfCommitDone_profPend s hp hs hc, State.leaf_of_part (by simp)⟩
  · refine .of_accessC rfl ht (opProfApply_of_off _ n ha) ?_
    refine ⟨?_, State.cellar_of_part (by simp), State.leaf_of_part (by simp)⟩
    rw [State.noteRefused_mary, State.convRefresh_mary]; exact State.loadProfile_profAct _ n
  · refine .of_accessC rfl ht (opProfApply_of_on _ n ha) ?_
    refine ⟨?_, ?_, by simp⟩
    · rw [State.noteRefused_mary, State.convRefresh_mary, State.refuse_mary]; rfl
    · rw [State.noteRefused_count, State.convRefresh_count_other _ _ _ _ (by decide)]; simp

end Sys2Proof.Machine
end

section
/-! The management engine and the licences (R299 to R302). -/

namespace Sys2Proof.Machine

section
variable (s : State) (src : Src)

@[simp] theorem State.celPuts_mary (l : List (Nat × W64)) : (s.celPuts l).mary = s.mary := State.mary_of_part (by simp)
@[simp] theorem State.histPut_mary (h i : Nat) (v : W64) : (s.histPut h i v).mary = s.mary := State.mary_of_part (by simp)
@[simp] theorem State.modMe_mary (f : Me → Me) : (s.modMe f).mary = { s.mary with me := f s.mary.me } := rfl
@[simp] theorem State.modMe_wasRefused (f : Me → Me) (j : NodeSel) : (s.modMe f).wasRefused j = s.wasRefused j := by cases j <;> rfl
@[simp] theorem State.opened_me (k : NodeSel) : (s.opened k src).mary.me = s.mary.me := by cases k <;> rfl
@[simp] theorem State.noteRefused_me (k : NodeSel) : (s.noteRefused k src).mary.me = s.mary.me := by rw [State.noteRefused_mary]

/-- Once an outage is filed one is owed, and but for the mark the Maryel's parts are as before. -/
theorem State.fileOutage_mary : s.fileOutage.mary = { s.mary with me := { s.mary.me with outage := true } } := by
  unfold State.fileOutage
  split
  · next h => rw [← h]
  · simp

/-! ## The operations, case by case -/

theorem opMeLoad_of_idle (v : W32) (h : s.mary.me.state ≠ 1) : opMeLoad v s = s.modMe (fun m => { m with buf := m.buf ++ [v] }) := if_neg h
theorem opMeLoad_of_runs (v : W32) (h : s.mary.me.state = 1) : opMeLoad v s = s.refuse .mary 0xB0014 := if_pos h

/-- The bytes in the engine's buffer. -/
def Me.bytes (m : Me) : List Byte := m.buf.flatMap (fun w => beBytes 4 w.toNat)

theorem opMeStart_of_short (hr : s.mary.me.state ≠ 1) (h : s.mary.me.bytes.length ≤ 96) : opMeStart s = s.refuse .mary 0xB0014 := by
  unfold Me.bytes at h
  unfold opMeStart
  dsimp only
  rw [if_neg hr, if_pos (by rw [decide_eq_true h, Bool.true_or])]
theorem opMeStart_of_signed (hr : s.mary.me.state ≠ 1) (h : 96 < s.mary.me.bytes.length)
    (hs : Config.signatureOk (s.mary.me.bytes.take (s.mary.me.bytes.length - 96)) (s.mary.me.bytes.drop (s.mary.me.bytes.length - 96)) 1 = true) :
    opMeStart s = ((s.modMe (fun m => { m.forget with state := 1 })).modMary (fun m => { m with tel := [] })).fileOutage := by
  unfold Me.bytes at h hs
  unfold opMeStart
  dsimp only
  rw [if_neg hr, if_neg (by simp only [hs, Bool.not_true, Bool.or_false, decide_eq_true_eq]; omega)]

theorem opLicInstall_of_good (h : s.licWhyOf (s.srcBuf .mary src).licOf = 0) : ∃ l,
    opLicInstall src s = (s.celPuts l).modMary (fun m => { m with licPend := true }) := ⟨_, if_neg (by simp [h])⟩
theorem opLicInstall_of_bad (h : s.licWhyOf (s.srcBuf .mary src).licOf ≠ 0) :
    opLicInstall src s = (s.refuse .mary 0xD0200).modMary (fun m => { m with licWhy := s.licWhyOf (s.srcBuf .mary src).licOf }) := if_pos h

end

/-- Settles O50: each operation's case. -/
theorem engineAndLicences : Obligations.EngineAndLicences := by
  refine ⟨fun s src ht => exec_access_kept rfl ht rfl (by simp),
    fun s src v ht h => exec_access_kept rfl ht (opMeLoad_of_idle _ v h) (by simp), fun s src v ht h => ?_, fun s src ht hr hn hs => ?_,
    fun s src ht hr hn => ?_, fun s hl h => exec_live rfl hl (if_pos h), fun s src ht h => ?_, fun s src ht h => ?_,
    fun s src k ht h => exec_access_kept rfl ht (if_pos (by rw [← h]; rfl)) (by simp)⟩
  · refine .of_access rfl ht (opMeLoad_of_runs _ v h) ?_
    exact ⟨by simp, by simp, by simp, .of_part (by simp) (by simp)⟩
  · refine .of_access rfl ht (opMeStart_of_signed _ hr hn hs) ?_
    rw [State.noteRefused_mary, State.fileOutage_mary]
    exact ⟨rfl, rfl, rfl, State.leaf_of_part (by simp)⟩
  · refine .of_access rfl ht (opMeStart_of_short _ hr hn) ?_
    exact ⟨by simp, by simp, by simp, .of_part (by simp) (by simp)⟩
  · obtain ⟨l, hl⟩ := opLicInstall_of_good (s.opened .mary src) src h
    refine .of_access rfl ht hl ?_
    rw [State.noteRefused_mary]
    rw [State.modMary_mary, State.celPuts_mary]
    exact ⟨rfl, rfl, State.leaf_of_part (by simp)⟩
  · refine .of_access rfl ht (opLicInstall_of_bad _ src h) ?_
    rw [State.noteRefused_mary]
    exact ⟨rfl, by simp, by simp, .of_part (by simp) (by simp)⟩

end Sys2Proof.Machine
end

section
/-! The resets of a cell, a group and a quadrant (ch. 16, Table 16.3). -/

namespace Sys2Proof.Machine

section
variable (s : State) (k : NodeSel)

theorem State.cell_of_part {s t : State} (h : t.part .cells = s.part .cells) (j : NodeSel) (i : Nat) : t.cell j i = s.cell j i := by
  cases j
  · exact congrArg (fun v => vget v.1 i .reset) h
  · exact congrArg (fun v => vget v.2 i .reset) h
@[simp] theorem State.bumpBy_cell (off n : Nat) (j : NodeSel) (i : Nat) : (s.bumpBy k off n).cell j i = s.cell j i :=
  State.cell_of_part (by simp) j i

/-! ## Falling and starting -/

theorem Cell.ts_ne_active {c : Cell} (h : c.aligned = false) : c.ts ≠ .active := fun ha => by simp [Cell.aligned, ha] at h

/-- A cell that is not aligned falls alone: no domain and no stamp of the node is touched. -/
theorem State.cellTo_of_unaligned (i : Nat) (st : TState) (f : Cell → Cell) (h : (s.cell k i).aligned = false) :
    s.cellTo k i st f = s.modCell k i (fun c => f (c.fallTo st)) := by
  simp [State.cellTo, h, Cell.ts_ne_active h]

theorem Cell.start_of_ready {c : Cell} (rc : W64) (hts : c.ts = .off) (he : c.portEn = true) (hr : c.cfg.role ≠ 0) (hm : c.mute = 0)
    (hd : c.dark = false) : c.start rc = { c with ts := .cdr, cdrSince := rc } := if_pos ⟨hts, he, hr, hm, by simp [hd]⟩
theorem Cell.start_of_not_off {c : Cell} (rc : W64) (h : c.ts ≠ .off) : c.start rc = c := if_neg (fun hc => h hc.1)
/-- A start changes the training state and the edge that CDR counts from alone. -/
theorem Cell.start_keeps (c : Cell) (rc : W64) : ∃ st e, c.start rc = { c with ts := st, cdrSince := e } := by
  unfold Cell.start
  split
  · exact ⟨_, _, rfl⟩
  · exact ⟨c.ts, c.cdrSince, rfl⟩

/-! ## A cell fresh from its reset -/

/-- A cell as its reset leaves it, ready to train or in CDR. -/
structure Cell.Fresh (c : Cell) : Prop where
  mute : c.mute = 0
  err : c.err = 0
  retry : c.retry = .reset
  barTx : c.barTx = 6
  barRx : c.barRx = 6
  portEn : c.portEn = true
  role : c.cfg.role ≠ 0
  dark : c.dark = false
  ts : c.ts = .off ∨ c.ts = .cdr

theorem Cell.Fresh.start {c : Cell} (h : c.Fresh) (rc : W64) : (c.start rc).Fresh := by
  rcases h.ts with ht | ht
  · rw [Cell.start_of_ready rc ht h.portEn h.role h.mute h.dark]
    exact { h with ts := .inr rfl }
  · rw [Cell.start_of_not_off rc (by simp [ht])]
    exact h
theorem Cell.Fresh.start_ts {c : Cell} (h : c.Fresh) (rc : W64) : (c.start rc).ts = .cdr := by
  rcases h.ts with ht | ht
  · rw [Cell.start_of_ready rc ht h.portEn h.role h.mute h.dark]
  · rw [Cell.start_of_not_off rc (by simp [ht])]
    exact ht
/-- Lifting a silence from a cell that has none keeps it fresh. -/
theorem Cell.Fresh.unmute {c : Cell} (h : c.Fresh) (why : Nat) (rc : W64) : (Cell.start { c with mute := clrBit c.mute why } rc).Fresh :=
  Cell.Fresh.start (c := { c with mute := clrBit c.mute why })
    { mute := by simp [h.mute, clrBit], err := h.err, retry := h.retry, barTx := h.barTx, barRx := h.barRx, portEn := h.portEn, role := h.role,
      dark := h.dark, ts := h.ts } rc

/-- What holds of a cell and is kept when it is changed holds after another cell is changed. -/
theorem State.modCell_cell_keeps (P : Cell → Prop) (i j : Nat) (f : Cell → Cell) (hj : j < cellCount k) (hf : ∀ c, P c → P (f c))
    (h : P (s.cell k j)) : P ((s.modCell k i f).cell k j) := by
  by_cases e : i = j
  · subst e
    rw [State.modCell_cell_same s k i f hj]
    exact hf _ h
  · rwa [State.modCell_cell_other s k i j f e]

theorem State.unmuteCells_fresh (why : Nat) (l : List Nat) (j : Nat) (hj : j < cellCount k) (h : (s.cell k j).Fresh) :
    ((s.unmuteCells k why l).cell k j).Fresh :=
  State.each_keeps (fun t => (t.cell k j).Fresh) l _
    (fun s i hs => s.modCell_cell_keeps k _ i j _ hj (fun _ hc => hc.unmute why (s.rc k)) hs) s h

theorem State.groupOne_fresh (c j : Nat) (hj : j < cellCount .mary) (h : (s.cell .mary j).Fresh) : ((s.groupOne c).cell .mary j).Fresh := by
  unfold State.groupOne
  dsimp only
  split
  · exact State.unmuteCells_fresh _ .mary 1 _ j hj (by simpa using h)
  · simpa using h

/-- The reset of an unaligned cell that may train leaves it fresh. -/
theorem State.cellReset_fresh (i : Nat) (hi : i < cellCount k) (hm : clrBit (s.cell k i).mute 0 = 0) (he : (s.cell k i).portEn = true)
    (hr : (s.cell k i).cfg.role ≠ 0) (hd : (s.cell k i).dark = false) (ha : (s.cell k i).aligned = false) : ((s.cellReset k i).cell k i).Fresh := by
  unfold State.cellReset
  rw [State.cellTo_of_unaligned s k i .off id ha]
  simp only [State.bumpBy_cell, State.modCell_cell_same _ k i _ hi]
  exact ⟨hm, rfl, rfl, rfl, rfl, he, hr, hd, .inl rfl⟩

theorem State.cellReset_leaf (i : Nat) (ha : (s.cell k i).aligned = false) : (s.cellReset k i).leaf = s.leaf := by
  unfold State.cellReset
  rw [State.cellTo_of_unaligned s k i .off id ha]
  exact State.leaf_of_part (by simp)
@[simp] theorem State.groupOne_leaf (c : Nat) : (s.groupOne c).leaf = s.leaf := State.leaf_of_part (by simp)
theorem opCellRst_cell (c : Nat) (hc : c < cellCount .mary) : (opCellRst c s).cell .mary c =
    (((s.cellReset .mary c).groupOne c).cell .mary c).start (((s.cellReset .mary c).groupOne c).rc .mary) :=
  State.modCell_cell_same _ .mary c _ hc

/-! ## Groups and quadrants -/

@[simp] theorem State.modGroup_group_same (g : Nat) (f : Group → Group) (hg : g < 20) : (s.modGroup g f).group g = f (s.group g) := by
  simp [State.modGroup, State.group, hg]
@[simp] theorem State.modQuad_quad_same (q : Nat) (f : Quad → Quad) (hq : q < 4) : (s.modQuad q f).quad q = f (s.quad q) := by
  simp [State.modQuad, State.quad, hq]
@[simp] theorem State.unmuteCells_mary (why : Nat) (l : List Nat) : (s.unmuteCells k why l).mary = s.mary := State.mary_of_part (by simp)

theorem State.group_of_mary {s t : State} (h : t.mary = s.mary) (g : Nat) : t.group g = s.group g := by
  unfold State.group; rw [h]
theorem State.quad_of_mary {s t : State} (h : t.mary = s.mary) (q : Nat) : t.quad q = s.quad q := by
  unfold State.quad; rw [h]
@[simp] theorem State.noteRefused_group (src : Src) (g : Nat) : (s.noteRefused k src).group g = s.group g := by
  unfold State.group; rw [State.noteRefused_mary]
@[simp] theorem State.noteRefused_quad (src : Src) (q : Nat) : (s.noteRefused k src).quad q = s.quad q := by
  unfold State.quad; rw [State.noteRefused_mary]
@[simp] theorem State.convRefresh_group (g : Nat) : (s.convRefresh k).group g = s.group g := State.group_of_mary (by simp) g
@[simp] theorem State.convRefresh_quad (q : Nat) : (s.convRefresh k).quad q = s.quad q := State.quad_of_mary (by simp) q

theorem opGrpRst_group (g : Nat) (hg : g < 20) : (opGrpRst g s).group g = { ch0 := .reset, err := 0, left := 0 } := by
  unfold opGrpRst State.groupReset
  dsimp only
  rw [State.group_of_mary (State.unmuteCells_mary _ _ _ _), State.group_of_mary (State.unmuteCells_mary _ _ _ _),
    State.group_of_mary (State.modNode_mary _ _ _), State.modGroup_group_same _ _ _ hg]

theorem State.quadReset_quad (q : Nat) (hq : q < 4) : ((s.quadReset q).quad q).err = 0 := by
  unfold State.quadReset
  dsimp only
  rw [State.quad_of_mary (State.modNode_mary _ _ _), State.modQuad_quad_same _ _ _ hq]
theorem opQuadRst_write_quad (q : Nat) (hq : q < 4) : ((opQuadRst false q s).quad q).err = 0 := by
  unfold opQuadRst
  simp only [Bool.false_eq_true, if_false]
  rw [State.quad_of_mary (State.unmuteCells_mary _ _ _ _), State.quad_of_mary (State.unmuteCells_mary _ _ _ _), State.quadReset_quad s q hq]
theorem opQuadRst_pin_quad (q : Nat) (hq : q < 4) : ((opQuadRst true q s).quad q).held = true := by
  unfold opQuadRst
  simp only [if_true]
  rw [State.quad_of_mary (State.each_same State.mary _ _ (fun _ _ => by simp) _), State.modQuad_quad_same _ _ _ hq]
theorem opQuadHeld_quad (q : Nat) (hq : q < 4) : ((opQuadHeld q s).quad q).held = true := by
  unfold opQuadHeld
  rw [State.quad_of_mary (State.each_same State.mary _ _ (fun _ _ => by simp) _), State.modQuad_quad_same _ _ _ hq]

end

/-- Settles O44: a reset cell stays fresh while its group and then it itself starts; a group and a quadrant by their last writes. -/
theorem partResets : Obligations.PartResets := by
  refine ⟨fun s src c ht hm he hr hd ha _ => ?_, fun s src g ht => ?_, fun s src q ht => ?_, fun s q => ?_, fun s q h => ?_, fun s => rfl⟩
  · refine .of_accessC rfl ht rfl ?_
    have hc : c.val < cellCount .mary := c.isLt
    have hf := State.groupOne_fresh _ c.val c.val hc
      (State.cellReset_fresh (s.opened .mary src) .mary c.val hc (by simpa using hm) (by simpa using he) (by simpa using hr) (by simpa using hd)
        (by simpa using ha))
    rw [State.noteRefused_cell, State.convRefresh_cell, opCellRst_cell _ _ hc]
    exact ⟨hf.start_ts _, (hf.start _).mute, (hf.start _).err, (hf.start _).retry, (hf.start _).barTx, (hf.start _).barRx,
      by simp [opCellRst, State.cellReset_leaf, ha], State.cellar_of_part (by simp)⟩
  · refine .of_accessC rfl ht rfl ?_
    simpa using opGrpRst_group _ g.val g.isLt
  · refine .of_accessC rfl ht rfl ?_
    simpa using opQuadRst_write_quad _ q.val q.isLt
  · refine .intro rfl ?_
    split
    · exact opQuadHeld_quad s q.val q.isLt
    · next hl =>
      rw [State.liveC_of s .mary _ (by simpa using hl), State.convRefresh_quad]
      exact opQuadRst_pin_quad s q.val q.isLt
  · refine .intro rfl ?_
    have hq : opQuadRelease q.val s = (s.modQuad q.val (fun x => { x with held := false })).unmuteCells .mary 4 (quadCells q.val) :=
      if_neg (by simp [h])
    rw [hq]
    refine ⟨?_, ?_, .of_part (by simp) (by simp)⟩ <;>
      rw [State.quad_of_mary (State.unmuteCells_mary _ _ _ _), State.modQuad_quad_same _ _ _ q.isLt]

end Sys2Proof.Machine
end

section
/-! Faults and what they silence (R267), and the return of dark cells. -/

namespace Sys2Proof.Machine

section
variable (s : State) (k : NodeSel)

/-- Equal fault parts say that each cell has the same silences and fault bits. -/
theorem State.faults_of_part {s t : State} (h : t.part .faults = s.part .faults) (j : NodeSel) (i : Nat) :
    (t.cell j i).mute = (s.cell j i).mute ∧ (t.cell j i).err = (s.cell j i).err := Prod.ext_iff.1 (congrFun (congrFun h j) i)

/-- The silences and fault bits of a cell that falls are those of `f` of the cell: nothing else of the fall touches them. -/
theorem State.cellTo_faults (i : Nat) (st : TState) (f : Cell → Cell) (hi : i < cellCount k) (P : BitVec 5 → BitVec 3 → Prop)
    (hf : ∀ c, c.mute = (s.cell k i).mute → c.err = (s.cell k i).err → P (f c).mute (f c).err) :
    P ((s.cellTo k i st f).cell k i).mute ((s.cellTo k i st f).cell k i).err := by
  unfold State.cellTo
  dsimp only
  generalize hs0 : (if (s.cell k i).aligned = true then s.voidAll k i else s) = s0
  have h0 := State.faults_of_part (s := s) (t := s0) (by rw [← hs0]; split <;> simp) k i
  generalize hg : (fun c => f (if (s.cell k i).ts = .active then (Cell.fallTo c st).leave (s.rc k) (s.htNs k) else Cell.fallTo c st)) = g
  have hP : P ((s0.modCell k i g).cell k i).mute ((s0.modCell k i g).cell k i).err := by
    rw [State.modCell_cell_same s0 k i g hi, ← hg]
    refine hf _ ?_ ?_
    · split <;> exact h0.1
    · split <;> exact h0.2
  generalize s0.modCell k i g = u at hP
  rw [(State.faults_of_part (s := u) ?_ k i).1, (State.faults_of_part (s := u) ?_ k i).2]
  · exact hP
  · simp
  · simp

theorem State.muteCell_faults (why i : Nat) (hi : i < cellCount k) :
    ((s.muteCell k why i).cell k i).mute = setBit (s.cell k i).mute why ∧ ((s.muteCell k why i).cell k i).err = (s.cell k i).err :=
  s.cellTo_faults k i .off _ hi (fun m e => m = setBit (s.cell k i).mute why ∧ e = (s.cell k i).err) (fun _ hm he => ⟨by rw [hm], he⟩)

theorem State.leafErr_of_part {s t : State} (h : t.part .leafErr = s.part .leafErr) : t.leaf.err = s.leaf.err ∧ t.leaf.fatal = s.leaf.fatal :=
  Prod.ext_iff.1 h
theorem State.group_of_part {s t : State} (h : t.part .maryErr = s.part .maryErr) (g : Nat) : t.group g = s.group g := by
  unfold State.group; exact congrArg (vget · g _) (Prod.ext_iff.1 h).1
theorem State.quad_of_part {s t : State} (h : t.part .maryErr = s.part .maryErr) (q : Nat) : t.quad q = s.quad q := by
  unfold State.quad; exact congrArg (vget · q _) (Prod.ext_iff.1 (Prod.ext_iff.1 h).2).1
theorem State.chip_of_part {s t : State} (h : t.part .maryErr = s.part .maryErr) :
    t.mary.chipErr = s.mary.chipErr ∧ t.mary.silent = s.mary.silent :=
  Prod.ext_iff.1 (Prod.ext_iff.1 (Prod.ext_iff.1 h).2).2

variable (why i : Nat) (l : List Nat)
@[simp] theorem State.muteCell_leaf_err : (s.muteCell k why i).leaf.err = s.leaf.err := (State.leafErr_of_part (by simp)).1
@[simp] theorem State.muteCells_leaf_err : (s.muteCells k why l).leaf.err = s.leaf.err := (State.leafErr_of_part (by simp)).1
@[simp] theorem State.muteCells_leaf_fatal : (s.muteCells k why l).leaf.fatal = s.leaf.fatal := (State.leafErr_of_part (by simp)).2
@[simp] theorem State.muteCells_group (g : Nat) : (s.muteCells k why l).group g = s.group g := State.group_of_part (by simp) g
@[simp] theorem State.muteCells_quad (q : Nat) : (s.muteCells k why l).quad q = s.quad q := State.quad_of_part (by simp) q

/-! ## Dark cells -/

/-- What each round of a loop establishes for its element, and every round keeps, holds of all elements afterwards. -/
theorem State.each_all {α : Type} (Q : α → State → Prop) (l : List α) (f : State → α → State) (h1 : ∀ s a, Q a (f s a))
    (h2 : ∀ s a b, Q b s → Q b (f s a)) (s : State) : ∀ a ∈ l, Q a (s.each l f) := by
  induction l generalizing s with
  | nil => nofun
  | cons x xs ih =>
    intro a ha
    rcases List.mem_cons.1 ha with rfl | ha
    · exact State.each_keeps (Q a) xs f (fun s b hs => h2 s b a hs) _ (h1 s a)
    · exact ih (f s x) a ha

theorem Cell.start_dark (c : Cell) (rc : W64) : (c.start rc).dark = c.dark := by
  obtain ⟨st, e, h⟩ := c.start_keeps rc
  rw [h]
theorem State.cell_of_ge (i : Nat) (h : cellCount k ≤ i) : s.cell k i = .reset := by
  cases k <;> simp only [State.cell, State.onNode, vget, cellCount] at h ⊢ <;> rw [Vector.getElem?_eq_none h] <;> rfl

/-- A cell of the loop is lit, and stays lit when another is. -/
theorem opDarkReturn_dark (d : Dom) (hu : s.upActive k d = true) (ht : ((s.time k).dom d).st = .track) :
    ∀ i ∈ s.downCells k d, ((opDarkReturn k d s).cell k i).dark = false := by
  have hl : ∀ (rc : W64) (c : Cell), (if c.dark = true then Cell.start { c with dark := false } rc else c).dark = false := fun rc c => by
    split
    · rw [Cell.start_dark]
    · next h => simpa using h
  unfold opDarkReturn
  rw [if_neg (by simp [hu, ht])]
  refine State.each_all (fun i t => (t.cell k i).dark = false) _ _ (fun s i => ?_) (fun s i j h => ?_) s
  · by_cases hi : i < cellCount k
    · rw [State.modCell_cell_same s k i _ hi]; exact hl _ _
    · rw [State.cell_of_ge _ k i (Nat.not_lt.1 hi)]; rfl
  · by_cases hj : j < cellCount k
    · exact State.modCell_cell_keeps s k (fun c => c.dark = false) i j _ hj (fun c _ => hl _ c) h
    · rw [State.cell_of_ge _ k j (Nat.not_lt.1 hj)]; rfl

end

/-- The silencing, the miss and the marks of a fatal leaf keep its fault register. -/
theorem opLeafFatal_leafErr (s : State) : (opLeafFatal s).leaf.fatal = true ∧ (opLeafFatal s).leaf.err = setBit s.leaf.err 8 := by
  have h : ∀ u : State, u.fatalMiss.sendMarks.part .leafErr = u.part .leafErr := fun u => by simp
  obtain ⟨he, hf⟩ := State.leafErr_of_part (h (State.muteCells _ .leaf 3 (List.range 6)))
  unfold opLeafFatal
  dsimp only
  rw [he, hf, State.muteCells_leaf_err, State.muteCells_leaf_fatal]
  exact ⟨rfl, rfl⟩

/-- Settles O45: a fault's own write, kept by the silencing that follows it; the return of dark cells cell by cell. -/
theorem faultsSilence : Obligations.FaultsSilence := by
  refine ⟨fun s c hl => ?_, fun s c f hl => ?_, fun s g f hl => ?_, fun s q f hl => ?_, fun s f hl => ?_, fun s hl => ?_,
    fun s k d hl hu ht => .of_live rfl hl rfl (opDarkReturn_dark s k d hu ht)⟩
  · refine .of_liveC rfl hl rfl ?_
    have hc := State.muteCell_faults (s.modLeaf (fun l => { l with err := setBit l.err c.val })) .leaf 0 c.val c.isLt
    rw [State.convRefresh_cell, State.convRefresh_leaf]
    exact ⟨hc.1, State.muteCell_leaf_err _ .leaf 0 c.val⟩
  · refine .of_liveC rfl hl rfl ?_
    have hc := State.muteCell_faults ((s.modCell .mary c.val (fun x => { x with err := setBit x.err f.bit })).bump .mary 0x7C03C) .mary 0 c.val c.isLt
    have hcc : c.val < cellCount .mary := c.isLt
    rw [State.convRefresh_cell]
    exact ⟨by simpa [opCellFault, hcc] using hc.1, by simpa [opCellFault, hcc] using hc.2⟩
  · refine .of_liveC rfl hl rfl ?_
    rw [State.convRefresh_group, opGroupFault, State.muteCells_group, State.modGroup_group_same _ _ _ g.isLt]
    exact ⟨rfl, rfl⟩
  · refine .of_liveC rfl hl rfl ?_
    rw [State.convRefresh_quad, opQuadFault, State.muteCells_quad, State.modQuad_quad_same _ _ _ q.isLt]
    exact ⟨rfl, rfl⟩
  · refine .of_liveC rfl hl rfl ?_
    rw [State.convRefresh_mary]
    exact State.chip_of_part (s := s.modMary (fun m => { m with chipErr := setBit m.chipErr f.bit, silent := true })) (by simp [opChipFault])
  · refine .of_liveC rfl hl rfl ?_
    rw [State.convRefresh_leaf]
    exact opLeafFatal_leafErr s

end Sys2Proof.Machine
end

section
/-! The stitch calculator, the fingerprint and STEP_HWM of a leaf (R205, R219 to R221, R380). -/

namespace Sys2Proof.Machine

section
variable (s : State)

theorem opStitchGo_of_key {key : BitVec 128} (h : (if s.fld .leaf 0xC020 0 0 = 0 then s.leaf.seed.key else some s.leaf.seed.stitchKey) = some key) :
    opStitchGo s = s.modSeed (fun x => { x with
      busy := some (stitch key (s.reg64 .leaf 0xC010) ((s.reg .leaf 0xC018).extractLsb' 0 20) ((s.reg .leaf 0xC01C).extractLsb' 0 12), s.rc .leaf) }) := by
  unfold opStitchGo
  dsimp only
  rw [h]
theorem opStitchGo_of_no_key (hc : s.fld .leaf 0xC020 0 0 = 0) (hk : s.leaf.seed.key = none) :
    opStitchGo s = s.modSeed (fun x => { x with err := true }) := by
  unfold opStitchGo
  dsimp only
  rw [if_pos hc, hk]
theorem opStitchDone_of_busy {r : BitVec 128 × W64} (h : s.leaf.seed.busy = some r) :
    opStitchDone s = s.modSeed (fun x => { x with busy := none, done := true, out := r.1 }) := by simp only [opStitchDone, h]

theorem opFpHash_of_unbound (v : W64) (h : s.leaf.binding = none) :
    opFpHash v s = s.modSeed (fun x => { x with fpHash := v, fpValid := false, fpPend := true }) := if_neg (by simp [h])
theorem opFpHash_of_bound (v : W64) (h : s.leaf.binding.isSome = true) :
    opFpHash v s = ((s.modSeed (fun x => { x with fpHash := v, fpValid := false, fpPend := true })).bump .leaf 0xC114).raiseIrq .leaf 13 := if_pos h
theorem opFpValid_of_pend (h : s.leaf.seed.fpPend = true) :
    opFpValid s = s.modSeed (fun x => { x with fpPend := false, fpValid := true, fpValue := fingerprint x.fpHash fpWord }) := if_pos h

theorem opStepHwm_of_raise (v : W64) (hi : (s.cfg .leaf).island = true) (hv : (s.root .leaf).stepHwm.toNat < v.toNat) :
    opStepHwm v s = s.modRoot .leaf (fun r => { r with stepHwm := v }) := if_pos ⟨hi, hv⟩
theorem opStepHwm_of_refused (v : W64) (h : (s.cfg .leaf).island = false ∨ v.toNat ≤ (s.root .leaf).stepHwm.toNat) :
    opStepHwm v s = s.refuse .leaf 0xC118 := if_neg (by rcases h with h | h <;> simp [h])

end

/-- Settles O37: each operation's case on the opened state. -/
theorem leafFingerprint : Obligations.LeafFingerprint := by
  refine ⟨fun s src key ht h => ?_, fun s src ht hc hk => exec_access_leaf rfl ht (opStitchGo_of_no_key _ (by simpa using hc) hk),
    fun s r hl h => exec_live rfl hl (opStitchDone_of_busy s h), fun s src v ht h => exec_access_leaf rfl ht (opFpHash_of_unbound _ v h),
    fun s src v ht h => ?_, fun s hl h => exec_live rfl hl (opFpValid_of_pend s h),
    fun s src v ht hi hv => exec_access_leaf rfl ht (opStepHwm_of_raise _ v hi hv),
    fun s src v ht h => exec_access_leaf rfl ht (opStepHwm_of_refused _ v h)⟩
  · refine exec_access_leaf rfl ht ((opStitchGo_of_key _ (key := key) (by simpa using h)).trans ?_)
    simp
  · refine .of_access_leaf rfl ht (opFpHash_of_bound _ v h) ?_
    exact ⟨rfl, rfl, by simp [State.modSeed], by simp [State.raiseIrq, setBit_getLsbD], rfl, .of_part (by simp) (by simp) (by simp)⟩

end Sys2Proof.Machine
end

section
/-! The key of a leaf and its seeds (R206 to R217). -/

namespace Sys2Proof.Machine

section
variable (s : State)

/-! ## C2 messages for the leaf -/

@[simp] theorem State.passC2_leaf (k : NodeSel) (i : Nat) (h : C2Head) (m : Tokens) : (s.passC2 k i h m).leaf = s.leaf := State.leaf_of_part (by simp)
@[simp] theorem State.c2Mine_leaf (h : C2Head) : (s.c2Mine h).1.leaf = s.leaf := State.leaf_of_part (by simp)

/-- A message for all of the leaf's own SD and GEN is the leaf's. -/
theorem State.c2Mine_of_all {h : C2Head} {b : Binding} (hb : s.leaf.binding = some b) (hs : b.sd = h.sd) (hg : b.gen = h.gen)
    (ha : h.all = true) : s.c2Mine h = (s, true) := by simp [State.c2Mine, hb, hs, hg, ha]
/-- A message of an SD or GEN that the leaf is not bound to is not the leaf's. -/
theorem State.c2Mine_of_other {h : C2Head} (hb : ∀ b, s.leaf.binding = some b → b.sd ≠ h.sd ∨ b.gen ≠ h.gen) : (s.c2Mine h).2 = false := by
  unfold State.c2Mine
  split
  · rfl
  · cases hbd : s.leaf.binding with
    | none => rfl
    | some b =>
      rcases hb b hbd with hs | hg
      · simp [hs]
      · by_cases hs : b.sd = h.sd <;> simp [hs, hg]

theorem State.takeKey_leaf (key : BitVec 128) : (s.takeKey key).leaf = if s.leaf.seed.key = some key then s.leaf else
    { s.leaf with seed := { s.leaf.seed with key := some key, keyChk := keyChk key } } := by
  unfold State.takeKey
  split <;> rfl

/-! ## The operations, case by case -/

theorem opKeyRx_leaf {c : Fin 6} {m : KeyMsg} (ha : (s.cell .leaf c.val).ts = .active) (hr : (s.cell .leaf c.val).cfg.role = 1) :
    opKeyRx (.leaf c) m s = if ((s.passC2 .leaf c.val m.head (keyToks m)).c2Mine m.head).2
      then ((s.passC2 .leaf c.val m.head (keyToks m)).c2Mine m.head).1.takeKey m.key
      else ((s.passC2 .leaf c.val m.head (keyToks m)).c2Mine m.head).1 := by
  simp only [opKeyRx, CellRef.node, CellRef.idx, ha, hr, ne_eq, not_true_eq_false, if_false]
  rfl
theorem opKeyRx_mary {c : Fin 100} {m : KeyMsg} (ha : (s.cell .mary c.val).ts = .active) (hr : (s.cell .mary c.val).cfg.role = 1) :
    opKeyRx (.mary c) m s = s.passC2 .mary c.val m.head (keyToks m) := by
  simp only [opKeyRx, CellRef.node, CellRef.idx, ha, hr, ne_eq, not_true_eq_false, if_false]

theorem State.computeSeeds_of_waiting {x : Strobe} (h : s.firstWaiting = some x) :
    s.computeSeeds = s.each (List.range 16) (fun s p => s.readyAt x p) := by simp only [State.computeSeeds, h]
theorem State.computeSeeds_of_ahead {e : Entry} {k : Nat} {recs : List SeedRec} (hw : s.firstWaiting = none)
    (h : s.seedsAhead = some (e, k, recs)) :
    s.computeSeeds = (s.advHt .leaf ((e.tickAt k - imgGuardNs e.image) * nsTu)).modPrick (fun p =>
      { p with seeds := p.seeds.filter (fun r => !(decide (r.batch = e.batch ∧ r.eidx = imgEidx e.image) && r.k == k)) ++ recs }) := by
  simp only [State.computeSeeds, hw, h]

theorem opSeedCompute_keyUe {k : BitVec 128} (h : s.leaf.seed.key = some k) :
    opSeedCompute .keyUe s = (s.clearKey.bump .leaf 0xC104).raiseIrq .leaf 9 := if_pos (by simp [h])
theorem opSeedCompute_keyCe {k : BitVec 128} (h : s.leaf.seed.key = some k) :
    opSeedCompute .keyCe s = (s.bump .leaf 0xC100).computeSeeds := by simp [opSeedCompute, State.bumpIf, h]
theorem opSeedCompute_differ {p : Fin 16} {second : BitVec 128} (h : ∃ v, (p.val, v) ∈ s.seedsNext ∧ v ≠ second) :
    opSeedCompute (.differ p second) s = s.computeSeeds.seedDiffers := by
  obtain ⟨v, hv, hne⟩ := h
  exact if_pos (List.any_eq_true.2 ⟨(p.val, v), hv, by simp [hne]⟩)

end

/-- Settles O36: the message's own case and what passing it on keeps; each result of a seed's computation. -/
theorem leafKeys : Obligations.LeafKeys := by
  refine ⟨fun s c m b hl ha hr hb hs hg hall => ?_, fun s c m hl ha hr hb => ?_, fun s c m hl ha hr => exec_live rfl hl (opKeyRx_mary s ha hr),
    fun s k hl hk => ?_, fun s x hl h => exec_live rfl hl (s.computeSeeds_of_waiting h), fun s e k recs hl hw h => ?_,
    fun s p second hl h => exec_live rfl hl (opSeedCompute_differ s h), fun s k hl h => exec_live rfl hl (opSeedCompute_keyCe s h)⟩
  · refine .of_live rfl hl (opKeyRx_leaf s ha hr) ?_
    rw [State.c2Mine_of_all _ (by simpa using hb) hs hg hall, if_pos rfl]
    exact ⟨by rw [State.takeKey_leaf, State.passC2_leaf], .of_part (by simp) (by simp) (by simp)⟩
  · refine .of_live rfl hl (opKeyRx_leaf s ha hr) ?_
    rw [State.c2Mine_of_other _ (by simpa using hb), if_neg (by simp)]
    exact ⟨by simp, .of_part (by simp) (by simp) (by simp)⟩
  · refine .of_live rfl hl (opSeedCompute_keyUe s hk) ?_
    exact ⟨rfl, by simp [State.clearKey, State.modSeed], rfl, .of_part (by simp) (by simp) (by simp)⟩
  · refine .of_live rfl hl (s.computeSeeds_of_ahead hw h) ?_
    exact ⟨by simp [State.modPrick], .of_part (by simp) (by simp) (by simp)⟩

end Sys2Proof.Machine
end

section
/-! Joining and leaving a step domain and the membership tables (Table 11.2, R250 to R258, R382). -/

namespace Sys2Proof.Machine

/-! ## Association lists -/

section
variable {κ β : Type} [DecidableEq κ] (m : List (κ × β)) (k : κ)

@[simp] theorem aget_aput_same (v : β) : aget (aput m k v) k = some v := by
  have hn : ((m.filter fun p => !decide (p.1 = k)).find? fun p => decide (p.1 = k)) = none := by simp
  simp only [aget, aput, List.find?_append, hn, Option.none_or]
  simp

end

section
variable (s : State)

/-! ## Leaving -/

theorem State.prick_of_part {s t : State} (h : t.part .prick = s.part .prick) : t.leaf.prick = s.leaf.prick := h
theorem State.regions_of_part {s t : State} (h : t.part .regions = s.part .regions) : t.leaf.regions = s.leaf.regions := h
theorem State.slots_of_part {s t : State} (h : t.part .slots = s.part .slots) : t.leaf.slots = s.leaf.slots := h

@[simp] theorem State.bumpBy_leaf (k : NodeSel) (off n : Nat) : (s.bumpBy k off n).leaf = s.leaf := State.leaf_of_part (by simp)
theorem State.haltEntries_prick (sd : Sd) : (s.haltEntries sd).leaf.prick =
    { s.leaf.prick with entries := s.leaf.prick.entries.filter (fun e => !(imgHalt e.image && decide (imgSd e.image = sd))) } := by
  unfold State.haltEntries
  dsimp only
  rw [State.bumpBy_leaf]
  rfl
/-- Of the pricking unit an outcome that takes effect ends the entries that halt, and nothing else. -/
theorem State.slotEffect_prick (i : Nat) (m : HoopDown) : (s.slotEffect i m).leaf.prick = if m.outcome = 1 ∨ m.outcome = 4 then
    { s.leaf.prick with entries := s.leaf.prick.entries.filter (fun e => !(imgHalt e.image && decide (imgSd e.image = (s.slot i).sd))) }
    else s.leaf.prick := by
  have hp : ∀ {u : State}, u.part .prick = s.part .prick → (u.haltEntries (s.slot i).sd).leaf.prick =
      { s.leaf.prick with entries := s.leaf.prick.entries.filter (fun e => !(imgHalt e.image && decide (imgSd e.image = (s.slot i).sd))) } :=
    fun {u} h => by rw [State.haltEntries_prick, State.prick_of_part h]
  unfold State.slotEffect
  dsimp only
  rw [State.prick_of_part (State.freeIfDone_part .prick _ i nofun nofun), apply_ite (fun u : State => u.leaf.prick)]
  exact if_congr Iff.rfl (hp (by simp)) (State.prick_of_part (by simp))

/-- The leaf holds no entry of an SD and owes no mark. -/
def State.Rid (s : State) (sd : Sd) : Prop := (∀ e ∈ s.leaf.prick.entries, imgSd e.image ≠ sd) ∧ s.leaf.prick.pending = false

theorem State.slotEffect_rid {sd : Sd} (i : Nat) (m : HoopDown) (h : s.Rid sd) : (s.slotEffect i m).Rid sd := by
  unfold State.Rid
  rw [State.slotEffect_prick]
  split
  · exact ⟨fun e he => h.1 e (List.mem_of_mem_filter he), h.2⟩
  · exact h
theorem State.Rid.of_prick {s t : State} {sd : Sd} (h : t.leaf.prick = s.leaf.prick) (hs : s.Rid sd) : t.Rid sd := by
  unfold State.Rid
  rw [h]
  exact hs
/-- A leaf that is bound anew or leaves has no entry of its SD and no mark. -/
theorem State.rebound_rid (sd : Sd) : (s.rebound sd).Rid sd := by
  unfold State.rebound
  dsimp only
  refine State.Rid.of_prick (State.prick_of_part (State.modLeaf_part .prick _ _ nofun nofun nofun nofun (fun _ _ => rfl) nofun))
    (State.each_keeps (State.Rid · sd) _ _ (fun t i ht => ?_) _ ?_)
  · split
    · exact t.slotEffect_rid i _ ht
    · exact ht
  · unfold State.Rid
    rw [State.modPrick_leaf, State.bumpBy_leaf]
    exact ⟨fun e he => by simpa using (List.mem_filter.1 he).2, rfl⟩

theorem State.leaveSd_of_bound {b : Binding} (h : s.leaf.binding = some b) : s.leaveSd = ((s.rebound b.sd).clearKey).modLeaf (fun l =>
    { l with binding := none, regions := l.regions.map (fun r => { r with thrJob := 0, thrPlan := 0 }) }) := by
  simp only [State.leaveSd, h]
theorem vget_map {α : Type} {n : Nat} (v : Vector α n) (f : α → α) (i : Nat) (d : α) (P : α → Prop) (hf : ∀ x, P (f x)) (hd : P d) :
    P (vget (v.map f) i d) := by
  unfold vget
  rw [Vector.getElem?_map]
  cases v[i]? with
  | none => exact hd
  | some x => exact hf x

/-- What leaving leaves of the step domain: nothing. -/
theorem State.leaveSd_left {b : Binding} (h : s.leaf.binding = some b) :
    s.leaveSd.leaf.binding = none ∧ s.leaveSd.leaf.seed.key = none ∧
      (∀ p, (s.leaveSd.region p).thrJob = 0 ∧ (s.leaveSd.region p).thrPlan = 0) ∧ s.leaveSd.Rid b.sd := by
  rw [State.leaveSd_of_bound s h]
  exact ⟨rfl, rfl, fun p => vget_map _ _ p _ (fun r : Region => r.thrJob = 0 ∧ r.thrPlan = 0) (fun _ => ⟨rfl, rfl⟩) ⟨rfl, rfl⟩,
    .of_prick (State.prick_of_part (by simp)) (s.rebound_rid b.sd)⟩

/-! ## BIND -/

@[simp] theorem State.passBind_leaf (i : Nat) (m : BindMsg) : (s.passBind .leaf i m).leaf = s.leaf := State.leaf_of_part (by simp)
@[simp] theorem State.passBind_nodeId (i : Nat) (m : BindMsg) : (s.passBind .leaf i m).nodeId .leaf = s.nodeId .leaf := by
  rw [State.nodeId, State.cfg_of_part (State.passBind_part .cfg s .leaf i m nofun nofun nofun)]; rfl
theorem State.passBind_sameMary (i : Nat) (m : BindMsg) : SameMary s (s.passBind .leaf i m) := .of_part (by simp) (by simp) (by simp)

theorem opBindRx_leaf {c : Fin 6} {m : BindMsg} (ha : (s.cell .leaf c.val).ts = .active) (hr : (s.cell .leaf c.val).cfg.role = 1) :
    opBindRx (.leaf c) m s = (s.passBind .leaf c.val m).leafBind m := by
  simp only [opBindRx, CellRef.node, CellRef.idx, ha, hr, ne_eq, not_true_eq_false, if_false]
theorem opBindRx_mary {c : Fin 100} {m : BindMsg} (ha : (s.cell .mary c.val).ts = .active) (hr : (s.cell .mary c.val).cfg.role = 1) :
    opBindRx (.mary c) m s = s.passBind .mary c.val m := by
  simp only [opBindRx, CellRef.node, CellRef.idx, ha, hr, ne_eq, not_true_eq_false, if_false]

section
variable {m : BindMsg} {b : Binding}

theorem State.leafBind_of_unbound (h : s.leaf.binding = none) (ha : m.head.all = false) (hu : m.unbind = false) (hd : m.head.dest = s.nodeId .leaf) :
    s.leafBind m = s.modLeaf (fun l => { l with binding := some { sd := m.head.sd, rank := m.rank, gen := m.head.gen },
                                                prick := { l.prick with pending := false, marks := [] } }) := by
  simp [State.leafBind, h, ha, hu, hd]
theorem State.leafBind_of_old (h : s.leaf.binding = some b) (hs : b.sd = m.head.sd) (hg : m.head.gen.toNat ≤ b.gen.toNat) : s.leafBind m = s := by
  simp [State.leafBind, h, hs, hg]
theorem State.leafBind_of_unbind (h : s.leaf.binding = some b) (hs : b.sd = m.head.sd) (hg : b.gen.toNat < m.head.gen.toNat) (hu : m.unbind = true)
    (hd : m.head.all = true ∨ m.head.dest = s.nodeId .leaf) : s.leafBind m = s.leaveSd := by
  have hm : (!m.head.all && !decide (m.head.dest = s.nodeId .leaf)) = false := by rcases hd with h | h <;> simp [h]
  simp [State.leafBind, h, hs, hu, hm, Nat.not_le.2 hg]
theorem State.leafBind_of_other (h : s.leaf.binding = some b) (hs : b.sd ≠ m.head.sd) (ha : m.head.all = false) (hd : m.head.dest = s.nodeId .leaf) :
    s.leafBind m = (s.bump .leaf 0xE10C).raiseIrq .leaf 19 := by
  simp [State.leafBind, h, hs, ha, hd]

end

/-! ## LEAVE_LIMIT -/

theorem opLeaveLimit_of_kept (h : s.domAligned .leaf .a = true ∨ s.domAligned .leaf .b = true ∨ s.leaf.binding = none) : opLeaveLimit s = s :=
  if_pos (by rcases h with h | h | h <;> simp [h])
theorem opLeaveLimit_of_lost {b : Binding} (hb : s.leaf.binding = some b) (hi : (s.cfg .leaf).island = false) (h1 : s.domAligned .leaf .a = false)
    (h2 : s.domAligned .leaf .b = false) : opLeaveLimit s =
      ((s.advAfter .leaf s.leaf.upLostAt (s.effFld .leaf 0xE048 9 0 * cyclesMs)).leaveSd.bump .leaf 0xE110).raiseIrq .leaf 21 :=
  if_neg (by simp [hb, hi, h1, h2])

/-! ## The membership table -/

@[simp] theorem State.opened_memb65 (k j : NodeSel) (src : Src) (sd : Sd) : (s.opened k src).memb65 j sd = s.memb65 j sd := by
  cases k <;> cases j <;> rfl

theorem opMembWr_leaf_of_no_down (h : (s.cell .leaf (s.fld .leaf 0xE014 2 0)).cfg.role ≠ 2) : opMembWr .leaf s = s.refuse .leaf (offAccErr .leaf) :=
  if_pos (.inl h)
section
variable (h : (s.cell .leaf (s.fld .leaf 0xE014 2 0)).cfg.role = 2)
include h

theorem opMembWr_leaf_of_room (hr : s.memb65 .leaf ((s.reg .leaf 0xE010).extractLsb' 0 12) = false) : opMembWr .leaf s =
    (s.modNode .leaf (fun N => { N with curGen := aput N.curGen ((s.reg .leaf 0xE010).extractLsb' 0 12) ((s.reg .leaf 0xE01C).extractLsb' 0 16) })).setMemb
      .leaf ((s.reg .leaf 0xE010).extractLsb' 0 12) (s.fld .leaf 0xE014 2 0) (s.fld .leaf 0xE018 19 0) := by
  unfold opMembWr
  dsimp only [membOffs]
  rw [if_pos rfl, if_neg (by simp [h]), if_neg (by simp [hr])]
theorem opMembWr_leaf_of_full (hr : s.memb65 .leaf ((s.reg .leaf 0xE010).extractLsb' 0 12) = true) : opMembWr .leaf s =
    ((s.modNode .leaf (fun N => { N with curGen := aput N.curGen ((s.reg .leaf 0xE010).extractLsb' 0 12) ((s.reg .leaf 0xE01C).extractLsb' 0 16) })).bump
      .leaf 0xE114).raiseIrq .leaf 20 := by
  unfold opMembWr
  dsimp only [membOffs]
  rw [if_pos rfl, if_neg (by simp [h]), if_pos hr]

end

/-! ## SD_TEARDOWN -/

theorem State.teardownOp_of_free (k : NodeSel) (src : Src) (sd : Sd) (hj : s.jrnlLost k (.gen sd) = false) (hw : (s.root k).hwmOf sd < 0xFFFF)
    (hr : s.needsRaise k (.gen sd) ((s.root k).hwmOf sd + 1) = false) : s.teardownOp k src sd = s.doTeardown k sd := by
  unfold State.teardownOp
  rw [if_neg (by simp [hj]), if_neg (Nat.not_le.2 hw), if_neg (by simp [hr])]
/-- A torn down SD leaves nothing of it in the root or among the recipes. -/
theorem State.doTeardown_left (k : NodeSel) (sd : Sd) :
    (∀ c ∈ ((s.doTeardown k sd).root k).sds, c.sd ≠ sd) ∧ (∀ e ∈ ((s.doTeardown k sd).root k).binds, e.sd ≠ sd) ∧
      (∀ h ∈ ((s.doTeardown k sd).root k).hoops, h.sd ≠ sd) ∧ ∀ r ∈ (s.doTeardown k sd).recipes k, r.sd ≠ sd := by
  unfold State.doTeardown State.freeSd
  dsimp only
  generalize State.rootBind _ _ _ = u
  cases k <;> refine ⟨?_, ?_, ?_, ?_⟩ <;> intro x hx <;> simpa using (List.mem_filter.1 hx).2

end

/-- Settles O42: each operation's case; what a leaf leaves of its step domain, and what a root does. -/
theorem bindingCommands : Obligations.BindingCommands := by
  refine ⟨fun s c m hl ha hr hb hall hu hd => ?_, fun s c m b hl ha hr hb hs hg => ?_, fun s c m b hl ha hr hb hs hg hu hd => ?_,
    fun s c m b hl ha hr hb hs hall hd => ?_, fun s c m hl ha hr => exec_live rfl hl (opBindRx_mary s ha hr), fun s src b ht hb => ?_,
    fun s b hl hb hi h1 h2 => ?_, fun s hl h => exec_live rfl hl (opLeaveLimit_of_kept s h), fun s src ht h hr hn => ?_,
    fun s src ht h hr => ?_, fun s src ht h => ?_, fun s src v ht => exec_access_leaf rfl ht rfl, fun s n src sd ht hj hw hr => ?_⟩
  · refine .of_live rfl hl ((opBindRx_leaf s ha hr).trans (State.leafBind_of_unbound _ (by simpa using hb) hall hu (by simpa using hd))) ?_
    exact ⟨.of_part (by simp) (by simp) (by simp), by simp⟩
  · refine .of_live rfl hl ((opBindRx_leaf s ha hr).trans (State.leafBind_of_old _ (by simpa using hb) hs hg)) ?_
    exact ⟨by simp, s.passBind_sameMary _ _⟩
  · refine .of_live rfl hl ((opBindRx_leaf s ha hr).trans (State.leafBind_of_unbind _ (by simpa using hb) hs hg hu (by simpa using hd))) ?_
    obtain ⟨h1, h2, h3, h4⟩ := State.leaveSd_left (s.passBind .leaf c.val m) (by simpa using hb)
    exact ⟨h1, h2, h3, h4.1, h4.2, .of_part (by simp) (by simp) (by simp)⟩
  · refine .of_live rfl hl ((opBindRx_leaf s ha hr).trans (State.leafBind_of_other _ (by simpa using hb) hs hall (by simpa using hd))) ?_
    exact ⟨by simp, by simp [State.raiseIrq, setBit_getLsbD], .of_part (by simp) (by simp) (by simp)⟩
  · refine .of_access_leaf rfl ht rfl ?_
    obtain ⟨h1, h2, h3, h4⟩ := State.leaveSd_left (s.opened .leaf src) (by simpa using hb)
    exact ⟨h1, h2, h3, h4.1, h4.2, .of_part (by simp) (by simp) (by simp)⟩
  · refine .of_live rfl hl (opLeaveLimit_of_lost s hb hi h1 h2) ?_
    obtain ⟨h1, h2, h3, h4⟩ := State.leaveSd_left (s.advAfter .leaf s.leaf.upLostAt (s.effFld .leaf 0xE048 9 0 * cyclesMs)) (b := b)
      (by simpa [State.advAfter] using hb)
    exact ⟨h1, h2, h3, h4.1, by simp [State.raiseIrq, setBit_getLsbD], .of_part (by simp) (by simp) (by simp)⟩
  · refine .of_access_leaf rfl ht (opMembWr_leaf_of_room _ (by simpa using h) (by simpa using hr)) ?_
    refine ⟨?_, ?_, rfl, .of_part (by simp) (by simp) (by simp)⟩
    · simp [State.membOf, State.setMemb, State.onNode, hn]
    · simp [State.curGenOf, State.setMemb, State.onNode]
  · refine .of_access_leaf rfl ht (opMembWr_leaf_of_full _ (by simpa using h) (by simpa using hr)) ?_
    exact ⟨rfl, by simp [State.raiseIrq, setBit_getLsbD], by simp, .of_part (by simp) (by simp) (by simp)⟩
  · exact exec_access_leaf rfl ht (opMembWr_leaf_of_no_down _ (by simpa using h))
  · refine .of_access rfl ht (State.teardownOp_of_free _ n src sd (by simpa using hj) (by simpa using hw) (by simpa using hr)) ?_
    simpa using State.doTeardown_left (s.opened n src) n sd

end Sys2Proof.Machine
end

section
/-! Outcomes that take effect at a leaf, and the timers of its slots and install contexts (R196 to R198). -/

namespace Sys2Proof.Machine

section
variable (s : State)

/-! ## Time goes forward -/

theorem State.rc_le_advTo (k j : NodeSel) (x : W64) : s.rc j ≤ (s.advTo k x).rc j := by
  have h : ∀ t : TimeCore, t.rc ≤ (if t.tclk ∧ t.rc.toNat < x.toNat then { t with rc := x } else t).rc := fun t => by
    split
    · next hc => exact BitVec.le_def.2 (Nat.le_of_lt hc.2)
    · exact BitVec.le_refl _
  cases k <;> cases j
  · exact h s.leafN.time
  · exact BitVec.le_refl _
  · exact BitVec.le_refl _
  · exact h s.maryN.time
theorem State.rc_le_advHt (k j : NodeSel) (t : Tu) : s.rc j ≤ (s.advHt k t).rc j := s.rc_le_advTo k j _
theorem State.rc_le_advAfter (k j : NodeSel) (m : W64) (n : Nat) : s.rc j ≤ (s.advAfter k m n).rc j := s.rc_le_advTo k j _
theorem State.rc_of_part {s t : State} (h : t.part .time = s.part .time) (j : NodeSel) : t.rc j = s.rc j :=
  congrArg TimeCore.rc (State.time_of_part h j)

/-! ## Slots -/

theorem State.slot_of_part {s t : State} (h : t.part .slots = s.part .slots) (i : Nat) : t.slot i = s.slot i :=
  congrArg (fun v : Vector Slot 32 => vget v i .reset) h

/-- A host hoop's slot holds its outcome: there is no port to wait for, so it is not freed at once. -/
theorem State.slotEffect_slot_host (i : Nat) (m : HoopDown) (hi : i < 32) (hh : rcHost (s.slot i).common = true) :
    (s.slotEffect i m).slot i = { s.slot i with st := .closed, eff := some m, closedAt := s.rc .leaf } := by
  have hs : ∀ {u : State}, u.part .slots = (s.modSlot i (fun x => { x with st := .closed, eff := some m, closedAt := s.rc .leaf })).part .slots →
      (u.freeIfDone i).slot i = { s.slot i with st := .closed, eff := some m, closedAt := s.rc .leaf } := fun {u} h => by
    have hu := (State.slot_of_part h i).trans (s.modSlot_slot_same i _ hi)
    unfold State.freeIfDone
    dsimp only
    rw [if_neg (by simp [hu, hh])]
    exact hu
  unfold State.slotEffect
  dsimp only
  refine hs ?_
  simp

theorem State.freeSlot_leaf (i : Nat) : (s.freeSlot i).leaf =
    { s.leaf with slots := vmod s.leaf.slots i (fun _ => .reset), winq := s.leaf.winq ++ (s.slot i).unsent i } := rfl

/-! ## Install contexts -/

/-- A busy context that ends is free, and its batch is among those that ended. -/
theorem State.endInstAt_leaf (k : Nat) (hb : (s.instCtx k).busy = true) : ∃ l, (s.endInstAt k).leaf =
    { s.leaf with insts := vmod s.leaf.insts k (fun _ => .reset), prick := { s.leaf.prick with instDone := l } } ∧ (s.instCtx k).batch ∈ l := by
  by_cases h : (s.instCtx k).batch ∈ s.leaf.prick.instDone
  · refine ⟨s.leaf.prick.instDone, ?_, h⟩
    unfold State.instCtx at h
    simp [State.endInstAt, h]
  · refine ⟨s.leaf.prick.instDone ++ [(s.instCtx k).batch], ?_, by simp⟩
    unfold State.instCtx at h hb
    simp [State.endInstAt, State.instCtx, h, hb]

/-! ## The operations, case by case -/

theorem opTakeEffect_slot_of_taken {i : Fin 32} {m : HoopDown} {n : Nat} (ht : (s.slot i.val).taken = some m) (hn : (s.slot i.val).relNs = some n)
    (ho : (s.slot i.val).st = .open_) : opTakeEffect (.slot i) s = (s.advHt .leaf (n * nsTu)).slotEffect i.val m := by
  simp only [opTakeEffect, ht, hn, ho, if_true]
theorem opTakeEffect_slot_of_none {i : Fin 32} (ht : (s.slot i.val).taken = none) : opTakeEffect (.slot i) s = s := by
  simp only [opTakeEffect, ht]
theorem opTakeEffect_inst_of_taken {k : Fin 4} {m : HoopDown} (ht : (s.instCtx k.val).taken = some m) :
    ∃ u : State, opTakeEffect (.inst k) s = u.endInstAt k.val ∧ u.leaf = s.leaf ∧ SameMary s u := by
  simp only [opTakeEffect, ht]
  refine ⟨_, rfl, ?_, ?_⟩ <;> split
  · rfl
  · simp
  · exact ⟨rfl, rfl, rfl⟩
  · exact .of_part (by simp) (by simp) (by simp)
theorem opTakeEffect_halt_of_one {sd : Sd} {n : Nat} (hh : s.leaf.prick.halts = [(sd, n)]) (hd : n * nsTu ≤ (s.advHt .leaf (n * nsTu)).ht .leaf) :
    opTakeEffect .halt s = ((s.advHt .leaf (n * nsTu)).haltEntries sd).modPrick
      (fun p => { p with halts := p.halts.filter (fun y => decide (y ≠ (sd, n))) }) := by
  simp [opTakeEffect, hh, minNat, State.haltsDue, hd, State.each]

theorem opSlotHold_of_closed {i : Nat} (h : (s.slot i).st = .closed) :
    opSlotHold i s = (s.advAfter .leaf (s.slot i).closedAt ((s.slot i).hold * cyclesMs)).freeSlot i := if_pos h
theorem opOutcomeLimit_of_open {i : Nat} (ho : (s.slot i).st = .open_) (ht : (s.slot i).taken = none) : opOutcomeLimit i s =
    (((s.advHt .leaf ((s.slot i).limit * nsTu)).bump .leaf 0xB518).raiseIrq .leaf 16).slotEffect i ((s.slot i).localEnd 4) :=
  if_neg (by simp [ho, ht])
theorem opOutcomeLimit_of_taken {i : Nat} {m : HoopDown} (ht : (s.slot i).taken = some m) : opOutcomeLimit i s = s := if_pos (.inr (by simp [ht]))
theorem opInstExpiry_of_busy {k : Nat} (h : (s.instCtx k).busy = true) :
    opInstExpiry k s = (s.advAfter .leaf (s.instCtx k).since ((s.instCtx k).deadln * 4)).endInstAt k := if_pos h

end

/-- Settles O33: each operation's case; what an outcome's effect, a freed slot and an ended context leave. -/
theorem hoopOutcomes : Obligations.HoopOutcomes := by
  refine ⟨fun s i m n hl ht hn ho hh => ?_, fun s k m hl ht hb => ?_, fun s i hl ht => exec_live rfl hl (opTakeEffect_slot_of_none s ht),
    fun s sd n hl hh hd => ?_, fun s i hl h => ?_, fun s i hl h => exec_live rfl hl (if_neg h), fun s i hl ho ht hh => ?_,
    fun s i m hl ht => exec_live rfl hl (opOutcomeLimit_of_taken s ht), fun s k hl hb => ?_,
    fun s k hl hb => exec_live rfl hl (if_neg (by simp [hb]))⟩
  · refine .of_live rfl hl (opTakeEffect_slot_of_taken s ht hn ho) ?_
    rw [State.slotEffect_slot_host _ i.val m i.isLt (by simpa [State.slot] using hh)]
    exact ⟨rfl, rfl, s.rc_le_advHt .leaf .leaf _, .of_part (by simp) (by simp) (by simp)⟩
  · obtain ⟨u, hu, hleaf, hm⟩ := opTakeEffect_inst_of_taken s ht
    have hc : u.instCtx k.val = s.instCtx k.val := by simp [State.instCtx, hleaf]
    obtain ⟨l, hend, hmem⟩ := u.endInstAt_leaf k.val (hc ▸ hb)
    refine .of_live rfl hl hu ?_
    rw [hend, hleaf]
    exact ⟨rfl, hc ▸ hmem, rfl, rfl, hm⟩
  · refine .of_live rfl hl (opTakeEffect_halt_of_one s hh hd) ?_
    refine ⟨by simp [State.haltEntries_prick, hh], by simp [State.haltEntries_prick], State.slots_of_part (by simp),
      .of_part (by simp) (by simp) (by simp)⟩
  · refine .of_live rfl hl (opSlotHold_of_closed s h) ?_
    rw [State.freeSlot_leaf, State.rc_of_part (State.freeSlot_part .time _ _ nofun nofun)]
    exact ⟨by simp [State.slot], s.rc_le_advAfter .leaf .leaf _ _, .of_part (by simp) (by simp) (by simp)⟩
  · refine .of_live rfl hl (opOutcomeLimit_of_open s ho ht) ?_
    rw [State.slotEffect_slot_host _ i.val _ i.isLt (by simpa [State.slot] using hh)]
    exact ⟨rfl, rfl, .of_part (by simp) (by simp) (by simp)⟩
  · obtain ⟨l, hend, hmem⟩ := State.endInstAt_leaf (s.advAfter .leaf (s.instCtx k.val).since ((s.instCtx k.val).deadln * 4)) k.val
      (by simpa [State.instCtx] using hb)
    refine .of_live rfl hl (opInstExpiry_of_busy s hb) ?_
    rw [hend, State.rc_of_part (State.endInstAt_part .time _ _ nofun nofun)]
    exact ⟨by simp, by simpa [State.instCtx] using hmem, by simp, by simp, s.rc_le_advAfter .leaf .leaf _ _, .of_part (by simp) (by simp) (by simp)⟩

end Sys2Proof.Machine
end

section
/-! Contributions of the regions and of the host, and the quorum windows, at a leaf (R183 to R185, R255, R378). -/

namespace Sys2Proof.Machine

/-! ## The region's edges -/

section
variable (r : Region) (n : BitVec 48)

theorem Region.count_tally : (r.count n).tally = r.tally + n := by
  unfold Region.count
  split
  · next h => simp [h]
  · dsimp only
    split
    · rfl
    · split <;> rfl
@[simp] theorem Region.count_hcq : (r.count n).hcq = r.hcq := by
  unfold Region.count
  dsimp only
  (repeat' split) <;> rfl

end

section
variable (s : State)

theorem State.regionEdge_region_same (p : Nat) (e : RpEdge) (hp : p < 16) :
    (s.regionEdge p e).region p = { (s.region p).count e.edges with tbHt := s.timeBus (s.region p).tbEff } :=
  s.modRegion_region_same p _ hp
theorem State.regionEdge_region_other (p q : Nat) (e : RpEdge) (h : p ≠ q) : (s.regionEdge p e).region q = s.region q :=
  s.modRegion_region_other p q _ h

/-! ## REGION_CONTRIBUTION -/

section
variable {p : Nat} {e : RpEdge} {i : Nat} {lane : BitVec 4} {data : W64} (hg : s.gated p = false) (hf : s.leaf.fatal = false)
include hg hf

theorem opRegionContribution_of_not_ready (last ue : Bool) (hr : ((s.regionEdge p e).region p).hcRdy = false) :
    opRegionContribution p e i lane data last ue s = s.regionEdge p e := by
  simp [opRegionContribution, hg, hf, hr]

variable (hr : ((s.regionEdge p e).region p).hcRdy = true)
include hr

theorem opRegionContribution_of_more (ue : Bool) : opRegionContribution p e i lane data false ue s =
    (s.regionEdge p e).modRegion p (fun r => r.putLane { slot := BitVec.ofNat 5 i, lane := lane, data := data }) := by
  simp [opRegionContribution, hg, hf, hr]

/-- The last lane goes with those that waited to a slot whose hoop has taken no outcome. -/
theorem opRegionContribution_of_last (ue : Bool) (hp : p < 16) (ht : (s.slot i).taken = none) :
    opRegionContribution p e i lane data true ue s =
      (((s.regionEdge p e).modRegion p (fun r => r.putLane { slot := BitVec.ofNat 5 i, lane := lane, data := data })).modRegion p
        (fun r => { r with hcq := [], hcGap := false })).takeLanes p i
        (((s.regionEdge p e).region p).putLane { slot := BitVec.ofNat 5 i, lane := lane, data := data }).hcq
        (((s.regionEdge p e).region p).putLane { slot := BitVec.ofNat 5 i, lane := lane, data := data }).hcGap ue := by
  have hd : ∀ u : State, (u.slot i).taken = none → u.effectDue i = u := fun u h => by simp only [State.effectDue, h]
  unfold opRegionContribution
  dsimp only
  rw [if_neg (by simp [hg, hf]), if_neg (by simp [hr]), if_neg (by simp), hd (((s.regionEdge p e).modRegion p _).modRegion p _) ht, State.modRegion_region_same _ p _ hp]

end

theorem State.takeLanes_of_no_slot {p i : Nat} (ls : List HcLane) (gap ue : Bool)
    (h : (s.slot i).st = .free ∨ (s.slot i).ports.getLsbD p = false ∨ (s.slot i).landed.getLsbD p = false) :
    s.takeLanes p i ls gap ue = s.hcRefuse p 0 := if_pos (by simpa using h)
/-- An open hoop takes a complete input of a member port that has landed and not contributed. -/
theorem State.takeLanes_of_open {p i : Nat} {ls : List HcLane} {gap : Bool} (hgap : gap = false) (ho : (s.slot i).st = .open_) (ht : (s.slot i).taken = none)
    (hp : (s.slot i).ports.getLsbD p = true) (hl : (s.slot i).landed.getLsbD p = true) (hc : (s.slot i).contributed.getLsbD p = false)
    (ha : ls.all (fun l => l.slot.toNat == i) = true) (hk : lanesOk (s.slot i).lanes.length (ls.map (fun l => (l.lane, l.data))) = true) :
    s.takeLanes p i ls gap false = s.takeInput i p (ls.map HcLane.data) := by
  unfold State.takeLanes
  dsimp only
  rw [if_neg (by simp [ho, hp, hl]), if_neg (by simp [hc]), if_neg (by simp [hgap]), if_neg (by simp only [ha, hk]; decide)]
  simp [ho, ht]

/-- A quorum hoop sends its windows by their timer, not when an input completes. -/
theorem State.tryUp_of_quorum (k : NodeSel) (d : Dom) (sd : Sd) (h : HoopId) (g : Gen) (c : Recipe) (hq : rcQuorum c.common = true) :
    s.tryUp k d sd h g c = s := by
  unfold State.tryUp
  dsimp only
  rw [if_pos (by simp [hq])]
theorem State.takeInput_of_quorum (i p : Nat) (v : List W64) (hq : rcQuorum (s.slot i).common = true)
    (hc : ∀ c, s.recipeOf .leaf (s.slot i).sd (s.slot i).hoopId = some c → rcQuorum c.common = true) :
    s.takeInput i p v = s.modSlot i (fun x => x.take p (s.winNow .leaf x.common) v) := by
  have hr : rcQuorum (s.slotRecipe (s.slot i)).common = true := by
    unfold State.slotRecipe
    cases h : s.recipeOf .leaf (s.slot i).sd (s.slot i).hoopId with
    | none => exact hq
    | some c => exact hc c h
  unfold State.takeInput
  dsimp only
  rw [State.tryUp_of_quorum _ _ _ _ _ _ _ hr, State.tryUp_of_quorum _ _ _ _ _ _ _ hr]

/-! ## HC_COMMIT -/

theorem opHcCommit_of_free (h : (s.slot (s.fld .leaf 0xB000 4 0)).st = .free) : opHcCommit s = s.hostRefuse 0 := if_pos (.inl h)
theorem opHcCommit_of_closed (h : (s.slot (s.fld .leaf 0xB000 4 0)).st = .closed) (hh : rcHost (s.slot (s.fld .leaf 0xB000 4 0)).common = true)
    (hd : (s.slot (s.fld .leaf 0xB000 4 0)).hostDone = false)
    (hw : ∀ j, j < (s.slot (s.fld .leaf 0xB000 4 0)).lanes.length → s.leaf.hcWritten.getLsbD j = true) :
    opHcCommit s = (s.modLeaf (fun l => { l with hcWritten := 0 })).modSlot (s.fld .leaf 0xB000 4 0) (fun x => { x with hostDone := true }) := by
  unfold opHcCommit
  dsimp only
  rw [if_neg (by simp [h, hh]), if_neg (by simp [hd]), if_neg (by simpa using hw), if_pos (.inl h)]

/-! ## QUORUM_WINDOW_SEND -/

/-- What a leaf that is no root sends up changes only its cells. -/
theorem State.emitUp_of_not_root (d : Dom) (ds : List W32) (m : HoopUp) (hr : s.isRoot .leaf = false) :
    (s.emitUp .leaf d ds m).leaf = s.leaf ∧ SameMary s (s.emitUp .leaf d ds m) ∧ (s.emitUp .leaf d ds m).isRoot .leaf = false := by
  unfold State.emitUp
  rw [if_neg (by simp [hr])]
  split
  · exact ⟨rfl, ⟨rfl, rfl, rfl⟩, hr⟩
  · exact ⟨by simp, .of_part (by simp) (by simp) (by simp), by simpa using hr⟩
theorem State.sendWin_of_not_root (q : WinLeft) (hr : s.isRoot .leaf = false) : (s.sendWin q).leaf = s.leaf ∧ SameMary s (s.sendWin q) := by
  unfold State.sendWin
  dsimp only
  generalize hu : s.advHt .leaf ((q.win + 1) * rcWindow q.common * nsTu) = u
  have hur : u.isRoot .leaf = false := by rw [← hu]; simpa using hr
  have hul : u.leaf = s.leaf := by rw [← hu]; simp
  have hum : SameMary s u := by rw [← hu]; exact .of_part (by simp) (by simp) (by simp)
  obtain ⟨h1, ⟨hn1, hm1, hc1⟩, hr1⟩ := u.emitUp_of_not_root .a q.lanes _ hur
  obtain ⟨h2, ⟨hn2, hm2, hc2⟩, -⟩ := State.emitUp_of_not_root _ .b q.lanes _ hr1
  obtain ⟨hn, hm, hc⟩ := hum
  exact ⟨h2.trans (h1.trans hul), hn2.trans (hn1.trans hn), hm2.trans (hm1.trans hm), hc2.trans (hc1.trans hc)⟩

theorem opWindowSend_of_slot {i : Nat} {w : WinLeft} (hq : s.leaf.winq.find? (fun q => decide (q.slot = i)) = none)
    (hw : ((s.slot i).unsent i).head? = some w) : opWindowSend i s =
      (s.modSlot i (fun x => { x with wins := x.wins.map (fun y => if y.win = w.win then { y with sent := true } else y) })).sendWin w := by
  simp only [opWindowSend, hq, hw]
theorem opWindowSend_of_left {i : Nat} {w : WinLeft} (hq : s.leaf.winq.find? (fun q => decide (q.slot = i)) = some w) :
    opWindowSend i s = (s.modLeaf (fun l => { l with winq := l.winq.erase w })).sendWin w := by simp only [opWindowSend, hq]

end

/-- Settles O32: each operation's case. -/
theorem hoopContributions : Obligations.HoopContributions := by
  refine ⟨fun s p e i lane data ue hl hg hf hr => ?_, fun s p e i lane data hl hg hf hr ho ht hp hld hc hgap ha hk => ?_,
    fun s p e i lane data hl hg hf hr ho ht hp hld hc hq hrq hgap ha hk => ?_, fun s p e i lane data ue hl hg hf hr ht hn => ?_,
    fun s p e i lane data last ue hl hg hf hr => exec_live rfl hl (opRegionContribution_of_not_ready s hg hf last ue hr),
    fun s src ht h hh hd hw => ?_, fun s src ht h => ?_, fun s i w hl hq hw hr => ?_, fun s i w hl hq hr => ?_⟩
  · refine .of_live rfl hl (opRegionContribution_of_more s hg hf hr ue) ?_
    rw [State.modRegion_region_same _ _ _ p.isLt, State.regionEdge_region_same s p.val e p.isLt]
    refine ⟨by simp [Region.putLane], Region.count_tally _ _, Region.count_tally _ _, fun q hne => ?_, rfl, rfl, .of_part (by simp) (by simp) (by simp)⟩
    rw [State.modRegion_region_other _ _ _ _ hne.symm, State.regionEdge_region_other _ _ _ _ hne.symm]
  · exact exec_live rfl hl ((opRegionContribution_of_last s hg hf hr false p.isLt ht).trans (State.takeLanes_of_open _ hgap ho ht hp hld hc ha hk))
  · have hrun := (opRegionContribution_of_last (lane := lane) (data := data) s hg hf hr false p.isLt ht).trans
      (State.takeLanes_of_open _ hgap ho ht hp hld hc ha hk)
    refine .of_live rfl hl (hrun.trans (State.takeInput_of_quorum _ i.val p.val _ hq hrq)) ?_
    refine ⟨State.modSlot_slot_same _ _ _ i.isLt, ?_, .of_part (by simp) (by simp) (by simp)⟩
    rw [State.modSlot_region, State.modRegion_region_same _ _ _ p.isLt]
  · refine .of_live rfl hl ((opRegionContribution_of_last s hg hf hr ue p.isLt ht).trans (State.takeLanes_of_no_slot _ _ _ _ hn)) ?_
    unfold State.hcRefuse
    rw [State.bump_region, State.modRegion_region_same _ _ _ p.isLt, State.modRegion_region_same _ _ _ p.isLt]
    exact ⟨rfl, rfl, rfl, rfl, rfl, .of_part (by simp) (by simp) (by simp)⟩
  · exact exec_access_leaf rfl ht (opHcCommit_of_closed _ (by simpa using h) (by simpa using hh) (by simpa using hd) (by simpa using hw))
  · refine .of_access_leaf rfl ht (opHcCommit_of_free _ (by simpa using h)) ?_
    refine ⟨rfl, by simp [State.hostRefuse], ?_, .of_part (by simp) (by simp) (by simp)⟩
    show (setBit _ 25).getLsbD 25 = true
    simp [setBit_getLsbD]
  · obtain ⟨h1, h2⟩ := State.sendWin_of_not_root (s.modSlot i.val (fun x =>
      { x with wins := x.wins.map (fun y => if y.win = w.win then { y with sent := true } else y) })) w (by simpa using hr)
    exact .of_live rfl hl (opWindowSend_of_slot s hq hw) ⟨h1, h2⟩
  · obtain ⟨h1, h2⟩ := State.sendWin_of_not_root (s.modLeaf (fun l => { l with winq := l.winq.erase w })) w (by simpa using hr)
    exact .of_live rfl hl (opWindowSend_of_left s hq) ⟨h1, h2⟩

end Sys2Proof.Machine
end

section
/-! The resets of a leaf and of a Maryel (R359, R367, R388): what each leaves and what comes back out of them. -/

namespace Sys2Proof.Machine

/-! ## Coming out of a chip reset -/

/-- What a chip's start leaves of the Maryel's own parts: the sampled PROFSEL and the armed keys. -/
def MaryOnly.strap (m : MaryOnly) : Fin 4 × List Src := (m.profsel, m.rstKeys)

theorem MaryOnly.strap_unsel (m : MaryOnly) : m.unsel.strap = m.strap := rfl
theorem State.strap_of_unsel {s t : State} (h : t.mary.unsel = s.mary.unsel) : t.mary.strap = s.mary.strap := by
  rw [← t.mary.strap_unsel, h, s.mary.strap_unsel]
theorem MaryOnly.profsel_of_strap {m n : MaryOnly} (h : n.strap = m.strap) : n.profsel = m.profsel := congrArg Prod.fst h
theorem MaryOnly.rstKeys_of_strap {m n : MaryOnly} (h : n.strap = m.strap) : n.rstKeys = m.rstKeys := congrArg Prod.snd h
theorem State.held_of_part {s t : State} (h : t.part .hold = s.part .hold) (j : NodeSel) : t.held j = s.held j := by
  cases j
  · exact congrArg Prod.fst h
  · exact congrArg Prod.snd h

section
variable (s : State) (src : Src)

theorem State.loadProfile_strap (n : Fin 4) : (s.loadProfile n).mary.strap = s.mary.strap := by
  unfold State.loadProfile
  dsimp only
  split
  · split <;> simp [MaryOnly.strap]
  · split <;> (refine (State.strap_of_unsel (s := s.modMary (fun m => { m with profAct := n })) ?_).trans rfl; simp)

theorem State.licDelete_strap : s.licDelete.mary.strap = s.mary.strap := by
  have h (l : List (Nat × W64)) : (s.celPuts l).mary = s.mary := State.mary_of_part (by simp)
  rw [State.licDelete, State.modMary_mary, h]
  rfl

@[simp] theorem State.loseUnread_mary : s.loseUnread.mary = s.mary := State.mary_of_part (by simp)
@[simp] theorem State.restoreCeilings_mary : s.restoreCeilings.mary = s.mary := State.mary_of_part (by simp)
@[simp] theorem State.restoreRwps_mary : s.restoreRwps.mary = s.mary := State.mary_of_part (by simp)

theorem State.chipStart_strap (n : Fin 4) : (s.chipStart n).mary.strap = s.mary.strap := by
  rw [State.chipStart, State.loseUnread_mary, State.loadProfile_strap, State.restoreCeilings_mary, State.restoreRwps_mary]
  exact s.licDelete_strap

/-- The sampled PROFSEL stays through a chip's start. -/
theorem State.chipStart_profsel (n : Fin 4) : (s.chipStart n).mary.profsel = s.mary.profsel := 
  MaryOnly.profsel_of_strap (s.chipStart_strap n)
theorem State.chipStart_rstKeys (n : Fin 4) : (s.chipStart n).mary.rstKeys = s.mary.rstKeys := 
  MaryOnly.rstKeys_of_strap (s.chipStart_strap n)

/-! ## The operations, case by case -/

theorem opPorstAssert_of_held (h : s.held .mary = true) : opPorstAssert s = s := if_pos h
theorem opPorstRelease_of_not_held (n : Fin 4) (h : s.held .mary = false) : opPorstRelease n s = s := if_pos (by simp [h])
theorem opChipRstKey_of_uid {v : W32} (h : v = Config.chipUid.extractLsb' 0 32) :
    opChipRstKey src v s = s.modMary (fun m => { m with rstKeys := m.rstKeys ++ [src] }) := if_pos h
theorem opChipRstKey_of_other {v : W32} (h : v ≠ Config.chipUid.extractLsb' 0 32) : opChipRstKey src v s = s := if_neg h

/-- The key's word arms the source; any other word leaves it disarmed. -/
theorem opChipRstKey_self (v : W32) : src ∈ (opChipRstKey src v (s.opened .mary src)).mary.rstKeys ↔ v = Config.chipUid.extractLsb' 0 32 := by
  by_cases h : v = Config.chipUid.extractLsb' 0 32
  · rw [opChipRstKey_of_uid _ src h]
    simp [h]
  · rw [opChipRstKey_of_other _ src h]
    simp [State.opened, State.cancelKey, h]
theorem opChipRstKey_other (v : W32) (x : Src) (hx : x ≠ src) :
    x ∈ (opChipRstKey src v (s.opened .mary src)).mary.rstKeys ↔ x ∈ s.mary.rstKeys := by
  have ho : x ∈ (s.opened .mary src).mary.rstKeys ↔ x ∈ s.mary.rstKeys := by
    simp only [State.opened, State.cancelKey, State.modMary_mary, List.mem_filter]
    simp [State.clearRefused, hx]
  by_cases h : v = Config.chipUid.extractLsb' 0 32
  · simp [opChipRstKey_of_uid _ src h, hx, ho]
  · rw [opChipRstKey_of_other _ src h, ho]

/-- No source's DENY counter is CONV_DROP. -/
theorem offDeny_ne_conv : offDeny src ≠ tOff .mary 0x1214 := by
  cases src with
  | host p => simp only [offDeny, tOff]; omega
  | _ => decide

/-- Every cell of a Maryel in reset is OFF. -/
theorem State.nodeReset_cell (held : Bool) (i : Nat) : (vget (s.nodeReset held).cells i .reset).ts = .off := by
  simp only [State.nodeReset, vget, Vector.getElem?_ofFn]
  (repeat' split) <;> rfl

/-- What power leaves of the cellar when it goes: everything, while the supply holds. -/
theorem State.powerCut_leaf : s.powerCut.leaf = s.leaf ∧ s.powerCut.leafN = s.leafN := by
  unfold State.powerCut
  dsimp only
  split <;> exact ⟨rfl, rfl⟩

theorem opLeafAssert_cell (i : Nat) : (opLeafAssert s).cell .leaf i = .reset := by
  simp only [State.cell, State.onNode, opLeafAssert, Node.reset, vget, Vector.getElem?_replicate]
  split <;> rfl
theorem opPorstRelease_profsel (n : Fin 4) (h : s.held .mary = true) : (opPorstRelease n s).mary.profsel = n := by
  have hk (t : State) : t.computeKa.mary = t.mary := State.mary_of_part (by simp)
  have hw (t : State) : t.restoreWear.mary = t.mary := State.mary_of_part (by simp)
  rw [opPorstRelease, if_neg (by simp [h]), hk, State.chipStart_profsel, hw]
  rfl
theorem opPorstRelease_held (n : Fin 4) (h : s.held .mary = true) : (opPorstRelease n s).held .mary = false := by
  rw [opPorstRelease, if_neg (by simp [h]), State.held_of_part (s := s.modNode .mary (fun N => { N with inReset := false })) (by simp)]
  rfl

/-- The Maryel as a chip reset by register makes it, before it starts. -/
def State.chipCleared (s : State) (sel : Fin 4) : State :=
  ({ s with maryN := s.nodeReset false, mary := s.mary.chipReset false (s.rc .mary), cellar := s.cellar.chipReset false } : State).modMary
    (fun m => { m with profsel := sel })
theorem opChipRst_of_armed (n : Fin 4) : opChipRst true src n s = (s.chipCleared n).chipStart n := by
  rw [opChipRst, if_neg (by simp), State.chipCleared]
theorem opChipRst_of_not (n : Fin 4) : opChipRst false src n s = s.refuse .mary (offDeny src) := if_pos rfl
theorem State.chipStart_held (n : Fin 4) : (s.chipStart n).held .mary = s.held .mary := State.held_of_part (by simp) .mary

end

/-- Settles O43: each operation's case; what comes back out of a chip reset by the strap that its start keeps. -/
theorem nodeResets : Obligations.NodeResets := by
  refine ⟨fun s hh hs => ?_, fun s hh hs => ?_, fun s hh => congrArg _ (opPorstAssert_of_held s hh), fun s p hh => ?_,
    fun s p hh => congrArg _ (opPorstRelease_of_not_held s _ hh), fun s => ?_, fun s hh => congrArg _ (if_pos hh),
    fun s hh => congrArg _ (if_neg (by simp [hh])), fun s src v ht => ?_, fun s src p ht hn => ?_, fun s src p ht hi => ?_⟩
  · refine .intro rfl ?_
    rw [opPorstAssert, if_neg (by simp [hh])]
    simp only [hs, if_true]
    exact ⟨rfl, rfl, s.nodeReset_cell true, rfl, rfl, rfl, rfl, rfl, rfl, rfl⟩
  · refine .intro rfl ?_
    obtain ⟨hl, hn⟩ := s.powerCut_leaf
    rw [opPorstAssert, if_neg (by simp [hh])]
    simp only [hs, Bool.false_eq_true, if_false]
    exact ⟨rfl, rfl, s.powerCut.nodeReset_cell true, rfl, rfl, rfl, hn, hl⟩
  · exact .intro rfl ⟨opPorstRelease_held s _ hh, opPorstRelease_profsel s _ hh, State.leaf_of_part (by simp)⟩
  · exact .intro rfl ⟨rfl, rfl, rfl, rfl, opLeafAssert_cell s, rfl, rfl, rfl, rfl, rfl, rfl, rfl⟩
  · refine .of_access rfl ht rfl ⟨?_, ?_, State.cellar_of_part (by simp), .of_part (by simp) (by simp)⟩
    · rw [State.noteRefused_mary, opChipRstKey_self]
    · rw [State.noteRefused_mary]
      exact opChipRstKey_other s src v
  · refine .of_accessC rfl ht (by simp only [hn, decide_false]; exact opChipRst_of_not _ src _) ?_
    refine ⟨?_, fun i => ?_, ?_, State.cellar_of_part (by simp), .of_part (by simp) (by simp)⟩
    · rw [State.noteRefused_count, State.convRefresh_count_other _ _ _ _ (offDeny_ne_conv src)]
      simp
    · exact State.cell_of_part (by simp) _ _
    · exact State.maryN_regs_of_part (by simp)
  · refine .of_accessC rfl ht (by simp only [hi, decide_true]; exact opChipRst_of_armed _ src _) ?_
    refine ⟨?_, ?_, ?_, ?_⟩
    · rw [State.held_of_part (s := (s.opened .mary src).chipCleared p.toFin) (by simp)]
      rfl
    · rw [State.noteRefused_mary, State.convRefresh_mary, State.chipStart_profsel]
      rfl
    · rw [State.noteRefused_mary, State.convRefresh_mary, State.chipStart_rstKeys]
      rfl
    · exact (State.leaf_of_part (s := (s.opened .mary src).chipCleared p.toFin) (by simp)).trans rfl

end Sys2Proof.Machine
end

section
/-! The selector of a root (R305 to R320): steering in software and in holdover, the crystal's warm-up, the days of K, and a root's time set. -/

namespace Sys2Proof.Machine

section
variable (s : State) (src : Src)

@[simp] theorem State.bumpIf_mary (c : Bool) (k : NodeSel) (off : Nat) : (s.bumpIf c k off).mary = s.mary := State.mary_of_part (by simp)

theorem State.eligibles_nil (h : ∀ i, i < 8 → s.eligible i = false) (p : RefEnt → Bool) : s.eligibles p = [] := by
  simp only [State.eligibles, List.filter_eq_nil_iff, List.mem_range]
  intro i hi
  simp [h i hi]

/-! ## Holdover, software steering -/

theorem opHoldoverK_of (hr : s.isRoot .mary = true) (hh : s.mary.sel.st = .holdover) : opHoldoverK s =
    ((s.advAfter .mary s.mary.sel.holdAt ((s.mary.sel.holdSec + 1) * cyclesS)).modSel (fun x => { x with holdSec := s.mary.sel.holdSec + 1 })).pendRootK
      ((s.mary.sel.kHo.toNat : Int) + truncDiv (s.ageComp * ((s.mary.sel.holdSec + 1 : Nat) : Int)) 86400) := by
  rw [opHoldoverK, if_neg (by simp [hr, hh])]

theorem State.pendRootK_dom (k : Int) : ((s.pendRootK k).time .mary).dom s.rootDom =
    { (s.time .mary).dom s.rootDom with kPend := some (clampK k).1 } := by
  simp only [State.pendRootK, State.bumpIf]
  cases h : s.rootDom <;> split <;> rfl
theorem State.advAfter_dom (k : NodeSel) (m : W64) (n : Nat) (d : Dom) : ((s.advAfter k m n).time k).dom d = (s.time k).dom d := by
  simp only [State.advAfter, State.advTo, State.modTime_time]
  split <;> rfl

/-- The root's domain after a second of HOLDOVER: it will take the K of that second. -/
theorem State.holdoverK_dom (m : W64) (n : Nat) (f : Selector → Selector) (k : Int) :
    ((((s.advAfter .mary m n).modSel f).pendRootK k).time .mary).dom s.rootDom =
      { (s.time .mary).dom s.rootDom with kPend := some (clampK k).1 } := by
  have h := State.pendRootK_dom ((s.advAfter .mary m n).modSel f) k
  have hd : ((s.advAfter .mary m n).modSel f).rootDom = s.rootDom := by simp [State.rootDom]
  rw [hd, State.modSel_time, State.advAfter_dom] at h
  exact h

theorem opSelMode_soft (h : s.mary.sel.st = .locked ∨ s.mary.sel.st = .holdover) : opSelMode true s =
    ((s.setReg .mary 0x980C4 1).modSel (fun x =>
      { x.endDay with st := .softloop, softMode := true, softTgt := none, softAt := s.rc .mary, loopAt := none })).modDom .mary s.rootDom (fun x => { x with kPend := none }) := by
  have hc : s.mary.sel.st = .locked ∨ s.mary.sel.st = .holdover ∨ (s.mary.sel.st = .freerun ∧ s.rootHasHt ∧ s.mary.sel.warmOk = true) := by
    rcases h with h | h <;> simp [h]
  simp only [opSelMode, if_true]
  rw [if_pos hc]
theorem opSelMode_acquire (h : s.mary.sel.st = .acquire) : opSelMode true s = s.setReg .mary 0x980C4 1 := by simp [opSelMode, h]
theorem opSelMode_auto (h : s.mary.sel.st = .softloop) (hs : s.mary.sel.selected = none) (he : ∀ i, i < 8 → s.eligible i = false) :
    opSelMode false s = (s.setReg .mary 0x980C4 0).enterHold s.meanK := by
  simp [opSelMode, h, hs, s.eligibles_nil he]

theorem opSoftK_of (k : BitVec 48) (h : s.mary.sel.st = .softloop) : opSoftK k s =
    (s.modSel (fun x => { x with softTgt := some (clampK (k.toNat : Int)).1, softAt := s.rc .mary })).bumpIf (clampK (k.toNat : Int)).2 .mary
      (tOff .mary (0x1200 + 4 * domIdx s.rootDom)) := if_neg (by simp [h])
theorem opSoftK_of_other (k : BitVec 48) (h : s.mary.sel.st ≠ .softloop) : opSoftK k s = s := if_pos h
theorem opSoftTmo_of_other (h : s.mary.sel.st ≠ .softloop) : opSoftTmo s = s := if_pos (by simp [h])
theorem opSoftTmo_sel (hr : s.isRoot .mary = true) (h : s.mary.sel.st = .softloop) : (opSoftTmo s).mary.sel.st = .holdover ∧
    (opSoftTmo s).mary.sel.softTgt = none ∧ (opSoftTmo s).mary.sel.evt = setBit s.mary.sel.evt 3 := by
  rw [opSoftTmo, if_neg (by simp [hr, h])]
  simp [State.raiseRef, State.enterHold, Selector.endDay]

/-! ## Warm-up and days -/

theorem opOcxoWarm_low (hr : s.isRoot .mary = true) (hw : s.mary.sel.warm = true) :
    opOcxoWarm false s = (s.modSel (fun x => { x with warm := false, warmOk := x.warmOk || false })).raiseRef 0 := by simp [opOcxoWarm, hr, hw]
theorem opOcxoWarm_high (hr : s.isRoot .mary = true) : opOcxoWarm true s = (s.modSel (fun x => { x with warm := true, warmOk := true })).selAct := by
  simp [opOcxoWarm, hr]
theorem opOcxoWait_of (hr : s.isRoot .mary = true) (hw : s.mary.sel.warmOk = false) : opOcxoWait s =
    (((s.advAfter .mary s.mary.porstAt (s.effFld .mary 0x9831C 11 0 * cyclesS)).modSel (fun x => { x with warmOk := true })).raiseRef 0).selAct :=
  if_neg (by simp [hr, hw])

/-- The state at the edge at which a root's day ends. -/
def State.dayEdge (s : State) : State :=
  s.advTo .mary (((s.time .mary).dom s.rootDom).set.edgeOf (s.rc .mary)
    ((s.htDom .mary s.rootDom / (86400 * 1000000000 * nsTu) + 1) * (86400 * 1000000000 * nsTu)))

theorem opKDayEnd_of_unlocked (hr : s.isRoot .mary = true) (hh : s.rootHasHt = true) (hp : s.mary.sel.phaseAt = none) :
    opKDayEnd s = s.dayEdge.modSel (fun x => { x with daySum := (0, 0) }) := by
  rw [opKDayEnd, if_neg (by simp [hr, hh])]
  simp [hp, State.dayEdge]

/-- Automatic ageing writes a register only. -/
@[simp] theorem State.autoAge_mary : s.autoAge.mary = s.mary := State.mary_of_part (by simp)
/-- A record filed for telemetry leaves the selector alone. -/
@[simp] theorem State.originTel_sel (k : NodeSel) (d : Dom) (r : TeleRec) : (s.originTel k d r).mary.sel = s.mary.sel := by
  have h (t : State) : (t.fileTel r).mary.sel = t.mary.sel := by
    unfold State.fileTel
    dsimp only
    (repeat' split) <;> simp
  have hs : ∀ t : State, (t.sendOwnC3 k d (teleToks r)).mary = t.mary := fun t => State.mary_of_part (by simp)
  have he : ∀ (t : State) (e : ExcRec), (t.fileExc k e).mary = t.mary := fun t e => State.mary_of_part (by simp)
  unfold State.originTel
  dsimp only
  split <;> (repeat' split) <;> simp [h, hs, he]

theorem add_day_le {p q d : Nat} (h : p ≤ q * d) : p + d ≤ (q + 1) * d := by
  rw [Nat.add_one_mul]
  exact Nat.add_le_add_right h d
theorem opKDayEnd_of_whole {p : Nat} (hr : s.isRoot .mary = true) (hh : s.rootHasHt = true) (hp : s.mary.sel.phaseAt = some p)
    (hl : s.mary.sel.st = .locked) (hn : s.mary.sel.daySum.2 ≠ 0)
    (hd : p * 2 ^ 24 ≤ (s.htDom .mary s.rootDom / (86400 * 1000000000 * nsTu)) * (86400 * 1000000000 * nsTu)) :
    ∃ est, (opKDayEnd s).mary.sel = { s.mary.sel with
      kDay := BitVec.ofNat 48 ((2 * s.mary.sel.daySum.1 + s.mary.sel.daySum.2) / (2 * s.mary.sel.daySum.2)), kDayPrev := s.mary.sel.kDay,
      days := s.mary.sel.days + 1, daySum := (0, 0), ageEst := est } := by
  rw [opKDayEnd, if_neg (by simp [hr, hh])]
  dsimp only
  rw [State.advTo_mary, hp]
  rw [if_neg]
  · simp [hp]
  · simp only [hl, Bool.not_eq_true', decide_eq_false_iff_not, not_not]
    exact ⟨add_day_le hd, trivial, hn⟩

/-! ## A root's time -/

theorem opRootStep_of_members (h : s.anyMembers = true) : opRootStep s = s.refuse .mary (offTimeRefused .mary) := by
  rw [opRootStep, if_pos h]
theorem opRootStep_of_no_ht (h : s.anyMembers = false) (hh : s.rootHasHt = false) : opRootStep s = s := by simp [opRootStep, h, hh]
theorem opRootStep_of (h : s.anyMembers = false) (hh : s.rootHasHt = true) (he : ∀ i, i < 8 → s.eligible i = false) : opRootStep s =
    ((s.rootLoseHt.dropConv .mary).modSel (fun x =>
      { x.endDay with selected := none, kHist := [], softTgt := none, softMode := false, stepped := true })).modSel (fun x => { x with st := .freerun }) := by
  simp [opRootStep, h, hh, s.eligibles_nil he]
theorem opRootHtSet_of_bad (v : Ht96) (h : s.anyMembers = true ∨ 999999999 < htNs v ∨ htBound ≤ tuNs (tuOfHt v)) :
    opRootHtSet v s = s.refuse .mary (offTimeRefused .mary) := by
  rw [opRootHtSet, if_pos (by simpa [or_assoc] using h)]
theorem opRootHtSet_of (v : Ht96) (h : s.anyMembers = false) (hn : htNs v ≤ 999999999) (hb : tuNs (tuOfHt v) < htBound)
    (hf : s.mary.sel.st = .freerun) (hh : s.rootHasHt = false) : opRootHtSet v s = s.modSel (fun x => { x with htSet := some (tuOfHt v) }) := by
  rw [opRootHtSet, if_neg (by simp [h]; omega), if_pos (by simp [hf, hh])]
theorem opRootSecNext_of_waits (v : BitVec 48) (h : s.isRoot .mary = false ∨ s.mary.sel.st = .softloop) :
    opRootSecNext v s = s.modSel (fun x => { x with secNext := some v }) := by
  rcases h with h | h
  · simp [opRootSecNext, h]
  · simp [opRootSecNext, State.selAct, h]
theorem opRootSecNext_of_root (v : BitVec 48) (h : s.isRoot .mary = true) :
    opRootSecNext v s = (s.modSel (fun x => { x with secNext := some v })).selAct := if_pos h

theorem opRootStep_time (h : s.anyMembers = false) (hh : s.rootHasHt = true) (he : ∀ i, i < 8 → s.eligible i = false) :
    ((opRootStep s).time .mary).noht = true := by
  rw [opRootStep_of s h hh he, State.modSel_time, State.modSel_time, State.dropConv]
  split <;> simp [State.rootLoseHt]

end

/-- Settles O52: each operation's case; the selector's fields by the writes that make them. -/
theorem selectorSteering : Obligations.SelectorSteering := by
  refine ⟨fun s hl hr hh => ?_, fun s src ht h => ?_, fun s src ht h => ?_, fun s src ht h hs he => ?_, fun s src k ht h => ?_,
    fun s src k ht h => ?_, fun s hl hr h => ?_, fun s hl h => exec_liveC rfl hl (opSoftTmo_of_other s h), fun s hl hr hw => ?_,
    fun s hl hr => ?_, fun s v hl => congrArg _ (if_pos hl), fun s hl hr hw => exec_live rfl hl (opOcxoWait_of s hr hw),
    fun s hl hr hh hp => ?_, fun s p hl hr hh hp hs hn hd => ?_⟩
  · refine .of_live rfl hl (opHoldoverK_of s hr hh) ?_
    refine ⟨?_, ?_, ?_, State.leaf_of_part (by simp)⟩
    · simp [State.pendRootK]
    · rw [State.holdoverK_dom]
    · rw [State.holdoverK_dom]
  · refine .of_accessC rfl ht (opSelMode_soft _ h) ?_
    rw [State.noteRefused_sel]
    exact ⟨by simp, by simp, by simp, State.cellar_of_part (by simp), State.leaf_of_part (by simp)⟩
  · refine .of_accessC rfl ht (opSelMode_acquire _ h) ?_
    rw [State.noteRefused_sel]
    exact ⟨by simp, State.cellar_of_part (by simp), State.leaf_of_part (by simp)⟩
  · refine .of_accessC rfl ht (opSelMode_auto _ h hs he) ?_
    rw [State.noteRefused_sel]
    exact ⟨by simp [State.enterHold], by simp [State.enterHold], by simp [State.enterHold], by simp [State.enterHold],
      State.cellar_of_part (by simp), State.leaf_of_part (by simp)⟩
  · refine .of_access rfl ht (opSoftK_of _ k h) ?_
    rw [State.noteRefused_sel]
    exact ⟨by simp, State.cellar_of_part (by simp), State.leaf_of_part (by simp)⟩
  · exact exec_access_kept rfl ht (opSoftK_of_other _ k h) (by simp)
  · refine .of_liveC rfl hl rfl ?_
    obtain ⟨h1, h2, h3⟩ := opSoftTmo_sel s hr h
    rw [State.convRefresh_mary]
    exact ⟨h1, h2, h3, State.cellar_of_part (by simp), State.leaf_of_part (by simp)⟩
  · exact congrArg _ ((if_neg (by simp [hl])).trans (opOcxoWarm_low s hr hw))
  · exact congrArg _ ((if_neg (by simp [hl])).trans (opOcxoWarm_high s hr))
  · refine .of_live rfl hl (opKDayEnd_of_unlocked s hr hh hp) ?_
    exact ⟨by simp [State.dayEdge], State.leaf_of_part (by simp [State.dayEdge])⟩
  · obtain ⟨est, h⟩ := opKDayEnd_of_whole s hr hh hp hs hn hd
    refine .of_live rfl hl rfl ?_
    rw [h]
    exact ⟨rfl, rfl, rfl, rfl, hs, State.leaf_of_part (by simp)⟩

/-- Settles O53: each operation's case; in SOFTLOOP the selector has nothing to act on. -/
theorem rootTimeSet : Obligations.RootTimeSet := by
  refine ⟨fun s src ht h => ?_, fun s src ht h hh he => ?_, fun s src ht h hh => exec_access_kept rfl ht (opRootStep_of_no_ht _ h hh) (by simp),
    fun s src v ht h hn hb hf hh => exec_access_kept rfl ht (opRootHtSet_of _ v h hn hb hf hh) (by simp), fun s src v ht h => ?_,
    fun s src v ht h => exec_access_kept rfl ht (opRootSecNext_of_waits _ v h) (by simp),
    fun s src v ht h => exec_access rfl ht (opRootSecNext_of_root _ v h)⟩
  · refine .of_access rfl ht (opRootStep_of_members _ h) ?_
    rw [State.noteRefused_sel]
    exact ⟨by simp, State.time_of_part (by simp) .mary, by simp, State.cellar_of_part (by simp), State.leaf_of_part (by simp)⟩
  · refine .of_access rfl ht rfl ?_
    rw [State.noteRefused_sel, State.noteRefused_time]
    refine ⟨?_, ?_, ?_, opRootStep_time _ h hh he, State.leaf_of_part (by simp)⟩ <;>
      simp [opRootStep_of (s.opened .mary src) h hh he]
  · refine .of_access rfl ht (opRootHtSet_of_bad _ v h) ?_
    rw [State.noteRefused_sel]
    exact ⟨by simp, State.time_of_part (by simp) .mary, by simp, State.cellar_of_part (by simp), State.leaf_of_part (by simp)⟩

end Sys2Proof.Machine
end

section
/-! The reference table of a root (R305 to R315). The selector's own work changes of an entry only the counter of its edges, so what a
measurement, a loss or a qualification writes stays. -/

namespace Sys2Proof.Machine

/-! ## The entries through the selector's work -/

/-- An entry but for REF_E_i, which selecting it sets to zero. -/
def RefEnt.still (x : RefEnt) : RefEnt := { x with e := 0 }

theorem RefEnt.stat_of_still {x y : RefEnt} (h : x.still = y.still) : x.stat = y.stat := by
  have h' := congrArg RefEnt.stat h
  exact h'
theorem RefEnt.gate_of_still {x y : RefEnt} (h : x.still = y.still) : x.gate = y.gate := by
  have h' := congrArg RefEnt.gate h
  exact h'
theorem RefEnt.label_of_still {x y : RefEnt} (h : x.still = y.still) : x.label = y.label := by
  have h' := congrArg RefEnt.label h
  exact h'
theorem RefEnt.last_of_still {x y : RefEnt} (h : x.still = y.still) : x.last = y.last := by
  have h' := congrArg RefEnt.last h
  exact h'
theorem RefEnt.mustWtr_of_still {x y : RefEnt} (h : x.still = y.still) : x.mustWtr = y.mustWtr := by
  have h' := congrArg RefEnt.mustWtr h
  exact h'
theorem RefEnt.wasQual_of_still {x y : RefEnt} (h : x.still = y.still) : x.wasQual = y.wasQual := by
  have h' := congrArg RefEnt.wasQual h
  exact h'

section
variable (s : State)

/-- An entry is the selector's, so what leaves the Maryel's own parts leaves it. -/
theorem State.ent_of_mary {s t : State} (h : t.mary = s.mary) (i : Nat) : t.ent i = s.ent i := by rw [State.ent, h, State.ent]
@[simp] theorem State.advAfter_ent (k : NodeSel) (m : W64) (n : Nat) (i : Nat) : (s.advAfter k m n).ent i = s.ent i := State.ent_of_mary (by simp) i
@[simp] theorem State.bump_ent (k : NodeSel) (o : Nat) (i : Nat) : (s.bump k o).ent i = s.ent i := State.ent_of_mary (by simp) i
@[simp] theorem State.bumpIf_ent (c : Bool) (k : NodeSel) (o : Nat) (i : Nat) : (s.bumpIf c k o).ent i = s.ent i := State.ent_of_mary (by simp) i
@[simp] theorem State.convRefresh_ent (k : NodeSel) (i : Nat) : (s.convRefresh k).ent i = s.ent i := State.ent_of_mary (by simp) i
@[simp] theorem State.pendRootK_ent (k : Int) (i : Nat) : (s.pendRootK k).ent i = s.ent i := State.ent_of_mary (by simp) i
theorem State.modEnt_ent_same (i : Nat) (f : RefEnt → RefEnt) (h : i < 8) : (s.modEnt i f).ent i = f (s.ent i) := by
  simp [State.modEnt, State.ent, h]
theorem State.modEnt_ent_other (i j : Nat) (f : RefEnt → RefEnt) (h : i ≠ j) : (s.modEnt i f).ent j = s.ent j := by
  simp [State.modEnt, State.ent, vget_vmod_other _ _ _ _ _ h]
/-- A write of an entry that keeps all but REF_E_i of every entry. -/
theorem State.modEnt_ent_still (i j : Nat) (f : RefEnt → RefEnt) (h : ∀ x, (f x).still = x.still) :
    ((s.modEnt i f).ent j).still = (s.ent j).still := by
  by_cases hij : i = j
  · subst hij
    by_cases hi : i < 8
    · rw [State.modEnt_ent_same s i f hi, h]
    · simp [State.modEnt, State.ent, vmod, hi]
  · rw [State.modEnt_ent_other s i j f hij]
@[simp] theorem State.modSel_ent (f : Selector → Selector) (h : ∀ x, (f x).ents = x.ents) (j : Nat) : (s.modSel f).ent j = s.ent j := by
  rw [State.ent, State.modSel_sel, h, State.ent]

@[simp] theorem State.select_still (i j : Nat) : ((s.select i).ent j).still = (s.ent j).still := by
  unfold State.select
  split
  · exact State.modEnt_ent_still s i j _ (fun x => by unfold RefEnt.zero; split <;> rfl)
  · rfl
@[simp] theorem State.raiseRef_ent (b j : Nat) : (s.raiseRef b).ent j = s.ent j := rfl
@[simp] theorem State.noteLocked_ent (i j : Nat) : (s.noteLocked i).ent j = s.ent j := rfl
@[simp] theorem State.enterHold_ent (k : Int) (j : Nat) : (s.enterHold k).ent j = s.ent j := by
  rw [State.enterHold, State.pendRootK_ent]
  rfl
@[simp] theorem State.enterLocked_still (i j : Nat) : ((s.enterLocked i).ent j).still = (s.ent j).still := s.select_still i j
@[simp] theorem State.switchTo_still (i j : Nat) : ((s.switchTo i).ent j).still = (s.ent j).still := by
  rw [State.switchTo, State.noteLocked_ent, State.bump_ent, State.select_still]
@[simp] theorem State.selFree_still (j : Nat) : (s.selFree.ent j).still = (s.ent j).still := by
  unfold State.selFree
  dsimp only
  (repeat' split)
  case h_1 => exact s.select_still _ j
  all_goals simp
@[simp] theorem State.selAct_still (j : Nat) : (s.selAct.ent j).still = (s.ent j).still := by
  unfold State.selAct
  dsimp only
  (repeat' split)
  all_goals simp

/-! ## The operations, case by case -/

theorem opRefApply_of_bad (h : refCheck (s.reg .mary 0x98000) ((List.range 8).map (fun i => s.reg64 .mary (0x98008 + 8 * i))) ≠ 0) :
    opRefApply s = (s.refuse .mary 0x98404).modSel (fun x =>
      { x with why := refCheck (s.reg .mary 0x98000) ((List.range 8).map (fun i => s.reg64 .mary (0x98008 + 8 * i))) }) := by
  rw [opRefApply, if_pos h]
theorem opRefApply_of_ht (h : refCheck (s.reg .mary 0x98000) ((List.range 8).map (fun i => s.reg64 .mary (0x98008 + 8 * i))) = 0)
    (hh : s.rootHasHt = true) : opRefApply s = s.secondPicot.modSel (fun x =>
      { x with pendTab := some (s.reg .mary 0x98000, (List.range 8).map (fun i => s.reg64 .mary (0x98008 + 8 * i))) }) := by
  rw [opRefApply, if_neg (by simp [h])]
  simp only [hh, if_true]
theorem opRefApply_of_no_ht (h : refCheck (s.reg .mary 0x98000) ((List.range 8).map (fun i => s.reg64 .mary (0x98008 + 8 * i))) = 0)
    (hh : s.rootHasHt = false) : opRefApply s = (s.modSel (fun x =>
      { x with pendTab := some (s.reg .mary 0x98000, (List.range 8).map (fun i => s.reg64 .mary (0x98008 + 8 * i))) })).rootSecond := by
  rw [opRefApply, if_neg (by simp [h])]
  simp only [hh, Bool.false_eq_true, if_false]

theorem opRefMeasurement_of_idle {i : Nat} (m : RefMeas) (h : (s.ent i).stat = .lost ∨ (s.ent i).stat = .disabled) :
    opRefMeasurement i m s = s := by
  unfold opRefMeasurement
  dsimp only
  rw [if_pos (by simp [h.symm])]
/-- A measurement of an entry that is neither lost nor disabled at a root goes by its kind. -/
theorem opRefMeasurement_of_live {i : Nat} (hr : s.isRoot .mary = true) (hl : (s.ent i).stat ≠ .lost) (hd : (s.ent i).stat ≠ .disabled) :
    (∀ n, opRefMeasurement i (.gate n) s = s.gateRef i n) ∧
    (∀ code apart j, refChan (refSrc (s.ent i).word) = some j → refPhase (s.ent i).word = true →
      opRefMeasurement i (.pulse code apart) s = s.pulseRef i j code apart) ∧
    (∀ code j, refChan (refSrc (s.ent i).word) = some j → refPhase (s.ent i).word = false →
      opRefMeasurement i (.edge code) s = s.edgeRef i j (refSrc (s.ent i).word) code) := by
  refine ⟨fun n => ?_, fun code apart j hj hp => ?_, fun code j hj hp => ?_⟩
  · rw [opRefMeasurement, if_neg (by simp [hr, hl, hd])]
  · rw [opRefMeasurement, if_neg (by simp [hr, hl, hd])]
    simp only [hj, hp, if_true]
  · rw [opRefMeasurement, if_neg (by simp [hr, hl, hd])]
    simp only [hj, hp, Bool.false_eq_true, if_false]

theorem State.gateRef_of_ok {i n : Nat} (hl : (s.ent i).stat ≠ .lost) (hd : (s.ent i).stat ≠ .disabled)
    (hg : gateOk (s.ent i).word n s.rootK = true) : s.gateRef i n = s.modEnt i (fun e => { e with gate := some n }) := by
  rw [State.gateRef, if_neg (by simp [hl, hd]), if_pos hg]
theorem State.gateRef_of_bad {i n : Nat} (hl : (s.ent i).stat ≠ .lost) (hd : (s.ent i).stat ≠ .disabled)
    (hg : gateOk (s.ent i).word n s.rootK = false) :
    s.gateRef i n = ((s.modEnt i (fun e => { e with gate := some n })).breakEnt i false).selAct := by
  rw [State.gateRef, if_neg (by simp [hl, hd]), if_neg (by simp [hg])]
theorem State.breakEnt_ent (i : Nat) (w : Bool) (hi : i < 8) : (s.breakEnt i w).ent i =
    { s.ent i with stat := .qualifying, since := s.rc .mary, sinceNW := if w then (s.ent i).sinceNW else s.rc .mary } := by
  rw [State.breakEnt, State.bumpIf_ent, State.modEnt_ent_same _ _ _ hi]

/-- An entry as a loss leaves it (R313). -/
def RefEnt.lose (x : RefEnt) : RefEnt := { x with stat := .lost, mustWtr := x.mustWtr || x.wasQual, label := none, last := none, gate := none }
theorem State.loseRef_still {i : Nat} (hi : i < 8) (hl : (s.ent i).stat ≠ .lost) (hd : (s.ent i).stat ≠ .disabled) :
    ((s.loseRef i).ent i).still = (s.ent i).lose.still := by
  rw [State.loseRef, if_neg (by simp [hl, hd]), State.selAct_still, State.modEnt_ent_same _ _ _ hi]
  rfl
theorem opRefLoss_of {i : Nat} {tmo : Bool} (hr : s.isRoot .mary = true) (he : refEn (s.ent i).word = true)
    (ht : tmo = false ∨ (refSrc (s.ent i).word ≠ 4 ∧ refSrc (s.ent i).word ≠ 5)) : opRefLoss i tmo s = s.loseRef i := by
  rw [opRefLoss, if_neg (by simp [hr, he])]
  rcases ht with rfl | ⟨h4, h5⟩
  · simp
  · simp [h4, h5]

theorem opRefQualified_of_other {i : Nat} (h : (s.ent i).stat ≠ .qualifying) : opRefQualified i s = s := by
  rw [opRefQualified, if_pos (by simp [h])]
/-- An entry as passing its conditions leaves it (R313, R315): it waits to restore when `w`. -/
def RefEnt.qualify (x : RefEnt) (w : Bool) (rc : W64) : RefEnt :=
  { x with stat := if w then .wtr else .qualified, wasQual := true, wtrAt := rc, mustWtr := w }
theorem opRefQualified_still {i : Nat} (hi : i < 8) (hr : s.isRoot .mary = true) (hq : (s.ent i).stat = .qualifying)
    (hs : refSrc (s.ent i).word < 6 ∨ 7 < refSrc (s.ent i).word) : ∃ rc, ((opRefQualified i s).ent i).still =
      ((s.ent i).qualify ((s.ent i).mustWtr && decide (refWtr s.mary.sel.ctl > 0)) rc).still := by
  rw [opRefQualified, if_neg (by simp [hr, hq]; omega)]
  dsimp only
  rw [State.selAct_still, State.modEnt_ent_same _ _ _ hi, State.advAfter_ent]
  exact ⟨_, rfl⟩

theorem opRefWtrEnd_still {i : Nat} (hi : i < 8) (hr : s.isRoot .mary = true) (hq : (s.ent i).stat = .wtr) :
    ((opRefWtrEnd i s).ent i).still = ({ s.ent i with stat := .qualified, mustWtr := false } : RefEnt).still := by
  rw [opRefWtrEnd, if_neg (by simp [hr, hq]), State.selAct_still, State.modEnt_ent_same _ _ _ hi, State.advAfter_ent]
theorem opRefPresent_of {i : Nat} (hr : s.isRoot .mary = true) (hq : (s.ent i).stat = .lost) :
    opRefPresent i s = s.modEnt i (fun e => { e with stat := .qualifying, since := s.rc .mary, sinceNW := s.rc .mary }) := by
  rw [opRefPresent, if_neg (by simp [hr, hq])]

end

/-- Settles O51: each operation's case; what the selector does on it keeps all of an entry but REF_E_i. -/
theorem referenceEntries : Obligations.ReferenceEntries := by
  refine ⟨fun s src ht h hh => exec_access rfl ht (opRefApply_of_ht _ h hh), fun s src ht h hh => exec_access rfl ht (opRefApply_of_no_ht _ h hh),
    fun s src ht h => ?_, fun s i m hl hr h => exec_liveC rfl hl (opRefMeasurement_of_idle s m h), fun s i n hl hr h1 h2 hg => ?_,
    fun s i n hl hr h1 h2 hg => ?_, fun s i j code apart hl hr h1 h2 hj hp => ?_, fun s i j code hl hr h1 h2 hj hp => ?_,
    fun s i tmo hl hr he ht h1 h2 => ?_, fun s i hl hr hq hs => ?_, fun s i hl h => exec_liveC rfl hl (opRefQualified_of_other s h),
    fun s i hl hr hq => ?_, fun s i hl hr hq => exec_live rfl hl (opRefPresent_of s hr hq)⟩
  · refine .of_access rfl ht (opRefApply_of_bad _ h) ?_
    rw [State.noteRefused_sel]
    exact ⟨rfl, by simp, State.cellar_of_part (by simp), State.leaf_of_part (by simp)⟩
  · exact exec_liveC rfl hl (((opRefMeasurement_of_live s hr h1 h2).1 n).trans (s.gateRef_of_ok h1 h2 hg))
  · refine .of_liveC rfl hl (((opRefMeasurement_of_live s hr h1 h2).1 n).trans (s.gateRef_of_bad h1 h2 hg)) ?_
    have he : (((((s.modEnt i.val (fun e => { e with gate := some n })).breakEnt i.val false).selAct).ent i.val).still) = _ := State.selAct_still _ _
    rw [State.breakEnt_ent _ _ _ i.isLt, State.modEnt_ent_same _ _ _ i.isLt] at he
    rw [State.convRefresh_ent]
    exact ⟨RefEnt.stat_of_still he, RefEnt.gate_of_still he, State.leaf_of_part (by simp)⟩
  · exact exec_liveC rfl hl ((opRefMeasurement_of_live s hr h1 h2).2.1 code apart j hj hp)
  · exact exec_liveC rfl hl ((opRefMeasurement_of_live s hr h1 h2).2.2 code j hj hp)
  · refine .of_liveC rfl hl (opRefLoss_of s hr he ht) ?_
    have hs := s.loseRef_still i.isLt h1 h2
    rw [State.convRefresh_ent]
    exact ⟨RefEnt.stat_of_still hs, RefEnt.label_of_still hs, RefEnt.last_of_still hs, RefEnt.gate_of_still hs, RefEnt.mustWtr_of_still hs,
      State.leaf_of_part (by simp)⟩
  · refine .of_liveC rfl hl rfl ?_
    obtain ⟨rc, h⟩ := opRefQualified_still s i.isLt hr hq hs
    rw [State.convRefresh_ent, RefEnt.stat_of_still h, RefEnt.wasQual_of_still h, RefEnt.mustWtr_of_still h]
    exact ⟨by simp [RefEnt.qualify], rfl, by simp [RefEnt.qualify], State.leaf_of_part (by simp)⟩
  · refine .of_liveC rfl hl rfl ?_
    have h := opRefWtrEnd_still s i.isLt hr hq
    rw [State.convRefresh_ent]
    exact ⟨RefEnt.stat_of_still h, RefEnt.mustWtr_of_still h, State.leaf_of_part (by simp)⟩

end Sys2Proof.Machine
end

section
/-! What a root gives the site: its pulses, the time of day, ESMC and the IEEE 1588 ports (R320 to R332). -/

namespace Sys2Proof.Machine

section
variable (s : State)

/-! ## Pulses, the time of day -/

theorem State.ppsAt_of_live {n t : Nat} (h : s.outLive n (nearSec (t - s.ppsOfs n)) = true) : s.ppsAt n t =
    (s.advHt .mary (t * 2 ^ 24)).modMary (fun m => { m with pps := vmod m.pps n (fun _ => some (t, t + s.ppsWidth)) }) := if_neg (by simp [h])
theorem State.ppsAt_of_dead {n t : Nat} (h : s.outLive n (nearSec (t - s.ppsOfs n)) = false) : s.ppsAt n t = s := if_pos (by simp [h])
theorem opPpsOut_of_none {n : Nat} (h : s.isRoot .mary = false ∨ s.rootHasHt = false) : opPpsOut n s = s := if_pos (by simpa using h)
/-- A pulse within the present second is that second's. -/
theorem opPpsOut_of_now {n : Nat} (hr : s.isRoot .mary = true) (hh : s.rootHasHt = true)
    (hp : nextPulse (tu16 (s.secondPicot.ht .mary)) (s.secondPicot.ppsOfs n) < (tu16 (s.secondPicot.ht .mary) / sec16 + 1) * sec16) :
    opPpsOut n s = s.secondPicot.ppsAt n (nextPulse (tu16 (s.secondPicot.ht .mary)) (s.secondPicot.ppsOfs n)) := by
  rw [opPpsOut, if_neg (by simp [hr, hh])]
  exact if_pos hp
@[simp] theorem State.secondPicot_leaf : s.secondPicot.leaf = s.leaf := State.leaf_of_part (by simp)

theorem opTodSentence_of_dead (h : s.outLive 4 (nextPulse (tu16 (s.ht .mary)) (10000000 * 65536) / sec16) = false) : opTodSentence s = s :=
  if_pos (by rw [h]; rfl)
theorem opTodSentence_of_live (h : s.outLive 4 (nextPulse (tu16 (s.ht .mary)) (10000000 * 65536) / sec16) = true) : opTodSentence s =
    (s.advHt .mary (nextPulse (tu16 (s.ht .mary)) (10000000 * 65536) * 2 ^ 24)).modMary (fun m => { m with
      tod := todBytes (nextPulse (tu16 (s.ht .mary)) (10000000 * 65536) / sec16 + 1) s.utcOffset (leapLetter (s.fld .mary 0x9821C 17 16))
        s.mary.sel.st.letter s.clockClass (if s.mary.sel.st = .holdover then s.mary.sel.holdSec else 0) }) := if_neg (by rw [h]; nofun)

/-! ## ESMC -/

@[simp] theorem State.modPtp_sel (k : Nat) (f : PtpPort → PtpPort) : (s.modPtp k f).mary.sel = s.mary.sel := rfl
theorem State.modPtp_ptpPort_same (k : Nat) (f : PtpPort → PtpPort) (h : k < 2) : (s.modPtp k f).ptpPort k = f (s.ptpPort k) := by
  simp [State.modPtp, State.ptpPort, h]
theorem State.modPtp_ptpPort_other (k j : Nat) (f : PtpPort → PtpPort) (h : k ≠ j) : (s.modPtp k f).ptpPort j = s.ptpPort j := by
  simp [State.modPtp, State.ptpPort, vget_vmod_other _ _ _ _ _ h]
theorem State.ptpPort_of_mary {s t : State} (h : t.mary = s.mary) (k : Nat) : t.ptpPort k = s.ptpPort k := by
  rw [State.ptpPort, h, State.ptpPort]
@[simp] theorem State.convRefresh_ptpPort (j : NodeSel) (k : Nat) : (s.convRefresh j).ptpPort k = s.ptpPort k := State.ptpPort_of_mary (by simp) k
theorem opEsmcRx_of_good {k : Nat} {q : BitVec 4} (hr : s.isRoot .mary = true) (h : (s.reg .mary (tReg k 0x20)).getLsbD (16 + q.toNat) = true) :
    opEsmcRx k q s = s.modPtp k (fun p => { p with qlRx := q, qlBad := false, esmcAt := s.rc .mary }) := by
  rw [opEsmcRx, if_neg (by simp [hr])]
  simp [h]
theorem opEsmcSend_of_root {k : Nat} (hr : s.isRoot .mary = true) : opEsmcSend k s = s.modPtp k (fun p =>
    { p with esmcSent := some (if s.mary.sel.st = .locked then (s.reg .mary (tReg k 0x20)).extractLsb' 0 4
                               else (s.reg .mary (tReg k 0x20)).extractLsb' 4 4) }) := if_neg (by simp [hr])
theorem opEsmcTimeout_of_root {k : Nat} (hr : s.isRoot .mary = true) :
    opEsmcTimeout k s = (s.advAfter .mary (s.ptpPort k).esmcAt (5 * cyclesS)).loseSrc (6 + k) := if_neg (by simp [hr])

/-- Losing an entry leaves another one's state as it was. -/
theorem State.loseRef_stat_other {i j : Nat} (h : j ≠ i) : ((s.loseRef j).ent i).stat = (s.ent i).stat := by
  unfold State.loseRef
  dsimp only
  split
  · rfl
  · exact (RefEnt.stat_of_still (State.selAct_still _ i)).trans (by rw [State.modEnt_ent_other _ _ _ _ h])
theorem State.loseRef_stat_same {i : Nat} (hi : i < 8) (hd : (s.ent i).stat ≠ .disabled) : ((s.loseRef i).ent i).stat = .lost := by
  by_cases hl : (s.ent i).stat = .lost
  · rw [State.loseRef, if_pos (Or.inr hl), hl]
  · rw [RefEnt.stat_of_still (s.loseRef_still hi hl hd)]
    rfl
/-- Entries lost one after another: each one of the list is LOST. -/
theorem State.each_loseRef {i : Nat} (hi : i < 8) (l : List Nat) :
    (s.ent i).stat ≠ .disabled → (i ∈ l ∨ (s.ent i).stat = .lost) → ((s.each l (fun s i => s.loseRef i)).ent i).stat = .lost := by
  induction l generalizing s with
  | nil => exact fun _ h => by simpa [State.each] using h
  | cons j l ih =>
    intro hd h
    show (((s.loseRef j).each l _).ent i).stat = .lost
    by_cases hj : j = i
    · subst hj
      have := s.loseRef_stat_same hi hd
      exact ih _ (by simp [this]) (Or.inr this)
    · rw [← State.loseRef_stat_other s hj] at hd h
      exact ih _ hd (h.imp_left fun hm => (List.mem_cons.mp hm).resolve_left (fun e => hj e.symm))
theorem State.loseSrc_stat {i n : Nat} (hi : i < 8) (he : refEn (s.ent i).word = true) (hs : refSrc (s.ent i).word = n)
    (hd : (s.ent i).stat ≠ .disabled) : ((s.loseSrc n).ent i).stat = .lost :=
  s.each_loseRef hi _ hd (Or.inl (by simp [he, hs, hi]))

/-! ## The IEEE 1588 ports -/

theorem State.ptpUpdate_ptpPort (k : Nat) (h : k < 2) : (s.ptpUpdate k).ptpPort k = { s.ptpPort k with state := s.ptpDecide k } :=
  s.modPtp_ptpPort_same k _ h
/-- Deciding a port's state leaves every port's master. -/
@[simp] theorem State.ptpUpdate_master (j k : Nat) : ((s.ptpUpdate j).ptpPort k).master = (s.ptpPort k).master := by
  by_cases h : j = k
  · subst h
    by_cases hj : j < 2
    · rw [State.ptpUpdate_ptpPort _ _ hj]
    · simp [State.ptpUpdate, State.modPtp, State.ptpPort, vmod, hj]
  · rw [State.ptpUpdate, State.modPtp_ptpPort_other _ _ _ _ h]
theorem State.ptpEmit_ptpPort (k : Nat) (ms : List PtpSent) (h : k < 2) :
    (s.ptpEmit k ms).ptpPort k = { s.ptpPort k with sent := ms, seq := (s.ptpPort k).seq + 1 } := s.modPtp_ptpPort_same k _ h

section
variable {k : Nat} {m : PtpMsg}

theorem opPtpRx_of_malformed (ho : s.ptpOn k = true) (hk : m.kind = .malformed) : opPtpRx k m s = s.bump .mary (tReg k 0x100) := by
  simp [opPtpRx, ho, hk]
theorem opPtpRx_of_none (h : s.ptpOn k = false ∨ (m.kind ≠ .malformed ∧ m.domainNum.toNat ≠ s.effFld .mary (tReg k 4) 6 0)) :
    opPtpRx k m s = s := by
  rcases h with h | ⟨hm, hd⟩
  · simp [opPtpRx, h]
  · simp [opPtpRx, hm, hd]
theorem opPtpRx_delayReq (ho : s.ptpOn k = true) (hk : m.kind = .delayReq) (hd : m.domainNum.toNat = s.effFld .mary (tReg k 4) 6 0)
    (hs : (s.ptpPort k).state = 6) : opPtpRx k m s = s.modPtp k (fun p =>
      { p with sent := [{ s.ptpMsg k .delayResp m.seqId (s.ptpLog k 24) with stamp := (m.rx : Int) - Config.ptpIngress k,
                                                                               requester := m.source }] }) := by
  simp [opPtpRx, ho, hk, hd, hs]
theorem opPtpRx_announce (ho : s.ptpOn k = true) (hk : m.kind = .announce) (hd : m.domainNum.toNat = s.effFld .mary (tReg k 4) 6 0)
    (hm : (s.ptpPort k).master = none) : opPtpRx k m s = ((s.modPtp k (fun p => { p with master := some m })).ptpUpdate 0).ptpUpdate 1 := by
  simp [opPtpRx, ho, hk, hd, hm]
theorem opPtpRx_sync (ho : s.ptpOn k = true) (hk : m.kind = .sync) (ht : m.twoStep = true)
    (hd : m.domainNum.toNat = s.effFld .mary (tReg k 4) 6 0) (hf : s.ptpFrom k m = true) : opPtpRx k m s = s.modPtp k (fun p =>
      { p with sync := some (m.seqId, none, (m.rx : Int) - Config.ptpIngress k, m.correction) }) := by
  simp [opPtpRx, ho, hk, hd, ht, hf]

theorem opPtpSend_of_off {q : PtpSendKind} (h : s.ptpOn k = false) : opPtpSend k q s = s := if_pos (by simp [h])
theorem opPtpSend_sync (hk : k < 2) (ho : s.ptpOn k = true) (hd : s.ptpDecide k = 6) :
    opPtpSend k .sync s = (s.ptpUpdate k).ptpEmit k ((s.ptpUpdate k).ptpSyncMsgs k) := by
  simp [opPtpSend, ho, s.ptpUpdate_ptpPort k hk, hd]
theorem opPtpSend_announce (ho : s.ptpOn k = true) (hs : (((s.commitAnnounce k).ptpUpdate k).ptpPort k).state = 6) : opPtpSend k .announce s =
    ((s.commitAnnounce k).ptpUpdate k).ptpEmit k [{ ((s.commitAnnounce k).ptpUpdate k).ptpMsg k .announce
      (((s.commitAnnounce k).ptpUpdate k).ptpPort k).seq (((s.commitAnnounce k).ptpUpdate k).ptpLog k 8) with
        ann := some (((s.commitAnnounce k).ptpUpdate k).ptpAnnounce k) }] := by
  simp [opPtpSend, ho, hs]
theorem opPtpSend_delayReq (hk : k < 2) (ho : s.ptpOn k = true) (hd : s.ptpDecide k = 9) : opPtpSend k .delayReq s =
    ((s.ptpUpdate k).ptpEmit k [(s.ptpUpdate k).ptpMsg k .delayReq (s.ptpPort k).seq 127]).modPtp k (fun p =>
      { p with dreq := some ((s.ptpPort k).seq, ((s.ptpUpdate k).ptpMsg k .delayReq (s.ptpPort k).seq 127).at_) }) := by
  simp [opPtpSend, ho, s.ptpUpdate_ptpPort k hk, hd]
  rfl

end
end

/-- Settles O55: each message's and each send's case. -/
theorem ptpPorts : Obligations.PtpPorts := by
  refine ⟨fun s k m hl ho hk => ?_, fun s k m hl ho hk hd hs => ?_, fun s k m hl ho hk hd hm => ?_, fun s k m hl ho hk ht hd hf => ?_,
    fun s k m hl h => exec_liveC rfl hl (opPtpRx_of_none s h), fun s k hl ho hd => ?_, fun s k hl ho hs => ?_, fun s k hl ho hd => ?_,
    fun s k q hl h => exec_live rfl hl (opPtpSend_of_off s h)⟩
  · refine .of_liveC rfl hl (opPtpRx_of_malformed s ho hk) ?_
    have hc : tReg k.val 0x100 ≠ tOff .mary 0x1214 := by simp only [tReg, tOff]; omega
    exact ⟨by simp [State.convRefresh_count_other _ _ _ _ hc], by simp, State.cellar_of_part (by simp), State.leaf_of_part (by simp)⟩
  · refine .of_liveC rfl hl (opPtpRx_delayReq s ho hk hd hs) ?_
    rw [State.convRefresh_ptpPort, State.modPtp_ptpPort_same _ _ _ k.isLt]
    exact ⟨rfl, by simp, State.cellar_of_part (by simp), State.leaf_of_part (by simp)⟩
  · refine .of_liveC rfl hl (opPtpRx_announce s ho hk hd hm) ?_
    rw [State.convRefresh_ptpPort, State.ptpUpdate_master, State.ptpUpdate_master, State.modPtp_ptpPort_same _ _ _ k.isLt]
    exact ⟨rfl, State.cellar_of_part (by simp), State.leaf_of_part (by simp)⟩
  · refine .of_liveC rfl hl (opPtpRx_sync s ho hk ht hd hf) ?_
    rw [State.convRefresh_ptpPort, State.modPtp_ptpPort_same _ _ _ k.isLt]
    exact ⟨rfl, State.cellar_of_part (by simp), State.leaf_of_part (by simp)⟩
  · refine .of_live rfl hl (opPtpSend_sync s k.isLt ho hd) ?_
    rw [State.ptpEmit_ptpPort _ _ _ k.isLt, State.ptpUpdate_ptpPort _ _ k.isLt]
    exact ⟨rfl, rfl, hd, rfl, rfl, rfl⟩
  · refine .of_live rfl hl (opPtpSend_announce s ho hs) ?_
    rw [State.ptpEmit_ptpPort _ _ _ k.isLt]
    exact ⟨rfl, rfl, rfl, State.leaf_of_part (by simp)⟩
  · refine .of_live rfl hl (opPtpSend_delayReq s k.isLt ho hd) ?_
    rw [State.modPtp_ptpPort_same _ _ _ k.isLt, State.ptpEmit_ptpPort _ _ _ k.isLt, State.ptpUpdate_ptpPort _ _ k.isLt]
    exact ⟨⟨rfl, rfl⟩, rfl, hd, rfl, rfl, rfl⟩

/-- Settles O54: each operation's case. -/
theorem siteOutputs : Obligations.SiteOutputs := by
  refine ⟨fun s n hl hr hh hp h => ?_, fun s n hl hr hh hp h => exec_live rfl hl ((opPpsOut_of_now s hr hh hp).trans (State.ppsAt_of_dead _ h)),
    fun s n hl h => exec_live rfl hl (opPpsOut_of_none s h), fun s hl h => ?_, fun s hl h => exec_live rfl hl (opTodSentence_of_dead s h),
    fun s k q hl hr h => ?_, fun s k hl hr => exec_live rfl hl (opEsmcSend_of_root s hr), fun s k i hl hr he hs hd => ?_⟩
  · refine .of_live rfl hl ((opPpsOut_of_now s hr hh hp).trans (State.ppsAt_of_live _ h)) ?_
    exact ⟨by simp [n.isLt], by simp, State.cellar_of_part (by simp), by simp⟩
  · refine .of_live rfl hl (opTodSentence_of_live s h) ?_
    exact ⟨by simp, by simp, State.cellar_of_part (by simp), State.leaf_of_part (by simp)⟩
  · refine .of_liveC rfl hl (opEsmcRx_of_good s hr h) ?_
    rw [State.convRefresh_ptpPort, State.modPtp_ptpPort_same _ _ _ k.isLt]
    exact ⟨rfl, rfl, rfl, by simp, State.cellar_of_part (by simp), State.leaf_of_part (by simp)⟩
  · refine .of_liveC rfl hl (opEsmcTimeout_of_root s hr) ?_
    rw [State.convRefresh_ent]
    exact ⟨State.loseSrc_stat _ i.isLt (by simpa using he) (by simpa using hs) (by simpa using hd), State.cellar_of_part (by simp), State.leaf_of_part (by simp)⟩

end Sys2Proof.Machine
end

section
/-! The cellar (R334 to R351): words written one by one, ceilings raised, and the anchor kept for the time without power. -/

namespace Sys2Proof.Machine

/-! ## A word written and read back -/

/-- The first `n` bytes of a word, each at its weight, are the word modulo `256 ^ n`. -/
theorem leBytes_sum (v : W64) (n : Nat) : ((((List.range n).map (fun i => v.extractLsb' (8 * i) 8)).zipIdx).foldl
    (fun a p => a + p.1.toNat * 2 ^ (8 * p.2)) 0) = v.toNat % 256 ^ n := by
  induction n with
  | zero => simp [Nat.mod_one]
  | succ n ih =>
    have hw : 2 ^ (n * 8) = 256 ^ n := by rw [Nat.mul_comm, Nat.pow_mul]
    rw [List.range_succ, List.map_append, List.zipIdx_append, List.foldl_append, ih, Nat.mod_pow_succ]
    simp [Nat.shiftRight_eq_div_pow, hw, Nat.mul_comm]

/-- The bytes of a word make it up again (R334). -/
theorem leWord_wordLe (v : W64) : leWord (wordLe v) = v := by
  apply BitVec.eq_of_toNat_eq
  have hv : v.toNat < 256 ^ 8 := v.isLt
  rw [leWord, wordLe, leBytes_sum, BitVec.toNat_ofNat, Nat.mod_eq_of_lt hv, Nat.mod_eq_of_lt v.isLt]
theorem memWord_mputs_same (m : List Host.Cell) (w : Nat) (v : W64) (h : Memory.wf m = true) :
    memWord (mputs m (8 * w) (wordLe v)) w = v := by
  have hl : (wordLe v).length = 8 := by simp [wordLe]
  refine Eq.trans ?_ (leWord_wordLe v)
  unfold memWord
  congr 1
  refine List.ext_getElem (by simp [hl]) (fun i h1 h2 => ?_)
  simp only [List.getElem_map, List.getElem_range]
  exact mget_mputs_inside m (8 * w) i (wordLe v) h h2

section
variable (s : State)

/-- A word written while the supply is up and its block's count does not come round (R335, R346). -/
theorem State.celNow_of_plain {w : Nat} {v : W64} (hs : s.cellar.supply = true)
    (hn : ((sget s.cellar.wear (celBlock w)).getD 0 + 1) % 4096 ≠ 0) : s.celNow w v = s.modCellar (fun c =>
      { c with mem := mputs c.mem (8 * w) (wordLe v),
               rate := (sput s.celRate.1 (celBlock w) ((sget s.celRate.1 (celBlock w)).getD 0 + 1), s.celRate.2),
               wear := sput c.wear (celBlock w) ((sget c.wear (celBlock w)).getD 0 + 1), bad := c.bad.filter (fun x => x != w) }) := by
  have hr : s.celRaw w v = s.modCellar (fun c =>
      { c with mem := mputs c.mem (8 * w) (wordLe v),
               rate := (sput s.celRate.1 (celBlock w) ((sget s.celRate.1 (celBlock w)).getD 0 + 1), s.celRate.2),
               wear := sput c.wear (celBlock w) ((sget c.wear (celBlock w)).getD 0 + 1), bad := c.bad.filter (fun x => x != w) }) :=
    if_neg (by simp [hs])
  rw [State.celNow, State.celWrite, if_neg, hr]
  rw [hr]
  simp [hn]

@[simp] theorem State.celWaitCap_cellar (w : Nat) : (s.celWaitCap w).cellar = s.cellar := State.cellar_of_part (by simp)

/-! ## CELLAR_WRITE -/

/-- The state in which the first queued word has been written. -/
def State.cellarWrote (s : State) (q : CelWord) (rest : List CelWord) : State :=
  ((s.celWaitCap q.word).modCellar (fun c => { c with queue := rest })).celNow q.word q.val

theorem State.cellarWrote_cellar {q : CelWord} (rest : List CelWord) (hs : s.cellar.supply = true)
    (hn : ((sget s.cellar.wear (celBlock q.word)).getD 0 + 1) % 4096 ≠ 0) : ∃ r b, (s.cellarWrote q rest).cellar =
      { s.cellar with queue := rest, mem := mputs s.cellar.mem (8 * q.word) (wordLe q.val), rate := r, bad := b,
                      wear := sput s.cellar.wear (celBlock q.word) ((sget s.cellar.wear (celBlock q.word)).getD 0 + 1) } := by
  rw [State.cellarWrote, State.celNow_of_plain _ (by simpa using hs) (by simpa using hn)]
  exact ⟨_, _, by rw [State.modCellar_cellar, State.modCellar_cellar, State.celWaitCap_cellar]⟩

theorem opCellarWrite_of_none (h : s.cellar.queue = [] ∨ s.cellar.supply = false ∨ s.celClosed = true) : opCellarWrite s = s := by
  unfold opCellarWrite
  split
  · rfl
  · next q rest hq =>
    rw [if_pos]
    rcases h with h | h | h <;> simp_all
theorem opCellarWrite_of {q : CelWord} {rest : List CelWord} (hq : s.cellar.queue = q :: rest) (hs : s.cellar.supply = true)
    (hc : s.celClosed = false) : opCellarWrite s =
      (if celGrant ≤ q.word ∧ q.word < celRwp ∧ q.word % 4 = 3 then (s.cellarWrote q rest).grantDone else s.cellarWrote q rest).syncDone := by
  unfold opCellarWrite
  simp only [hq]
  rw [if_neg (by simp [hs, hc])]
  rfl

@[simp] theorem State.syncDone_cellar : s.syncDone.cellar = s.cellar := State.cellar_of_part (by simp)
@[simp] theorem State.syncDone_root (k : NodeSel) : s.syncDone.root k = s.root k := State.root_of_part (by simp) k
@[simp] theorem State.cellarWrote_root (q : CelWord) (rest : List CelWord) (k : NodeSel) : (s.cellarWrote q rest).root k = s.root k :=
  State.root_of_part (by simp [State.cellarWrote]) k
theorem State.cellarWrote_held {q : CelWord} (rest : List CelWord) (hs : s.cellar.supply = true)
    (hn : ((sget s.cellar.wear (celBlock q.word)).getD 0 + 1) % 4096 ≠ 0) : (s.cellarWrote q rest).cellar.held = s.cellar.held := by
  obtain ⟨r, b, h⟩ := s.cellarWrote_cellar rest hs hn
  rw [h]
/-- What the medium holds once a word is written: that word, and every other one as before. -/
theorem celWord_of_mem {s t : State} {w : Nat} {v : W64} (hm : t.cellar.mem = mputs s.cellar.mem (8 * w) (wordLe v)) (hc : s.canonical) :
    t.celWord w = v ∧ ∀ x, x ≠ w → t.celWord x = s.celWord x := by
  simp only [State.celWord, hm]
  exact ⟨memWord_mputs_same _ _ _ hc, fun x hx => memWord_mputs_other _ _ _ _ hx⟩

/-- The end of a grant record gives the window of the first grant held. -/
theorem State.grantDone_of {sd : Sd} {lo hi : W64} {hs : List (Family × HeldOp)} (h : s.cellar.held = (.step, .grant sd lo hi) :: hs) :
    s.grantDone = (s.modCellar (fun c => { c with held := hs })).setWin .mary sd lo hi := by
  simp [State.grantDone, h, State.modCellar]

/-! ## Ceilings -/

theorem State.releaseHeld_of_none {r : Raise} (h : s.cellar.held.filter (heldFor r) = []) : s.releaseHeld r = s := by
  have hk : s.cellar.held.filter (fun x => !heldFor r x) = s.cellar.held :=
    List.filter_eq_self.mpr (fun x hx => by simp [List.filter_eq_nil_iff.mp h x hx])
  rw [State.releaseHeld, h]
  simp only [State.each, List.foldl_nil, State.modCellar, hk]

/-- The two copies of a ceiling lie in two blocks. -/
theorem celBlock_copies (f : Family) : celBlock (celCeilA + f.word) ≠ celBlock (celCeilB + f.word) := by
  simp only [celBlock, celCeilA, celCeilB]
  omega
theorem celCopies_ne (f : Family) : celCeilA + f.word ≠ celCeilB + f.word := by simp [celCeilA, celCeilB]

/-- The state in which both copies of a ceiling have been written. -/
def State.ceilWrote (s : State) (r : Raise) : State :=
  (s.celNow (celCeilA + r.fam.word) (BitVec.ofNat 64 r.ceil)).celNow (celCeilB + r.fam.word) (BitVec.ofNat 64 r.ceil)

theorem State.ceilWrote_eq {r : Raise} (hs : s.cellar.supply = true)
    (ha : ((sget s.cellar.wear (celBlock (celCeilA + r.fam.word))).getD 0 + 1) % 4096 ≠ 0)
    (hb : ((sget s.cellar.wear (celBlock (celCeilB + r.fam.word))).getD 0 + 1) % 4096 ≠ 0) : ∃ ra w b, s.ceilWrote r = s.modCellar (fun c =>
      { c with mem := mputs (mputs c.mem (8 * (celCeilA + r.fam.word)) (wordLe (BitVec.ofNat 64 r.ceil))) (8 * (celCeilB + r.fam.word))
                 (wordLe (BitVec.ofNat 64 r.ceil)), rate := ra, wear := w, bad := b }) := by
  rw [State.ceilWrote, State.celNow_of_plain s hs ha, State.celNow_of_plain]
  · exact ⟨_, _, _, rfl⟩
  · exact hs
  · rw [State.modCellar_cellar, sget_sput_other _ _ _ _ (celBlock_copies r.fam).symm]
    exact hb

/-- The edge at which a raise is written: ten milliseconds after the last, and under the cap (R336, R338). -/
def State.raiseEdge (s : State) (r : Raise) : State :=
  ((match s.cellar.raiseAt with | some t => s.advAfter .mary t (10 * cyclesMs) | none => s).celWaitCap (celCeilA + r.fam.word)).celWaitCap
    (celCeilB + r.fam.word)
@[simp] theorem State.raiseEdge_part (pt : Part) (r : Raise) (ht : pt ≠ .time) (hn : pt ≠ .node .mary) :
    (s.raiseEdge r).part pt = s.part pt := by
  unfold State.raiseEdge
  split <;> simp [ht, hn]

/-- What the medium holds once both copies of a ceiling are written. -/
theorem celWord_of_copies {s t : State} {f : Family} {v : W64} (hm : t.cellar.mem = mputs (mputs s.cellar.mem (8 * (celCeilA + f.word)) (wordLe v))
      (8 * (celCeilB + f.word)) (wordLe v)) (hc : s.canonical) : t.celWord (celCeilA + f.word) = v ∧ t.celWord (celCeilB + f.word) = v ∧
    ∀ w, w ≠ celCeilA + f.word → w ≠ celCeilB + f.word → t.celWord w = s.celWord w := by
  simp only [State.celWord, hm]
  refine ⟨?_, memWord_mputs_same _ _ _ (mputs_wf _ _ _ hc), fun w ha hb => ?_⟩
  · rw [memWord_mputs_other _ _ _ _ (celCopies_ne f), memWord_mputs_same _ _ _ hc]
  · rw [memWord_mputs_other _ _ _ _ hb, memWord_mputs_other _ _ _ _ ha]
theorem opCeilingRaise_of {r : Raise} {rest : List Raise} (hr : s.cellar.raises = r :: rest) (hn : s.cellar.raising = none)
    (hs : s.cellar.supply = true) (hc : s.celClosed = false) (hw : s.ceilWaits = false) (hf : s.famCtr r.fam ≤ r.ceil) :
    opCeilingRaise s = ((s.raiseEdge r).ceilWrote r).modCellar
      (fun c => { c with raises := rest, raising := some r, raiseAt := some ((s.raiseEdge r).rc .mary) }) := by
  unfold opCeilingRaise
  simp only [hr, hn]
  rw [if_neg (by simp [hs, hc, hw]), if_neg (Nat.not_lt.mpr hf)]
  rfl
/-- The cellar after both copies of a raise are written at the edge `at_`. -/
def Cellar.copied (c : Cellar) (r : Raise) (rest : List Raise) (at_ : W64) (rate : Sparse Nat × W64) (wear : Sparse Nat) (bad : List Nat) : Cellar :=
  { c with
    mem := mputs (mputs c.mem (8 * (celCeilA + r.fam.word)) (wordLe (BitVec.ofNat 64 r.ceil))) (8 * (celCeilB + r.fam.word))
      (wordLe (BitVec.ofNat 64 r.ceil)),
    rate := rate, wear := wear, bad := bad, raises := rest, raising := some r, raiseAt := some at_ }
theorem opCeilingRaise_copied {r : Raise} {rest : List Raise} (hr : s.cellar.raises = r :: rest) (hn : s.cellar.raising = none)
    (hs : s.cellar.supply = true) (hc : s.celClosed = false) (hw : s.ceilWaits = false) (hf : s.famCtr r.fam ≤ r.ceil)
    (ha : ((sget s.cellar.wear (celBlock (celCeilA + r.fam.word))).getD 0 + 1) % 4096 ≠ 0)
    (hb : ((sget s.cellar.wear (celBlock (celCeilB + r.fam.word))).getD 0 + 1) % 4096 ≠ 0) : ∃ ra w b, opCeilingRaise s =
      (s.raiseEdge r).modCellar (fun _ => s.cellar.copied r rest ((s.raiseEdge r).rc .mary) ra w b) := by
  have hec : (s.raiseEdge r).cellar = s.cellar := State.cellar_of_part (by simp)
  obtain ⟨ra, w, b, he⟩ := (s.raiseEdge r).ceilWrote_eq (r := r) (by rw [hec]; exact hs) (by rw [hec]; exact ha) (by rw [hec]; exact hb)
  refine ⟨ra, w, b, ?_⟩
  rw [opCeilingRaise_of s hr hn hs hc hw hf, he]
  simp only [State.modCellar, hec]
  rfl
theorem opCeilingRaise_of_low {r : Raise} {rest : List Raise} (hr : s.cellar.raises = r :: rest) (hn : s.cellar.raising = none)
    (hs : s.cellar.supply = true) (hc : s.celClosed = false) (hw : s.ceilWaits = false) (hf : r.ceil < s.famCtr r.fam)
    (hh : s.cellar.held.filter (heldFor r) = []) : opCeilingRaise s = s.modCellar (fun c => { c with raises := rest }) := by
  unfold opCeilingRaise
  simp only [hr, hn]
  rw [if_neg (by simp [hs, hc, hw]), if_pos hf]
  exact State.releaseHeld_of_none _ hh

/-- A raise whose copies are read back is done. -/
theorem opCeilingDone_of {r : Raise} (hr : s.cellar.raising = some r) (hc : s.ceilCopies r.fam = [r.ceil, r.ceil]) : opCeilingDone s =
    ((s.setCeil r.fam (max (s.famCeil r.fam) r.ceil)).modCellar (fun c => { c with raising := none })).releaseHeld r := by
  unfold opCeilingDone
  simp only [hr]
  rw [if_neg (by simp [hc])]
theorem State.modCellar_famCeil (g : Family) (f : Cellar → Cellar) (hs : ∀ c, (f c).stepCeil = c.stepCeil) (hv : ∀ c, (f c).vintCeil = c.vintCeil)
    (hg : ∀ c, (f c).genCeil = c.genCeil) : (s.modCellar f).famCeil g = s.famCeil g := by
  cases g <;> simp [State.famCeil, hs, hv, hg]
@[simp] theorem State.setCeil_famCeil_same (f : Family) (n : Nat) : (s.setCeil f n).famCeil f = n := by
  cases f <;> simp [State.setCeil, State.famCeil]
theorem State.setCeil_famCeil_other {f g : Family} (n : Nat) (h : g ≠ f) : (s.setCeil f n).famCeil g = s.famCeil g := by
  cases f <;> cases g <;> simp_all [State.setCeil, State.famCeil]
  next a b => rw [sget_sput_other _ _ _ _ (fun e => h (BitVec.eq_of_toNat_eq e))]
/-- Setting a ceiling leaves the rest of the cellar. -/
theorem State.setCeil_cellar (f : Family) (n : Nat) : ∃ a b g, (s.setCeil f n).cellar =
    { s.cellar with stepCeil := a, vintCeil := b, genCeil := g } := by
  cases f <;> exact ⟨_, _, _, rfl⟩
theorem State.setCtr_ctrOf {f : Family} {v : W64} (h : v.toNat ≤ f.cap) : (s.setCtr .mary f v).ctrOf .mary f = v.toNat := by
  cases f with
  | step => simp [State.setCtr, State.ctrOf]
  | vint =>
    simp only [Family.cap] at h
    simp [State.setCtr, State.ctrOf]
    omega
  | gen sd => simp [State.setCtr, State.ctrOf, Root.hwmOf]

@[simp] theorem State.setCeil_ctrOf (f g : Family) (n : Nat) (k : NodeSel) : (s.setCeil f n).ctrOf k g = s.ctrOf k g := by cases g <;> rfl
@[simp] theorem State.modCellar_ctrOf (f : Cellar → Cellar) (g : Family) (k : NodeSel) : (s.modCellar f).ctrOf k g = s.ctrOf k g := by
  cases g <;> rfl
theorem State.setCtr_cellar (f : Family) (v : W64) : (s.setCtr .mary f v).cellar = s.cellar := rfl

/-- The one floor held for a raise that is done becomes the counter and the ceiling (R340). -/
theorem State.releaseHeld_of_floor {r : Raise} {v : W64} {src : Src} (hh : s.cellar.held = [(r.fam, .floor src v)]) (hv : v.toNat = r.ceil)
    (hc : s.ctrOf .mary r.fam < v.toNat) : s.releaseHeld r =
      (((((s.modCellar (fun c => { c with held := [] })).clearRefused .mary).setCtr .mary r.fam v).setCeil r.fam v.toNat).modCellar (fun c =>
        { c with lost := c.lost.filter (fun x => !decide (x = r.fam)) })) := by
  have hf : heldFor r (r.fam, .floor src v) = true := by simp [heldFor, hv]
  have hk : s.releaseHeld r = (((s.modCellar (fun c => { c with held := [] })).clearRefused .mary).floorDone r.fam v).noteRefused .mary src := by
    simp only [State.releaseHeld, State.modCellar, hh, List.filter, hf, Bool.not_true, State.each, List.foldl_cons, List.foldl_nil, State.rejudge]
  have hl : ¬ v.toNat ≤ ((s.modCellar (fun c => { c with held := [] })).clearRefused .mary).ctrOf .mary r.fam := by
    have he : ((s.modCellar (fun c => { c with held := [] })).clearRefused .mary).ctrOf .mary r.fam = s.ctrOf .mary r.fam := by
      cases r.fam <;> rfl
    omega
  rw [hk, State.floorDone, if_neg hl, State.noteRefused_of_not _ _ _ rfl]

/-! ## The anchor for the time without power -/

theorem opKaAnchor_of_none {cnt rate : BitVec 48} (h : s.isRoot .mary = false ∨ s.lockedPhase = false) : opKaAnchor cnt rate s = s := by
  rw [opKaAnchor, if_pos (by simpa using h)]

/-- The second of a root's time at which an anchor is set. -/
def State.anchorSec (s : State) : Nat := s.htDom .mary s.rootDom / (1000000000 * nsTu)
/-- The edge of an anchor: the next second when the present one has its anchor. -/
def State.anchorEdge (s : State) : State :=
  if s.cellar.ka.valid && decide (s.cellar.ka.ancSec.toNat = s.anchorSec) then
    s.advTo .mary (((s.time .mary).dom s.rootDom).set.edgeOf (s.rc .mary) ((s.anchorSec + 1) * 1000000000 * nsTu)) else s
@[simp] theorem State.anchorEdge_part (pt : Part) (ht : pt ≠ .time) (hn : pt ≠ .node .mary) : s.anchorEdge.part pt = s.part pt := by
  unfold State.anchorEdge
  split <;> simp [ht, hn]
theorem opKaAnchor_of {cnt rate : BitVec 48} (hr : s.isRoot .mary = true) (hl : s.lockedPhase = true) :
    opKaAnchor cnt rate s = s.anchorEdge.modCellar (fun c =>
      { c with ka := { c.ka with cnt := cnt, ancCnt := cnt, ancSec := BitVec.ofNat 48 s.anchorEdge.anchorSec, rate := rate, valid := true } }) := by
  rw [opKaAnchor, if_neg (by simp [hr, hl])]
  rfl

theorem opRwpSync_of_pend (h : Fin 4) (hp : s.rwpPend = true) :
    opRwpSync (.host h) s = s.modPort h (fun p => { p with sync := true }) := if_pos hp
theorem opRwpSync_of_none (h : Fin 4) (hp : s.rwpPend = false) : opRwpSync (.host h) s = s := if_neg (by simp [hp])

end

/-- Settles O56: each operation's case; a word written by the medium's read after a write. -/
theorem cellarWrites : Obligations.CellarWrites := by
  refine ⟨fun s q rest hl hq hs hc hg hn hw => ?_, fun s q rest sd lo hi hs hl hq hsu hc hg hn hw hh => ?_,
    fun s hl h => exec_live rfl hl (opCellarWrite_of_none s (.inr (.inl h))), fun s hl h => exec_live rfl hl (opCellarWrite_of_none s ?_),
    fun s h ht hp => exec_access_kept rfl ht (opRwpSync_of_pend _ h hp) rfl,
    fun s h ht hp => exec_access_kept rfl ht (opRwpSync_of_none _ h hp) (by simp),
    fun s r rest hl hr hn hs hc hw hf hcan ha hb => ?_,
    fun s r rest hl hr hn hs hc hw hf hh => exec_live rfl hl (opCeilingRaise_of_low s hr hn hs hc hw hf hh), fun s r hl hr hc hh => ?_,
    fun s r v src hl hr hc hh hv hcap hlt => ?_, fun s cnt rate hl hr hp => ?_, fun s cnt rate hl h => exec_live rfl hl (opKaAnchor_of_none s h),
    fun s w => rfl⟩
  · obtain ⟨r, b, he⟩ := s.cellarWrote_cellar rest hs hn
    refine .of_live rfl hl ((opCellarWrite_of s hq hs hc).trans (by rw [if_neg hg])) ?_
    have hm := celWord_of_mem (s := s) (t := (s.cellarWrote q rest).syncDone) (by rw [State.syncDone_cellar, he]) hw
    rw [State.syncDone_cellar, he]
    exact ⟨rfl, hm.1, hm.2, rfl, rfl, rfl, rfl, State.maryN_regs_of_part (by simp [State.cellarWrote]),
      State.root_of_part (by simp [State.cellarWrote]) .mary, State.leafN_of_part (by simp [State.cellarWrote]),
      State.leaf_of_part (by simp [State.cellarWrote])⟩
  · obtain ⟨r, b, he⟩ := s.cellarWrote_cellar rest hsu hn
    have hgd := State.grantDone_of (s.cellarWrote q rest) ((s.cellarWrote_held rest hsu hn).trans hh)
    refine .of_live rfl hl ((opCellarWrite_of s hq hsu hc).trans (by rw [if_pos hg, hgd])) ?_
    have hm := celWord_of_mem (s := s)
      (t := ((((s.cellarWrote q rest).modCellar (fun c => { c with held := hs })).setWin .mary sd lo hi).syncDone))
      (by rw [State.syncDone_cellar]; exact congrArg Cellar.mem he) hw
    refine ⟨?_, hm.1, hm.2, ?_, ?_, State.maryN_regs_of_part (by simp [State.cellarWrote]), State.leafN_of_part (by simp [State.cellarWrote]),
      State.leaf_of_part (by simp [State.cellarWrote])⟩
    · rw [State.syncDone_cellar]; exact congrArg Cellar.queue he
    · rw [State.syncDone_cellar]; rfl
    · rw [State.syncDone_root]
      simp [State.setWin]
  · rcases h with h | h
    · exact .inl h
    · exact .inr (.inr h)
  · obtain ⟨ra, w, b, he⟩ := opCeilingRaise_copied s hr hn hs hc hw hf ha hb
    obtain ⟨hm, hm', ho⟩ := celWord_of_copies (s := s) (f := r.fam) (v := BitVec.ofNat 64 r.ceil)
      (t := (s.raiseEdge r).modCellar (fun _ => s.cellar.copied r rest ((s.raiseEdge r).rc .mary) ra w b)) rfl hcan
    refine .of_live rfl hl he ?_
    refine ⟨rfl, rfl, rfl, hm, hm', ho, by simp [Cellar.copied], by simp [Cellar.copied], ?_,
      State.root_of_part (by simp) .mary, State.maryN_regs_of_part (by simp), State.mary_of_part (by simp), .of_part (by simp) (by simp)⟩
    cases r.fam <;> simp [State.famCeil, Cellar.copied]
  · refine .of_live rfl hl ((opCeilingDone_of s hr hc).trans (State.releaseHeld_of_none _ ?_)) ?_
    · obtain ⟨a, b, g, he⟩ := s.setCeil_cellar r.fam (max (s.famCeil r.fam) r.ceil)
      rw [State.modCellar_cellar, he]
      exact hh
    · obtain ⟨a, b, g, he⟩ := s.setCeil_cellar r.fam (max (s.famCeil r.fam) r.ceil)
      have hc (f : Family) : ((s.setCeil r.fam (max (s.famCeil r.fam) r.ceil)).modCellar (fun c => { c with raising := none })).famCeil f =
        (s.setCeil r.fam (max (s.famCeil r.fam) r.ceil)).famCeil f :=
        State.modCellar_famCeil _ f _ (fun _ => rfl) (fun _ => rfl) (fun _ => rfl)
      refine ⟨(hc _).trans (State.setCeil_famCeil_same ..), fun f hf => (hc f).trans (s.setCeil_famCeil_other _ hf), rfl, ?_, ?_, ?_, ?_, rfl, rfl, rfl, rfl⟩ <;>
        rw [State.modCellar_cellar, he]
  · refine .of_live rfl hl ((opCeilingDone_of s hr hc).trans (State.releaseHeld_of_floor (v := v) (src := src) _ ?_ hv ?_)) ?_
    · obtain ⟨a, b, g, he⟩ := s.setCeil_cellar r.fam (max (s.famCeil r.fam) r.ceil)
      rw [State.modCellar_cellar, he]
      exact hh
    · simpa using hlt
    · obtain ⟨a, b, g, he⟩ := s.setCeil_cellar r.fam (max (s.famCeil r.fam) r.ceil)
      obtain ⟨a', b', g', he'⟩ := State.setCeil_cellar (((((s.setCeil r.fam (max (s.famCeil r.fam) r.ceil)).modCellar (fun c =>
        { c with raising := none })).modCellar (fun c => { c with held := [] })).clearRefused .mary).setCtr .mary r.fam v) r.fam v.toNat
      rw [State.setCtr_cellar, State.clearRefused_cellar, State.modCellar_cellar, State.modCellar_cellar, he] at he'
      refine ⟨by rw [State.modCellar_ctrOf, State.setCeil_ctrOf, State.setCtr_ctrOf _ hcap], ?_, ?_, ?_, ?_, ?_, State.maryN_regs_of_part (by simp),
        State.maryN_cells_of_part (by simp), .of_part (by simp) (by simp)⟩
      · refine (State.modCellar_famCeil _ r.fam _ ?_ ?_ ?_).trans (State.setCeil_famCeil_same _ _ _) <;> exact fun _ => rfl
      all_goals rw [State.modCellar_cellar, he']
  · refine .of_live rfl hl (opKaAnchor_of s hr hp) ?_
    have hec : s.anchorEdge.cellar = s.cellar := State.cellar_of_part (by simp)
    refine ⟨?_, rfl, State.maryN_regs_of_part (by simp), State.root_of_part (by simp) .mary, State.maryN_cells_of_part (by simp),
      State.mary_of_part (by simp), .of_part (by simp) (by simp)⟩
    rw [State.modCellar_cellar, hec]

end Sys2Proof.Machine
end

section
/-! The care of the cellar (R347 to R351): its scrubbing, the ageing history and the erase. -/

namespace Sys2Proof.Machine

section
variable (s : State)

/-! ## Scrubbing -/

theorem opCellarScrub_corrected_waiting {w : Nat} (h : s.cellar.queue.any (fun q => q.word == w) = true) :
    opCellarScrub w .corrected s = s.bump .mary 0xF0100 := if_pos h
theorem opCellarScrub_corrected_other {w : Nat} (h : s.cellar.queue.any (fun q => q.word == w) = false) :
    opCellarScrub w .corrected s = (s.bump .mary 0xF0100).celPut w (s.celWord w) := if_neg (by simp [h])

/-- The state in which an uncorrectable word has been noted: counted, the interrupt raised, the word not readable. -/
def State.celFound (s : State) (w : Nat) : State :=
  ((s.bump .mary 0xF0104).raiseIrq .mary 12).modCellar (fun c => { c with bad := if w ∈ c.bad then c.bad else c.bad ++ [w] })
theorem State.celFound_bad (w : Nat) : w ∈ (s.celFound w).cellar.bad := by
  simp only [State.celFound, State.modCellar_cellar]
  split
  · assumption
  · simp
theorem State.celFound_irq (w : Nat) : (s.celFound w).maryN.irq.getLsbD 12 = true := by
  show (setBit _ 12).getLsbD 12 = true
  simp [setBit_getLsbD]
theorem State.celFound_count (w : Nat) : (s.celFound w).count .mary 0xF0104 = satInc (s.count .mary 0xF0104) := by simp [State.celFound]
theorem opCellarScrub_uncorrectable (w : Nat) : opCellarScrub w .uncorrectable s = (s.celFound w).celUe w := rfl

/-- The tables after the grant log but WEAR, LIC and CAL have no rule of their own (R347). -/
theorem State.celUe_of_plain {w : Nat} (h : celRwp ≤ w) (h' : w < celWear ∨ celProf ≤ w) : s.celUe w = s := by
  simp only [celRwp, celWear, celProf] at h h'
  unfold State.celUe
  rw [if_neg (by simp only [celCeilA]; omega), if_neg (by simp only [celCeilB]; omega), if_neg (by simp only [celGrant]; omega),
    if_neg (by simp only [celWear]; omega), if_neg (by simp only [celLic, celCal]; omega), if_neg (by simp only [celCal]; omega)]
/-- A ceiling whose other copy is not readable is lost (R340, R347). -/
theorem State.celUe_of_ceil {w : Nat} {f : Family} (h : celCeilA ≤ w) (h' : w < celCeilB) (hf : famOfWord (w - celCeilA) = some f)
    (ho : s.celOk (w + 0x2000) = false) : s.celUe w = s.loseFamily f := by
  unfold State.celUe
  rw [if_neg (by omega), if_pos h', hf, State.mendCopy, if_neg (by simp [ho])]
  rfl
theorem State.loseFamily_of {f : Family} (hr : s.isRoot .mary = true) (hf : f ∉ s.cellar.lost) : s.loseFamily f =
    ((s.modCellar (fun c => { c with lost := c.lost ++ [f] })).modRoot .mary (fun r => { r with evt := setBit r.evt 2 })).raiseIrq .mary 12 :=
  if_neg (by simp [hr, hf])
theorem State.celFound_celOk {w x : Nat} (h : s.celOk x = false) : (s.celFound w).celOk x = false := by
  simp only [State.celOk, Bool.not_eq_false', decide_eq_true_eq, State.celFound, State.modCellar_cellar, State.raiseIrq_cellar,
    State.bump_cellar] at h ⊢
  split
  · exact h
  · exact List.mem_append_left _ h

/-! ## The ageing history -/

theorem opHistFile_of_stopped (h : s.mary.me.state ≠ 1) : opHistFile s = s := if_pos (.inl h)
/-- The edge at which the history is filed. -/
def State.histEdge (s : State) : State :=
  match s.cellar.histAt with | some t => s.advHist (t + s.fld .mary 0xF001C 7 0 * 3600) | none => s
theorem opHistFile_of_running {n : Nat} (h : s.mary.me.state = 1) (hn : s.histSec = some n) : opHistFile s =
    ((s.histEdge.each s.histEdge.histRecsNow (fun s r => s.histPut r.1 r.2.1 r.2.2)).modMe (fun m => { m with far := [], leafs := [] })).modCellar
      (fun c => { c with histAt := s.histEdge.histSec }) := by
  rw [opHistFile, if_neg (by simp [h, hn])]
  rfl
@[simp] theorem State.histEdge_part (pt : Part) (ht : pt ≠ .time) (hn : pt ≠ .node .mary) : s.histEdge.part pt = s.part pt := by
  unfold State.histEdge
  split <;> simp [ht, hn]
theorem State.histEdge_of_first (h : s.cellar.histAt = none) : s.histEdge = s := by simp only [State.histEdge, h]
theorem opHistFile_mary {n : Nat} (h : s.mary.me.state = 1) (hn : s.histSec = some n) :
    (opHistFile s).mary = { s.mary with me := { s.mary.me with far := [], leafs := [] } } := by
  rw [opHistFile_of_running s h hn, State.modCellar_mary]
  have hm : (s.histEdge.each s.histEdge.histRecsNow (fun s r => s.histPut r.1 r.2.1 r.2.2)).mary = s.mary := State.mary_of_part (by simp)
  simp only [State.modMe, State.modMary_mary, hm]

/-! ## The erase -/

theorem opCelErase_of_keyless {src : Src} (h : src ∉ s.cellar.eraseKey) : opCelErase src true s = s := if_pos (by simp [h])
theorem opCelErase_of_free {src : Src} (hc : s.celClosed = false) (hk : src ∈ s.cellar.eraseKey)
    (ho : s.cellsWith .mary (fun c => decide (c.ts ≠ .off)) = []) (hb : (s.root .mary).binds = []) (hr : s.reservationQueued = false) :
    opCelErase src true s = s.modCellar (fun c =>
      { c with eraseKey := c.eraseKey.filter (fun x => !decide (x = src)), busy := true, queue := [], ka := { c.ka with valid := false } }) := by
  rw [opCelErase, if_neg (by simp [hc, hk]), if_neg (by rw [ho, hb, hr]; nofun)]
  rfl
theorem opCelErase_of_busy {src : Src} (hc : s.celClosed = false) (hk : src ∈ s.cellar.eraseKey)
    (h : s.cellsWith .mary (fun c => decide (c.ts ≠ .off)) ≠ [] ∨ (s.root .mary).binds ≠ [] ∨ s.reservationQueued = true) :
    opCelErase src true s =
      (s.modCellar (fun c => { c with eraseKey := c.eraseKey.filter (fun x => !decide (x = src)) })).refuse .mary 0xF0108 := by
  rw [opCelErase, if_neg (by simp [hc, hk]), if_pos (by simpa [or_assoc] using h)]
theorem opCelEraseDone_of (hb : s.cellar.busy = true) (hs : s.cellar.supply = true) : ∃ m w b, opCelEraseDone s = s.modCellar (fun c =>
    { c with mem := m, busy := false, wear := w, bad := b, histPos := 0, histAt := none, waitRst := true }) := by
  rw [opCelEraseDone, if_neg (by simp [hb, hs])]
  simp only [State.modCellar]
  exact ⟨_, _, _, rfl⟩

end

/-- Settles O57: each operation's case. -/
theorem cellarCare : Obligations.CellarCare := by
  refine ⟨fun s w hl => exec_live rfl hl rfl, fun s w hl h => exec_live rfl hl (opCellarScrub_corrected_waiting s h),
    fun s w hl h => exec_live rfl hl (opCellarScrub_corrected_other s h), fun s w hl h h' => ?_, fun s w f hl hr h h' hf ho hn => ?_,
    fun s hl h => exec_live rfl hl (opHistFile_of_stopped s h), fun s n hl h hn => ?_, fun s n hl h hn hf => ?_,
    fun s src ht hc hk ho hb hr => exec_access_kept rfl ht (opCelErase_of_free _ hc hk ho hb hr) (by simp), fun s src ht hc hk h => ?_,
    fun s src ht hk => exec_access_kept rfl ht (opCelErase_of_keyless _ hk) (by simp), fun s hl hb hs => ?_⟩
  · refine .of_live rfl hl ((opCellarScrub_uncorrectable s _).trans (State.celUe_of_plain _ h h')) ?_
    exact ⟨s.celFound_count _, s.celFound_irq _, s.celFound_bad _, rfl, rfl, rfl, rfl, rfl, rfl⟩
  · refine .of_live rfl hl ((opCellarScrub_uncorrectable s _).trans ((State.celUe_of_ceil _ h h' hf (s.celFound_celOk ho)).trans
      (State.loseFamily_of _ hr hn))) ?_
    refine ⟨rfl, ?_, ?_, ?_, s.celFound_bad _, rfl, rfl, rfl, rfl, rfl⟩
    · simp [setBit_getLsbD]
    · show (setBit _ 12).getLsbD 12 = true
      simp [setBit_getLsbD]
    · simpa using s.celFound_count w.toNat
  · refine .of_live rfl hl rfl ⟨opHistFile_mary s h hn, State.maryN_regs_of_part (by simp), State.maryN_cells_of_part (by simp),
      State.root_of_part (by simp) .mary, .of_part (by simp) (by simp)⟩
  · refine .of_live rfl hl rfl ⟨?_, ?_, opHistFile_mary s h hn, .of_part (by simp) (by simp)⟩
    · rw [opHistFile_of_running s h hn, s.histEdge_of_first hf, State.modCellar_cellar, hn]
    · rw [opHistFile_of_running s h hn, s.histEdge_of_first hf]
      exact State.maryN_of_part (by simp [State.modMe])
  · refine .of_access rfl ht (opCelErase_of_busy _ hc hk h) ?_
    exact ⟨by simp, by simp, State.maryN_regs_of_part (by simp), .of_part (by simp) (by simp)⟩
  · obtain ⟨m, w, b, he⟩ := opCelEraseDone_of s hb hs
    refine .of_live rfl hl he ?_
    exact ⟨rfl, rfl, rfl, rfl, rfl, rfl, rfl, rfl, rfl⟩

end Sys2Proof.Machine
end

section
/-! The link of a port cell (ch. 3): its training, its greetings and its retry. Most commands of a cell change that cell alone; the rules for
`KeepsCell` say so once for each operation that they are made of. -/

namespace Sys2Proof.Machine

/-! ## What a command of one cell leaves alone -/

theorem cellRef_lt (c : CellRef) : c.idx < cellCount c.node := by cases c <;> exact Fin.isLt _

section
variable (s : State)

theorem State.reg_of_part {s t : State} (h : t.part .regs = s.part .regs) (k : NodeSel) (o : Nat) : t.reg k o = s.reg k o := by
  cases k
  · have h' := State.leafN_regs_of_part h
    simp only [State.reg, State.onNode, h']
  · have h' := State.maryN_regs_of_part h
    simp only [State.reg, State.onNode, h']
theorem KeepsCell.refl (c : CellRef) : KeepsCell c s s := ⟨fun _ _ => rfl, fun _ _ => rfl, by cases c <;> rfl, rfl, rfl, rfl⟩
theorem KeepsCell.trans {c : CellRef} {a b d : State} (h : KeepsCell c a b) (g : KeepsCell c b d) : KeepsCell c a d := by
  obtain ⟨h1, h2, h3, h4, h5, h6⟩ := h
  obtain ⟨g1, g2, g3, g4, g5, g6⟩ := g
  refine ⟨fun i hi => (g1 i hi).trans (h1 i hi), fun k o => (g2 k o).trans (h2 k o), ?_, g4.trans h4, g5.trans h5, g6.trans h6⟩
  cases c
  · exact Eq.trans g3 h3
  · exact Eq.trans g3 h3
/-- What keeps every cell, register and part but the cell's own node keeps all but that cell. -/
theorem KeepsCell.of_part {c : CellRef} {s t : State} (hc : t.part .cells = s.part .cells) (hr : t.part .regs = s.part .regs)
    (hn : ∀ j, j ≠ c.node → t.part (.node j) = s.part (.node j)) (hl : t.leaf = s.leaf) (hm : t.mary = s.mary) (hce : t.cellar = s.cellar) :
    KeepsCell c s t := by
  refine ⟨fun i _ => State.cell_of_part hc _ i, State.reg_of_part hr, ?_, hl, hm, hce⟩
  cases c
  · exact State.maryN_of_part (hn .mary nofun)
  · exact State.leafN_of_part (hn .leaf nofun)
theorem KeepsCell.advTo (c : CellRef) (x : W64) : KeepsCell c s (s.advTo c.node x) :=
  .of_part (by simp) (by simp) (fun j h => by simp [h]) (by simp) (by simp) (by simp)
theorem KeepsCell.advAfter (c : CellRef) (m : W64) (n : Nat) : KeepsCell c s (s.advAfter c.node m n) := .advTo s c _
theorem KeepsCell.bump (c : CellRef) (o : Nat) : KeepsCell c s (s.bump c.node o) :=
  .of_part (by simp) (by simp) (fun j h => by simp [h]) (by simp) (by simp) (by simp)
theorem KeepsCell.bumpBy (c : CellRef) (o n : Nat) : KeepsCell c s (s.bumpBy c.node o n) :=
  .of_part (by simp) (by simp) (fun j h => by simp [h]) (State.leaf_of_part (by simp)) (State.mary_of_part (by simp)) (State.cellar_of_part (by simp))
theorem KeepsCell.convRefresh (c : CellRef) : KeepsCell c s (s.convRefresh c.node) :=
  .of_part (by simp) (by simp) (fun j h => by simp [h]) (by simp) (by simp) (by simp)
theorem KeepsCell.modCell (c : CellRef) (f : Cell → Cell) : KeepsCell c s (s.modCell c.node c.idx f) :=
  ⟨fun i hi => State.modCell_cell_other s _ _ i f hi.symm, fun k o => by simp, by cases c <;> rfl, by simp, by simp, by simp⟩
theorem KeepsCell.modRetry (c : CellRef) (f : Retry → Retry) : KeepsCell c s (s.modRetry c.node c.idx f) := .modCell s c _

theorem State.modCell_cell_self (c : CellRef) (f : Cell → Cell) : (s.modCell c.node c.idx f).cell c.node c.idx = f (s.cell c.node c.idx) :=
  State.modCell_cell_same s _ _ f (cellRef_lt c)
theorem State.modRetry_cell_self (c : CellRef) (f : Retry → Retry) : (s.modRetry c.node c.idx f).cell c.node c.idx =
    { s.cell c.node c.idx with retry := f (s.cell c.node c.idx).retry } := State.modCell_cell_self s c _

end

/-! ## Training -/

section
variable (s : State) (c : CellRef)

theorem opCdrTimeout_of (h : (s.cell c.node c.idx).ts = .cdr) : opCdrTimeout c.node c.idx s =
    ((s.advAfter c.node (s.cell c.node c.idx).cdrSince (10 * cyclesMs)).modCell c.node c.idx (fun x =>
      { x with cdrSince := (s.advAfter c.node (s.cell c.node c.idx).cdrSince (10 * cyclesMs)).rc c.node })).bump c.node
        (cOff c.node c.idx 0x120) := if_neg (by simp [h])
theorem opPortEn_of (h : c.node = .leaf → (s.cell c.node c.idx).portEn = true) : opPortEn c.node c.idx true s =
    s.modCell c.node c.idx (fun x => Cell.start { x with portEn := true } (s.rc c.node)) := by
  rw [opPortEn, if_pos rfl, if_neg]
  rintro ⟨hn, hp, -⟩
  simp [h hn] at hp
theorem opTest_start (h : (s.cell c.node c.idx).ts = .off) (hm : (s.cell c.node c.idx).mute = 0) (hd : (s.cell c.node c.idx).dark = false) :
    opTest c.node c.idx true s = (s.modCell c.node c.idx (fun x => { x with ts := .test, testAt := s.rc c.node, prbsBits := 0 })).modNode c.node
      (fun N => { N with ctr := sdel N.ctr (cOff c.node c.idx 0x70) }) := by
  rw [opTest, if_pos rfl, if_pos ⟨h, hm, by simp [hd]⟩]
theorem opTest_stop (h : (s.cell c.node c.idx).ts = .test) :
    opTest c.node c.idx false s = s.modCell c.node c.idx (fun x => Cell.start { x with ts := .off } (s.rc c.node)) := by
  simp [opTest, h]
theorem opLossOfSignal_word (h : (s.cell c.node c.idx).ts = .word) : opLossOfSignal c.node c.idx s =
    s.modCell c.node c.idx (fun x => { x.fallTo .cdr with cdrSince := s.rc c.node }) := by
  unfold opLossOfSignal
  simp only [h]
  exact State.cellTo_of_unaligned s _ _ _ _ (by simp [Cell.aligned, h])
theorem KeepsCell.sdelCtr (o : Nat) : KeepsCell c s (s.modNode c.node (fun N => { N with ctr := sdel N.ctr o })) := by
  cases c <;> exact ⟨fun _ _ => rfl, fun k _ => by cases k <;> rfl, rfl, rfl, rfl, rfl⟩

theorem State.sdelCtr_wasRefused (k : NodeSel) (o : Nat) : (s.modNode k (fun N => { N with ctr := sdel N.ctr o })).wasRefused k = s.wasRefused k := by
  cases k <;> rfl
theorem State.sdelCtr_cell (k : NodeSel) (o i : Nat) : (s.modNode k (fun N => { N with ctr := sdel N.ctr o })).cell k i = s.cell k i := by
  cases k <;> rfl
@[simp] theorem State.convRefresh_wasRefused (k j : NodeSel) : (s.convRefresh k).wasRefused j = s.wasRefused j :=
  s.convRefresh_node k j _ (fun _ _ _ => rfl)

/-! ## Greetings -/

theorem opHelloSend_of (h : (s.cell c.node c.idx).aligned = true) : opHelloSend c.node c.idx s =
    (s.advAfter c.node (s.cell c.node c.idx).helloAt cyclesUs).modCell c.node c.idx (fun x =>
      { x with ctlq := x.ctlq ++ [(s.advAfter c.node (s.cell c.node c.idx).helloAt cyclesUs).linkCtlOf c.node c.idx 0],
               helloAt := (s.advAfter c.node (s.cell c.node c.idx).helloAt cyclesUs).rc c.node }) := if_neg (by simp [h])
theorem State.advAfter_linkCtlOf (k j : NodeSel) (m : W64) (n i sub : Nat) : (s.advAfter k m n).linkCtlOf j i sub = s.linkCtlOf j i sub := by
  simp [State.linkCtlOf, State.nodeId]
theorem opHelloRx_mismatch {h : LinkCtl} (ht : (s.cell c.node c.idx).ts = .hello) (hr : rolesMatch (s.cell c.node c.idx).cfg h = false) :
    opHelloRx c.node c.idx h s = s.bump c.node (cOff c.node c.idx 0x124) := by simp [opHelloRx, ht, hr]
/-- The state in which a matching HELLO has been noted. -/
def State.helloSeen (k : NodeSel) (i : Nat) (h : LinkCtl) : State :=
  s.modCell k i (fun x => { x with gotHello := true, helloOk := true, helloAck := x.helloAck || h.ack })
theorem opHelloRx_match {h : LinkCtl} (ht : (s.cell c.node c.idx).ts = .hello) (hr : rolesMatch (s.cell c.node c.idx).cfg h = true) :
    opHelloRx c.node c.idx h s = if (s.cell c.node c.idx).helloAck || h.ack then (s.helloSeen c.node c.idx h).enterDelay c.node c.idx h
      else s.helloSeen c.node c.idx h := by simp [opHelloRx, ht, hr, State.helloSeen]
theorem opBarRx_of {b : BitVec 3} (h : (s.cell c.node c.idx).aligned = true) (hb : b.toNat ≤ 6) : opBarRx c.node c.idx b s =
    s.modCell c.node c.idx (fun x => { x with barPend := some (b, s.rc c.node) }) := if_neg (by simp [h]; omega)
theorem opBarApply_of {b : BitVec 3} {t : W64} (h : (s.cell c.node c.idx).barPend = some (b, t)) : opBarApply c.node c.idx s =
    (s.advAfter c.node t cyclesUs).modCell c.node c.idx (fun x => { x with barTx := b, barPend := none }) := by simp only [opBarApply, h]

/-! ## Retry -/

theorem Retry.ack_of {r : Retry} {rseq o : Byte} {w : List W64} {l : List (Byte × List W64)} (rc : W64) (h : r.unacked = (o, w) :: l)
    (h0 : (rseq - o).toNat ≠ 0) (hl : (rseq - o).toNat ≤ l.length + 1) : ∃ q, r.ack rseq rc =
      { r with unacked := r.unacked.drop (rseq - o).toNat, resends := 0, ackAt := rc, resendQ := q } := by
  unfold Retry.ack
  simp only [h]
  generalize (rseq - o).toNat = n at *
  rw [if_neg (by simp; omega)]
  exact ⟨_, rfl⟩
theorem opLinkAckRx_of (nak : Bool) (rseq : Byte) (h : (s.cell c.node c.idx).aligned = true) : opLinkAckRx c.node c.idx nak rseq s =
    s.modRetry c.node c.idx (fun r => if nak && (r.ack rseq (s.rc c.node)).unacked != [] then
      { r.ack rseq (s.rc c.node) with resendDue := true } else r.ack rseq (s.rc c.node)) := if_neg (by simp [h])
theorem opLinkAckTimer_of {t : W64} (h : (s.cell c.node c.idx).aligned = true) (hf : (s.cell c.node c.idx).retry.firstAcc = some t) :
    opLinkAckTimer c.node c.idx s = (s.advAfter c.node t cyclesUs).modCell c.node c.idx (fun c =>
      { c with ackq := c.ackq ++ [linkAckTok false c.retry.exp], retry := { c.retry with accepted := 0, firstAcc := none } }) := by
  simp [opLinkAckTimer, h, hf]
theorem opRetryTimeout_of (h : (s.cell c.node c.idx).ts = .active) (hu : (s.cell c.node c.idx).retry.unacked ≠ []) :
    opRetryTimeout c.node c.idx s =
      (s.advAfter c.node (s.cell c.node c.idx).retry.ackAt (s.retryTimeout c.node c.idx)).modRetry c.node c.idx (fun r =>
        { r with resendDue := true,
                 ackAt := (s.advAfter c.node (s.cell c.node c.idx).retry.ackAt (s.retryTimeout c.node c.idx)).rc c.node }) :=
  if_neg (by simp [h, hu])
theorem opRetryResend_of (h : (s.cell c.node c.idx).ts = .active) (hu : (s.cell c.node c.idx).retry.unacked ≠ [])
    (hd : (s.cell c.node c.idx).retry.resendDue = true) (hr : (s.cell c.node c.idx).retry.resends < 16) : opRetryResend c.node c.idx s =
      s.modRetry c.node c.idx (fun r => { r with resendDue := false, resends := r.resends + 1, resendQ := r.unacked }) := by
  rw [opRetryResend, if_neg (by simp [h, hu, hd]), if_neg (by omega)]
theorem opRetryDiscard_of {t : W64} (h : (s.cell c.node c.idx).ts ≠ .active) (hl : (s.cell c.node c.idx).retry.lossAt = some t) :
    opRetryDiscard c.node c.idx s = ((((s.advAfter c.node t (10 * cyclesMs)).dropHeld c.node c.idx).modRetry c.node c.idx (fun _ =>
      { Retry.reset with discarded := true })).bumpBy c.node (cOff c.node c.idx 0x130) (s.cell c.node c.idx).retry.unacked.length) := by
  simp [opRetryDiscard, h, hl]

end

/-- Settles O20: each operation's case, by the rules for what it is made of. -/
theorem linkTraining : Obligations.LinkTraining := by
  refine ⟨fun s c hl h => ?_, fun s c hl h => ?_, fun s c src ht h he hm hd hr => ?_, fun s c src ht h hm hd => ?_, fun s c src ht h he => ?_,
    fun s c hl h => ?_⟩
  · refine .of_live rfl hl rfl ?_
    rw [opCdrLock, State.modCell_cell_self, if_pos h]
    exact ⟨rfl, rfl, .modCell s c _⟩
  · refine .of_live rfl hl (opCdrTimeout_of s c h) ?_
    refine ⟨?_, ?_, ?_, .trans (.advAfter ..) (.trans (.modCell ..) (.bump ..))⟩
    · simp [State.modCell_cell_self, h]
    · simp [State.modCell_cell_self]
    · simp
  · refine .intro (exec_access_kept rfl ht (congrArg (·.convRefresh c.node) (opPortEn_of _ c (by simpa using he))) (by simp)) ?_
    refine ⟨?_, ?_, ?_, .trans (.modCell ..) (.convRefresh ..)⟩ <;>
      rw [State.convRefresh_cell, State.modCell_cell_self, Cell.start_of_ready _ (by simpa using h) rfl (by simpa using hr) (by simpa using hm) (by simpa using hd)]
    simp
  · refine .intro (exec_access_kept rfl ht (opTest_start _ c (by simpa using h) (by simpa using hm) (by simpa using hd)) ?_) ?_
    · rw [State.sdelCtr_wasRefused]
      simp
    · refine ⟨?_, ?_, .trans (.modCell ..) (.sdelCtr ..)⟩ <;> rw [State.sdelCtr_cell, State.modCell_cell_self]
  · refine .intro (exec_access_kept rfl ht (opTest_stop _ c (by simpa using h)) (by simp)) ⟨?_, .modCell ..⟩
    rw [State.modCell_cell_self, Cell.start, if_neg (by simp [he])]
  · refine .of_liveC rfl hl (opLossOfSignal_word s c h) ?_
    refine ⟨?_, ?_, .trans (.modCell ..) (.convRefresh ..)⟩ <;> rw [State.convRefresh_cell, State.modCell_cell_self]
    rfl

/-- Settles O21: each operation's case. -/
theorem linkGreetings : Obligations.LinkGreetings := by
  refine ⟨fun s c hl h => ?_, fun s c m hl ht hr => exec_live rfl hl (opHelloRx_mismatch s c ht hr), fun s c m hl ht hr => ?_,
    fun s c b hl h hb => exec_live rfl hl (opBarRx_of s c h hb), fun s c b rc hl h => exec_live rfl hl (opBarApply_of s c h)⟩
  · refine .of_live rfl hl (opHelloSend_of s c h) ?_
    refine ⟨?_, ?_, .trans (.advAfter ..) (.modCell ..)⟩
    · simp [State.modCell_cell_self, State.advAfter_linkCtlOf]
    · simp [State.modCell_cell_self]
  · refine .of_live rfl hl (opHelloRx_match s c ht hr) ?_
    have hs : ((s.helloSeen c.node c.idx m).cell c.node c.idx) = { s.cell c.node c.idx with gotHello := true, helloOk := true,
                                                                                            helloAck := (s.cell c.node c.idx).helloAck || m.ack } :=
      State.modCell_cell_self s c _
    by_cases ha : ((s.cell c.node c.idx).helloAck || m.ack) = true
    · simp only [ha, if_true]
      refine ⟨?_, ?_, .trans (.modCell ..) (.trans (.modCell ..) (.bumpBy ..))⟩ <;>
        rw [State.enterDelay, State.bumpBy_cell, State.modCell_cell_self]
      rw [hs]
    · simp only [ha, Bool.false_eq_true, if_false]
      exact ⟨by rw [hs, ht], by rw [hs], .modCell ..⟩

/-- Settles O22: each operation's case. -/
theorem linkRetry : Obligations.LinkRetry := by
  refine ⟨fun s c nak rseq o w l hl h hu h0 hn => ?_, fun s c t hl h hf => exec_live rfl hl (opLinkAckTimer_of s c h hf), fun s c hl h hu => ?_,
    fun s c hl h hu hd hr => ?_, fun s c t hl h hlo => ?_⟩
  · refine .of_live rfl hl (opLinkAckRx_of s c nak rseq h) ?_
    obtain ⟨q, hq⟩ := Retry.ack_of (s.rc c.node) hu h0 hn
    rw [State.modRetry_cell_self, hq]
    refine ⟨?_, ?_, ?_, .modRetry ..⟩ <;> split <;> rfl
  · refine .of_live rfl hl (opRetryTimeout_of s c h hu) ⟨?_, .trans (.advAfter ..) (.modRetry ..)⟩
    rw [State.modRetry_cell_self]
    simp
  · refine .of_liveC rfl hl (opRetryResend_of s c h hu hd hr) ⟨?_, .trans (.modRetry ..) (.convRefresh ..)⟩
    rw [State.convRefresh_cell, State.modRetry_cell_self]
  · refine .of_live rfl hl (opRetryDiscard_of s c h hlo) ?_
    refine ⟨?_, State.reg_of_part (by simp), State.leaf_of_part (by simp), State.mary_of_part (by simp), State.cellar_of_part (by simp)⟩
    rw [State.bumpBy_cell, State.modRetry_cell_self]

end Sys2Proof.Machine
end

section
/-! Frames received and sent (R54 to R70), the time announced on a link, and the C2 messages that a root sends. -/

namespace Sys2Proof.Machine

section
variable (s : State) (c : CellRef)

theorem KeepsCell.bumpIf (b : Bool) (o : Nat) : KeepsCell c s (s.bumpIf b c.node o) := by
  unfold State.bumpIf
  split
  · exact .bump s c o
  · exact .refl s c

@[simp] theorem State.bumpIf_cell (b : Bool) (k j : NodeSel) (o i : Nat) : (s.bumpIf b k o).cell j i = s.cell j i := State.cell_of_part (by simp) j i

/-! ## Frames received -/

/-- The state in which a received frame has been decoded: the cell keeps its running disparity. -/
def State.decoded (s : State) (k : NodeSel) (i : Nat) (f : LineFrame) (pos : Nat) : State :=
  s.modCell k i (fun x => { x with rxRd := (f.decode (s.cell k i).rxRd pos).2 })
theorem opLineRx_eq (f : LineFrame) (pos : Nat) : opLineRx c.node c.idx f pos s =
    opFrameRx c.node c.idx (f.decode (s.cell c.node c.idx).rxRd pos).1 (s.decoded c.node c.idx f pos) := rfl
theorem State.decoded_cell (f : LineFrame) (pos : Nat) : (s.decoded c.node c.idx f pos).cell c.node c.idx =
    { s.cell c.node c.idx with rxRd := (f.decode (s.cell c.node c.idx).rxRd pos).2 } := State.modCell_cell_self s c _

theorem opFrameRx_comma {f : Frame} (h : (s.cell c.node c.idx).ts = .word) (hf : f.comma = true) : opFrameRx c.node c.idx f s =
    s.modCell c.node c.idx (fun c => if c.commaRun + 1 ≥ 8 then { c with ts := .frame, commaRun := 0, goodRun := 0, badRun := 0, fseqRx := none }
      else { c with commaRun := c.commaRun + 1 }) := by simp [opFrameRx, h, hf]
theorem opFrameRx_other {f : Frame} (h : (s.cell c.node c.idx).ts = .word) (hf : f.comma = false) :
    opFrameRx c.node c.idx f s = s.modCell c.node c.idx (fun c => { c with commaRun := 0 }) := by simp [opFrameRx, h, hf]
/-- A frame in FRAME that neither gains nor loses alignment is counted in its run. -/
theorem opFrameRx_frame {f : Frame} {g : Bool} (h : (s.cell c.node c.idx).ts = .frame) (hg : f.good (s.cell c.node c.idx).fseqRx = g)
    (hr : if g then (s.cell c.node c.idx).goodRun < 3 else (s.cell c.node c.idx).badRun < 2) : opFrameRx c.node c.idx f s =
      (s.bumpIf (!f.crcOk) c.node (cOff c.node c.idx 0x118)).modCell c.node c.idx (fun c =>
        { c with fseqRx := some f.fseq, badRun := if g then 0 else c.badRun + 1, goodRun := if g then c.goodRun + 1 else 0 }) := by
  have ha : (s.cell c.node c.idx).aligned = false := by simp [Cell.aligned, h]
  cases g
  · have hn : ¬ (s.cell c.node c.idx).badRun + 1 ≥ 3 := by
      simp only [Bool.false_eq_true, if_false] at hr
      omega
    simp [opFrameRx, h, hg, ha, hn]
  · have hn : ¬ (s.cell c.node c.idx).goodRun + 1 ≥ 4 := by
      simp only [if_true] at hr
      omega
    simp [opFrameRx, h, hg, ha, hn]

theorem State.counted_cell (f : LineFrame) (pos : Nat) (g : Bool) : (((s.decoded c.node c.idx f pos).bumpIf
      (!(f.decode (s.cell c.node c.idx).rxRd pos).1.crcOk) c.node (cOff c.node c.idx 0x118)).modCell c.node c.idx (fun c' =>
        { c' with fseqRx := some (f.decode (s.cell c.node c.idx).rxRd pos).1.fseq, badRun := if g then 0 else c'.badRun + 1,
                  goodRun := if g then c'.goodRun + 1 else 0 })).cell c.node c.idx =
    { s.cell c.node c.idx with rxRd := (f.decode (s.cell c.node c.idx).rxRd pos).2, fseqRx := some (f.decode (s.cell c.node c.idx).rxRd pos).1.fseq,
                               badRun := if g then 0 else (s.cell c.node c.idx).badRun + 1,
                               goodRun := if g then (s.cell c.node c.idx).goodRun + 1 else 0 } := by
  rw [State.modCell_cell_self, State.bumpIf_cell, State.decoded_cell]

/-! ## Frames sent -/

/-- A frame sent holds the comma, the header, the slots and the CRC over header and slots. -/
theorem opFrameStart_cell (h : (s.cell c.node c.idx).sends = true) : ∃ x hdr slots e, (opFrameStart c.node c.idx s).cell c.node c.idx =
    { Cell.putFrame x hdr slots with frameRc := (s.nextFrame c.node c.idx).1, frames := x.frames + 1, fseqTx := e, echoq := [] } := by
  rw [opFrameStart, if_neg (by simp [h])]
  dsimp only
  rw [State.modCell_cell_self]
  exact ⟨_, _, _, _, rfl⟩

/-! ## The time announced -/

/-- The state in which an announced HT has reached its cell and the stamps that wait for it. -/
def State.announced (s : State) (i ns : Nat) (rc : W64) : State :=
  s.modCell .leaf i (fun x => { x with
    annHt := some ns, annCount := 0, stampReq := x.stampReq.map (fun r => if r.rc = rc then { r with p := some ns } else r) })
theorem opTimeAnnounceRx_leaf {i : Nat} {a : BitVec 48} {t : Stamp} (h : (s.cell .leaf i).aligned = true) (hr : (s.cell .leaf i).cfg.role = 1) :
    opTimeAnnounceRx .leaf i a t s = (s.announced i (a.toNat * 2 ^ 20) t.rc).upAnnounce .leaf i (a.toNat * 2 ^ 20) t := by
  rw [opTimeAnnounceRx, if_neg (by simp [h, hr])]
  simp only [hr, if_true]
  rfl
theorem State.announced_cell {i ns : Nat} {rc : W64} (hi : i < 6) : (s.announced i ns rc).cell .leaf i = { s.cell .leaf i with
    annHt := some ns, annCount := 0, stampReq := (s.cell .leaf i).stampReq.map (fun r => if r.rc = rc then { r with p := some ns } else r) } :=
  State.modCell_cell_same s .leaf i _ hi
/-- Outside ACQUIRE an announcement does nothing to the domain. -/
theorem State.upAnnounce_of_other {i ns : Nat} {t : Stamp} (h : ((s.time .leaf).dom (s.cell .leaf i).cfg.dom).st ≠ .acquire) :
    s.upAnnounce .leaf i ns t = s := if_pos h
theorem State.upAnnounce_of_acquire {i ns : Nat} {t : Stamp} (h : ((s.time .leaf).dom (s.cell .leaf i).cfg.dom).st = .acquire)
    (ha : (s.cell .leaf i).ts = .active) : s.upAnnounce .leaf i ns t =
      s.acquireStep .leaf (s.cell .leaf i).cfg.dom t.rc (annOff ns (s.cell .leaf i).dly.d t.pos) := by
  rw [State.upAnnounce, if_neg (by simp [h]), if_pos ha]
/-- An unbound leaf owes no mark. -/
theorem State.markOwed_of_unbound (h : s.leaf.binding = none) : s.markOwed = s := by
  unfold State.markOwed
  split
  · rfl
  · simp only [h]
theorem State.sendMarks_of_unbound (h : s.leaf.binding = none) : s.sendMarks = s.modPrick (fun p => { p with marks := [] }) := by
  have hb : (s.modPrick (fun p => { p with marks := [] })).leaf.binding = none := h
  simp only [State.sendMarks, h]
  exact State.markOwed_of_unbound _ hb

/-! ## The messages of a root -/

/-- A root whose message `m` goes to port `p`: the SD's bucket pays once, and the port leaves the message's list. -/
def Root.c2Sent (r : Root) (rc : W64) (p : Nat) (m : C2Out) : Root :=
  let left := m.ports.filter (fun x => x != p)
  { (if m.debited then r else r.modCtx m.sd (fun c => { c.fill rc with bucket := (c.fill rc).bucket - m.toks.length })) with
    c2out := replaceMsg m (if left = [] then [] else [{ m with ports := left, debited := true }]) r.c2out, c2rr := sput r.c2rr p m.sd }
/-- A root that notes the tick at which the install of a hoop goes out. -/
def Root.opensHoop (r : Root) (m : C2Out) (ns : Nat) : Root :=
  match m.inst, m.debited with
  | some h, false =>
    { r with hoops := r.hoops.map (fun x : RHoop => if x.sd = m.sd ∧ x.hoopId = h ∧ x.decided.isNone then { x with openTick := some ns } else x) }
  | _, _ => r
@[simp] theorem Root.opensHoop_c2out (r : Root) (m : C2Out) (ns : Nat) : (r.opensHoop m ns).c2out = r.c2out := by
  unfold Root.opensHoop
  split <;> rfl
theorem State.modRoot_self (k : NodeSel) : s.modRoot k (fun r => r) = s := by cases k <;> rfl

/-- The one message that waits is sent when it is ready. -/
theorem opC2Send_of {m : C2Out} (hm : (s.root c.node).c2out = [m]) (hp : c.idx ∈ m.ports)
    (hr : (s.root c.node).readyMsg (s.rc c.node) c.idx m.sd = some m) : ∃ ns, opC2Send c s =
      ((s.modRoot c.node (fun r => r.c2Sent (s.rc c.node) c.idx m)).modRoot c.node (fun r => r.opensHoop m ns)).sendC2 c.node c.idx m.toks := by
  have hturn (last : Nat) : ([m.sd.toNat].filter (fun x => decide (x > last)) ++ [m.sd.toNat].filter (fun x => decide (x ≤ last))).findSome?
      (fun sd => (s.root c.node).readyMsg (s.rc c.node) c.idx (BitVec.ofNat 12 sd)) = some m := by
    by_cases hl : m.sd.toNat > last
    · simp [hl, Nat.not_le.mpr hl, hr]
    · simp [hl, Nat.not_lt.mp hl, hr]
  have hs : ((([m].filter (fun m => decide (c.idx ∈ m.ports))).map (fun m => m.sd.toNat)).eraseDups.foldr insNat []) = [m.sd.toNat] := by
    simp [hp, List.eraseDups_cons, insNat]
  refine ⟨s.htNs c.node, ?_⟩
  unfold opC2Send
  dsimp only
  rw [hm, hs, hturn]
  dsimp only
  obtain ⟨sd, toks, ports, debited, inst⟩ := m
  cases inst with
  | none => exact congrArg (·.sendC2 c.node c.idx toks) (State.modRoot_self _ c.node).symm
  | some h =>
    cases debited with
    | false => rfl
    | true => exact congrArg (·.sendC2 c.node c.idx toks) (State.modRoot_self _ c.node).symm
theorem Root.c2Sent_c2out {r : Root} {m : C2Out} (rc : W64) (p : Nat) (h : r.c2out = [m]) : (r.c2Sent rc p m).c2out =
    if m.ports.filter (fun x => x != p) = [] then [] else [{ m with ports := m.ports.filter (fun x => x != p), debited := true }] := by
  simp [Root.c2Sent, h, replaceMsg]
theorem State.sendC2_of_open {k : NodeSel} {i : Nat} {m : Tokens} (h : (s.cell k i).refuses = false) :
    s.sendC2 k i m = s.modCell k i (fun c => { c with c2q := c.c2q ++ [m] }) := if_neg (by simp [h])
theorem KeepsCell.modRoot (f : Root → Root) : KeepsCell c s (s.modRoot c.node f) := by
  refine ⟨fun i _ => by simp, fun k o => by simp, ?_, by simp, by simp, by simp⟩
  cases c <;> rfl

end

/-- Settles O23: each operation's case. -/
theorem linkFrames : Obligations.LinkFrames := by
  refine ⟨fun s c f pos hl h hc hr => ?_, fun s c f pos hl h hc => ?_, fun s c f pos hl h hg hr => ?_, fun s c f pos hl h hg hr => ?_,
    fun s c hl h => ?_, fun s c a t hl h hr hd hb => ?_, fun s c a t hl h hr hd => ?_, fun s c m hl hm hp hr hf => ?_⟩
  · refine .of_liveC rfl hl ((opLineRx_eq s c f pos).trans (opFrameRx_comma _ c (by rw [State.decoded_cell]; exact h) hc)) ?_
    refine ⟨?_, ?_, ?_, ?_, .trans (.modCell ..) (.trans (.modCell ..) (.convRefresh ..))⟩ <;>
      rw [State.convRefresh_cell, State.modCell_cell_self, State.decoded_cell, if_pos (by simp [hr])]
  · cases hcm : (f.decode (s.cell c.node c.idx).rxRd pos).1.comma
    · refine .of_liveC rfl hl ((opLineRx_eq s c f pos).trans (opFrameRx_other _ c (by rw [State.decoded_cell]; exact h) hcm)) ?_
      refine ⟨?_, ?_, .trans (.modCell ..) (.trans (.modCell ..) (.convRefresh ..))⟩ <;>
        rw [State.convRefresh_cell, State.modCell_cell_self, State.decoded_cell]
      exacts [h, rfl]
    · refine .of_liveC rfl hl ((opLineRx_eq s c f pos).trans (opFrameRx_comma _ c (by rw [State.decoded_cell]; exact h) hcm)) ?_
      have hn := hc hcm
      refine ⟨?_, ?_, .trans (.modCell ..) (.trans (.modCell ..) (.convRefresh ..))⟩ <;>
        rw [State.convRefresh_cell, State.modCell_cell_self, State.decoded_cell, if_neg (by simp; omega)]
      exacts [h, rfl]
  · refine .of_liveC rfl hl ((opLineRx_eq s c f pos).trans (opFrameRx_frame _ c (g := false) (by rw [State.decoded_cell]; exact h)
      (by rw [State.decoded_cell]; exact hg) (by rw [State.decoded_cell]; exact hr))) ?_
    have hc := s.counted_cell c f pos false
    rw [State.convRefresh_cell, hc]
    exact ⟨h, rfl, rfl, rfl, .trans (.modCell ..) (.trans (.bumpIf ..) (.trans (.modCell ..) (.convRefresh ..)))⟩
  · refine .of_liveC rfl hl ((opLineRx_eq s c f pos).trans (opFrameRx_frame _ c (g := true) (by rw [State.decoded_cell]; exact h)
      (by rw [State.decoded_cell]; exact hg) (by rw [State.decoded_cell]; exact hr))) ?_
    have hc := s.counted_cell c f pos true
    rw [State.convRefresh_cell, hc]
    exact ⟨h, rfl, rfl, .trans (.modCell ..) (.trans (.bumpIf ..) (.trans (.modCell ..) (.convRefresh ..)))⟩
  · obtain ⟨x, hdr, slots, e, he⟩ := opFrameStart_cell s c h
    refine .of_live rfl hl rfl ⟨hdr, slots, ?_⟩
    rw [he]
    exact ⟨rfl, rfl, rfl, rfl⟩
  · have hi : c.val < 6 := c.isLt
    have hu : (opTimeAnnounceRx .leaf c.val a t s).sendMarks = (s.announced c.val (a.toNat * 2 ^ 20) t.rc).modPrick (fun p => { p with marks := [] }) := by
      rw [opTimeAnnounceRx_leaf s h hr, State.upAnnounce_of_other, State.sendMarks_of_unbound]
      · exact hb
      · rw [State.announced_cell s hi]
        exact hd
    refine .of_liveC (k := .leaf) rfl hl hu ?_
    have hc := s.announced_cell (ns := a.toNat * 2 ^ 20) (rc := t.rc) hi
    refine ⟨?_, ?_, ?_, .of_part (by simp [State.announced]) (by simp [State.announced]) (by simp [State.announced])⟩
    · rw [State.convRefresh_cell, State.modPrick_cell, hc]
    · rw [State.convRefresh_cell, State.modPrick_cell, hc]
    · simp [State.announced]
  · have hi : c.val < 6 := c.isLt
    have hu : (opTimeAnnounceRx .leaf c.val a t s).sendMarks = ((s.announced c.val (a.toNat * 2 ^ 20) t.rc).acquireStep .leaf (s.cell .leaf c.val).cfg.dom
        t.rc (annOff (a.toNat * 2 ^ 20) (s.cell .leaf c.val).dly.d t.pos)).sendMarks := by
      rw [opTimeAnnounceRx_leaf s (by simp [Cell.aligned, h]) hr, State.upAnnounce_of_acquire, State.announced_cell s hi]
      · rw [State.announced_cell s hi]
        exact hd
      · rw [State.announced_cell s hi]
        exact h
    exact exec_liveC (k := .leaf) rfl hl hu
  · obtain ⟨ns, he⟩ := opC2Send_of s c hm hp hr
    refine .of_live rfl hl (he.trans (State.sendC2_of_open _ (by simpa using hf))) ?_
    refine ⟨?_, ?_, .trans (.modRoot ..) (.trans (.modRoot ..) (.modCell ..))⟩
    · simp [Root.c2Sent_c2out _ _ hm]
    · rw [State.modCell_cell_self]
      simp

end Sys2Proof.Machine
end

section
/-! Statistics, the frequency counter, the holdover gates and the interval events (R82 to R98, R122, R332). -/

namespace Sys2Proof.Machine

section
variable (s : State)

/-! ## The statistics and the frequency counter -/

theorem opStatStop_of_empty (hr : s.leaf.stat.run = true) (hn : s.leaf.stat.n = 0) : opStatStop s =
    s.modLeaf (fun l => { l with stat := { l.stat with run := false, done := true, mean := 0, sdev := 0, min := 0, max := 0 } }) := by
  simp only [opStatStop, State.modLeaf, hr, if_true, StatSt.finish, hn]
theorem bitsSet_pow (i : Fin 16) : bitsSet (BitVec.ofNat 16 (2 ^ i.val)) = [i.val] := by
  revert i
  decide
theorem opFcMinRst_bit (i : Fin 16) : opFcMinRst (BitVec.ofNat 16 (2 ^ i.val)) s = s.modLeaf (fun l =>
    { l with freq := { l.freq with regMin := vmod l.freq.regMin i.val (fun _ => 0xFFFFFFFFFF#40) } }) := by
  simp only [opFcMinRst, bitsSet_pow, List.foldl_cons, List.foldl_nil]

/-- A result handed to the statistics changes of the leaf's own parts those alone. -/
theorem State.statResult_leaf (src : Nat) (x : Int) (a b c : Bool) : ∃ st, (s.statResult src x a b c).leaf = { s.leaf with stat := st } := by
  unfold State.statResult
  (repeat' split)
  · exact ⟨_, rfl⟩
  · refine ⟨s.leaf.stat, ?_⟩
    rw [State.leaf_of_part (s := s) (by simp)]
  · exact ⟨_, rfl⟩
theorem State.statResult_of_stopped (src : Nat) (x : Int) (a b c : Bool) (h : s.leaf.stat.run = false) : s.statResult src x a b c = s :=
  if_pos (by simp [h])

/-- A SINGLE gate over a clock ends: its count, whether it was 0, done. -/
theorem FreqSt.result_single {f : FreqSt} {n : BitVec 40} (hm : f.mode = 0) (hs : f.sel ≠ 0) :
    (f.result n).1.noclk = decide (n = 0) ∧ (f.result n).1.done = true := by simp [FreqSt.result, hm, hs]
theorem opFcGateEnd_single {n : BitVec 40} (hb : s.leaf.freq.busy = true) (ho : s.leaf.gate.off.getLsbD 23 = false)
    (hc : s.leaf.freq.change = false) (hm : s.leaf.freq.mode = 0) (hg : s.leaf.freq.go = false) :
    ∃ st, (opFcGateEnd n s).leaf = { s.leaf with
      freq := { (s.leaf.freq.result n).1 with busy := false, go := false, start := s.leaf.freq.start + BitVec.ofNat 64 (2 ^ s.leaf.freq.g) },
      stat := st } := by
  have hbusy : (s.leaf.freq.go || decide (s.leaf.freq.mode ≠ 0)) = false := by simp [hg, hm]
  rw [opFcGateEnd, if_neg (by rw [hb, ho]; nofun)]
  dsimp only
  rw [if_neg (by simp [hc]), hbusy]
  obtain ⟨st, h⟩ := State.statResult_leaf ((s.advTo .leaf (s.leaf.freq.start + BitVec.ofNat 64 (2 ^ s.leaf.freq.g))).modLeaf (fun l =>
    { l with freq := { (s.leaf.freq.result n).1 with busy := false, go := false,
                                                     start := s.leaf.freq.start + BitVec.ofNat 64 (2 ^ s.leaf.freq.g) } }))
    7 (s.leaf.freq.result n).2 false false false
  exact ⟨st, by rw [h, State.modLeaf_leaf, State.advTo_leaf]⟩

/-! ## Holdover gates -/

theorem State.leafHoldGate_of {n : BitVec 40} (h : (s.leaf.freq.valid + 1) % 1024 ≠ 0) : s.leafHoldGate n = s.modLeaf (fun l =>
    { l with freq := { l.freq with gates := (n :: l.freq.gates).take 8, valid := l.freq.valid + 1,
                                   ratioHold := holdRatioOf ((n :: l.freq.gates).take 8) l.freq.ratioHold } }) := if_neg h
/-- The edge at which a holdover gate ends. -/
def State.gateEdge (s : State) (k : NodeSel) : State := s.advTo k (s.time k).holdStop
theorem opHoldGateEnd_leaf {n : BitVec 40} (hd : ¬ ((s.time .leaf).domA.st = .off ∧ (s.time .leaf).domB.st = .off))
    (ho : s.leaf.gate.off.getLsbD 23 = false) : opHoldGateEnd .leaf n s =
      let s2 := (s.gateEdge .leaf).modLeaf (fun l => { l with freq := { l.freq with holdNoclk := decide (n = 0) } })
      if ((s.gateEdge .leaf).time .leaf).holdValid then s2.leafHoldGate n else s2 := by
  rw [opHoldGateEnd, if_neg]
  · rfl
  · rintro (h | h)
    · exact hd h
    · exact absurd (ho.symm.trans h) nofun
theorem opHoldGateEnd_mary {n : BitVec 40} (hd : ¬ ((s.time .mary).domA.st = .off ∧ (s.time .mary).domB.st = .off))
    (hr : s.isRoot .mary = false) : opHoldGateEnd .mary n s =
      if ((s.gateEdge .mary).time .mary).holdValid then (s.gateEdge .mary).maryHoldGate n else s.gateEdge .mary := by
  rw [opHoldGateEnd, if_neg]
  · rfl
  · rintro (h | h)
    · exact hd h
    · exact absurd (hr.symm.trans h) nofun

/-! ## Events and intervals -/

/-- An event below the FIFO's room joins it. -/
theorem State.pushEvt_leaf {i : Nat} {r : EvtRec} (h : (if i = 0 then s.leaf.evt.fifo0 else s.leaf.evt.fifo1).length < 16) :
    (s.pushEvt i r).leaf = { s.leaf with evt := if i = 0 then { s.leaf.evt with fifo0 := s.leaf.evt.fifo0 ++ [r] }
                                                else { s.leaf.evt with fifo1 := s.leaf.evt.fifo1 ++ [r] } } := by
  unfold State.pushEvt
  rw [if_neg (by omega)]
  by_cases hi : i = 0 <;> simp only [hi, if_true, if_false] <;> split <;> simp
theorem State.intvEdge_of_disabled (sel : Nat) (st : Int) (co un : Bool) (h : s.effFld .leaf 0x8000 1 0 = 0) : s.intvEdge sel st co un = s := by
  simp [State.intvEdge, h]
theorem State.convert_leaf (k : NodeSel) (j : Nat) (e : W64) (c : Byte) : (s.convert k j e c).2.leaf = s.leaf := by
  unfold State.convert
  split <;> rfl

theorem State.pushEvt_effReg (i : Nat) (r : EvtRec) (o : Nat) : (s.pushEvt i r).effReg .leaf o = s.effReg .leaf o := by
  unfold State.pushEvt
  dsimp only
  (repeat' split) <;> simp
theorem State.convert_effReg (k : NodeSel) (j : Nat) (e : W64) (c : Byte) (o : Nat) : (s.convert k j e c).2.effReg .leaf o = s.effReg .leaf o := by
  unfold State.convert
  split <;> rfl
theorem State.bumpIf_effReg (b : Bool) (o x : Nat) : (s.bumpIf b .leaf x).effReg .leaf o = s.effReg .leaf o := by
  unfold State.bumpIf
  split <;> simp

/-- A stamp, known from the count alone or converted, leaves the leaf's own parts and its settings. -/
theorem State.stamp_leaf (b : Bool) (x : Int) (e : W64) (c : Byte) : (if b then (x, s) else s.convert .leaf 1 e c).2.leaf = s.leaf := by
  cases b
  · exact State.convert_leaf ..
  · rfl
theorem State.stamp_effReg (b : Bool) (x : Int) (e : W64) (c : Byte) (o : Nat) :
    (if b then (x, s) else s.convert .leaf 1 e c).2.effReg .leaf o = s.effReg .leaf o := by
  cases b
  · exact State.convert_effReg ..
  · rfl
/-- An event whose stamp has been taken joins its FIFO, whatever the edge did to the calibration. -/
theorem State.pushEvt_intvEdge_leaf {u : State} {i : Nat} {r : EvtRec} (rc : W64) (sel : Nat) (st : Int) (co un b : Bool)
    (hu : u.leaf = s.leaf) (he : u.effReg .leaf 0x8000 = s.effReg .leaf 0x8000) (hd : s.effFld .leaf 0x8000 1 0 = 0)
    (hf : (if i = 0 then s.leaf.evt.fifo0 else s.leaf.evt.fifo1).length < 16) :
    (((((u.bumpIf b .leaf 0x8200).modLeaf (fun l => { l with evt := { l.evt with last := if b then l.evt.last else some rc, lastAny := some rc } })).pushEvt i r).intvEdge
      sel st co un).leaf = { s.leaf with evt := if i = 0 then
          { s.leaf.evt with fifo0 := s.leaf.evt.fifo0 ++ [r], last := if b then s.leaf.evt.last else some rc, lastAny := some rc }
        else { s.leaf.evt with fifo1 := s.leaf.evt.fifo1 ++ [r], last := if b then s.leaf.evt.last else some rc, lastAny := some rc } }) := by
  have hb : (u.bumpIf b .leaf 0x8200).leaf = s.leaf := (State.leaf_of_part (by simp)).trans hu
  rw [State.intvEdge_of_disabled, State.pushEvt_leaf]
  · rw [State.modLeaf_leaf, hb]
  · rw [State.modLeaf_leaf, hb]
    exact hf
  · rw [State.effFld, State.pushEvt_effReg, State.modLeaf_effReg, State.bumpIf_effReg, he]
    exact hd
/-- An edge asked for, with no interval started, joins its FIFO. -/
theorem opEventEdge_leaf {i : Nat} {rise : Bool} {code : Byte} (ho : s.ch1Off = false)
    (he : (if rise then decide (s.fld .leaf 0x8004 (4 * i + 1) (4 * i) = 1 ∨ s.fld .leaf 0x8004 (4 * i + 1) (4 * i) = 3)
      else decide (s.fld .leaf 0x8004 (4 * i + 1) (4 * i) = 2 ∨ s.fld .leaf 0x8004 (4 * i + 1) (4 * i) = 3)) = true)
    (hn : s.leaf.evt.open_ = none) (hd : s.effFld .leaf 0x8000 1 0 = 0)
    (hf : (if i = 0 then s.leaf.evt.fifo0 else s.leaf.evt.fifo1).length < 16) :
    ∃ (r : EvtRec) (la lb : Option W64), r.rise = rise ∧ r.active = (s.time .leaf).active ∧ r.noht = (s.time .leaf).noht ∧
      r.folding = (s.time .leaf).fold.isSome ∧
      (opEventEdge i rise code s).leaf = { s.leaf with evt := if i = 0 then { s.leaf.evt with fifo0 := s.leaf.evt.fifo0 ++ [r], last := la, lastAny := lb }
        else { s.leaf.evt with fifo1 := s.leaf.evt.fifo1 ++ [r], last := la, lastAny := lb } } := by
  rw [opEventEdge, if_neg (by rw [ho, he]; nofun)]
  rw [hn]
  dsimp only
  refine ⟨_, _, _, rfl, rfl, rfl, rfl, State.pushEvt_intvEdge_leaf s _ _ _ _ _ _ ?_ ?_ hd hf⟩
  · exact State.stamp_leaf ..
  · exact State.stamp_effReg ..

theorem State.pushIntv_leaf {r : IntvRec} (h : s.leaf.evt.intv.length < 16) (hs : s.leaf.stat.run = false) :
    (s.pushIntv r).leaf = { s.leaf with evt := { s.leaf.evt with intv := s.leaf.evt.intv ++ [r] } } := by
  unfold State.pushIntv
  dsimp only
  rw [if_neg (by omega)]
  rw [State.statResult_of_stopped]
  · split <;> simp
  · split <;> simpa using hs
theorem opIntvTimeout_leaf {x : Int × Bool × Bool × W64} (ho : s.leaf.evt.open_ = some x) (h : s.leaf.evt.intv.length < 16)
    (hs : s.leaf.stat.run = false) : ∃ r : IntvRec, r.timeout = true ∧ r.coarse = x.2.1 ∧ r.val = 0xFFFFFFFFFFFFFF#56 ∧
      (opIntvTimeout s).leaf = { s.leaf with evt := { s.leaf.evt with open_ := none, intv := s.leaf.evt.intv ++ [r] } } := by
  obtain ⟨x, co, un, rc⟩ := x
  simp only [opIntvTimeout, ho, State.intvTimeout, State.advAfter_leaf]
  refine ⟨_, ?_, ?_, ?_, (State.pushIntv_leaf _ (by simpa using h) (by simpa using hs)).trans (by simp; rfl)⟩ <;> rfl

end

/-- Settles O24: each operation's case. -/
theorem intervalCounters : Obligations.IntervalCounters := by
  refine ⟨fun s src ht => exec_access_leaf rfl ht rfl, fun s src ht hr hn => exec_access_leaf rfl ht (opStatStop_of_empty _ hr hn),
    fun s src ht => exec_access_leaf rfl ht rfl, fun s src ht => exec_access_leaf rfl ht rfl, fun s src i ht => exec_access_leaf rfl ht (opFcMinRst_bit _ i),
    fun s n hl hb ho hc hm hg hs => ?_, fun s n hl hd ho hv => ?_, fun s n hl hd ho hv hn => ?_, fun s n hl hd hr => ?_,
    fun s i rise code hl ho he hn hd hf => ?_, fun s x hl ho h hs => ?_⟩
  · obtain ⟨st, h⟩ := opFcGateEnd_single s (n := n) hb ho hc hm hg
    obtain ⟨h1, h2⟩ := FreqSt.result_single (n := n) hm hs
    refine .of_live rfl hl rfl ?_
    rw [h]
    exact ⟨rfl, h2, h1, rfl, rfl, .of_part (by simp) (by simp) (by simp)⟩
  · refine .of_live (k := .leaf) rfl hl (opHoldGateEnd_leaf s hd ho) ?_
    simp only [State.gateEdge, hv, Bool.false_eq_true, if_false]
    exact ⟨by simp, by simp, by simp, .of_part (by simp) (by simp) (by simp)⟩
  · refine .of_live (k := .leaf) rfl hl (opHoldGateEnd_leaf s hd ho) ?_
    simp only [State.gateEdge, hv, if_true]
    rw [State.leafHoldGate_of _ (by rw [State.modLeaf_leaf, State.advTo_leaf]; exact hn)]
    exact ⟨by simp, by simp, by simp, .of_part (by simp) (by simp) (by simp)⟩
  · refine .of_live (k := .mary) rfl hl (opHoldGateEnd_mary s hd hr) ?_
    cases hv : ((s.gateEdge .mary).time .mary).holdValid
    · simp only [State.gateEdge] at hv
      simp only [State.gateEdge, hv, Bool.false_eq_true, if_false]
      exact ⟨by simp, by simp, by simp, by simp, by simp, .of_part (by simp) (by simp)⟩
    · simp only [State.gateEdge] at hv
      simp only [State.gateEdge, hv, if_true, State.maryHoldGate]
      exact ⟨by simp, by simp, by simp, by simp, by simp, .of_part (by simp) (by simp)⟩
  · obtain ⟨r, la, lb, h1, h2, h3, h4, h⟩ := opEventEdge_leaf s (i := i.val) (rise := rise) (code := code) ho
      (by cases rise <;> simpa using he) hn hd (by simpa only [Fin.ext_iff, Fin.val_zero] using hf)
    refine .of_live rfl hl rfl ⟨r, h1, h2, h3, h4, ?_⟩
    rw [h]
    by_cases hi : i = 0
    · simp [hi]
    · have hi' : i.val ≠ 0 := fun e => hi (Fin.ext e)
      simp [hi, hi']
  · obtain ⟨r, h1, h2, h3, h4⟩ := opIntvTimeout_leaf s ho h hs
    refine .of_live rfl hl rfl ?_
    rw [h4]
    exact ⟨rfl, ⟨r, h1, h2, h3, rfl⟩, rfl⟩

end Sys2Proof.Machine
end

section
/-! The path delay (ch. 5): probes, echoes and the filter, which a cell's own commands change, and the records of it. -/

namespace Sys2Proof.Machine

/-! ## The filter -/

/-- A verdict on a probe is the flags', and never the filter's or the probes' that are out. -/
@[simp] theorem Delay.noteVoid_n (d : Delay) (v : Bool) : (d.noteVoid v).n = d.n := rfl
@[simp] theorem Delay.noteVoid_sf32 (d : Delay) (v : Bool) : (d.noteVoid v).sf32 = d.sf32 := rfl
@[simp] theorem Delay.noteVoid_outst (d : Delay) (v : Bool) : (d.noteVoid v).outst = d.outst := rfl
@[simp] theorem Delay.noteFull_n (d : Delay) (m : Nat) : (d.noteFull m).n = d.n := by unfold Delay.noteFull; split <;> rfl
@[simp] theorem Delay.noteFull_sf32 (d : Delay) (m : Nat) : (d.noteFull m).sf32 = d.sf32 := by unfold Delay.noteFull; split <;> rfl
@[simp] theorem Delay.noteFull_outst (d : Delay) (m : Nat) : (d.noteFull m).outst = d.outst := by unfold Delay.noteFull; split <;> rfl
@[simp] theorem Delay.judge_n (d : Delay) (l : BitVec 2) : (d.judge l).n = d.n := by unfold Delay.judge; split <;> rfl
@[simp] theorem Delay.judge_sf32 (d : Delay) (l : BitVec 2) : (d.judge l).sf32 = d.sf32 := by unfold Delay.judge; split <;> rfl
@[simp] theorem Delay.judge_outst (d : Delay) (l : BitVec 2) : (d.judge l).outst = d.outst := by unfold Delay.judge; split <;> rfl
theorem Delay.sf_of_sf32 {d : Delay} {x : Int} (h : d.sf32 = x * 2 ^ 16) : d.sf = x := by
  rw [Delay.sf, h]
  exact Int.mul_ediv_cancel x (by decide)
/-- The first sample seeds the filter, and nothing is an outlier. -/
theorem Delay.sample_first {d : Delay} (h : d.n = 0) (m o : Nat) (x : Int) : d.sample m o x =
    ({ d with afterLoss := false, sf32 := x * 2 ^ 16, n := 1, rej := 0, sinceSeed := 2 ^ 25 }, true, false, false) := if_pos h

section
variable (s : State) (c : CellRef)

theorem State.modDly_cell_self (f : Delay → Delay) : (s.modDly c.node c.idx f).cell c.node c.idx =
    { s.cell c.node c.idx with dly := f (s.cell c.node c.idx).dly } := State.modCell_cell_self s c _
theorem KeepsCell.modDly (f : Delay → Delay) : KeepsCell c s (s.modDly c.node c.idx f) := .modCell s c _
theorem KeepsCell.dropStamp (b : Bool) : KeepsCell c s (s.dropStamp c.node c.idx b) := .modCell s c _
theorem State.dropStamp_dly (b : Bool) : ((s.dropStamp c.node c.idx b).cell c.node c.idx).dly = (s.cell c.node c.idx).dly := by
  rw [State.dropStamp, State.modCell_cell_self]
theorem State.dropStamp_ts (b : Bool) : ((s.dropStamp c.node c.idx b).cell c.node c.idx).ts = (s.cell c.node c.idx).ts := by
  rw [State.dropStamp, State.modCell_cell_self]
theorem State.voidProbe_cell : (s.voidProbe c.node c.idx).cell c.node c.idx =
    { s.cell c.node c.idx with dly := (s.cell c.node c.idx).dly.noteVoid true } := by
  rw [State.voidProbe, State.bump_cell, State.modDly_cell_self]
theorem KeepsCell.voidProbe : KeepsCell c s (s.voidProbe c.node c.idx) := .trans (.modDly ..) (.bump ..)
theorem State.voidProbe_count : (s.voidProbe c.node c.idx).count c.node (cOff c.node c.idx 0x148) =
    satInc (s.count c.node (cOff c.node c.idx 0x148)) := by simp [State.voidProbe, State.modDly]

/-- The probe of an echo that came is out no longer, and its stamp is used. -/
def State.probeBack (k : NodeSel) (i : Nat) (id : Byte) : State :=
  (s.dropStamp k i true).modDly k i (fun d => { d with outst := d.outst.filter (fun q => !decide (q.id = id)) })
theorem State.probeBack_cell (id : Byte) : (s.probeBack c.node c.idx id).cell c.node c.idx =
    { s.cell c.node c.idx with
      stamps := (s.cell c.node c.idx).stamps.eraseP (fun p => p.1 == true),
      dly := { (s.cell c.node c.idx).dly with outst := (s.cell c.node c.idx).dly.outst.filter (fun q => !decide (q.id = id)) } } := by
  rw [State.probeBack, State.modDly_cell_self, State.dropStamp, State.modCell_cell_self]
theorem KeepsCell.probeBack (id : Byte) : KeepsCell c s (s.probeBack c.node c.idx id) := .trans (.dropStamp ..) (.modDly ..)
theorem State.probeBack_interval (k : NodeSel) (i : Nat) (id : Byte) (d : Dom) (a b : Stamp) :
    (s.probeBack k i id).interval k d a b = s.interval k d a b := by
  have h : (s.probeBack k i id).time k = s.time k := by simp [State.probeBack, State.modDly, State.dropStamp]
  rw [State.interval, State.interval, h]
theorem State.probeBack_count (k : NodeSel) (i : Nat) (id : Byte) (o : Nat) : (s.probeBack k i id).count k o = s.count k o := by
  simp [State.probeBack, State.modDly, State.dropStamp]

theorem State.enterActive_cell : (s.enterActive c.node c.idx).cell c.node c.idx = (if (s.cell c.node c.idx).ts = .delay then
    { s.cell c.node c.idx with ts := .active, everActive := true, retry := { (s.cell c.node c.idx).retry with lossAt := none, discarded := false } }
    else s.cell c.node c.idx) := State.modCell_cell_self s c _
theorem KeepsCell.enterActive : KeepsCell c s (s.enterActive c.node c.idx) := .modCell ..
/-- The delay of a domain without HT is the filter's at once; the filter itself stays. -/
theorem State.takeDelay_filter : ((s.takeDelay c.node c.idx).cell c.node c.idx).dly.n = (s.cell c.node c.idx).dly.n ∧
    ((s.takeDelay c.node c.idx).cell c.node c.idx).dly.sf32 = (s.cell c.node c.idx).dly.sf32 ∧
    ((s.takeDelay c.node c.idx).cell c.node c.idx).dly.outst = (s.cell c.node c.idx).dly.outst ∧
    ((s.takeDelay c.node c.idx).cell c.node c.idx).ts = (s.cell c.node c.idx).ts := by
  rw [State.takeDelay, State.modDly_cell_self]
  exact ⟨rfl, rfl, rfl, rfl⟩

/-- The state whose filter holds its first sample. -/
def State.seeded (k : NodeSel) (i : Nat) (sigma : Int) : State :=
  let d := ((s.cell k i).dly.sample (s.dlyShift k (s.cell k i).cfg.dom) (s.effFldD k (s.cell k i).cfg.dom (tOff k 0x112C) 16 0) sigma).1
  s.modDly k i (fun _ => ((d.noteFull (s.dlyShift k (s.cell k i).cfg.dom)).judge (s.cell k i).cfg.lclass).noteVoid false)
theorem State.takeSample_of_first {sigma : Int} (h : (s.cell c.node c.idx).dly.n = 0) : s.takeSample c.node c.idx sigma =
    (if (s.time c.node).hasHt (s.cell c.node c.idx).cfg.dom then s.seeded c.node c.idx sigma
      else (s.seeded c.node c.idx sigma).takeDelay c.node c.idx).enterActive c.node c.idx := by
  simp only [State.takeSample, State.seeded, Delay.sample_first h, State.bumpIf, if_true, Bool.false_eq_true, if_false]
theorem State.seeded_filter {sigma : Int} (h : (s.cell c.node c.idx).dly.n = 0) :
    ((s.seeded c.node c.idx sigma).cell c.node c.idx).dly.n = 1 ∧ ((s.seeded c.node c.idx sigma).cell c.node c.idx).dly.sf32 = sigma * 2 ^ 16 ∧
    ((s.seeded c.node c.idx sigma).cell c.node c.idx).dly.outst = (s.cell c.node c.idx).dly.outst ∧
    ((s.seeded c.node c.idx sigma).cell c.node c.idx).ts = (s.cell c.node c.idx).ts := by
  rw [State.seeded, State.modDly_cell_self, Delay.sample_first h]
  exact ⟨by simp, by simp, by simp, rfl⟩
theorem State.takeSample_first {sigma : Int} (h : (s.cell c.node c.idx).dly.n = 0) :
    ((s.takeSample c.node c.idx sigma).cell c.node c.idx).dly.n = 1 ∧ ((s.takeSample c.node c.idx sigma).cell c.node c.idx).dly.sf = sigma ∧
    ((s.takeSample c.node c.idx sigma).cell c.node c.idx).dly.outst = (s.cell c.node c.idx).dly.outst ∧
    ((s.takeSample c.node c.idx sigma).cell c.node c.idx).ts =
      (if (s.cell c.node c.idx).ts = .delay then .active else (s.cell c.node c.idx).ts) ∧
    KeepsCell c s (s.takeSample c.node c.idx sigma) := by
  rw [s.takeSample_of_first c h]
  have hs := s.seeded_filter c (sigma := sigma) h
  have hk : KeepsCell c s (s.seeded c.node c.idx sigma) := .modDly ..
  generalize s.seeded c.node c.idx sigma = u at hs hk
  have hu : ∃ v, (if (s.time c.node).hasHt (s.cell c.node c.idx).cfg.dom then u else u.takeDelay c.node c.idx) = v ∧
      (v.cell c.node c.idx).dly.n = 1 ∧ (v.cell c.node c.idx).dly.sf32 = sigma * 2 ^ 16 ∧
      (v.cell c.node c.idx).dly.outst = (s.cell c.node c.idx).dly.outst ∧ (v.cell c.node c.idx).ts = (s.cell c.node c.idx).ts ∧
      KeepsCell c s v := by
    refine ⟨_, rfl, ?_⟩
    obtain ⟨h1, h2, h3, h4⟩ := hs
    obtain ⟨g1, g2, g3, g4⟩ := u.takeDelay_filter c
    split
    · exact ⟨h1, h2, h3, h4, hk⟩
    · exact ⟨g1.trans h1, g2.trans h2, g3.trans h3, g4.trans h4, hk.trans (.modDly ..)⟩
  obtain ⟨v, hv, h1, h2, h3, h4, h5⟩ := hu
  rw [hv, State.enterActive_cell, h4]
  refine ⟨?_, ?_, ?_, ?_, h5.trans (.enterActive ..)⟩ <;> split
  · exact h1
  · exact h1
  · exact Delay.sf_of_sf32 h2
  · exact Delay.sf_of_sf32 h2
  · exact h3
  · exact h3
  · rfl
  · exact h4

/-! ## Probes and echoes -/

theorem opProbeSend_of {cs : CorrSet} {h : Nat} (hp : s.portSet c.node c.idx = some cs) (hn : (s.nextFrame c.node c.idx).2 = some h)
    (ht : (s.cell c.node c.idx).ts = .delay ∨ (s.cell c.node c.idx).ts = .active) (hs : (s.cell c.node c.idx).sends = true) :
    ∃ s1, (s1 = s ∨ ∃ e, s1 = s.advTo c.node e) ∧ opProbeSend c.node c.idx s =
      if (s.cell c.node c.idx).dly.outst.length + b01 (s.cell c.node c.idx).dly.probeDue.isSome ≥ 8 then s1.bump c.node (cOff c.node c.idx 0x134)
      else s1.modDly c.node c.idx (fun d => { d with probeDue := some d.probeId, probeId := d.probeId + 1 }) := by
  unfold opProbeSend
  simp only [hp, hn]
  rw [if_neg (by rcases ht with h | h <;> simp [h, hs])]
  refine ⟨_, ?_, rfl⟩
  split
  · exact .inl rfl
  · exact .inr ⟨_, rfl⟩
theorem opDelayProbeRx_of {id : Byte} {st : Stamp} (h : (s.cell c.node c.idx).aligned = true)
    (hs : (s.cell c.node c.idx).stampFor false = some (some st)) (hn : (s.cell c.node c.idx).dly.echoes.length < 4) :
    opDelayProbeRx c.node c.idx id s =
      (s.dropStamp c.node c.idx false).modDly c.node c.idx (fun d => { d with echoes := d.echoes ++ [{ id := id, t2 := st }] }) := by
  rw [opDelayProbeRx, if_neg (by simp [h]), hs]
  dsimp only
  rw [if_neg (by rw [State.dropStamp_dly]; omega)]
theorem opDelayProbeRx_dropped {id : Byte} {st : Option Stamp} (h : (s.cell c.node c.idx).aligned = true)
    (hs : (s.cell c.node c.idx).stampFor false = some st) (hn : st = none ∨ (s.cell c.node c.idx).dly.echoes.length ≥ 4) :
    opDelayProbeRx c.node c.idx id s =
      (s.dropStamp c.node c.idx false).bump c.node (cOff c.node c.idx (if st = none then 0x140 else 0x13C)) := by
  rw [opDelayProbeRx, if_neg (by simp [h]), hs]
  cases st with
  | none => rfl
  | some a =>
    dsimp only
    rw [if_pos (by rw [State.dropStamp_dly]; simpa using hn), if_neg nofun]
theorem opEchoTx_sent {e : Echo} {es : List Echo} {b n : Nat} (h : (s.cell c.node c.idx).aligned = true)
    (hs : (s.cell c.node c.idx).sends = true) (he : (s.cell c.node c.idx).dly.echoes = e :: es) (hn : (s.nextFrame c.node c.idx).2 = some b)
    (ha : ((s.cell c.node c.idx).announce (some b)).isSome = false) (hb : s.barC3 c.node c.idx b = false)
    (ht : s.turnOf c.node c.idx e (s.nextFrame c.node c.idx).1 = some n) :
    opEchoTx c.node c.idx s = s.modCell c.node c.idx (fun c => { c with echoq := [echoTok e.id n] }) := by
  unfold opEchoTx
  simp only [he, hn, ht]
  rw [if_neg (by simp [h, hs, ha, hb])]
theorem opEchoTx_dropped {e : Echo} {es : List Echo} {b : Nat} (h : (s.cell c.node c.idx).aligned = true)
    (hs : (s.cell c.node c.idx).sends = true) (he : (s.cell c.node c.idx).dly.echoes = e :: es) (hn : (s.nextFrame c.node c.idx).2 = some b)
    (ha : ((s.cell c.node c.idx).announce (some b)).isSome = false) (hb : s.barC3 c.node c.idx b = false)
    (ht : s.turnOf c.node c.idx e (s.nextFrame c.node c.idx).1 = none) :
    opEchoTx c.node c.idx s = (s.modDly c.node c.idx (fun d => { d with echoes := es })).bump c.node (cOff c.node c.idx 0x138) := by
  unfold opEchoTx
  simp only [he, hn, ht]
  rw [if_neg (by simp [h, hs, ha, hb])]
theorem opDelayEchoRx_unmatched {id : Byte} {turn : W32} (h : (s.cell c.node c.idx).aligned = true)
    (hf : (s.cell c.node c.idx).dly.outst.find? (fun p => decide (p.id = id)) = none) :
    opDelayEchoRx c.node c.idx id turn s = (s.dropStamp c.node c.idx true).bump c.node (cOff c.node c.idx 0x144) := by
  unfold opDelayEchoRx
  simp only [hf]
  rw [if_neg (by simp [h])]
/-- The greatest round trip that a sample may have, by the cell's domain. -/
def State.dlyLimit (k : NodeSel) (i : Nat) : Int := ((s.effFldD k (s.cell k i).cfg.dom (tOff k 0x1128) 9 0 * 1000 * 65536 : Nat) : Int)
theorem opDelayEchoRx_void {id : Byte} {turn : W32} {t4 : Option Stamp} {p : Probe} (h : (s.cell c.node c.idx).aligned = true)
    (hf : (s.cell c.node c.idx).dly.outst.find? (fun p => decide (p.id = id)) = some p) (hs : (s.cell c.node c.idx).stampFor true = some t4)
    (hb : ∀ t, t4 = some t → s.interval c.node (s.cell c.node c.idx).cfg.dom p.t1 t - (turn.toNat : Int) ≤ 0 ∨
      s.interval c.node (s.cell c.node c.idx).cfg.dom p.t1 t - (turn.toNat : Int) > s.dlyLimit c.node c.idx) :
    opDelayEchoRx c.node c.idx id turn s = (s.probeBack c.node c.idx id).voidProbe c.node c.idx := by
  unfold opDelayEchoRx
  simp only [hf, hs]
  rw [if_neg (by simp [h])]
  cases t4 with
  | none => rfl
  | some t =>
    have ht := hb t rfl
    rw [← s.probeBack_interval c.node c.idx id] at ht
    exact if_pos ht
theorem opDelayEchoRx_sample {id : Byte} {turn : W32} {t : Stamp} {p : Probe} (h : (s.cell c.node c.idx).aligned = true)
    (hf : (s.cell c.node c.idx).dly.outst.find? (fun p => decide (p.id = id)) = some p) (hs : (s.cell c.node c.idx).stampFor true = some (some t))
    (h0 : 0 < s.interval c.node (s.cell c.node c.idx).cfg.dom p.t1 t - (turn.toNat : Int))
    (hm : s.interval c.node (s.cell c.node c.idx).cfg.dom p.t1 t - (turn.toNat : Int) ≤ s.dlyLimit c.node c.idx) :
    opDelayEchoRx c.node c.idx id turn s = (s.probeBack c.node c.idx id).takeSample c.node c.idx
      (s.interval c.node (s.cell c.node c.idx).cfg.dom p.t1 t - (turn.toNat : Int)) := by
  unfold opDelayEchoRx
  simp only [hf, hs]
  rw [if_neg (by simp [h])]
  rw [← s.probeBack_interval c.node c.idx id] at h0 hm ⊢
  exact if_neg (by rw [← State.probeBack, ← State.dlyLimit]; omega)
/-- A cell's counter is not the one of the values refused to the converters. -/
theorem cOff_ne_conv (k : NodeSel) (i : Nat) {o : Nat} (h : o % 0x1000 ≠ 0x214) : cOff k i o ≠ tOff k 0x1214 := by
  cases k <;> simp only [cOff, tOff] <;> omega
theorem opProbeTmo_of {id : Byte} {p : Probe} (hf : (s.cell c.node c.idx).dly.outst.find? (fun p => decide (p.id = id)) = some p) :
    opProbeTmo c.node c.idx id s = ((s.advAfter c.node p.t1.rc (s.effFldD c.node (s.cell c.node c.idx).cfg.dom (tOff c.node 0x1124) 9 0 *
      cyclesUs)).modDly c.node c.idx (fun d => { d with outst := d.outst.filter (fun q => !decide (q.id = id)) })).voidProbe c.node c.idx := by
  rw [opProbeTmo, hf]

end

/-- Settles O26: each operation's case. -/
theorem delayProbes : Obligations.DelayProbes := by
  refine ⟨fun s c cs h hl hp hn ht hs ho => ?_, fun s c cs h hl hp hn ht hs ho => ?_,
    fun s c id rsv t2 hl h hs hn => exec_live rfl hl (opDelayProbeRx_of s c h hs hn),
    fun s c id rsv st hl h hs hn => exec_live rfl hl (opDelayProbeRx_dropped s c h hs hn),
    fun s c e es b n hl h hs he hn ha hb htn => exec_live rfl hl (opEchoTx_sent s c h hs he hn ha hb htn),
    fun s c e es b hl h hs he hn ha hb htn => exec_live rfl hl (opEchoTx_dropped s c h hs he hn ha hb htn),
    fun s c id turn rsv t4 p hl h hf hs h0 hpos hmax => ?_, fun s c id turn rsv t4 p hl h hf hs hbad => ?_,
    fun s c id turn rsv hl h hf => exec_liveC rfl hl (opDelayEchoRx_unmatched s c h hf), fun s c id p hl hf => ?_⟩
  · obtain ⟨s1, h1, hop⟩ := opProbeSend_of s c hp hn ht hs
    refine .of_live rfl hl (hop.trans (if_neg (by omega))) ?_
    rcases h1 with rfl | ⟨e, rfl⟩
    · exact ⟨by rw [State.modDly_cell_self], fun k o => by simp [State.modDly], .modDly ..⟩
    · exact ⟨by rw [State.modDly_cell_self]; simp, fun k o => by simp [State.modDly], .trans (.advTo ..) (.modDly ..)⟩
  · obtain ⟨s1, h1, hop⟩ := opProbeSend_of s c hp hn ht hs
    refine .of_live rfl hl (hop.trans (if_pos ho)) ?_
    rcases h1 with rfl | ⟨e, rfl⟩
    · exact ⟨by simp, by simp, .bump ..⟩
    · exact ⟨by simp, by simp, .trans (.advTo ..) (.bump ..)⟩
  · refine .of_liveC rfl hl (opDelayEchoRx_sample s c h hf hs hpos hmax) ?_
    rw [State.convRefresh_cell]
    have hb := s.probeBack_cell c id
    obtain ⟨h1, h2, h3, h4, h5⟩ := (s.probeBack c.node c.idx id).takeSample_first c (by rw [hb]; exact h0)
    rw [hb] at h3 h4
    exact ⟨h1, h2, h3, h4, .trans (.probeBack ..) (h5.trans (.convRefresh ..))⟩
  · refine .of_liveC rfl hl (opDelayEchoRx_void s c h hf hs hbad) ?_
    rw [State.convRefresh_cell, State.voidProbe_cell, State.probeBack_cell]
    refine ⟨rfl, rfl, rfl, rfl, ?_, .trans (.probeBack ..) (.trans (.voidProbe ..) (.convRefresh ..))⟩
    rw [State.convRefresh_count_other, State.voidProbe_count, State.probeBack_count]
    exact cOff_ne_conv c.node c.idx (by decide)
  · refine .of_live rfl hl (opProbeTmo_of s c hf) ?_
    rw [State.voidProbe_cell, State.modDly_cell_self, State.voidProbe_count]
    exact ⟨by simp, by simp, by simp [State.modDly], .trans (.advAfter ..) (.trans (.modDly ..) (.voidProbe ..))⟩

/-! ## Records -/

section
variable (s : State)

theorem opTrendSend_leaf {i : Nat} (h : (s.cell .leaf i).cfg.role = 1 ∨ (s.cell .leaf i).cfg.role = 3) (hd : (s.cell .leaf i).dly.trendDue = true)
    (hr : s.isRoot .leaf = false) : opTrendSend .leaf i s =
      (s.sendOwnC3 .leaf (s.cell .leaf i).cfg.dom (teleToks (s.trendRec .leaf i))).modDly .leaf i (fun d =>
        { d with trendDue := false, trendAt := s.rc .leaf }) := by
  unfold opTrendSend
  dsimp only
  rw [if_neg (by tauto), if_pos hd, State.originTel, if_neg (by decide : ¬ NodeSel.leaf = .mary), if_neg (by simp [hr])]
theorem opTelemetryRx_leaf {i : Nat} {r : TeleRec} (h : (s.cell .leaf i).ts = .active) (hd : (s.cell .leaf i).cfg.role = 2)
    (hk : r.kind = 1 ∨ r.kind = 3 ∨ r.kind = 4) (hr : s.isRoot .leaf = false) :
    opTelemetryRx .leaf i r s = s.passUpC3 .leaf i (teleToks r) := by
  have h0 : ¬ (r.kind.toNat = 0 ∨ r.kind.toNat > 4) ∧ r.kind ≠ 2 := by rcases hk with e | e | e <;> rw [e] <;> decide
  unfold opTelemetryRx
  dsimp only
  rw [if_neg (by simp [h]), if_neg h0.1, if_neg (by simp [hd]), if_neg (by decide : ¬ NodeSel.leaf = .mary), if_neg (by simp [hr]), if_neg h0.2]

end

/-- Settles O27: each operation's case. -/
theorem delayRecords : Obligations.DelayRecords := by
  refine ⟨fun s c src v ht => exec_access_leaf rfl ht rfl, fun s c hl h hd hr => exec_live rfl hl (opTrendSend_leaf s h hd hr),
    fun s c r hl h hd hk hr => exec_live rfl hl (opTelemetryRx_leaf s h hd hk hr), fun s n src ht hr => ?_⟩
  refine .of_access rfl ht (if_neg (by simp [hr])) ?_
  exact ⟨by simp [State.flightMax], by simp, by simp, by simp, by simp, by simp⟩

end Sys2Proof.Machine
end

section
/-! The region ports (ch. 6): their resets, gates, landings, corrections, levels and outcomes. -/

namespace Sys2Proof.Machine

/-! ## The compute reset and the reference clock -/

section
variable (s : State)

theorem State.region_of_leaf {s t : State} (h : t.leaf = s.leaf) (q : Nat) : t.region q = s.region q :=
  congrArg (fun l : LeafOnly => vget l.regions q .reset) h
theorem State.region_of_regions {s t : State} (h : t.leaf.regions = s.leaf.regions) (q : Nat) : t.region q = s.region q :=
  congrArg (fun v => vget v q Region.reset) h
theorem satAdd_zero (x : W32) : satAdd x 0 = x := by
  have hx := x.isLt
  rw [satAdd, if_neg (by omega), Nat.add_zero, BitVec.ofNat_toNat, BitVec.setWidth_eq]
theorem State.bumpBy_count_same (k : NodeSel) (o n : Nat) : (s.bumpBy k o n).count k o = if n = 0 then s.count k o else satAdd (s.count k o) n := by
  unfold State.bumpBy
  split
  · rfl
  · cases k <;> simp [State.count, State.modNode, State.onNode]

/-- Of a port with empty queues the reset takes the signals, the lanes and the anchor. -/
theorem Region.fallCr_of_idle {r : Region} (hq : r.queue = []) (hw : r.wait = []) : r.fallCr =
    { r with crN := false, launch := false, picot := false, corrVld := false, hcErr := false, hoVld := false, beats := [], hcq := [],
             hcGap := false, anchor := none, corrOpen := none, corrOk := false } := by
  cases r
  cases hq
  cases hw
  rfl
theorem opComputeAssert_of_idle {p : Nat} (h : (s.region p).crN = true) (hq : (s.region p).queue = []) (hw : (s.region p).wait = []) :
    opComputeAssert p s = (s.modRegion p Region.fallCr).bumpBy .leaf (rOff p 0x20) (s.region p).beats.length := by
  unfold opComputeAssert
  simp only [hq, hw]
  exact if_neg (by simp [h])
theorem opRefclkLost_eq : opRefclkLost s =
    ((s.modTime .leaf (fun t => { t with refclk := false, tclk := t.tclk && decide (t.pll ≠ .refclk) })).modLeaf (fun l =>
      { l with freq := { l.freq with holdNoclk := true },
               regions := if (s.time .leaf).pll = .refclk then l.regions.map (fun r => { r with anchor := none }) else l.regions })).raiseTime
      .leaf 7 := by
  unfold opRefclkLost
  simp only [decide_eq_true_eq]

end

/-! ## The gates -/

section
variable (s : State)

/-- Clearing the bits of a list in turn clears just those. -/
theorem foldl_clrBit_getLsbD {w : Nat} (l : List Nat) (x : BitVec w) (i : Nat) :
    (l.foldl clrBit x).getLsbD i = (x.getLsbD i && !decide (i ∈ l)) := by
  induction l generalizing x with
  | nil => simp
  | cons a l ih =>
    rw [List.foldl_cons, ih, clrBit_getLsbD]
    by_cases h : i = a
    · simp [h]
    · simp [h, Ne.symm h]
/-- Switching gates on again only clears their bits. -/
theorem State.each_gateBit_off (l : List Nat) : s.each l (fun s b => s.gateBit false b) =
    s.modGate (fun g => { g with off := l.foldl clrBit g.off, pend := l.foldl clrBit g.pend }) := by
  induction l generalizing s with
  | nil => rfl
  | cons b l ih => exact ih _
theorem State.gateBit_on_idle {b : Nat} (h : s.leaf.gate.off.getLsbD b = false) (hw : s.gateWhy b = 0) :
    s.gateBit true b = s.modGate (fun g => { g with pend := setBit g.pend b }) := by
  rw [State.gateBit, if_neg nofun]
  rw [if_neg (by rw [h]; nofun), if_neg (by simp [hw])]
theorem State.gateBit_on_busy {b : Nat} (h : s.leaf.gate.off.getLsbD b = false) (hw : s.gateWhy b ≠ 0) :
    s.gateBit true b = s.gateRefuse b (s.gateWhy b) := by
  rw [State.gateBit, if_neg nofun]
  rw [if_neg (by rw [h]; nofun), if_pos hw]
theorem State.gateWhy_of_leaf {s t : State} (h : t.leaf = s.leaf) : t.gateWhy 0 = s.gateWhy 0 := by
  have hb : t.gateBusy = s.gateBusy := funext fun p => by
    unfold State.gateBusy
    rw [State.region_of_leaf h, h]
  rw [State.gateWhy, if_pos (by decide), hb, State.gateWhy, if_pos (by decide)]

/-- No bit but the first is left of a register whose other 23 bits are cleared. -/
theorem foldl_clrBit_range (x : BitVec 24) : (List.range' 1 23).foldl clrBit x = if x.getLsbD 0 then 1 else 0 := by
  refine BitVec.eq_of_getLsbD_eq fun i hi => ?_
  rw [foldl_clrBit_getLsbD]
  by_cases h0 : i = 0
  · subst h0
    cases hx : x.getLsbD 0 <;> rfl
  · have hm : i ∈ List.range' 1 23 := by simp; omega
    split <;> simp [hm, h0]
theorem opGateCtl_one : opGateCtl 1 s = (s.gateBit true 0).each (List.range' 1 23) (fun s b => s.gateBit false b) := rfl
theorem opGateCtl_one_idle (h : s.leaf.gate.off.getLsbD 0 = false) (hw : s.gateWhy 0 = 0) :
    opGateCtl 1 s = s.modGate (fun g => { g with off := 0, pend := 1 }) := by
  have ho : (List.range' 1 23).foldl clrBit s.leaf.gate.off = 0 := by rw [foldl_clrBit_range, h]; rfl
  have hp : (List.range' 1 23).foldl clrBit (setBit s.leaf.gate.pend 0) = 1 := by rw [foldl_clrBit_range, setBit_getLsbD]; simp
  rw [opGateCtl_one, s.gateBit_on_idle h hw, State.each_gateBit_off]
  simp only [State.modGate, State.modLeaf, ho, hp]
theorem opGateCtl_one_busy (h : s.leaf.gate.off.getLsbD 0 = false) (hw : s.gateWhy 0 ≠ 0) : opGateCtl 1 s =
    (s.modGate (fun g => { off := 0, pend := 0, refused := setBit g.refused 0, why := BitVec.ofNat 3 (s.gateWhy 0) })).bump .leaf 0xD014 := by
  have ho : (List.range' 1 23).foldl clrBit s.leaf.gate.off = 0 := by rw [foldl_clrBit_range, h]; rfl
  have hp : (List.range' 1 23).foldl clrBit (clrBit s.leaf.gate.pend 0) = 0 := by rw [foldl_clrBit_range, clrBit_getLsbD]; simp
  rw [opGateCtl_one, s.gateBit_on_busy h hw, State.each_gateBit_off, State.gateRefuse]
  simp only [State.modGate, State.modLeaf, State.bump_leaf, ho, hp]
  rfl

end

/-- Settles O28: each operation's case. -/
theorem portResets : Obligations.PortResets := by
  refine ⟨fun s p hl hc hq hw => ?_, fun s p hl => exec_live rfl hl rfl, fun s src ht hw h0 => ?_, fun s src ht hw h0 => ?_,
    fun s hl => ?_, fun s hl => ?_, fun s => rfl⟩
  · refine .of_live rfl hl (opComputeAssert_of_idle s hc hq hw) ?_
    refine ⟨?_, by simp [State.bumpBy_count_same], fun q hne => ?_, State.leafN_regs_of_part (by simp), State.leafN_cells_of_part (by simp), ?_,
      State.prick_of_part (by simp), .of_part (by simp) (by simp) (by simp)⟩
    · rw [State.region_of_leaf (State.bumpBy_leaf ..), State.modRegion_region_same _ _ _ p.isLt, Region.fallCr_of_idle hq hw]
    · rw [State.region_of_leaf (State.bumpBy_leaf ..), State.modRegion_region_other _ _ _ _ hne.symm]
    · exact State.time_of_part (by simp) .leaf
  · refine .of_access_leaf rfl ht (opGateCtl_one_idle _ (by simpa using h0) ((State.gateWhy_of_leaf (by simp)).trans hw)) ?_
    exact ⟨rfl, rfl, State.regions_of_part (by simp), .of_part (by simp) (by simp) (by simp)⟩
  · refine .of_access_leaf rfl ht (opGateCtl_one_busy _ (by simpa using h0) (by rw [State.gateWhy_of_leaf (State.opened_leaf ..)]; exact hw)) ?_
    refine ⟨rfl, rfl, ?_, ?_, ?_, State.regions_of_part (by simp), .of_part (by simp) (by simp) (by simp)⟩
    · show (setBit _ 0).getLsbD 0 = true
      simp [setBit_getLsbD]
    · show BitVec.ofNat 3 _ = _
      rw [State.gateWhy_of_leaf (State.opened_leaf ..)]
    · simp [State.modGate]
  · refine .intro (congrArg Host.Outcome.next ((if_neg (by simp [hl])).trans (opRefclkLost_eq s))) ?_
    refine ⟨rfl, rfl, ?_, rfl, rfl, rfl, rfl, State.leafN_regs_of_part (by simp), State.leafN_cells_of_part (by simp), rfl,
      .of_part (by simp) (by simp) (by simp)⟩
    show (setBit _ 7).getLsbD 7 = true
    rw [setBit_getLsbD]
    simp
  · exact congrArg Host.Outcome.next (if_pos hl)

/-! ## What happens at a region edge -/

/-- The edges of a region count in its tally and move only what is given for one edge. -/
theorem Region.count_shape (r : Region) (n : BitVec 48) : ∃ la pi co er vl ho be, r.count n =
    { r with tally := r.tally + n, launch := la, picot := pi, corrVld := co, hcErr := er, hoVld := vl, ho := ho, beats := be } := by
  unfold Region.count
  split
  · next h => exact ⟨r.launch, r.picot, r.corrVld, r.hcErr, r.hoVld, r.ho, r.beats, by simp [h]⟩
  · dsimp only
    split
    · exact ⟨_, _, _, _, _, _, _, rfl⟩
    · split <;> exact ⟨_, _, _, _, _, _, _, rfl⟩
/-- The beats of an outcome move on by an edge. -/
theorem Region.count_one {r : Region} {b : Beat} {l : List Beat} (h : r.hoVld = true) (hb : r.beats = b :: l) :
    (r.count 1).hoVld = true ∧ (r.count 1).ho = b ∧ (r.count 1).beats = l := by
  unfold Region.count
  rw [if_neg (by decide)]
  simp [h, hb]
/-- What an edge leaves of its port: the tally counts on; reset, anchor and time bus are as before. -/
theorem State.regionEdge_shape (s : State) {p : Nat} (e : RpEdge) (hp : p < 16) : ∃ r, (s.regionEdge p e).region p = r ∧ r.crN = (s.region p).crN ∧
    r.tally = (s.region p).tally + e.edges ∧ r.anchor = (s.region p).anchor ∧ r.tbEff = (s.region p).tbEff := by
  obtain ⟨la, pi, co, er, vl, ho, be, hcount⟩ := (s.region p).count_shape e.edges
  refine ⟨_, State.regionEdge_region_same s p e hp, ?_⟩
  rw [hcount]
  exact ⟨rfl, rfl, rfl, rfl⟩
theorem Region.takeIn_shape (r : Region) (rc : W64) : ∃ q w, r.takeIn rc = { r with queue := q, wait := w } := ⟨_, _, rfl⟩
/-- What a strobe leaves on the port's signals: step and seed of the kinds that carry them, and the vintage when it is higher. -/
theorem Region.takeStrobe_eq (r : Region) (x : Strobe) : r.takeStrobe x =
    { r with step := if x.kind = 1 ∨ x.kind = 3 then x.step else r.step,
             seed := if x.kind = 1 ∨ x.kind = 3 then x.seed else r.seed,
             vintage := if x.kind = 2 ∧ r.vintage.toNat < bitsOf x.arg 31 0 then x.arg.extractLsb' 0 32 else r.vintage } := by
  unfold Region.takeStrobe
  by_cases h : x.kind = 1 ∨ x.kind = 3
  · have h2 : x.kind ≠ 2 := by rintro e; rw [e] at h; exact absurd h (by decide)
    simp only [if_pos h, if_neg (fun c : x.kind = 2 ∧ _ => h2 c.1)]
  · by_cases h2 : x.kind = 2
    · simp only [if_neg h, if_pos h2, and_iff_right h2]
    · simp only [if_neg h, if_neg h2, if_neg (fun c : x.kind = 2 ∧ _ => h2 c.1)]

section
variable (s : State)

theorem State.landFrom_region (e : W64) (pos : Fin 16) (q : Nat) : (s.landFrom e pos).region q = s.region q :=
  State.region_of_leaf (State.leaf_of_part (by simp)) q
theorem State.landFrom_count (e : W64) (pos : Fin 16) (k : NodeSel) (o : Nat) : (s.landFrom e pos).count k o = s.count k o := by
  unfold State.landFrom
  dsimp only
  split <;> simp [State.advAfter]
/-- A port that is not quiet runs: its reset is released, its gate is on and the leaf is not fatal. -/
theorem State.runs_of_portQuiet {p : Nat} (h : s.portQuiet p = false) :
    (s.region p).crN = true ∧ s.gated p = false ∧ s.leaf.fatal = false := by
  simpa [State.portQuiet, and_assoc] using h
/-- Changes of one port keep the rest of the state, whatever they are. -/
theorem OnlyRegion.of_modRegion (p : Fin 16) (f : Region → Region) : OnlyRegion p s (s.modRegion p.val f) := by
  rw [OnlyRegion, State.modRegion_region_same _ _ _ p.isLt]
  simp only [State.modRegion, State.modLeaf, State.region, vmod, vget, p.isLt, dif_pos]
  simp
theorem OnlyRegion.trans {p : Fin 16} {a b d : State} (h : OnlyRegion p a b) (g : OnlyRegion p b d) : OnlyRegion p a d := by
  refine Eq.trans g ?_
  rw [OnlyRegion] at h
  generalize d.region p = rd
  generalize b.region p = rb at h
  rw [h]
  simp only [State.modRegion, State.modLeaf, vmod, p.isLt, dif_pos]
  simp

/-! ## Landings -/

theorem opStrobeLanding_of {p : Nat} {e : RpEdge} {x : Strobe} {q : List Strobe} (hq : (s.region p).queue = x :: q)
    (hp : s.portQuiet p = false) (hx : x.expired (s.rc .leaf) = false) (hl : (s.region p).landTally ≠ some ((s.region p).tally + e.edges)) :
    opStrobeLanding p e s = ((s.landFrom x.entered e.pos).regionEdge p e).landHead p e.pos := by
  unfold opStrobeLanding
  simp only [hq]
  rw [if_neg (by simp [hp]), if_neg (by simp [hx]), Region.landEdge, if_neg hl]
/-- The port of a strobe that lands, before the strobes that wait move up. -/
def State.landed (s : State) (p : Nat) (pos : Fin 16) (x : Strobe) (q : List Strobe) : Region :=
  let r := s.region p
  Region.takeStrobe { r with queue := q, launch := true, kind := x.kind, arg := x.arg, landTally := some r.tally,
                             land := (if decide (8 ≤ r.land.length) then r.land.drop 1 else r.land) ++ [s.landRec pos x.kind r.tally] } x
theorem State.bumpIf_region (b : Bool) (k : NodeSel) (o q : Nat) : (s.bumpIf b k o).region q = s.region q :=
  State.region_of_leaf (State.leaf_of_part (by simp)) q
theorem State.landing_region (b : Prop) [Decidable b] (i q : Nat) (f : Slot → Slot) :
    (if b then s.modSlot i f else s).region q = s.region q := by
  split <;> rfl
theorem State.landHead_region {p : Nat} (pos : Fin 16) {x : Strobe} {q : List Strobe} (hp : p < 16) (hq : (s.region p).queue = x :: q) :
    (s.landHead p pos).region p = (s.landed p pos x q).takeIn (s.rc .leaf) := by
  unfold State.landHead
  simp only [hq]
  rw [State.landing_region, State.bumpIf_region, State.modRegion_region_same _ _ _ hp, State.landed]
theorem State.landHead_region_other {p r : Nat} (pos : Fin 16) (h : p ≠ r) : (s.landHead p pos).region r = s.region r := by
  unfold State.landHead
  split
  · rfl
  · dsimp only
    rw [State.landing_region, State.bumpIf_region, State.modRegion_region_other _ _ _ _ h]
theorem State.discardStrobe_of {p : Nat} {x : Strobe} (h : x.kind ≠ 4) : s.discardStrobe p x =
    ((s.modRegion p (fun r => r.takeStrobe x)).bump .leaf (rOff p 0x18)).modLeaf (fun l => { l with landStat := setBit l.landStat p }) :=
  if_neg h
theorem opRpLandTmo_of {p : Nat} {x : Strobe} {q : List Strobe} (hq : (s.region p).queue = x :: q) (hk : x.kind ≠ 4) : opRpLandTmo p s =
    ((((s.advAfter .leaf x.entered 64).modRegion p (fun r => Region.takeIn { r with queue := q, anchor := none } ((s.advAfter .leaf x.entered 64).rc
      .leaf))).modRegion p (fun r => r.takeStrobe x)).bump .leaf (rOff p 0x18)).modLeaf (fun l => { l with landStat := setBit l.landStat p }) := by
  have hq' : ((s.advAfter .leaf x.entered 64).region p).queue = x :: q := by rw [State.advAfter, State.advTo_region, hq]
  unfold opRpLandTmo
  simp only [hq]
  unfold State.dropHead
  simp only [hq']
  exact State.discardStrobe_of _ hk
theorem opPicotLanding_of {p : Nat} {e : RpEdge} {g : W64} (hp : s.portQuiet p = false) (hd : (s.region p).picotDue = some g) :
    opPicotLanding p e s = (((s.landFrom g e.pos).modRegion p (fun r => { r with tbEff := (s.reg .leaf 0xD010).getLsbD p })).regionEdge p e).modRegion p
      (fun r => r.landPicot (landStamp ((s.landFrom g e.pos).edgeHt e.pos))) := by
  obtain ⟨-, hg, hf⟩ := s.runs_of_portQuiet hp
  unfold opPicotLanding
  simp only [hd]
  rw [if_neg (by simp [hg, hf])]

/-- A picot at a port that runs shows, and is the anchor; the correction opens from the anchor before when it follows it. -/
theorem Region.landPicot_of_running {r : Region} {h : Nat} (hc : r.crN = true) : r.landPicot h =
    { r with picotDue := none, picot := true, anchor := some (r.tally, h),
             corrOk := r.corrOk && (match r.anchor with | some (_, h0) => followsAnchor h h0 | none => false),
             corrOpen := if (match r.anchor with | some (_, h0) => followsAnchor h h0 | none => false) then
               r.anchor.map (fun q => (r.tally, h, q.1, q.2)) else none } := by
  unfold Region.landPicot
  dsimp only
  rw [if_neg (by simp [hc])] <;> rfl

/-! ## Corrections, levels and outcomes -/

theorem State.putThrottle_thrOut {p : Nat} (e : RpEdge) (hp : p < 16) : ((s.putThrottle p e).region p).thrOut = (s.putThrottle p e).thrMax p := by
  obtain ⟨la, pi, co, er, vl, ho, be, hcount⟩ := (s.region p).count_shape e.edges
  unfold State.thrMax State.putThrottle
  rw [State.modRegion_region_same _ _ _ hp, State.regionEdge_region_same _ _ _ hp, hcount]
  rfl
theorem State.putThrottle_region_other {p q : Nat} (e : RpEdge) (h : p ≠ q) : (s.putThrottle p e).region q = s.region q := by
  rw [State.putThrottle, State.modRegion_region_other _ _ _ _ h, State.regionEdge_region_other _ _ _ _ h]
theorem State.hallNow_region (q : Nat) : s.hallNow.region q = s.region q := State.region_of_regions (State.regions_of_part (by simp)) q
theorem opThrottleEffect_thrOut {p : Nat} {e : RpEdge} (hg : s.gated p = false) (hp : p < 16) :
    ((opThrottleEffect p e s).region p).thrOut = (opThrottleEffect p e s).thrMax p := by
  rw [opThrottleEffect, if_neg (by simp [hg])]
  dsimp only
  split
  · exact State.putThrottle_thrOut _ e hp
  · next h =>
    split
    · exact State.putThrottle_thrOut _ e hp
    · exact (not_not.mp h).symm
theorem opThrottleEffect_region_other {p q : Nat} {e : RpEdge} (h : p ≠ q) : (opThrottleEffect p e s).region q = s.region q := by
  unfold opThrottleEffect
  dsimp only
  split
  · rfl
  split
  · rw [State.putThrottle_region_other _ e h, State.landFrom_region, State.hallNow_region]
  split
  · rw [State.putThrottle_region_other _ e h, State.landFrom_region, State.hallNow_region, State.advHt, State.advTo_region, State.hallNow_region]
  · exact s.hallNow_region q

theorem opTallyCorrection_of {p : Nat} {e : RpEdge} {a a0 : BitVec 48} {h h0 : Nat} (hp : s.portQuiet p = false)
    (ho : (s.region p).corrOpen = some (a, h, a0, h0)) (ha : a ≠ a0) : opTallyCorrection p e s = (s.regionEdge p e).modRegion p (fun r =>
      { r with corrOpen := none, corrVld := true, corrOk := true,
               corr := { a := a, h := htOf (h * 2 ^ 24), q := BitVec.ofNat 36 ((h - h0) * 2 ^ 16 / (a - a0).toNat) } }) := by
  unfold opTallyCorrection
  simp only [ho, corrQ, if_neg ha]
  rw [if_neg (by simp [hp])]
  rfl
theorem opOutcomeDelivery_none {p : Nat} {e : RpEdge} (hq : (s.region p).hoq = []) (hg : s.gated p = false) (hf : s.leaf.fatal = false) :
    opOutcomeDelivery p e s = s.regionEdge p e := by
  unfold opOutcomeDelivery
  simp only [hq]
  rw [if_neg (by simp [hg, hf])]
theorem opOutcomeDelivery_lost {p : Nat} {e : RpEdge} {o : PortOut} {q : List PortOut} (hq : (s.region p).hoq = o :: q) (hg : s.gated p = false)
    (hf : s.leaf.fatal = false) (hc : (s.region p).crN = false) : opOutcomeDelivery p e s =
      (((s.landFrom o.at_ e.pos).regionEdge p e).modRegion p (fun r => { r with hoq := q })).bumpBy .leaf (rOff p 0x20) o.beats.length := by
  unfold opOutcomeDelivery
  simp only [hq]
  rw [if_neg (by simp [hg, hf]), if_pos (by simp [hc])]
theorem opOutcomeDelivery_of {p : Nat} {e : RpEdge} {o : PortOut} {q : List PortOut} (hq : (s.region p).hoq = o :: q) (hp : s.portQuiet p = false)
    (hv : (s.region p).hoVld = false) : opOutcomeDelivery p e s =
      ((s.landFrom o.at_ e.pos).regionEdge p e).modRegion p (fun r => { r with hoq := q }.putOutcome o) := by
  obtain ⟨hc, hg, hf⟩ := s.runs_of_portQuiet hp
  unfold opOutcomeDelivery
  simp only [hq]
  rw [if_neg (by simp [hg, hf]), if_neg (by simp [hc]), Region.beginEdge, if_neg (by simp [hv])]

end

/-- Settles O29: each operation's case. -/
theorem portLandings : Obligations.PortLandings := by
  refine ⟨fun s p e x q hl hk hq hp hx hlt => ?_, fun s p x q hl hq hk => ?_, fun s p e g hl hk hp hd => ?_,
    fun s p e a a0 h h0 hl hk hp ho ha => ?_, fun s p e hl hg => ?_, fun s p e o q b l hl hq hb hp hv => ?_,
    fun s p pos b l hl hq hg hf hv hb => ?_, fun s p e o q hl hq hg hf hc => ?_⟩
  · refine .of_live rfl hl ((if_pos hk).trans (opStrobeLanding_of s hq hp hx hlt)) ?_
    obtain ⟨la, pi, co, er, vl, ho, be, hcount⟩ := (s.region p.val).count_shape e.edges
    have hu : (((s.landFrom x.entered e.pos).regionEdge p.val e).region p.val) = { (s.region p.val).count e.edges with
        tbHt := (s.landFrom x.entered e.pos).timeBus (s.region p.val).tbEff } := by
      rw [State.regionEdge_region_same _ _ _ p.isLt, State.landFrom_region]
    rw [State.landHead_region _ _ p.isLt (by rw [hu, hcount]; exact hq)]
    simp only [State.landed, hu, hcount, Region.takeStrobe_eq]
    refine ⟨rfl, rfl, rfl, rfl, rfl, rfl, rfl, rfl, List.getLast?_concat .., ?_, fun r hne => ?_, State.prick_of_part (by simp),
      State.leafN_regs_of_part (by simp), State.leafN_cells_of_part (by simp), .of_part (by simp) (by simp) (by simp)⟩
    · exact State.rc_of_part (by simp) .leaf
    · rw [State.landHead_region_other _ _ hne.symm, State.regionEdge_region_other _ _ _ _ hne.symm, State.landFrom_region]
  · refine .of_live rfl hl (opRpLandTmo_of s hq hk) ?_
    obtain ⟨q', w, ht⟩ := Region.takeIn_shape { s.region p.val with queue := q, anchor := none } ((s.advAfter .leaf x.entered 64).rc .leaf)
    have hr : (((((s.advAfter .leaf x.entered 64).modRegion p.val (fun r => Region.takeIn { r with queue := q, anchor := none }
        ((s.advAfter .leaf x.entered 64).rc .leaf))).modRegion p.val (fun r => r.takeStrobe x)).bump .leaf (rOff p.val 0x18)).modLeaf (fun l =>
        { l with landStat := setBit l.landStat p.val })).region p.val =
        Region.takeStrobe { s.region p.val with queue := q', wait := w, anchor := none } x := by
      refine (State.bump_region _ _ _ _).trans ?_
      rw [State.modRegion_region_same _ _ _ p.isLt, State.modRegion_region_same _ _ _ p.isLt, State.advAfter, State.advTo_region]
      exact congrArg (Region.takeStrobe · x) ht
    rw [hr, Region.takeStrobe_eq]
    refine ⟨?_, rfl, rfl, rfl, rfl, rfl, rfl, ?_, fun r hne => ?_, State.prick_of_part (by simp), State.leafN_regs_of_part (by simp),
      State.leafN_cells_of_part (by simp), .of_part (by simp) (by simp) (by simp)⟩
    · simp
    · show (setBit _ p.val).getLsbD p.val = true
      rw [setBit_getLsbD]
      simp
    · refine (State.bump_region _ _ _ _).trans ?_
      rw [State.modRegion_region_other _ _ _ _ hne.symm, State.modRegion_region_other _ _ _ _ hne.symm, State.advAfter, State.advTo_region]
  · refine .of_live rfl hl ((if_pos hk).trans (opPicotLanding_of s hp hd)) ?_
    obtain ⟨hc, -, -⟩ := s.runs_of_portQuiet hp
    obtain ⟨r, hr, hrc, hrt, hra, hrb⟩ := ((s.landFrom g e.pos).modRegion p.val (fun r =>
      { r with tbEff := (s.reg .leaf 0xD010).getLsbD p.val })).regionEdge_shape e p.isLt
    rw [State.modRegion_region_same _ _ _ p.isLt, State.landFrom_region] at hrc hrt hra hrb
    rw [State.modRegion_region_same _ _ _ p.isLt, hr, Region.landPicot_of_running (hrc.trans hc)]
    refine ⟨hrt, rfl, rfl, by rw [hrt], ?_, hrb, ?_, fun r hne => ?_, State.prick_of_part (by simp), State.leafN_regs_of_part (by simp),
      State.leafN_cells_of_part (by simp), .of_part (by simp) (by simp) (by simp)⟩
    · show (if _ then r.anchor.map _ else none) = _
      rw [hra, hrt]
      cases (s.region p.val).anchor <;> rfl
    · exact State.rc_of_part (by simp) .leaf
    · rw [State.modRegion_region_other _ _ _ _ hne.symm, State.regionEdge_region_other _ _ _ _ hne.symm,
        State.modRegion_region_other _ _ _ _ hne.symm, State.landFrom_region]
  · refine .of_live rfl hl ((if_pos hk).trans (opTallyCorrection_of s hp ho ha)) ?_
    rw [State.modRegion_region_same _ _ _ p.isLt, State.regionEdge_region_same s p.val e p.isLt]
    exact ⟨rfl, rfl, rfl, rfl, Region.count_tally _ _, .trans (.of_modRegion s p _) (.of_modRegion _ p _)⟩
  · refine .of_live rfl hl rfl ⟨opThrottleEffect_thrOut s hg p.isLt, fun q hne => opThrottleEffect_region_other s hne.symm,
      State.prick_of_part (by simp), State.slots_of_part (by simp), State.leafN_regs_of_part (by simp), .of_part (by simp) (by simp) (by simp)⟩
  · refine .of_live rfl hl (opOutcomeDelivery_of s hq hp hv) ?_
    rw [State.modRegion_region_same _ _ _ p.isLt, State.regionEdge_region_same _ _ _ p.isLt, State.landFrom_region, Region.putOutcome, hb]
    refine ⟨rfl, rfl, rfl, rfl, Region.count_tally _ _, fun r hne => ?_, State.prick_of_part (by simp), State.leafN_regs_of_part (by simp),
      State.leafN_cells_of_part (by simp), .of_part (by simp) (by simp) (by simp)⟩
    rw [State.modRegion_region_other _ _ _ _ hne.symm, State.regionEdge_region_other _ _ _ _ hne.symm, State.landFrom_region]
  · refine .of_live rfl hl (opOutcomeDelivery_none s hq hg hf) ?_
    rw [State.regionEdge_region_same s p.val _ p.isLt]
    obtain ⟨h1, h2, h3⟩ := Region.count_one hv hb
    exact ⟨h1, h2, h3, Region.count_tally _ _, .of_modRegion s p _⟩
  · refine .of_live rfl hl (opOutcomeDelivery_lost s hq hg hf hc) ?_
    rw [State.region_of_leaf (State.bumpBy_leaf ..), State.modRegion_region_same _ _ _ p.isLt, State.regionEdge_region_same _ _ _ p.isLt,
      State.landFrom_region, State.bumpBy_count_same]
    refine ⟨rfl, rfl, ?_, fun r hne => ?_, State.prick_of_part (by simp), State.leafN_regs_of_part (by simp), .of_part (by simp) (by simp) (by simp)⟩
    · have hn : (((s.landFrom o.at_ e.pos).regionEdge p.val e).modRegion p.val (fun r => { r with hoq := q })).count .leaf (rOff p.val 0x20) =
          s.count .leaf (rOff p.val 0x20) := by simp [State.regionEdge, State.landFrom_count]
      rw [hn]
      split
      · next h0 => rw [h0, satAdd_zero]
      · rfl
    · rw [State.region_of_leaf (State.bumpBy_leaf ..), State.modRegion_region_other _ _ _ _ hne.symm,
        State.regionEdge_region_other _ _ _ _ hne.symm, State.landFrom_region]

end Sys2Proof.Machine
end

section
/-! The pricking memory (ch. 7): installs, arms, guards, misses and firings at a leaf, its scrubbing, and the throttle levels. -/

namespace Sys2Proof.Machine

section
variable (s : State)

/-! ## What the statements' hypotheses leave still -/

theorem State.modPrick_leafOnly (f : Prick → Prick) : (s.modPrick f).leaf = { s.leaf with prick := f s.leaf.prick } := rfl
theorem State.binding_of_part {s t : State} (h : t.part .binding = s.part .binding) : t.leaf.binding = s.leaf.binding := h
theorem State.modPrick_self {f : Prick → Prick} (h : f s.leaf.prick = s.leaf.prick) : s.modPrick f = s := by
  simp only [State.modPrick, State.modLeaf, h]
theorem State.each_fixed {α : Type} (l : List α) (f : State → α → State) (h : ∀ a ∈ l, f s a = s) : s.each l f = s := by
  induction l with
  | nil => rfl
  | cons a l ih =>
    show State.each (f s a) l f = s
    rw [h a (by simp)]
    exact ih fun b hb => h b (by simp [hb])
theorem State.sendMarks_of_no_marks (h : s.leaf.prick.marks = []) : s.sendMarks = s.markOwed := by
  have hm : s.modPrick (fun p => { p with marks := [] }) = s := s.modPrick_self (by rw [← h])
  unfold State.sendMarks
  simp only [hm, h]
  cases s.leaf.binding <;> rfl
theorem State.sendMarks_of_idle (h : s.leaf.prick.marks = []) (hp : s.leaf.prick.pending = false) : s.sendMarks = s := by
  rw [s.sendMarks_of_no_marks h, State.markOwed, if_pos (by simp [hp])]
/-- No outcome taken and no halt noted: nothing takes effect. -/
theorem State.outcomesDue_of_none (ht : ∀ i, (s.slot i).taken = none) (hh : s.leaf.prick.halts = []) : s.outcomesDue = s := by
  rw [State.outcomesDue, s.each_fixed _ _ fun i _ => by simp only [State.effectDue, ht i]]
  simp [State.haltsDue, hh, State.each]
theorem State.prkErrs_nil (p : Entry → Bool) : s.prkErrs p [] = s := rfl

/-! ## Installs and arms -/

theorem opPrickInstallRx_leaf {c : Fin 6} (m : InstallMsg) (h : (s.cell .leaf c.val).ts = .active) (hr : (s.cell .leaf c.val).cfg.role = 1) :
    opPrickInstallRx (.leaf c) m s = (s.passC2 .leaf c.val m.head (installToks m)).leafInstall m := by
  unfold opPrickInstallRx
  dsimp only [CellRef.node, CellRef.idx]
  rw [if_neg (by simp [h]), if_neg (by simp [hr])]
theorem opPrickInstallRx_mary {c : Fin 100} (m : InstallMsg) (h : (s.cell .mary c.val).ts = .active) (hr : (s.cell .mary c.val).cfg.role = 1) :
    opPrickInstallRx (.mary c) m s = s.passC2 .mary c.val m.head (installToks m) := by
  unfold opPrickInstallRx
  dsimp only [CellRef.node, CellRef.idx]
  rw [if_neg (by simp [h]), if_neg (by simp [hr])]
theorem State.c2Mine_own {h : C2Head} {b : Binding} (hd : h.all = true ∨ h.dest = s.nodeId .leaf) (hb : s.leaf.binding = some b)
    (hs : b.sd = h.sd) (hg : b.gen = h.gen) : s.c2Mine h = (s, true) := by
  unfold State.c2Mine
  rw [if_neg (by rcases hd with h | h <;> simp [h])]
  simp only [hb]
  rw [if_neg (by simp [hs]), if_neg (by simp [hg])]
theorem State.takeImage_taken {m : InstallMsg} (ho : imgOp m.image = false) (hs : imgSd m.image = m.head.sd)
    (hk : (m.head.gen, m.batch, imgEidx m.image) ∉ s.leaf.prick.taken) :
    (s.takeImage m).leaf.prick.taken = s.leaf.prick.taken ++ [(m.head.gen, m.batch, imgEidx m.image)] := by
  unfold State.takeImage
  dsimp only
  rw [if_neg (by simp [hs]), if_neg hk, if_neg (by simp [ho])]
  split <;> rfl
theorem opArmRx_leaf {c : Fin 6} {sd : Sd} {g : Gen} {b : Batch} {errs : List PrkErr} (h : (s.cell .leaf c.val).ts = .active)
    (hr : (s.cell .leaf c.val).cfg.role = 1) : opArmRx (.leaf c) sd g b errs s =
      let u := s.sendC0All .leaf (s.memberPorts .leaf (s.cell .leaf c.val).cfg.dom sd) [armTok sd g b]
      if u.leaf.binding.any (fun y => decide (y.sd = sd ∧ y.gen = g)) && decide (b ∉ u.leaf.prick.lateBatch) then
        ((u.prkErrs (fun e => decide (e.batch = b)) errs).leafArm (s.cell .leaf c.val).cfg.dom sd g b).sendMarks
      else u.leafArm (s.cell .leaf c.val).cfg.dom sd g b := by
  unfold opArmRx
  dsimp only [CellRef.node, CellRef.idx]
  rw [if_neg (by simp [h]), if_neg (by simp [hr])]
theorem opArmRx_mary {c : Fin 100} {sd : Sd} {g : Gen} {b : Batch} {errs : List PrkErr} (h : (s.cell .mary c.val).ts = .active)
    (hr : (s.cell .mary c.val).cfg.role = 1) : opArmRx (.mary c) sd g b errs s =
      s.sendC0All .mary (s.memberPorts .mary (s.cell .mary c.val).cfg.dom sd) [armTok sd g b] := by
  unfold opArmRx
  dsimp only [CellRef.node, CellRef.idx]
  rw [if_neg (by simp [h]), if_neg (by simp [hr])]
theorem State.leafArm_of {d : Dom} {sd : Sd} {g : Gen} {b : Batch} {x : Binding} (hx : s.leaf.binding = some x) (hs : x.sd = sd) (hg : x.gen = g) :
    s.leafArm d sd g b = if b ∈ s.leaf.prick.lateBatch then s.bump .leaf 0xA10C
      else s.modPrick (fun p => { p with entries := p.entries.map (fun e => if e.batch = b then e.arm d else e) }) := by
  unfold State.leafArm
  simp only [hx]
  rw [if_neg (by simp [hs]), if_neg (by simp [hg])]
theorem State.sendC0All_count (k j : NodeSel) (ps : List Nat) (m : Tokens) (o : Nat) : (s.sendC0All k ps m).count j o = s.count j o :=
  State.each_same (fun t => t.count j o) ps _ (fun u p => by simp [State.sendC0]) s

/-! ## Guards and misses -/

theorem State.missEntry_leaf {cause : BitVec 2} {e : Entry} (hk : imgKind e.image ≠ 4) (hm : s.leaf.prick.miss.length < 16) :
    (s.missEntry cause e).leaf =
      { s.leaf with prick := { s.leaf.prick with miss := s.leaf.prick.miss ++ [missOf e cause], pending := true } } := by
  rw [State.missEntry, if_neg hk, State.recordMiss, if_pos hm]
  rfl
theorem State.missEntry_irq {cause : BitVec 2} {e : Entry} (hk : imgKind e.image ≠ 4) (hm : s.leaf.prick.miss.length < 16) :
    (s.missEntry cause e).leafN.irq = setBit s.leafN.irq 6 := by
  rw [State.missEntry, if_neg hk, State.recordMiss, if_pos hm]
  rfl
theorem opGuardCheck_of {e : Entry} (he : s.leaf.prick.entries = [e]) (hj : e.judged = false) (ht : ∀ i, (s.slot i).taken = none)
    (hh : s.leaf.prick.halts = []) : opGuardCheck s = (s.advHt .leaf (e.guardAt * nsTu)).guardNow.sendMarks := by
  have hm : minNat ((s.leaf.prick.entries.filter (fun e => !e.judged)).map Entry.guardAt) = some e.guardAt := by simp [he, hj, minNat]
  unfold opGuardCheck
  simp only [hm]
  rw [State.outcomesDue_of_none _ (fun i => by rw [State.advHt, State.advTo_slot]; exact ht i) (by rw [State.advHt, State.advTo_leaf]; exact hh)]
theorem State.modPrick_congr {f g : Prick → Prick} (h : f s.leaf.prick = g s.leaf.prick) : s.modPrick f = s.modPrick g := by
  simp only [State.modPrick, State.modLeaf, h]
theorem State.bumpBy_zero (k : NodeSel) (o : Nat) : s.bumpBy k o 0 = s := if_pos rfl
theorem State.each_nil {α : Type} (f : State → α → State) : s.each [] f = s := rfl
theorem State.guardNow_of_judged {e : Entry} (he : s.leaf.prick.entries = [e]) (hj : e.judged = true) : s.guardNow = s := by
  have hf : s.leaf.prick.entries.filter (fun e => !e.judged && decide (e.guardAt * nsTu ≤ s.ht .leaf)) = [] := by simp [he, hj]
  simp only [State.guardNow, hf, List.filter_nil, List.map_nil, List.length_nil, List.foldl_nil, State.bumpBy_zero,
    State.each_nil]
  have hm : (s.leaf.prick.entries.filter (fun e => !(!e.judged && decide (e.guardAt * nsTu ≤ s.ht .leaf) && !e.armed))).map (fun e =>
      if (!e.judged && decide (e.guardAt * nsTu ≤ s.ht .leaf)) = true then { e with judged := true } else e) = s.leaf.prick.entries := by
    simp [he, hj]
  exact s.modPrick_self (congrArg (fun l => { s.leaf.prick with entries := l }) hm)
theorem State.guardNow_of_armed {e : Entry} (he : s.leaf.prick.entries = [e]) (hj : e.judged = false) (ha : e.armA = true) (hb : e.armB = true)
    (hd : e.guardAt * nsTu ≤ s.ht .leaf) : s.guardNow = s.modPrick (fun p => { p with entries := [{ e with judged := true }] }) := by
  have hf : s.leaf.prick.entries.filter (fun e => !e.judged && decide (e.guardAt * nsTu ≤ s.ht .leaf)) = [e] := by simp [he, hj, hd]
  simp only [State.guardNow, hf, List.filter_cons, Entry.armed, ha, hb, Bool.true_or, Bool.not_true, Bool.and_self, Bool.and_false,
    Bool.false_eq_true, if_false, List.filter_nil, List.map_nil, List.length_nil, List.foldl_nil, State.bumpBy_zero,
    State.each_nil]
  exact s.modPrick_congr (by simp [he, hj, hd, ha, hb])
theorem State.guardNow_of_late {e : Entry} (he : s.leaf.prick.entries = [e]) (hj : e.judged = false) (ha : e.armA = false) (hb : e.armB = false)
    (hd : e.guardAt * nsTu ≤ s.ht .leaf) : s.guardNow = (s.modPrick (fun p => { p with
      entries := [], lateBatch := if e.batch ∈ p.lateBatch then p.lateBatch else p.lateBatch ++ [e.batch] })).missEntry 0 e := by
  have hf : s.leaf.prick.entries.filter (fun e => !e.judged && decide (e.guardAt * nsTu ≤ s.ht .leaf)) = [e] := by simp [he, hj, hd]
  simp only [State.guardNow, hf, List.filter_cons, Entry.armed, ha, hb, Bool.or_self, Bool.not_false, Bool.false_and, if_true,
    Bool.false_eq_true, if_false, List.filter_nil, List.map_cons, List.map_nil, List.length_nil, List.foldl_cons, List.foldl_nil, State.bumpBy_zero]
  exact congrArg (fun u : State => u.missEntry 0 e) (s.modPrick_congr (by simp [he, hj, hd, ha, hb]))

/-! ## Firings -/

theorem opFiring_of {e : Entry} (he : s.leaf.prick.entries = [e]) (ha : e.armed = true) (hj : e.judged = true)
    (ht : ∀ i, (s.slot i).taken = none) (hh : s.leaf.prick.halts = []) : opFiring [] s = (s.advHt .leaf (e.tick * nsTu)).fireDue.sendMarks := by
  have hm : minNat ((s.leaf.prick.entries.filter Entry.armed).map Entry.tick) = some e.tick := by simp [he, ha, minNat]
  unfold opFiring
  simp only [hm]
  rw [State.outcomesDue_of_none _ (fun i => by rw [State.advHt, State.advTo_slot]; exact ht i) (by rw [State.advHt, State.advTo_leaf]; exact hh),
    State.guardNow_of_judged _ (by rw [State.advHt, State.advTo_leaf]; exact he) hj, State.prkErrs_nil]
theorem State.fireDue_of {b : Binding} {e : Entry} (hb : s.leaf.binding = some b) (he : s.leaf.prick.entries = [e]) (hd : s.dueNow e = true) :
    s.fireDue = (s.modPrick (fun p => p.afterFire e)).fireOne b e := by
  have hf : fireSort (s.leaf.prick.entries.filter s.dueNow) = [e] := by rw [he, List.filter_cons, if_pos hd]; rfl
  unfold State.fireDue
  simp only [hb, hf]
  show (if e ∈ s.leaf.prick.entries then _ else s) = _
  rw [if_pos (by simp [he])]
theorem Prick.afterFire_marks (p : Prick) (e : Entry) : (p.afterFire e).marks = p.marks := rfl
theorem Prick.afterFire_pending (p : Prick) (e : Entry) : (p.afterFire e).pending = p.pending := rfl
/-- An entry that does not repeat goes with its firing. -/
theorem Prick.afterFire_entries {p : Prick} {e : Entry} (he : p.entries = [e]) (hr : imgRepCnt e.image ≤ e.fired) : (p.afterFire e).entries = [] := by
  simp [Prick.afterFire, he, hr]
/-- A strobe that opens no hoop touches no part of the pricking memory. -/
theorem State.pushStrobe_prick {p : Nat} {x : Strobe} (h : x.kind ≠ 4) : (s.pushStrobe p x).leaf.prick = s.leaf.prick := by
  unfold State.pushStrobe
  split
  · rfl
  · rw [State.discardStrobe_of _ h]
    rfl
theorem State.pushStrobe_part_of_plain {pt : Part} {p : Nat} {x : Strobe} (h : x.kind ≠ 4) (hl : pt ≠ .leaf) (hrg : pt ≠ .regions)
    (hnl : pt ≠ .node .leaf) : (s.pushStrobe p x).part pt = s.part pt := by
  unfold State.pushStrobe
  split
  · simp [hl, hrg]
  · rw [State.discardStrobe_of _ h]
    simp [hl, hrg, hnl]
theorem State.fireOne_flip_part {pt : Part} {b : Binding} {e : Entry} (hk : imgKind e.image = 1) (hl : pt ≠ .leaf) (hrg : pt ≠ .regions)
    (hpk : pt ≠ .prick) (hnl : pt ≠ .node .leaf) : (s.fireOne b e).part pt = s.part pt := by
  unfold State.fireOne
  simp only [hk]
  rw [State.modPrick_part pt _ _ hl hpk, State.each_part]
  exact fun u p => u.pushStrobe_part_of_plain (by simp [Entry.strobe]) hl hrg hnl
theorem State.fireOne_flip {b : Binding} {e : Entry} (hk : imgKind e.image = 1) :
    (s.fireOne b e).leaf.prick = { s.leaf.prick with vintage := (imgArg e.image).extractLsb' 0 32 } := by
  unfold State.fireOne
  simp only [hk]
  rw [State.modPrick_leaf, State.each_same (fun t => t.leaf.prick)]
  exact fun u p => u.pushStrobe_prick (by simp [Entry.strobe])
theorem State.fireOne_port {b : Binding} {e : Entry} {p : Nat} (hk : imgKind e.image = 5) (hp : bitsSet (imgPorts e.image) = [p])
    (hc : (s.region p).crN = true) : s.fireOne b e = s.modRegion p (fun r => Region.takeIn { r with
      wait := r.wait ++ [{ e.strobe 5 (imgArgAt e.image e.fired) 0 true with entered := s.rc .leaf }] } (s.rc .leaf)) := by
  unfold State.fireOne
  simp only [hk, hp]
  exact if_pos hc

/-! ## Levels -/

theorem opThrottleRx_leaf {c : Fin 6} {level : BitVec 3} {cap : Bool} {seq : Byte} {ns : W32} (h : (s.cell .leaf c.val).ts = .active)
    (hr : (s.cell .leaf c.val).cfg.role = 1) : opThrottleRx (.leaf c) level cap seq ns s =
      (s.sendC0All .leaf (s.downCells .leaf (s.cell .leaf c.val).cfg.dom) [throttleTok level cap seq ns]).leafThrottle level ns := by
  unfold opThrottleRx
  dsimp only [CellRef.node, CellRef.idx]
  rw [if_neg (by simp [h]), if_neg (by simp [hr])]
theorem opThrottleRx_mary {c : Fin 100} {level : BitVec 3} {cap : Bool} {seq : Byte} {ns : W32} (h : (s.cell .mary c.val).ts = .active)
    (hr : (s.cell .mary c.val).cfg.role = 1) : opThrottleRx (.mary c) level cap seq ns s =
      s.sendC0All .mary (s.downCells .mary (s.cell .mary c.val).cfg.dom) [throttleTok level cap seq ns] := by
  unfold opThrottleRx
  dsimp only [CellRef.node, CellRef.idx]
  rw [if_neg (by simp [h]), if_neg (by simp [hr])]
theorem State.leafThrottle_of {level : BitVec 3} {ns : W32} (h : resolveMod 32 (s.htNs .leaf) ns.toNat - s.htNs .leaf ≤ 2 ^ 31) :
    s.leafThrottle level ns = s.modLeaf (fun l => { l with thrToks := l.thrToks ++ [(resolveMod 32 (s.htNs .leaf) ns.toNat, level)] }) := if_pos h
theorem State.originThrottle_mary {level : BitVec 3} {cap : Bool} (h : (s.time .mary).noht = false) :
    (s.originThrottle level cap).mary = { s.mary with tseq := s.mary.tseq + 1 } := by
  rw [State.originThrottle, if_neg (by simp [h])]
  exact State.mary_of_part (s := s.modMary (fun m => { m with tseq := s.mary.tseq + 1 })) (by simp)
theorem opCapreqEdge_fall (hp : s.mary.capPin = true) (he : s.capEn = true) (hn : (s.time .mary).noht = false) : opCapreqEdge s =
    ((s.modMary (fun m => { m with capPin := !m.capPin })).originThrottle ((s.reg .mary 0x7F030).extractLsb' 4 3) true).modMary (fun m =>
      { m with capEff := some s.throttleAt }) := by
  unfold opCapreqEdge
  dsimp only
  rw [if_neg (by simp [he, hn]), if_pos hp]
theorem opCapRelease_of {n : Nat} (hp : s.mary.capPin = true) (he : s.capEn = true) (hn : (s.time .mary).noht = false)
    (hc : s.mary.capEff = some n) : opCapRelease s =
      ((s.advHt .mary ((n + s.capHold) * nsTu)).originThrottle 0 true).modMary (fun m => { m with capEff := none }) := by
  unfold opCapRelease
  simp only [hc]
  rw [if_pos (by simp [hp, he, hn])]

/-! ## Scrubbing -/

/-- The state at a step of the scrubbing, its pointer moved on. -/
def State.scrubbed (s : State) : State :=
  let u := s.advAfter .leaf s.leaf.prick.scrubAt (2 ^ s.fld .leaf 0xA010 3 0)
  u.modPrick (fun p => { p with scrubPtr := (p.scrubPtr + 1) % 2048, scrubAt := u.rc .leaf })
theorem opPrkScrub_clean : opPrkScrub .clean s = s.scrubbed := rfl
theorem opPrkScrub_read (x : PrkErr) : opPrkScrub (.read x) s = (s.prkErr x).sendMarks := rfl
theorem opPrkScrub_tagParity : opPrkScrub .tagParity s = (s.scrubbed.fatalMiss.modPrick (fun p => { p with fatal := true })).sendMarks := rfl
/-- A fatal miss drops every entry and owes a mark. -/
theorem State.fatalMiss_prick : s.fatalMiss.leaf.prick.entries = [] ∧ s.fatalMiss.leaf.prick.pending = true := by
  refine ⟨?_, rfl⟩
  unfold State.fatalMiss State.recordMiss
  dsimp only
  split <;> simp [State.dropEntries, State.modPrick_leafOnly]
theorem opPrkScrub_uncorrectable {e : Entry} (he : s.leaf.prick.entries = [e]) (hp : e.pos = s.leaf.prick.scrubPtr / 4) :
    opPrkScrub .uncorrectable s = (s.scrubbed.prkErr { batch := e.batch, eidx := imgEidx e.image, ue := true }).sendMarks := by
  have hf : s.leaf.prick.entries.find? (fun e => e.pos == s.leaf.prick.scrubPtr / 4) = some e := by simp [he, hp]
  unfold opPrkScrub
  simp only [hf]
  rfl
@[simp] theorem State.scrubbed_part {pt : Part} (hl : pt ≠ .leaf) (hpk : pt ≠ .prick) (hnl : pt ≠ .node .leaf) (ht : pt ≠ .time) :
    s.scrubbed.part pt = s.part pt := by simp [State.scrubbed, hl, hpk, hnl, ht]
theorem State.scrubbed_leaf : s.scrubbed.leaf = { s.leaf with prick := { s.leaf.prick with
    scrubPtr := (s.leaf.prick.scrubPtr + 1) % 2048, scrubAt := s.scrubbed.rc .leaf } } := by
  have hr : s.scrubbed.rc .leaf = (s.advAfter .leaf s.leaf.prick.scrubAt (2 ^ s.fld .leaf 0xA010 3 0)).rc .leaf := State.rc_of_part (by rfl) .leaf
  rw [hr]
  rfl
/-- An uncorrectable word of the only entry, which opens no hoop: the entry goes and is a miss of cause 2. -/
theorem State.prkErr_of_only {e : Entry} (he : s.leaf.prick.entries = [e]) : s.prkErr { batch := e.batch, eidx := imgEidx e.image, ue := true } =
    (((s.modPrick (fun p => { p with entries := [] })).missEntry 2 e).bump .leaf 0xA120).raiseIrq .leaf 7 := by
  have hf : s.leaf.prick.entries.find? (fun x => decide (x.batch = e.batch ∧ imgEidx x.image = imgEidx e.image)) = some e := by simp [he]
  unfold State.prkErr
  simp only [hf, if_true]
  rw [State.dropEntries, s.modPrick_congr (g := fun p => { p with entries := [] }) (by simp [he])]
theorem State.prkErr_only {e : Entry} (he : s.leaf.prick.entries = [e]) (hk : imgKind e.image ≠ 4) (hb : s.leaf.binding = none)
    (hr : s.leaf.prick.miss.length < 16) :
    (s.prkErr { batch := e.batch, eidx := imgEidx e.image, ue := true }).sendMarks.leaf =
      { s.leaf with prick := { s.leaf.prick with entries := [], miss := s.leaf.prick.miss ++ [missOf e 2], pending := true, marks := [] } } ∧
    (s.prkErr { batch := e.batch, eidx := imgEidx e.image, ue := true }).sendMarks.leafN.irq.getLsbD 7 = true ∧
    ∀ pt, pt ≠ .leaf → pt ≠ .prick → pt ≠ .node .leaf →
      (s.prkErr { batch := e.batch, eidx := imgEidx e.image, ue := true }).sendMarks.part pt = s.part pt := by
  have hv := (s.modPrick (fun p => { p with entries := [] })).missEntry_leaf (cause := 2) hk hr
  have hu : ((((s.modPrick (fun p => { p with entries := [] })).missEntry 2 e).bump .leaf 0xA120).raiseIrq .leaf 7).leaf =
      { s.leaf with prick := { s.leaf.prick with entries := [], miss := s.leaf.prick.miss ++ [missOf e 2], pending := true } } :=
    Eq.trans rfl hv
  rw [s.prkErr_of_only he, State.sendMarks_of_unbound _ (by rw [hu]; exact hb), State.modPrick_leafOnly, hu]
  refine ⟨rfl, ?_, fun pt h1 h2 h3 => by simp [h1, h2, h3]⟩
  show (setBit _ 7).getLsbD 7 = true
  rw [setBit_getLsbD]
  simp

end

/-- Settles O30: each operation's case. -/
theorem prickingInstallAndFire : Obligations.PrickingInstallAndFire := by
  refine ⟨fun s c m b hl h hr hb hs hg hd ho hi hk => ?_, fun s c m hl h hr => exec_live (k := .mary) rfl hl (opPrickInstallRx_mary s m h hr),
    fun s c sd g b x hl h hr hx hs hg hb hm hp => ?_, fun s c sd g b errs x hl h hr hx hs hg hb => ?_,
    fun s c sd g b errs hl h hr => exec_live (k := .mary) rfl hl (opArmRx_mary s h hr), fun s e hl he hj ha hb hd hm hp ht hh => ?_,
    fun s e hl he hj ha hb hk hd hm hr hbd ht hh => ?_, fun s b i hl hm hp hf hb ho => ?_,
    fun s hl hm hp => exec_live rfl hl (s.sendMarks_of_idle hm hp), fun s b e hl hb he ha hj hd hk hr hf hm hp ht hh => ?_,
    fun s b e p hl hb he ha hj hd hk hps hc hm hp ht hh => ?_⟩
  · have hu : (s.passC2 .leaf c.val m.head (installToks m)).leaf = s.leaf := State.leaf_of_part (by simp)
    have hi' : (s.passC2 .leaf c.val m.head (installToks m)).nodeId .leaf = s.nodeId .leaf := by
      unfold State.nodeId
      rw [State.cfg_of_part (s := s) (by simp) .leaf]
    have hm : (s.passC2 .leaf c.val m.head (installToks m)).leafInstall m = (s.passC2 .leaf c.val m.head (installToks m)).takeImage m := by
      rw [State.leafInstall, State.c2Mine_own _ (by rw [hi']; exact hd) (by rw [hu]; exact hb) hs hg]
      rfl
    refine .of_live (k := .leaf) rfl hl ((opPrickInstallRx_leaf s m h hr).trans hm) ⟨?_, .of_part (by simp) (by simp) (by simp)⟩
    rw [State.takeImage_taken _ ho hi (by rw [hu]; exact hk), hu]
  · have hu : (s.sendC0All .leaf (s.memberPorts .leaf (s.cell .leaf c.val).cfg.dom sd) [armTok sd g b]).leaf = s.leaf := State.leaf_of_part (by simp)
    refine .of_live (k := .leaf) rfl hl (opArmRx_leaf s h hr) ?_
    dsimp only
    rw [State.prkErrs_nil, State.leafArm_of _ (by rw [hu]; exact hx) hs hg, hu, if_neg hb, if_pos (by simp [hx, hs, hg, hb]),
      State.sendMarks_of_idle _ (by rw [State.modPrick_leaf, hu]; exact hm) (by rw [State.modPrick_leaf, hu]; exact hp), State.modPrick_leafOnly, hu]
    exact ⟨rfl, .of_part (by simp) (by simp) (by simp)⟩
  · have hu : (s.sendC0All .leaf (s.memberPorts .leaf (s.cell .leaf c.val).cfg.dom sd) [armTok sd g b]).leaf = s.leaf := State.leaf_of_part (by simp)
    refine .of_live (k := .leaf) rfl hl (opArmRx_leaf s h hr) ?_
    dsimp only
    rw [hu, if_neg (by simp [hb]), State.leafArm_of _ (by rw [hu]; exact hx) hs hg, hu, if_pos hb]
    exact ⟨(State.bump_leaf ..).trans hu, by rw [State.bump_count_same, State.sendC0All_count], .of_part (by simp) (by simp) (by simp)⟩
  · have hu : (s.advHt .leaf (e.guardAt * nsTu)).leaf = s.leaf := State.advTo_leaf ..
    refine .of_live rfl hl (opGuardCheck_of s he hj ht hh) ?_
    rw [State.guardNow_of_armed _ (by rw [hu]; exact he) hj ha hb hd,
      State.sendMarks_of_idle _ (by rw [State.modPrick_leaf, hu]; exact hm) (by rw [State.modPrick_leaf, hu]; exact hp), State.modPrick_leafOnly, hu]
    exact ⟨rfl, .of_part (by simp) (by simp) (by simp)⟩
  · have hu : (s.advHt .leaf (e.guardAt * nsTu)).leaf = s.leaf := State.advTo_leaf ..
    refine .of_live rfl hl (opGuardCheck_of s he hj ht hh) ?_
    rw [State.guardNow_of_late _ (by rw [hu]; exact he) hj ha hb hd]
    have hv := State.missEntry_leaf (cause := 0) (e := e) ((s.advHt .leaf (e.guardAt * nsTu)).modPrick (fun p => { p with
      entries := [], lateBatch := if e.batch ∈ p.lateBatch then p.lateBatch else p.lateBatch ++ [e.batch] })) hk (by rw [State.modPrick_leaf, hu]; exact hr)
    have hi := State.missEntry_irq (cause := 0) (e := e) ((s.advHt .leaf (e.guardAt * nsTu)).modPrick (fun p => { p with
      entries := [], lateBatch := if e.batch ∈ p.lateBatch then p.lateBatch else p.lateBatch ++ [e.batch] })) hk (by rw [State.modPrick_leaf, hu]; exact hr)
    rw [State.modPrick_leafOnly, hu] at hv
    rw [State.sendMarks_of_unbound _ (by rw [hv]; exact hbd), State.modPrick_leafOnly, hv]
    refine ⟨rfl, ?_, rfl, rfl, ?_, .of_part (by simp) (by simp) (by simp)⟩
    · show e.batch ∈ if _ then _ else _
      split
      · assumption
      · simp
    · show (State.leafN (State.missEntry _ _ _)).irq.getLsbD 6 = true
      rw [hi, setBit_getLsbD]
      simp
  · refine exec_live rfl hl ?_
    rw [s.sendMarks_of_no_marks hm, State.markOwed, if_neg (by simp [hp, hf])]
    simp only [hb, ho]
  · have hu : (s.advHt .leaf (e.tick * nsTu)).leaf = s.leaf := State.advTo_leaf ..
    have hv := ((s.advHt .leaf (e.tick * nsTu)).modPrick (fun p => p.afterFire e)).fireOne_flip (b := b) hk
    rw [State.modPrick_leaf, hu] at hv
    refine .of_live rfl hl (opFiring_of s he ha hj ht hh) ?_
    rw [State.fireDue_of _ (by rw [hu]; exact hb) (by rw [hu]; exact he) (by simp [State.dueNow, ha, hj, hd]),
      State.sendMarks_of_idle _ (by rw [hv]; exact hm) (by rw [hv]; exact hp), hv]
    have hpt : ∀ pt, pt ≠ .leaf → pt ≠ .regions → pt ≠ .prick → pt ≠ .node .leaf → pt ≠ .time →
        (((s.advHt .leaf (e.tick * nsTu)).modPrick (fun p => p.afterFire e)).fireOne b e).part pt = s.part pt := fun pt h1 h2 h3 h4 h5 => by
      rw [State.fireOne_flip_part _ hk h1 h2 h3 h4]
      simp [h1, h3, h4, h5]
    exact ⟨rfl, Prick.afterFire_entries he (by omega), .of_part (hpt _ nofun nofun nofun nofun nofun) (hpt _ nofun nofun nofun nofun nofun)
      (hpt _ nofun nofun nofun nofun nofun)⟩
  · have hu : (s.advHt .leaf (e.tick * nsTu)).leaf = s.leaf := State.advTo_leaf ..
    have hc' : (((s.advHt .leaf (e.tick * nsTu)).modPrick (fun p => p.afterFire e)).region p.val) = s.region p.val := State.region_of_leaf hu _
    refine .of_live rfl hl (opFiring_of s he ha hj ht hh) ?_
    rw [State.fireDue_of _ (by rw [hu]; exact hb) (by rw [hu]; exact he) (by simp [State.dueNow, ha, hj, hd]),
      State.fireOne_port _ hk hps (by rw [hc']; exact hc), State.sendMarks_of_idle, State.modRegion_region_same _ _ _ p.isLt, hc']
    · refine ⟨?_, ?_, .of_part (by simp) (by simp) (by simp)⟩
      · rw [State.modRegion_prick, State.modPrick_leaf, hu]
      · rw [State.modRegion_rc]
    · rw [State.modRegion_prick, State.modPrick_leaf, hu]
      exact hm
    · rw [State.modRegion_prick, State.modPrick_leaf, hu]
      exact hp

/-- Settles O31: each operation's case. -/
theorem prickingCare : Obligations.PrickingCare := by
  refine ⟨fun s c level cap seq ns hl h hr hn => ?_, fun s c level cap seq ns hl h hr => exec_live (k := .mary) rfl hl (opThrottleRx_mary s h hr),
    fun s hl hp he hn => ?_, fun s n hl hp he hn hc => ?_, fun s src level ht hn hw => ?_, fun s hl => ?_, fun s hl => ?_,
    fun s e hl he hp hk hm hb hr => ?_, fun s e hl he hk hm hb hr => ?_, fun s hl hb hm => ?_, fun s src ht => exec_access_leaf rfl ht rfl⟩
  · have hu : (s.sendC0All .leaf (s.downCells .leaf (s.cell .leaf c.val).cfg.dom) [throttleTok level cap seq ns]).leaf = s.leaf :=
      State.leaf_of_part (by simp)
    have ht : (s.sendC0All .leaf (s.downCells .leaf (s.cell .leaf c.val).cfg.dom) [throttleTok level cap seq ns]).htNs .leaf = s.htNs .leaf := by
      rw [State.htNs, State.ht, State.rc, State.time_of_part (s := s) (by simp) .leaf]
      rfl
    refine .of_live (k := .leaf) rfl hl (opThrottleRx_leaf s h hr) ⟨?_, .of_part (by simp) (by simp) (by simp)⟩
    rw [State.leafThrottle_of _ (by rw [ht]; exact hn), ht, State.modLeaf_leaf, hu]
  · refine .of_live rfl hl (opCapreqEdge_fall s hp he hn) ⟨?_, .of_part (by simp) (by simp)⟩
    rw [State.modMary_mary, State.originThrottle_mary _ (by simpa using hn), State.modMary_mary, hp]
    rfl
  · refine .of_live rfl hl (opCapRelease_of s hp he hn hc) ⟨?_, .of_part (by simp) (by simp)⟩
    obtain ⟨x, hx⟩ := s.advTo_time .mary ((s.time .mary).read.edgeOf (s.rc .mary) ((n + s.capHold) * nsTu))
    rw [State.modMary_mary, State.originThrottle_mary _ (by rw [State.advHt, hx]; exact hn), State.advHt, State.advTo_mary]
  · refine .of_access rfl ht rfl ⟨?_, .of_part (by simp) (by simp)⟩
    rw [State.noteRefused_mary, State.originThrottle_mary _ (by simpa using hn)]
    rfl
  · exact .of_live rfl hl (opPrkScrub_clean s) ⟨s.scrubbed_leaf, .of_part (by simp) (by simp) (by simp)⟩
  · refine .of_live rfl hl (opPrkScrub_corrected s) ⟨?_, ?_, ?_⟩
    · rw [State.bump_count_same, opPrkScrub_clean_count]
    · rw [State.bump_leaf, opPrkScrub_clean_entries]
    · exact .of_part (by simp [opPrkScrub_clean]) (by simp [opPrkScrub_clean]) (by simp [opPrkScrub_clean])
  · obtain ⟨h1, h2, h3⟩ := s.scrubbed.prkErr_only (e := e) (by rw [State.scrubbed_leaf]; exact he) hk (by rw [State.scrubbed_leaf]; exact hb)
      (by rw [State.scrubbed_leaf]; exact hr)
    refine .of_live rfl hl (opPrkScrub_uncorrectable s he hp) ?_
    rw [h1, State.scrubbed_leaf]
    exact ⟨rfl, rfl, rfl, h2, .of_part (h3 _ nofun nofun nofun) (h3 _ nofun nofun nofun) (h3 _ nofun nofun nofun)⟩
  · obtain ⟨h1, h2, h3⟩ := s.prkErr_only he hk hb hr
    refine .of_live rfl hl (opPrkScrub_read s _) ?_
    rw [h1]
    exact ⟨rfl, rfl, rfl, h2, .of_part (h3 _ nofun nofun nofun) (h3 _ nofun nofun nofun) (h3 _ nofun nofun nofun)⟩
  · obtain ⟨h1, h2⟩ := s.scrubbed.fatalMiss_prick
    have hbd : (s.scrubbed.fatalMiss.modPrick (fun p => { p with fatal := true })).leaf.binding = none := by
      rw [State.binding_of_part (s := s) (by simp)]
      exact hb
    refine .of_live rfl hl (opPrkScrub_tagParity s) ?_
    rw [State.sendMarks_of_unbound _ hbd]
    exact ⟨h1, rfl, h2, .of_part (by simp) (by simp) (by simp)⟩

end Sys2Proof.Machine
end

section
/-! Time (ch. 2): racks, folds and re-anchoring, and the commands of the domains. -/

namespace Sys2Proof.Machine

section
variable (s : State)

theorem OnlyTime.of_modTime (k : NodeSel) (f : TimeCore → TimeCore) : OnlyTime k s (s.modTime k f) := by
  cases k <;> rfl
theorem OnlyTime.trans {k : NodeSel} {a b c : State} (h : OnlyTime k a b) (g : OnlyTime k b c) : OnlyTime k a c := by
  rw [OnlyTime] at h g ⊢
  generalize c.time k = x at g ⊢
  rw [g, h]
  cases k <;> rfl

/-! ## Racking -/

theorem State.rackBad_of_time {s t : State} (ht : t.time .leaf = s.time .leaf) (ha : t.abLimit .leaf = s.abLimit .leaf) (d : Dom) :
    t.rackBad d = s.rackBad d := by
  unfold State.rackBad
  rw [ht, ha]
theorem State.rackBad_eq_false_iff (d : Dom) : s.rackBad d = false ↔ ((s.time .leaf).dom d).st = .track ∧ (s.time .leaf).isActive d = false ∧
    ((s.time .leaf).foldTo d).dFold.natAbs ≤ s.abLimit .leaf := by
  simp [State.rackBad, and_assoc]
theorem State.opened_rackBad (src : Src) (d : Dom) : (s.opened .leaf src).rackBad d = s.rackBad d :=
  State.rackBad_of_time (by simp) (by simp [State.abLimit]) d
theorem State.advTo_of_reached (k : NodeSel) {x : W64} (h : ¬ (s.rc k).toNat < x.toNat) : s.advTo k x = s :=
  s.modTime_self k _ (if_neg (fun c => h c.2))
theorem CorrSet.edgeOf_of_reached {c : CorrSet} {rc : W64} {t : Tu} (h : t ≤ c.at_ rc) : c.edgeOf rc t = rc := if_pos h
/-- A racking keeps what the read path shows at its edge. -/
theorem TimeCore.rackTo_at (t : TimeCore) (i : Bool) (y : Dom) : (t.rackTo i y).read.at_ (t.rackTo i y).rc = t.read.at_ t.rc := by
  simp [TimeCore.rackTo]
theorem State.rack_of_kept {y : Dom} (h : ((s.time .leaf).dom (s.time .leaf).active).st ≠ .lost) :
    s.rack .leaf y = s.modTime .leaf (fun t => t.rackTo (s.cfg .leaf).island y) := if_neg h
/-- A picot of the read path moves the marks and the snapshot of the time alone. -/
theorem State.readPicot_time : ∃ p n u, (s.readPicot .leaf).time .leaf = { s.time .leaf with picotAt := p, snap := n, snapUnread := u } := by
  have hp : ∀ u : State, u.portsPicot.time .leaf = u.time .leaf := fun u => State.time_of_part (by simp) .leaf
  have hcases : s.readPicot .leaf = s ∨ s.readPicot .leaf =
    ((s.modTime .leaf (fun t => { t with picotAt := some t.rc })).snapPicot .leaf).portsPicot := ite_eq_or_eq _ _ _
  rcases hcases with h | h
  · rw [h]
    exact ⟨_, _, _, rfl⟩
  rw [h, hp]
  unfold State.snapPicot
  split
  · rw [State.modTime_time]
    exact ⟨_, _, _, rfl⟩
  split
  · rw [State.bump_time, State.modTime_time]
    exact ⟨_, _, _, rfl⟩
  · rw [State.takeSnap, State.modTime_time, State.modTime_time]
    exact ⟨_, _, _, rfl⟩
theorem opPlannedRack_of {d : Dom} (hr : (s.time .leaf).rackReq = some d) (hh : (s.time .leaf).rackHt ≤ s.ht .leaf)
    (hp : (s.time .leaf).fold.isSome = true ∨ ((s.time .leaf).dom (s.time .leaf).active).picotAt = some (s.rc .leaf)) :
    opPlannedRack s = s.rackDueNow.readPicot .leaf := by
  have ha : s.advTo .leaf ((s.time .leaf).read.edgeOf (s.time .leaf).rc (s.time .leaf).rackHt) = s := by
    rw [CorrSet.edgeOf_of_reached (rc := (s.time .leaf).rc) hh]
    exact s.advTo_of_reached .leaf (lt_irrefl _)
  unfold opPlannedRack
  simp only [hr, ha]
  rw [if_neg]
  rcases hp with h | h
  · rw [Option.isNone_eq_false_iff.mpr h]
    nofun
  · rw [h]
    simp [State.rc]
theorem State.rackDueNow_of {d : Dom} (hr : (s.time .leaf).rackReq = some d) (hh : (s.time .leaf).rackHt ≤ s.ht .leaf) : s.rackDueNow =
    if s.rackBad d then (s.modTime .leaf (fun t => { t with rackReq := none })).bump .leaf (offTimeRefused .leaf) else s.rack .leaf d := by
  unfold State.rackDueNow
  simp only [hr]
  rw [if_neg (not_lt.mpr hh)]
theorem opUnplannedRack_idle (h : (s.time .leaf).rackDue = true)
    (hn : (s.time .leaf).noht = true ∨ ((s.time .leaf).dom (otherDom (s.time .leaf).active)).st ≠ .track) :
    opUnplannedRack s = s.modTime .leaf (fun t => { t with rackDue := false }) := by
  rw [opUnplannedRack]
  dsimp only
  rw [if_neg (by simp [h]), if_pos (by simpa using hn)]
theorem opUnplannedRack_racks (h : (s.time .leaf).rackDue = true) (hn : (s.time .leaf).noht = false)
    (ho : ((s.time .leaf).dom (otherDom (s.time .leaf).active)).st = .track) : ∃ u, (u = s ∨ u = s.raiseTime .leaf 6) ∧
    opUnplannedRack s = u.rack .leaf (otherDom (s.time .leaf).active) := by
  rw [opUnplannedRack]
  dsimp only
  rw [if_neg (by simp [h]), if_neg (by simp [hn, ho])]
  refine ⟨_, ?_, rfl⟩
  split
  · exact .inr rfl
  · exact .inl rfl
theorem opFoldComplete_of {f : Fold} (h : (s.time .leaf).fold = some f) : opFoldComplete s =
    (s.advAfter .leaf f.start f.n).modTime .leaf (fun t => { t with fold := none, read := (t.dom f.dom).set }) := by
  simp only [opFoldComplete, h]

end

/-- Settles O14: each operation's case. -/
theorem timeRacks : Obligations.TimeRacks := by
  refine ⟨fun s src d ht h1 h2 h3 => exec_access_leaf rfl ht (if_neg ?_), fun s src d ht h => exec_access_leaf rfl ht (if_pos ?_),
    fun s f hl h => ?_, fun s d hl hk hr hh hb hst hp => ?_, fun s d hl hk hr hh hb hp => ?_, fun s hl hk hd hn ho hst => ?_,
    fun s hl hd hn => ?_, fun s n hl => exec_live rfl hl rfl, fun s n hl => ?_⟩
  · rw [State.opened_rackBad, (s.rackBad_eq_false_iff d).mpr ⟨h1, h2, h3⟩]
    nofun
  · rw [State.opened_rackBad]
    by_contra hb
    obtain ⟨h1, h2, h3⟩ := (s.rackBad_eq_false_iff d).mp (by simpa using hb)
    rcases h with h | h | h
    · exact h h1
    · rw [h2] at h
      nomatch h
    · omega
  · refine .of_live rfl hl (opFoldComplete_of s h) ?_
    obtain ⟨x, hx⟩ := s.advTo_time .leaf (f.start + BitVec.ofNat 64 f.n)
    refine ⟨?_, ?_, ?_, .trans (.of_modTime s .leaf _) (.of_modTime _ .leaf _)⟩ <;> rw [State.modTime_time, State.advAfter, hx]
    rfl
  · have hu : opPlannedRack s = (s.modTime .leaf (fun t => t.rackTo (s.cfg .leaf).island d)).readPicot .leaf := by
      rw [opPlannedRack_of s hr hh hp, s.rackDueNow_of hr hh, if_neg (by simp [hb]), s.rack_of_kept hst]
    refine .of_liveC rfl hl ((if_pos hk).trans hu) ?_
    obtain ⟨x, hx⟩ := State.convRefresh_time ((s.modTime .leaf (fun t => t.rackTo (s.cfg .leaf).island d)).readPicot .leaf) .leaf .leaf
    obtain ⟨p, n, v, hv⟩ := (s.modTime .leaf (fun t => t.rackTo (s.cfg .leaf).island d)).readPicot_time
    rw [State.modTime_time] at hv
    refine ⟨?_, ?_, ?_, ?_, State.leafN_regs_of_part (by simp), .of_part (by simp) (by simp) (by simp)⟩
    · rw [hx, hv]; rfl
    · rw [hx, hv]; rfl
    · rw [hx, hv]; rfl
    · rw [State.ht, State.rc, hx, hv]
      exact TimeCore.rackTo_at _ (s.cfg .leaf).island _
  · have hu : opPlannedRack s = ((s.modTime .leaf (fun t => { t with rackReq := none })).bump .leaf (offTimeRefused .leaf)).readPicot .leaf := by
      rw [opPlannedRack_of s hr hh hp, s.rackDueNow_of hr hh, if_pos hb]
    refine .of_liveC rfl hl ((if_pos hk).trans hu) ?_
    obtain ⟨x, hx⟩ := State.convRefresh_time (((s.modTime .leaf (fun t => { t with rackReq := none })).bump .leaf (offTimeRefused .leaf)).readPicot .leaf)
      .leaf .leaf
    obtain ⟨p, n, v, hv⟩ := ((s.modTime .leaf (fun t => { t with rackReq := none })).bump .leaf (offTimeRefused .leaf)).readPicot_time
    rw [State.bump_time, State.modTime_time] at hv
    refine ⟨?_, ?_, ?_, State.leafN_regs_of_part (by simp), .of_part (by simp) (by simp) (by simp)⟩
    · rw [hx, hv]
    · rw [hx, hv]
    · rw [State.ht, State.rc, hx, hv]
      rfl
  · obtain ⟨u, hu, hop⟩ := opUnplannedRack_racks s hd hn ho
    have huc : u.cfg .leaf = s.cfg .leaf := by rcases hu with rfl | rfl <;> simp
    have hut : ∃ e, u.time .leaf = { s.time .leaf with evt := e } := by
      rcases hu with rfl | rfl
      · exact ⟨_, rfl⟩
      · exact ⟨_, State.modTime_time ..⟩
    obtain ⟨e, he⟩ := hut
    rw [State.rack_of_kept _ (by rw [he]; exact hst)] at hop
    refine .of_liveC rfl hl hop ?_
    obtain ⟨x, hx⟩ := State.convRefresh_time (u.modTime .leaf (fun t => t.rackTo (u.cfg .leaf).island (otherDom (s.time .leaf).active))) .leaf .leaf
    rw [State.modTime_time, he] at hx
    have hpt : ∀ pt, pt ≠ .node .leaf → pt ≠ .time → u.part pt = s.part pt := fun pt h1 h2 => by
      rcases hu with rfl | rfl <;> simp [h1, h2]
    refine ⟨?_, ?_, ?_, ?_, State.leafN_regs_of_part (by simp [hpt]), State.leaf_of_part (by simp [hpt]), .of_part (by simp [hpt]) (by simp [hpt]) (by simp [hpt])⟩
    · rw [hx]; rfl
    · rw [hx]; rfl
    · rw [hx]; rfl
    · rw [State.ht, State.rc, hx]
      exact TimeCore.rackTo_at _ (u.cfg .leaf).island _
  · refine .of_liveC rfl hl (opUnplannedRack_idle s hd hn) ?_
    obtain ⟨x, hx⟩ := State.convRefresh_time (s.modTime .leaf (fun t => { t with rackDue := false })) .leaf .leaf
    rw [State.modTime_time] at hx
    refine ⟨by rw [hx], by rw [hx], ?_, State.leafN_regs_of_part (by simp), State.leaf_of_part (by simp), .of_part (by simp) (by simp) (by simp)⟩
    rw [State.ht, State.rc, hx]
    rfl
  · refine .of_live rfl hl rfl ?_
    have hx : (opReanchor n s).time n = (s.time n).reanchorAll := State.modTime_time ..
    refine ⟨?_, ?_, ?_, ?_, ?_⟩
    · rw [State.rc, hx]; rfl
    · rw [State.ht, State.rc, hx]
      exact CorrSet.reanchor_at ..
    · rw [State.htDom, State.rc, hx]
      exact CorrSet.reanchor_at ..
    · rw [State.htDom, State.rc, hx]
      exact CorrSet.reanchor_at ..
    · rw [hx]; rfl

/-! ## The domains -/

section
variable (s : State)

theorem State.opened_snapNow (n : NodeSel) (src : Src) : (s.opened n src).snapNow n = s.snapNow n := by
  cases n <;> rfl
theorem opDomEn1_stop {k : NodeSel} {d : Dom} (he : s.domEnabled k d = true) (ha : (s.time k).isActive d = false) :
    opDomEn1 k d false s = (s.modDom k d (fun x => x.clear .off)).setDomEn k d false := by
  rw [opDomEn1, if_neg nofun, if_neg (by simp [he]), if_neg (by simp [ha])]
theorem State.domStart_of {k : NodeSel} {d : Dom} (h : ((s.time k).dom d).st = .off) (hu : s.hasUpRole k d = true) :
    s.domStart k d = s.modTime k (fun t => { t.modDom d (fun x => { x with st := s.acqOrSeek k d }) with
      onSince := if (t.dom (otherDom d)).st = .off then t.rc else t.onSince }) := if_pos ⟨h, hu⟩
/-- Both domains of a leaf are enabled: each starts, and both bits are set. -/
theorem opDomEn_both (ha : (s.time .leaf).domA.st = .off) (hb : (s.time .leaf).domB.st = .off) (hua : s.hasUpRole .leaf .a = true)
    (hub : s.hasUpRole .leaf .b = true) : ((opDomEn .leaf 3 s).time .leaf).domA.st = s.acqOrSeek .leaf .a ∧
    ((opDomEn .leaf 3 s).time .leaf).domB.st = s.acqOrSeek .leaf .b ∧ (opDomEn .leaf 3 s).reg .leaf 0x1004 = s.reg .leaf 0x1004 ||| 3 := by
  have hu : opDomEn .leaf 3 s = (((s.setDomEn .leaf .a true).domStart .leaf .a).setDomEn .leaf .b true).domStart .leaf .b := rfl
  have h1 : (s.setDomEn .leaf .a true).domStart .leaf .a = (s.setDomEn .leaf .a true).modTime .leaf (fun t =>
      { t.modDom .a (fun x => { x with st := (s.setDomEn .leaf .a true).acqOrSeek .leaf .a }) with
        onSince := if (t.dom (otherDom .a)).st = .off then t.rc else t.onSince }) :=
    State.domStart_of _ (by rw [State.setDomEn_time]; exact ha) (by simpa using hua)
  rw [hu, h1, State.domStart_of _ (by rw [State.setDomEn_time, State.modTime_time, State.setDomEn_time]; exact hb) (by simpa using hub)]
  refine ⟨?_, ?_, ?_⟩
  · simp [TimeCore.modDom]
  · simp [TimeCore.modDom]
  · simp [State.setDomEn, tOff, domIdx, setBit, BitVec.or_assoc]
/-- The domain that the read path follows is lost at the end of its holding: an unplanned racking is due if the other one tracks. -/
theorem opHoldLimit_time {n : NodeSel} {d : Dom} (hst : ((s.time n).dom d).st = .hold) (ha : (s.time n).isActive d = true) :
    ∃ r, (opHoldLimit n d s).time n = { (s.time n).modDom d (fun x => { x with st := .lost }) with
      rc := r, evt := setBit (s.time n).evt (2 + domIdx d),
      rackDue := if ((s.time n).dom (otherDom d)).st = .track then true else (s.time n).rackDue } := by
  obtain ⟨r, hr⟩ := s.advTo_time n (((s.time n).dom d).holdSince + BitVec.ofNat 64 (s.effFldD n d (tOff n 0x1108) 15 0 * cyclesMs))
  refine ⟨r, ?_⟩
  unfold opHoldLimit State.loseDomain State.advAfter
  dsimp only
  rw [if_neg (by simp [hst]), hr, if_pos (by cases d <;> exact ha)]
  by_cases h : ((s.time n).dom (otherDom d)).st = .track
  · rw [if_pos (by cases d <;> exact h), if_pos h, State.modTime_time, State.raiseTime, State.modTime_time, State.modDom_time, hr]
    cases d <;> rfl
  · rw [if_neg (by cases d <;> exact h), if_neg h, State.raiseTime, State.modTime_time, State.modDom_time, hr]
    cases d <;> rfl
theorem opDomReacq_of {k : NodeSel} {d : Dom} (ha : (s.time k).isActive d = true) (hl : ((s.time k).dom d).st = .lost)
    (hr : k = .mary → (s.cfg .mary).root = false) : opDomReacq k d s = s.modTime k (fun t =>
      { (t.modDom d (fun x => { x.clear (s.acqOrSeek k d) with reacq := true })) with fold := none }) := by
  rw [opDomReacq]
  dsimp only
  rw [if_neg]
  cases k
  · simp [ha, hl]
  · simp [ha, hl, hr rfl]
theorem opDomReacq_refused {k : NodeSel} {d : Dom} (h : (s.time k).isActive d = false ∨ ((s.time k).dom d).st ≠ .lost ∨
    k = .mary ∧ (s.cfg .mary).root = true) : opDomReacq k d s = s.refuse k (offTimeRefused k) := by
  rw [opDomReacq]
  dsimp only
  rw [if_pos]
  rcases h with h | h | ⟨rfl, h⟩ <;> simp [h]
theorem opHtSet_first {v : Ht96} (hi : (s.cfg .leaf).island = true) (hn : htNs v ≤ 999999999) (ht : tuNs (tuOfHt v) < 2 ^ 68)
    (hd : (s.time .leaf).htSetDone = false) : opHtSet v s = s.modTime .leaf (fun t =>
      { t with domA := t.domA.stepTo t.rc { anchor := t.rc, off := tuOfHt v, rate := t.domA.set.rate },
               domB := t.domB.stepTo t.rc { anchor := t.rc, off := tuOfHt v, rate := t.domB.set.rate },
               read := { anchor := t.rc, off := tuOfHt v, rate := (t.dom t.active).set.rate },
               fold := none, htSetDone := true, picotAt := none }) := by
  unfold opHtSet
  dsimp only
  rw [if_neg (by simp [hi, hn, htBound]; omega), if_neg (by simp [hd])]
theorem CorrSet.at_anchor (c : CorrSet) : c.at_ c.anchor = c.off := by simp [CorrSet.at_]

end

/-- Settles O15: each operation's case. -/
theorem timeDomains : Obligations.TimeDomains := by
  refine ⟨fun s n src ht hp => ?_, fun s n src ht hp => ?_, fun s src ht ha hb hea heb => ?_, fun s src ht ha hb hua hub => ?_,
    fun s src v ht hr => ?_, fun s n src d ht ha hl hr => ?_, fun s n src d ht h => ?_, fun s src v ht hi hn hv hd hb => ?_,
    fun s src kk ht hi hlo hhi => exec_access_leaf rfl ht (if_neg ?_), fun s src kk ht h => exec_access_leaf rfl ht (if_pos ?_),
    fun s n d hl hst ha => ?_⟩
  · refine .intro (exec_access_kept (u := (s.opened n src).takeSnap n) rfl ht (if_neg (by simp [State.snapsPicots] at hp ⊢; exact hp))
      (by simp [State.takeSnap])) ?_
    have hx : ((s.opened n src).takeSnap n).time n = { s.time n with snap := s.snapNow n, snapUnread := true } := by
      rw [State.takeSnap, State.modTime_time, State.opened_snapNow, State.opened_time]
    exact ⟨by rw [hx], by rw [hx], .of_modTime _ n _, by rw [hx], by rw [hx], by rw [hx], by rw [State.rc, hx]; rfl⟩
  · exact exec_access_kept rfl ht (if_pos (by simp [State.snapsPicots] at hp ⊢; exact hp)) (by simp)
  · have hu : opDomEn .leaf 0 (s.opened .leaf src) = ((((s.opened .leaf src).modDom .leaf .a (fun x => x.clear .off)).setDomEn .leaf .a false).modDom
        .leaf .b (fun x => x.clear .off)).setDomEn .leaf .b false := by
      show opDomEn1 .leaf .b false (opDomEn1 .leaf .a false (s.opened .leaf src)) = _
      rw [opDomEn1_stop (s.opened .leaf src) (by simpa using hea) (by simpa using ha),
        opDomEn1_stop _ (by simpa using heb) (by simpa [State.modDom_time] using hb)]
    refine .of_accessC_leaf rfl ht hu ?_
    obtain ⟨x, hx⟩ := State.convRefresh_time (((((s.opened .leaf src).modDom .leaf .a (fun x => x.clear .off)).setDomEn .leaf .a false).modDom
        .leaf .b (fun x => x.clear .off)).setDomEn .leaf .b false) .leaf .leaf
    rw [State.setDomEn_time, State.modDom_time, State.setDomEn_time, State.modDom_time, State.opened_time] at hx
    rw [hx]
    exact ⟨rfl, rfl, rfl, rfl, rfl, State.leaf_of_part (by simp), .of_part (by simp) (by simp) (by simp)⟩
  · obtain ⟨u, hu⟩ : ∃ u, opDomEn .leaf 3 (s.opened .leaf src) = u := ⟨_, rfl⟩
    obtain ⟨h1, h2, h3⟩ := opDomEn_both (s.opened .leaf src) (by simpa using ha) (by simpa using hb) (by simpa using hua) (by simpa using hub)
    rw [hu] at h1 h2 h3
    rw [State.opened_acq] at h1 h2
    rw [State.opened_reg] at h3
    refine .of_accessC_leaf rfl ht hu ?_
    obtain ⟨x, hx⟩ := u.convRefresh_time .leaf .leaf
    rw [hx, State.convRefresh_reg]
    exact ⟨h1, h2, h3, State.leaf_of_part (by simp [← hu]), .of_part (by simp [← hu]) (by simp [← hu]) (by simp [← hu])⟩
  · refine .of_accessC rfl ht (if_pos (by simpa using hr)) ?_
    obtain ⟨x, hx⟩ := State.convRefresh_time ((s.opened .mary src).setReg .mary (tOff .mary 0x1004) (v.zeroExtend 32)) .mary .mary
    rw [State.setReg_time, State.opened_time] at hx
    exact ⟨by simp, by rw [State.noteRefused_time, hx], by rw [State.noteRefused_time, hx], by simp, .of_part (by simp) (by simp)⟩
  · obtain ⟨u, hu⟩ : ∃ u, opDomReacq n d (s.opened n src) = u := ⟨_, rfl⟩
    have hut : u.time n = { ((s.time n).modDom d (fun x => { x.clear (s.acqOrSeek n d) with reacq := true })) with fold := none } := by
      rw [← hu, opDomReacq_of _ (by simpa using ha) (by simpa using hl) (by simpa using hr), State.modTime_time, State.opened_time, State.opened_acq]
    refine .of_accessC rfl ht hu ?_
    obtain ⟨x, hx⟩ := u.convRefresh_time n n
    rw [State.noteRefused_time, hx, hut]
    have hd : ((s.time n).modDom d (fun x => { x.clear (s.acqOrSeek n d) with reacq := true })).dom d =
        { ((s.time n).dom d).clear (s.acqOrSeek n d) with reacq := true } := TimeCore.modDom_same ..
    refine ⟨?_, ?_, ?_, rfl, TimeCore.modDom_read .., State.leaf_of_part (by simp [← hu])⟩
    · cases d <;> rfl
    · cases d <;> rfl
    · cases d <;> rfl
  · refine .of_accessC rfl ht (opDomReacq_refused _ (by simpa using h)) ?_
    obtain ⟨x, hx⟩ := State.convRefresh_time ((s.opened n src).refuse n (offTimeRefused n)) n n
    have hr : ((s.opened n src).refuse n (offTimeRefused n)).time n = s.time n := by simp
    rw [hr] at hx
    rw [State.noteRefused_time, hx]
    refine ⟨rfl, rfl, rfl, ?_, by simp, by simp⟩
    rw [State.noteRefused_count, State.convRefresh_count_other _ _ _ _ (by cases n <;> decide)]
    simp
  · obtain ⟨u, hu⟩ : ∃ u, opHtSet v (s.opened .leaf src) = u := ⟨_, rfl⟩
    have hut : u.time .leaf = { s.time .leaf with
        domA := (s.time .leaf).domA.stepTo (s.time .leaf).rc { anchor := (s.time .leaf).rc, off := tuOfHt v, rate := (s.time .leaf).domA.set.rate },
        domB := (s.time .leaf).domB.stepTo (s.time .leaf).rc { anchor := (s.time .leaf).rc, off := tuOfHt v, rate := (s.time .leaf).domB.set.rate },
        read := { anchor := (s.time .leaf).rc, off := tuOfHt v, rate := ((s.time .leaf).dom (s.time .leaf).active).set.rate },
        fold := none, htSetDone := true, picotAt := none } := by
      rw [← hu, opHtSet_first _ (by simpa using hi) hn hv (by simpa using hd), State.modTime_time, State.opened_time]
    have hl : u.leaf = s.leaf := by
      rw [← hu, opHtSet_first _ (by simpa using hi) hn hv (by simpa using hd), State.modTime_leaf, State.opened_leaf]
    have hm : opHtSetMarks v (s.opened .leaf src) = u.modPrick (fun p => { p with marks := [] }) := by
      rw [opHtSetMarks, hu, State.sendMarks_of_unbound _ (by rw [hl]; exact hb)]
    refine .of_access_leaf rfl ht hm ?_
    rw [State.ht, State.htDom, State.htDom, State.rc, State.modPrick_time, State.modPrick_leaf, hut, hl]
    have hsm : SameMary s u := by
      rw [← hu, opHtSet_first _ (by simpa using hi) hn hv (by simpa using hd)]
      exact .of_part (by simp) (by simp) (by simp)
    exact ⟨CorrSet.at_anchor _, CorrSet.at_anchor _, CorrSet.at_anchor _, rfl, rfl, rfl, hsm⟩
  · simp [hi]
    omega
  · rcases h with h | h | h <;> simp [h]
  · obtain ⟨u, hu⟩ : ∃ u, opHoldLimit n d s = u := ⟨_, rfl⟩
    obtain ⟨r, hr⟩ := opHoldLimit_time s hst ha
    rw [hu] at hr
    refine .of_liveC rfl hl hu ?_
    obtain ⟨x, hx⟩ := u.convRefresh_time n n
    rw [hx, hr]
    refine ⟨?_, ?_, ?_, TimeCore.modDom_read .., fun h => ?_, State.leaf_of_part (by simp [← hu])⟩
    · cases d <;> rfl
    · show (setBit _ _).getLsbD _ = true
      rw [setBit_getLsbD]
      cases d <;> simp [domIdx]
    · cases d <;> rfl
    · exact if_pos h

end Sys2Proof.Machine
end

section
/-! Hoops on their way through a node (ch. 8): recipes, partials and outcomes at a Maryel and a leaf. -/

namespace Sys2Proof.Machine

/-! ## What leaves a Maryel's contexts and a root's hoops alone -/

/-- The contexts of the Maryel and the hoops of its root. -/
def State.maryHoops (s : State) : List Ctx × List RHoop := (s.maryN.ctxs, s.maryN.root.hoops)

section
variable (s : State)

theorem State.ctxOf_of_maryHoops {s t : State} (h : t.maryHoops = s.maryHoops) (sd : Sd) (i : HoopId) (d : Dom) :
    t.ctxOf .mary sd i d = s.ctxOf .mary sd i d := by
  have hc : t.maryN.ctxs = s.maryN.ctxs := congrArg Prod.fst h
  show List.find? _ t.maryN.ctxs = List.find? _ s.maryN.ctxs
  rw [hc]
@[simp] theorem State.modCell_maryHoops (i : Nat) (f : Cell → Cell) : (s.modCell .mary i f).maryHoops = s.maryHoops := rfl
@[simp] theorem State.bump_maryHoops (o : Nat) : (s.bump .mary o).maryHoops = s.maryHoops := rfl
@[simp] theorem State.raiseIrq_maryHoops (n : Nat) : (s.raiseIrq .mary n).maryHoops = s.maryHoops := rfl
@[simp] theorem State.modMary_maryHoops (f : MaryOnly → MaryOnly) : (s.modMary f).maryHoops = s.maryHoops := rfl
@[simp] theorem State.fileTel_maryHoops (r : TeleRec) : (s.fileTel r).maryHoops = s.maryHoops := by
  unfold State.fileTel
  dsimp only
  (repeat' split) <;> rfl
@[simp] theorem State.dropRoute_maryHoops (i : Nat) : (s.dropRoute .mary i).maryHoops = s.maryHoops := rfl
@[simp] theorem State.sendOwnC3_maryHoops (d : Dom) (m : Tokens) : (s.sendOwnC3 .mary d m).maryHoops = s.maryHoops := by
  unfold State.sendOwnC3
  split
  · rfl
  · split <;> rfl
@[simp] theorem State.fileExc_maryHoops (r : ExcRec) : (s.fileExc .mary r).maryHoops = s.maryHoops := by
  unfold State.fileExc
  dsimp only
  (repeat' split) <;> rfl
@[simp] theorem State.originTel_maryHoops (d : Dom) (r : TeleRec) : (s.originTel .mary d r).maryHoops = s.maryHoops := by
  unfold State.originTel
  dsimp only
  (repeat' split) <;> simp
@[simp] theorem State.noteExcised_maryHoops (sd : Sd) (h : HoopId) (d : Dom) (p : Nat) : (s.noteExcised .mary sd h d p).maryHoops = s.maryHoops := rfl
@[simp] theorem State.exciseMary_maryHoops (sd : Sd) (h : HoopId) (g : Gen) (d : Dom) (l : List Nat) (c o : Nat) :
    (s.exciseMary sd h g d l c o).maryHoops = s.maryHoops :=
  State.each_same State.maryHoops _ _ (fun u p => by simp) s
@[simp] theorem State.markClosed_maryHoops (sd : Sd) (h : HoopId) (d : Dom) : (s.markClosed .mary sd h d).maryHoops = s.maryHoops := by
  simp only [State.markClosed, State.maryHoops, State.modNode]
  split <;> rfl
@[simp] theorem State.sendC0All_maryHoops (ps : List Nat) (m : Tokens) : (s.sendC0All .mary ps m).maryHoops = s.maryHoops :=
  State.each_same State.maryHoops ps (fun s p => s.sendC0 .mary p m) (fun _ _ => rfl) s
@[simp] theorem State.endId_maryHoops (sd : Sd) (h : HoopId) : (s.endId .mary sd h).maryHoops = s.maryHoops := by
  unfold State.endId
  split
  · rfl
  · rename_i r _
    generalize hr : ({ r with ended := if h ∈ r.ended then r.ended else r.ended ++ [h] } : Recipe) = r1
    simp only [State.maryHoops, State.modNode]
    split <;> rfl
@[simp] theorem State.sendDown_maryHoops (d : Dom) (m : HoopDown) : (s.sendDown .mary d m).maryHoops = s.maryHoops := by
  simp [State.sendDown]

/-! ## Recipes -/

/-- What a recipe's command reads of a Maryel: its recipes and those it has freed. -/
def State.maryRecipes (s : State) : List Recipe × List (Sd × HoopId × Gen × Dom) := (s.maryN.recipes, s.maryN.freed)
theorem State.sendC2_maryRecipes (i : Nat) (m : Tokens) : (s.sendC2 .mary i m).maryRecipes = s.maryRecipes := by
  unfold State.sendC2
  split <;> rfl
theorem State.passC2_maryRecipes (i : Nat) (h : C2Head) (m : Tokens) : (s.passC2 .mary i h m).maryRecipes = s.maryRecipes := by
  unfold State.passC2 State.forwardC2
  split
  · rfl
  · exact State.each_same State.maryRecipes _ (fun s p => s.sendC2 .mary p m) (State.sendC2_maryRecipes · · m) s
theorem opHoopRecipeRx_up {c : Fin 100} (m : RecipeMsg) (h : (s.cell .mary c.val).ts = .active) (hr : (s.cell .mary c.val).cfg.role = 1) :
    opHoopRecipeRx (.mary c) m s = (s.passC2 .mary c.val m.head (recipeToks m)).takeRecipe .mary (s.cell .mary c.val).cfg.dom m := by
  unfold opHoopRecipeRx
  dsimp only [CellRef.node, CellRef.idx]
  rw [if_neg (by simp [h]), if_neg (by simp [hr])]
theorem State.takeRecipe_mary {d : Dom} {m : RecipeMsg} (hf : (m.head.sd, m.hoopId, m.head.gen, d) ∉ s.maryN.freed)
    (hn : s.maryN.recipes.length < 1024) (hr : ∀ r ∈ s.maryN.recipes, r.sd ≠ m.head.sd ∨ r.hoopId ≠ m.hoopId ∨ r.gen ≠ m.head.gen) :
    s.takeRecipe .mary d m = s.keepRecipe .mary { sd := m.head.sd, gen := m.head.gen, hoopId := m.hoopId, common := m.common, lanes := m.lanes,
                                                  ended := [], seen := (decide (d = .a), decide (d = .b)) } := by
  have hany : (s.recipes .mary).any (fun r => decide (r.sd = m.head.sd ∧ r.hoopId = m.hoopId ∧ r.gen = m.head.gen)) = false := by
    rw [List.any_eq_false]
    intro r hm
    have := hr r hm
    simp only [decide_eq_true_eq]
    tauto
  unfold State.takeRecipe
  dsimp only
  rw [if_neg (by simpa [State.onNode] using hf), hany, if_neg nofun, if_neg (by simp), if_neg (by show ¬ (1024 ≤ s.maryN.recipes.length); omega)]
  simp

/-! ## Partials -/

theorem opHoopUpRx_down {c : Fin 100} {m : HoopUp} {ue : Bool} (h : (s.cell .mary c.val).ts = .active) (hr : (s.cell .mary c.val).cfg.role = 2) :
    opHoopUpRx (.mary c) m ue s = s.upFromBelow .mary c.val m ue := by
  unfold opHoopUpRx
  dsimp only [CellRef.node, CellRef.idx]
  rw [if_neg (by simp [h]), if_pos hr]
theorem State.upFromBelow_stale {i : Nat} {m : HoopUp} {ue : Bool} {g : Gen} (hg : s.curGenOf .mary m.sd = some g) (hl : m.gen.toNat < g.toNat) :
    s.upFromBelow .mary i m ue = s.staleReturn .mary i m := by
  unfold State.upFromBelow
  simp only [hg]
  exact if_pos (by simpa using hl)

section
variable {i : Nat} {m : HoopUp} {ue : Bool} (hn : s.isRoot .mary = false) (hg : s.curGenOf .mary m.sd = some m.gen)
  (hm : s.membOk .mary = true) (ho : s.membOver .mary m.sd = false)
include hn hg hm ho

theorem State.upFromBelow_closed (hc : s.upClosed .mary m.sd m.hoopId (s.cell .mary i).cfg.dom = true) :
    s.upFromBelow .mary i m ue = s.bump .mary 0x9041C := by
  unfold State.upFromBelow
  simp only [hg]
  rw [if_neg (by simp), if_neg (by simp [State.cutOff, hn]), if_neg (by simp [hm]), if_neg (by simp [ho]), if_pos hc]
  simp [State.bumpIf, offDropDone]
/-- Below the root a partial of the present generation goes to its combining, and the root's book of hoops is not touched. -/
theorem State.upFromBelow_open {r : Recipe} (hc : s.upClosed .mary m.sd m.hoopId (s.cell .mary i).cfg.dom = false)
    (hr : s.combRecipe .mary m.sd m.hoopId m.gen = some r) :
    s.upFromBelow .mary i m ue = s.takeUp .mary i (s.cell .mary i).cfg.dom m ue r := by
  unfold State.upFromBelow
  simp only [hg, hr]
  rw [if_neg (by simp), if_neg (by simp [State.cutOff, hn]), if_neg (by simp [hm]), if_neg (by simp [ho]), if_neg (by simp [hc])]
  simp [State.bumpIf, State.noteHead, hn]

end

theorem State.takeUp_error {i : Nat} {d : Dom} {m : HoopUp} {r : Recipe} (hq : rcQuorum r.common = false)
    (hp : s.holdsPart .mary d m.sd m.hoopId = true) :
    s.takeUp .mary i d m true r = (s.ctxUe .mary d m.sd m.hoopId m.gen r).bump .mary 0x9041C := by
  unfold State.takeUp
  rw [if_pos (by simp [hp])]
  exact if_neg (by simp [hq])
theorem State.takeUp_quorum {i : Nat} {d : Dom} {m : HoopUp} {r : Recipe} (hq : rcQuorum r.common = true) :
    s.takeUp .mary i d m false r = s.passWindow .mary i d m r := by
  unfold State.takeUp
  rw [if_neg (by simp), if_pos hq]
theorem State.takeUp_all {i : Nat} {d : Dom} {m : HoopUp} {r : Recipe} (hq : rcQuorum r.common = false) :
    s.takeUp .mary i d m false r = s.combine .mary i d m r := by
  unfold State.takeUp
  rw [if_neg (by simp), if_neg (by simp [hq])]
theorem State.putCtx_ctxOf (x : Ctx) : (s.putCtx .mary x).ctxOf .mary x.sd x.hoopId x.dom = some x := by
  show List.find? _ (List.filter _ s.maryN.ctxs ++ [x]) = some x
  rw [List.find?_append]
  have h0 : List.find? (fun y : Ctx => decide (y.sd = x.sd ∧ y.hoopId = x.hoopId ∧ y.dom = x.dom))
      (s.maryN.ctxs.filter (fun y => !decide (y.sd = x.sd ∧ y.hoopId = x.hoopId ∧ y.dom = x.dom))) = none := by
    rw [List.find?_eq_none]
    intro y hy
    simpa only [Bool.not_eq_true', decide_eq_false_iff_not, decide_eq_true_eq] using (List.mem_filter.mp hy).2
  rw [h0]
  simp
/-- A Maryel whose context still misses a port sends nothing up. -/
theorem State.tryUp_of_missing {d : Dom} {sd : Sd} {h : HoopId} {g : Gen} {r : Recipe} {x : Ctx} (hx : s.ctxOf .mary sd h d = some x)
    (hm : (s.memberPorts .mary d sd).all (fun p => decide (p ∈ x.got)) = false) : s.tryUp .mary d sd h g r = s := by
  unfold State.tryUp
  simp only [hx]
  rw [if_pos (by rw [hm]; simp)]
/-- The first partial of a hoop opens its context. -/
theorem State.combine_first {i : Nat} {d : Dom} {m : HoopUp} {r : Recipe} (hn : (m.sd, m.hoopId, d) ∉ s.maryN.noCtx) (h1 : m.missed = false)
    (h2 : m.incomplete = false) (hx : s.ctxOf .mary m.sd m.hoopId d = none) (hf : s.ctxFull .mary d = false)
    (hm : (s.memberPorts .mary d m.sd).all (fun p => decide (p ∈ [i])) = false) : s.combine .mary i d m r = s.putCtx .mary
      { sd := m.sd, hoopId := m.hoopId, dom := d, gen := m.gen, openAt := s.ht .mary, got := [i],
        acc := lanesCombine r.lanes (lanesEmpty r.lanes) m.lanes } := by
  unfold State.combine
  simp only [hx]
  rw [if_neg (by simpa [State.onNode] using hn), if_neg (by simp [h1, h2]), if_neg (by simp [hf])]
  exact State.tryUp_of_missing _ (State.putCtx_ctxOf s _) hm

/-! ## The end of a context -/

theorem State.isRoot_of_part {s t : State} (h : t.part .cfg = s.part .cfg) (k : NodeSel) : t.isRoot k = s.isRoot k := by
  cases k <;> unfold State.isRoot <;> dsimp only <;> rw [State.cfg_of_part h]
theorem State.comparing_of_not_root (h : s.isRoot .mary = false) (sd : Sd) (i : HoopId) : s.comparing .mary sd i = false := by
  have hd : s.isDecider .mary = false := by
    simp only [State.isRoot] at h
    simp [State.isDecider, h]
  simp [State.comparing, hd]
theorem opContextDeadline_none {k : NodeSel} {d : Dom} {sd : Sd} {h : HoopId} (hx : s.ctxOf k sd h d = none) : opContextDeadline k d sd h s = s := by
  simp only [opContextDeadline, hx]
theorem opContextDeadline_all {d : Dom} {sd : Sd} {h : HoopId} {x : Ctx} {r : Recipe} {s1 : State} (hn : s.isRoot .mary = false)
    (hx : s.ctxOf .mary sd h d = some x) (hr : s.combRecipe .mary sd h 0 = some r) (hq : rcQuorum r.common = false)
    (h1 : s.advHt .mary (x.openAt + rcDeadline r.common * 8 * nsTu) = s1) :
    opContextDeadline .mary d sd h s = ((s1.exciseMary sd h x.gen d ((s1.memberPorts .mary d sd).filter (fun p => !decide (p ∈ x.got))) 0 7).closeCtx
      .mary sd h d).emitUp .mary d r.lanes (headUp sd h x.gen false true none) := by
  simp only [opContextDeadline, hx, hr, h1]
  rw [if_neg (by simp [hq]), if_neg (by simp [State.comparing_of_not_root s hn])]
theorem State.markClosed_isClosed (sd : Sd) (h : HoopId) (d : Dom) : (s.markClosed .mary sd h d).isClosed .mary sd h d = true := by
  unfold State.isClosed
  rw [Bool.or_eq_true]
  refine .inr (decide_eq_true (show (sd, h, d) ∈ (s.markClosed .mary sd h d).maryN.closed from ?_))
  show (sd, h, d) ∈ (if (sd, h, d) ∈ s.maryN.closed then s.maryN else { s.maryN with closed := s.maryN.closed ++ [(sd, h, d)] }).closed
  split
  · assumption
  · simp
theorem State.closeCtx_isClosed (sd : Sd) (h : HoopId) (d : Dom) : (s.closeCtx .mary sd h d).isClosed .mary sd h d = true :=
  State.markClosed_isClosed _ sd h d
/-- Dropping the contexts of a hoop in a domain leaves none to find. -/
theorem ctx_find_filter (l : List Ctx) (sd : Sd) (h : HoopId) (d : Dom) :
    (l.filter (fun x => !decide (x.sd = sd ∧ x.hoopId = h ∧ x.dom = d))).find? (fun x => decide (x.sd = sd ∧ x.hoopId = h ∧ x.dom = d)) = none := by
  rw [List.find?_eq_none]
  intro y hy
  simpa only [Bool.not_eq_true', decide_eq_false_iff_not, decide_eq_true_eq] using (List.mem_filter.mp hy).2
theorem State.closeCtx_ctxOf (sd : Sd) (h : HoopId) (d : Dom) : (s.closeCtx .mary sd h d).ctxOf .mary sd h d = none :=
  (State.ctxOf_of_maryHoops (State.markClosed_maryHoops _ sd h d) sd h d).trans (ctx_find_filter s.maryN.ctxs sd h d)
/-- Below the root a message up goes no further than the queue of the UP cell. -/
theorem State.emitUp_below (h : s.isRoot .mary = false) (d : Dom) (ds : List W32) (m : HoopUp) :
    s.emitUp .mary d ds m = s ∨ ∃ i f, s.emitUp .mary d ds m = s.modCell .mary i f := by
  unfold State.emitUp
  rw [if_neg (by simp [h])]
  split
  · exact .inl rfl
  · exact .inr ⟨_, _, rfl⟩

/-! ## Outcomes on their way down -/

theorem opHoopDownRx_mary {c : Fin 100} {m : HoopDown} (h : (s.cell .mary c.val).ts = .active) (hr : (s.cell .mary c.val).cfg.role = 1)
    (ha : m.all = true) : opHoopDownRx (.mary c) m s = s.relayDown .mary (s.cell .mary c.val).cfg.dom m := by
  unfold opHoopDownRx
  dsimp only [CellRef.node, CellRef.idx]
  rw [if_neg (by simp [h]), if_pos hr, if_neg (by simp [ha])]
  rfl
theorem opHoopDownRx_leaf {c : Fin 6} {m : HoopDown} (h : (s.cell .leaf c.val).ts = .active) (hr : (s.cell .leaf c.val).cfg.role = 1)
    (hm : m.all = true ∨ m.dest = s.nodeId .leaf) :
    opHoopDownRx (.leaf c) m s = (s.relayDown .leaf (s.cell .leaf c.val).cfg.dom m).takeDown m := by
  have how : (decide (NodeSel.leaf = .leaf) && (m.all || decide (m.dest = s.nodeId .leaf))) = true := by simpa using hm
  unfold opHoopDownRx
  dsimp only [CellRef.node, CellRef.idx]
  rw [if_neg (by simp [h]), if_pos hr, how, if_neg (by simp), if_pos rfl]
theorem State.closeOnDown_ctxOf (d : Dom) (m : HoopDown) : (s.closeOnDown .mary d m).ctxOf .mary m.sd m.hoopId d = none := by
  have h0 : ∀ t : State, t.maryN.ctxs = s.maryN.ctxs.filter (fun x => !(decide (x.sd = m.sd) && decide (x.hoopId = m.hoopId) && decide (x.dom = d))) →
      t.ctxOf .mary m.sd m.hoopId d = none := by
    intro t ht
    refine Eq.trans ?_ (ctx_find_filter s.maryN.ctxs m.sd m.hoopId d)
    show List.find? _ t.maryN.ctxs = _
    simp [ht, Bool.and_assoc]
  unfold State.closeOnDown
  dsimp only
  split
  · exact h0 _ rfl
  · refine (State.ctxOf_of_maryHoops (State.markClosed_maryHoops _ _ _ _) _ _ _).trans ?_
    split
    · exact (State.ctxOf_of_maryHoops (State.exciseMary_maryHoops _ _ _ _ _ _ _ _) _ _ _).trans (h0 _ rfl)
    · exact h0 _ rfl
theorem State.relayDown_ctxOf (d : Dom) (m : HoopDown) : (s.relayDown .mary d m).ctxOf .mary m.sd m.hoopId d = none :=
  (State.ctxOf_of_maryHoops (State.sendDown_maryHoops _ d m) m.sd m.hoopId d).trans (State.closeOnDown_ctxOf s d m)

end

/-! ## O34 -/

theorem exec_hoopRecipeRx_up (s : State) (c : Fin 100) (m : RecipeMsg) (hl : s.held .mary = false) (h : (s.cell .mary c.val).ts = .active)
    (hr : (s.cell .mary c.val).cfg.role = 1) (hf : (m.head.sd, m.hoopId, m.head.gen, (s.cell .mary c.val).cfg.dom) ∉ s.maryN.freed)
    (hn : s.maryN.recipes.length < 1024) (hd : ∀ r ∈ s.maryN.recipes, r.sd ≠ m.head.sd ∨ r.hoopId ≠ m.hoopId ∨ r.gen ≠ m.head.gen) :
    Does (.hoopRecipeRx (.mary c) m) s (fun t => ∃ r, t.maryN.recipes = s.maryN.recipes ++ [r] ∧ r.sd = m.head.sd ∧ r.hoopId = m.hoopId ∧
      r.gen = m.head.gen ∧ r.common = m.common ∧ r.lanes = m.lanes ∧ r.ended = [] ∧ t.leaf = s.leaf) := by
  have hp := State.passC2_maryRecipes s c.val m.head (recipeToks m)
  obtain ⟨u, hu⟩ : ∃ u, s.passC2 .mary c.val m.head (recipeToks m) = u := ⟨_, rfl⟩
  have hul : u.part .leaf = s.part .leaf := by rw [← hu]; simp
  rw [hu] at hp
  obtain ⟨hrec, hfr⟩ := Prod.mk.inj hp
  refine .of_live (k := .mary) rfl hl (((opHoopRecipeRx_up s m h hr).trans (by rw [hu])).trans
    (State.takeRecipe_mary u (by rwa [hfr]) (by rwa [hrec]) (by rwa [hrec]))) ⟨_, congrArg (· ++ [_]) hrec, rfl, rfl, rfl, rfl, rfl, rfl, ?_⟩
  exact State.leaf_of_part (s := s) (t := u) hul

/-- The end of a context at its deadline, below the root. -/
theorem exec_contextDeadline_all (s : State) (d : Dom) (sd : Sd) (h : HoopId) (x : Ctx) (r : Recipe) (hl : s.held .mary = false)
    (hn : s.isRoot .mary = false) (hx : s.ctxOf .mary sd h d = some x) (hr : s.combRecipe .mary sd h 0 = some r)
    (hq : rcQuorum r.common = false) :
    Does (.contextDeadline .mary d sd h) s (fun t => t.ctxOf .mary sd h d = none ∧ t.isClosed .mary sd h d = true ∧ t.leaf = s.leaf) := by
  refine .of_live (k := .mary) rfl hl (opContextDeadline_all s hn hx hr hq rfl) ?_
  generalize hu : State.exciseMary _ sd h x.gen d _ 0 7 = u
  have hul : (u.closeCtx .mary sd h d).leaf = s.leaf := by rw [← hu]; exact State.leaf_of_part (by simp)
  have hur : (u.closeCtx .mary sd h d).isRoot .mary = false := by
    rw [← hu, State.isRoot_of_part (s := s) (by simp), hn]
  have hctx := State.closeCtx_ctxOf u sd h d
  have hcl := State.closeCtx_isClosed u sd h d
  rcases State.emitUp_below _ hur d r.lanes (headUp sd h x.gen false true none) with he | ⟨i, f, he⟩
  · rw [he]; exact ⟨hctx, hcl, hul⟩
  · rw [he]; exact ⟨hctx, hcl, hul⟩

/-- Settles O34: a recipe is kept beside the others, a partial goes where the hoop's recipe, generation and state send it, and an outcome
closes the contexts it passes. -/
theorem hoopTraffic : Obligations.HoopTraffic := by
  unfold Obligations.HoopTraffic
  refine ⟨exec_hoopRecipeRx_up, ?_, ?_, ?_, ?_, ?_, exec_contextDeadline_all, ?_, ?_, ?_⟩
  · intro s c m r hl h hr hn hg hm ho hc hcr hq hnc h1 h2 hx hf hmem
    exact exec_live (k := .mary) rfl hl (((opHoopUpRx_down s h hr).trans (State.upFromBelow_open s hn hg hm ho hc hcr)).trans
      ((State.takeUp_all s hq).trans (State.combine_first s hnc h1 h2 hx hf hmem)))
  · intro s c m r hl h hr hn hg hm ho hc hcr hq
    exact exec_live (k := .mary) rfl hl (((opHoopUpRx_down s h hr).trans (State.upFromBelow_open s hn hg hm ho hc hcr)).trans
      (State.takeUp_quorum s hq))
  · intro s c m ue g hl h hr hg hlt
    exact exec_live (k := .mary) rfl hl ((opHoopUpRx_down s h hr).trans (State.upFromBelow_stale s hg hlt))
  · intro s c m r hl h hr hn hg hm ho hc hcr hq hp
    exact exec_live (k := .mary) rfl hl (((opHoopUpRx_down s h hr).trans (State.upFromBelow_open s hn hg hm ho hc hcr)).trans
      (State.takeUp_error s hq hp))
  · intro s c m ue hl h hr hn hg hm ho hc
    exact exec_live (k := .mary) rfl hl ((opHoopUpRx_down s h hr).trans (State.upFromBelow_closed s hn hg hm ho hc))
  · intro s k d sd h hl hx
    exact exec_live (k := k) rfl hl (opContextDeadline_none s hx)
  · intro s c m hl h hr ha
    exact .of_live (k := .mary) rfl hl (opHoopDownRx_mary s h hr ha) ⟨State.relayDown_ctxOf s _ m, State.leaf_of_part (by simp)⟩
  · intro s c m hl h hr hm
    exact exec_live (k := .leaf) rfl hl (opHoopDownRx_leaf s h hr hm)

end Sys2Proof.Machine
end

section
/-! Hoops at a root (ch. 8): what decides a hoop, by abort, deadline or window, and the decider's switch. -/

namespace Sys2Proof.Machine

/-! ## What leaves the hoops of the Maryel's root alone -/

section
variable (s : State)

theorem State.rhoop_of_hoops {s t : State} (h : (t.root .mary).hoops = (s.root .mary).hoops) (sd : Sd) (i : HoopId) :
    t.rhoop .mary sd i = s.rhoop .mary sd i := by
  unfold State.rhoop
  rw [h]
theorem State.hoops_of_maryHoops {s t : State} (h : t.maryHoops = s.maryHoops) : (t.root .mary).hoops = (s.root .mary).hoops := congrArg Prod.snd h
@[simp] theorem State.rootC2_hoops (h : C2Head) (inst : Option HoopId) (m : Tokens) :
    ((s.rootC2 .mary h inst m).root .mary).hoops = (s.root .mary).hoops := by
  unfold State.rootC2
  dsimp only
  split <;> rfl
@[simp] theorem State.failBatch_hoops (b : BatchRec) (why : Nat) : ((s.failBatch .mary b why).root .mary).hoops = (s.root .mary).hoops := by
  unfold State.failBatch
  dsimp only
  split
  · rfl
  · exact State.rootC2_hoops _ _ _ _
@[simp] theorem State.endInstall_hoops (sd : Sd) (h : HoopId) (oc : BitVec 3) (tot : Option (List (BitVec 240))) :
    ((s.endInstall .mary sd h oc tot).root .mary).hoops = (s.root .mary).hoops := by
  unfold State.endInstall
  dsimp only
  (repeat' split) <;> simp
@[simp] theorem State.rootDraw_hoops (m : HoopDown) (c : BitVec 288) (ls : List W32) (o : Option Nat) :
    ((s.rootDraw .mary m c ls o).root .mary).hoops = (s.root .mary).hoops := by
  unfold State.rootDraw
  dsimp only
  (repeat' split) <;> rfl
@[simp] theorem State.closeOnDown_hoops (d : Dom) (m : HoopDown) : ((s.closeOnDown .mary d m).root .mary).hoops = (s.root .mary).hoops := by
  unfold State.closeOnDown
  dsimp only
  split
  · rfl
  · refine (State.hoops_of_maryHoops (State.markClosed_maryHoops _ _ _ _)).trans ?_
    split
    · exact (State.hoops_of_maryHoops (State.exciseMary_maryHoops _ _ _ _ _ _ _ _)).trans rfl
    · rfl
@[simp] theorem State.decideDown_hoops (d : Dom) (m : HoopDown) : ((s.decideDown .mary d m).root .mary).hoops = (s.root .mary).hoops := by
  unfold State.decideDown
  split
  · exact State.hoops_of_maryHoops (State.sendDown_maryHoops s d m)
  · exact (State.hoops_of_maryHoops (State.sendDown_maryHoops _ d m)).trans (State.closeOnDown_hoops s d m)
@[simp] theorem State.sendOutcome_hoops (m : HoopDown) : ((s.sendOutcome .mary m).root .mary).hoops = (s.root .mary).hoops := by
  unfold State.sendOutcome
  dsimp only
  split
  · exact (State.decideDown_hoops s _ m)
  · exact State.decideDown_hoops s _ m

/-! ## A hoop decided -/

theorem State.putRHoop_rhoop (r : RHoop) : (s.putRHoop .mary r).rhoop .mary r.sd r.hoopId = some r := by
  show List.find? _ (List.filter _ s.maryN.root.hoops ++ [r]) = some r
  have h0 : List.find? (fun y : RHoop => decide (y.sd = r.sd ∧ y.hoopId = r.hoopId))
      (s.maryN.root.hoops.filter (fun y => !decide (y.sd = r.sd ∧ y.hoopId = r.hoopId))) = none := by
    rw [List.find?_eq_none]
    intro y hy
    simpa only [Bool.not_eq_true', decide_eq_false_iff_not, decide_eq_true_eq] using (List.mem_filter.mp hy).2
  rw [List.find?_append, h0]
  simp
/-- What follows a decision at the root of the Maryel, an install's end or the drawing of its results and the outcome sent, leaves it held. -/
theorem State.decided_rhoop (r : RHoop) (dec : Decision) (inst : Bool) (h : HoopId) (oc : BitVec 3) (tot : Option (List (BitVec 240)))
    (m' m : HoopDown) (c : BitVec 288) (ls : List W32) (o : Option Nat) :
    ((if inst then (s.putRHoop .mary { r with decided := some dec }).endInstall .mary r.sd h oc tot
      else (s.putRHoop .mary { r with decided := some dec }).rootDraw .mary m' c ls o).sendOutcome .mary m).rhoop .mary r.sd r.hoopId =
      some { r with decided := some dec } := by
  rw [State.rhoop_of_hoops (State.sendOutcome_hoops _ _)]
  refine Eq.trans ?_ (State.putRHoop_rhoop s { r with decided := some dec })
  split
  · exact State.rhoop_of_hoops (State.endInstall_hoops _ _ _ _ _) _ _
  · exact State.rhoop_of_hoops (State.rootDraw_hoops _ _ _ _ _) _ _
/-- A hoop that ends broken or aborted keeps that outcome, whatever the strays of its SD say. -/
theorem State.finishHoop_rhoop (r : RHoop) {oc : BitVec 3} (ho : oc = 1 ∨ oc = 4) (cut : Option Nat) (tot : List (BitVec 240)) (bare : Bool) :
    ∃ d : Decision, (s.finishHoop .mary r oc cut tot bare).rhoop .mary r.sd r.hoopId = some { r with decided := some d } ∧ d.outcome = oc := by
  refine ⟨_, State.decided_rhoop _ r _ _ _ _ _ _ _ _ _ _, ?_⟩
  rcases ho with rfl | rfl <;> simp
theorem State.rhoop_key {k : NodeSel} {sd : Sd} {h : HoopId} {r : RHoop} (hr : s.rhoop k sd h = some r) : r.sd = sd ∧ r.hoopId = h := by
  simpa using List.find?_some hr
theorem State.openHoop_of_undecided {k : NodeSel} {sd : Sd} {h : HoopId} {r : RHoop} (hr : s.rhoop k sd h = some r) (hd : r.decided = none) :
    s.openHoop k sd h = some r := by
  simp [State.openHoop, hr, hd]
/-- What is known of a hoop is all its open form can be. -/
theorem State.openHoop_of_known {k : NodeSel} {sd : Sd} {h : HoopId} {r r' : RHoop} (hr : s.rhoop k sd h = some r) (ho : s.openHoop k sd h = some r') :
    r' = r := by
  simp only [State.openHoop, hr] at ho
  split at ho
  · exact (Option.some.inj ho).symm
  · cases ho

/-! ## Abort and deadline -/

theorem opHoopAbort_new {k : NodeSel} {sd : Sd} {h : HoopId} {c : Recipe} (hd : s.isDecider k = true) (hc : s.recipeOf k sd h = some c)
    (he : h ∉ c.ended) (hr : s.rhoop k sd h = none) :
    ∃ r : RHoop, r.sd = sd ∧ r.hoopId = h ∧ opHoopAbort k sd h s = s.finishHoop k r 4 none [] false := by
  refine ⟨{ s.newRHoop k sd h (BitVec.ofNat 16 ((s.root k).hwmOf sd)) c with firstHead := none }, rfl, rfl, ?_⟩
  unfold opHoopAbort
  simp only [hc, hr]
  rw [if_neg (by simp [hd]), if_neg he]
  exact if_neg (by simp [State.newRHoop])
theorem opHoopDeadline_all {k : NodeSel} {sd : Sd} {h : HoopId} {r : RHoop} (hd : s.isDecider k = true) (ho : s.openHoop k sd h = some r)
    (hb : r.begun = true) (hq : rcQuorum r.common = false) :
    opHoopDeadline k sd h s = (s.advHt k (r.deadline * nsTu)).finishHoop k r 1 none [] false := by
  unfold opHoopDeadline
  simp only [ho]
  rw [if_neg (by simp [hd]), if_neg (by simp [hb]), if_pos (by simp [hq])]
theorem opHoopDeadline_early {k : NodeSel} {sd : Sd} {h : HoopId} {r : RHoop} (hr : s.rhoop k sd h = some r) (hb : r.begun = false) :
    opHoopDeadline k sd h s = s := by
  unfold opHoopDeadline
  split
  · rfl
  · split
    · rfl
    · rename_i r' ho
      rw [State.openHoop_of_known s hr ho]
      exact if_pos (by simp [hb])

/-! ## Windows -/

theorem opWindowProcess_due {k : NodeSel} {sd : Sd} {h : HoopId} {r : RHoop} (hd : s.isDecider k = true) (ho : s.openHoop k sd h = some r)
    (hb : r.begun = true) (hq : rcQuorum r.common = true) (hw : s.winInTime k r = true) :
    opWindowProcess k sd h s = (s.advHt k (r.winDue r.nextWin * nsTu)).processWin k r r.nextWin := by
  unfold opWindowProcess
  simp only [ho]
  rw [if_neg (by simp [hd]), if_neg (by simp [hb, hq, hw])]
theorem opWindowProcess_idle {k : NodeSel} {sd : Sd} {h : HoopId} {r : RHoop} (hr : s.rhoop k sd h = some r)
    (hw : rcQuorum r.common = false ∨ r.begun = false ∨ s.winInTime k r = false) : opWindowProcess k sd h s = s := by
  unfold opWindowProcess
  split
  · rfl
  · split
    · rfl
    · rename_i r' ho
      rw [State.openHoop_of_known s hr ho]
      exact if_pos (by simpa [or_assoc] using hw)
theorem State.processWin_neither {k : NodeSel} {r : RHoop} {w : Nat} (h1 : r.own.clean w = false) (h2 : r.other.clean w = false) :
    s.processWin k r w = s.finishHoop k r 1 none [] false := by
  unfold State.processWin
  exact if_pos (by simp [h1, h2])
/-- A window clean from the own tree alone adds that tree's sum, and below the quorum the hoop goes on. -/
theorem State.processWin_own {k : NodeSel} {r : RHoop} {w : Nat} {run : List (BitVec 240)} (h1 : r.own.clean w = true) (h2 : r.other.clean w = false)
    (hrun : lanesCombine r.lanes (r.running.getD (lanesEmpty r.lanes)) (r.own.sum r.lanes w) = run)
    (hq : ((roleResult r.lanes (lanesResult r.lanes run) 1).getD 0).toNat < rcQ r.common) :
    s.processWin k r w = s.putRHoop k { r with own := r.own.drop w, other := r.other.drop w, lastWin := some w, running := some run,
                                               crossLost := false } := by
  unfold State.processWin
  dsimp only
  rw [if_neg (by simp [h1]), if_neg (by simp [h2]), if_pos h1, hrun, if_neg (by omega)]

/-! ## The decider's switch -/

theorem opHoopDecider_settled (v : Bool) (h : ∀ r ∈ (s.root .mary).hoops, r.decided.isSome = true) :
    opHoopDecider v s = s.setReg .mary 0x7F044 (BitVec.ofNat 32 (b01 v)) := by
  have hnil : ((s.setReg .mary 0x7F044 (BitVec.ofNat 32 (b01 v))).root .mary).hoops.filter (fun r => r.decided.isNone) = [] := by
    rw [List.filter_eq_nil_iff]
    intro r hr
    simpa using Option.isSome_iff_ne_none.1 (h r hr)
  unfold opHoopDecider
  dsimp only
  rw [hnil]
  simp only [State.each_nil, ite_self]

end

/-! ## O35 -/

/-- Settles O35: an abort, a deadline without result and a window clean from neither tree decide the hoop with their outcome, a window clean
from one tree adds its sum, and the decider's switch finds nothing to do when all is decided. -/
theorem hoopAtRoot : Obligations.HoopAtRoot := by
  unfold Obligations.HoopAtRoot
  refine ⟨?_, ?_, ?_, ?_, ?_, ?_, ?_⟩
  · intro s src sd h c ht hd hc he hr
    have hd' : (s.opened .mary src).isDecider .mary = true := by simpa [State.isDecider] using hd
    have hr' : (s.opened .mary src).rhoop .mary sd h = none := (State.rhoop_of_hoops (by simp) sd h).trans hr
    obtain ⟨r, rfl, rfl, hop⟩ := opHoopAbort_new (s.opened .mary src) hd' (by simpa [State.recipeOf] using hc) he hr'
    obtain ⟨d, hdec, hoc⟩ := State.finishHoop_rhoop (s.opened .mary src) r (oc := 4) (.inr rfl) none [] false
    exact .of_access rfl ht hop ⟨_, d, (State.rhoop_of_hoops (by simp) _ _).trans hdec, rfl, hoc⟩
  · intro s sd h r hl hd hr hu hb hq
    obtain ⟨rfl, rfl⟩ := State.rhoop_key s hr
    obtain ⟨d, hdec, hoc⟩ := State.finishHoop_rhoop (s.advHt .mary (r.deadline * nsTu)) r (oc := 1) (.inl rfl) none [] false
    exact .of_live (k := .mary) rfl hl (opHoopDeadline_all s hd (State.openHoop_of_undecided s hr hu) hb hq) ⟨_, d, hdec, rfl, hoc⟩
  · intro s k sd h r hl hr hb
    exact exec_live (k := k) rfl hl (opHoopDeadline_early s hr hb)
  · intro s sd h r hl hd hr hu hq hb hw h1 h2
    obtain ⟨rfl, rfl⟩ := State.rhoop_key s hr
    obtain ⟨d, hdec, hoc⟩ := State.finishHoop_rhoop (s.advHt .mary (r.winDue r.nextWin * nsTu)) r (oc := 1) (.inl rfl) none [] false
    exact .of_live (k := .mary) rfl hl ((opWindowProcess_due s hd (State.openHoop_of_undecided s hr hu) hb hq hw).trans
      (State.processWin_neither _ h1 h2)) ⟨_, d, hdec, rfl, hoc⟩
  · intro s sd h r hl hd hr hu hq hb hw h1 h2 run hlt
    obtain ⟨rfl, rfl⟩ := State.rhoop_key s hr
    exact .of_live (k := .mary) rfl hl ((opWindowProcess_due s hd (State.openHoop_of_undecided s hr hu) hb hq hw).trans
      (State.processWin_own _ h1 h2 rfl hlt)) ⟨State.putRHoop_rhoop _ _, rfl⟩
  · intro s k sd h r hl hr hw
    exact exec_live (k := k) rfl hl (opWindowProcess_idle s hr hw)
  · intro s src v ht hall
    exact .of_access (k := .mary) rfl ht (opHoopDecider_settled _ v (by simpa using hall)) ⟨by simp, by simp⟩

end Sys2Proof.Machine
end
